-- ==== Sys2Proof/Word.lean ====
section
/-! DEFINITION. The words of the machine and their plainest arithmetic: byte, half, word and
double word (R2 to R4), the 64 lanes of a vector register (R299), and a cause code (R416). -/

namespace Sys2Proof

/-- A byte. -/
abbrev Byte := BitVec 8
/-- A 16-bit half word. -/
abbrev W16 := BitVec 16
/-- A 32-bit word: a lane, a scalar register, a format word. -/
abbrev W32 := BitVec 32
/-- A 64-bit word: an AP register, an address, a control register. -/
abbrev W64 := BitVec 64
/-- A cause code (R416). -/
abbrev Cause := BitVec 8

/-- The 64 lanes of 32 bits of a vector register: lane i is bytes 4i to 4i+3 (R299). -/
abbrev Lanes := Vector W32 64

/-- The vector whose lane i is `f i`. -/
def Lanes.build (f : Fin 64 → W32) : Lanes := ⟨⟨List.ofFn f⟩, by simp⟩

/-- The vector with every lane `w`: a broadcast (R184). -/
def Lanes.fill (w : W32) : Lanes := Lanes.build fun _ => w

end Sys2Proof
end

