-- ==== Sys2Proof/Machine/Bits.lean ====
section
/-! DEFINITION. Bit fields, byte order (R2 to R4), bit counts and the CRC of R99. -/

namespace Sys2Proof.Machine

/-- Bits [hi:lo] of a number (R2). -/
def fld (w hi lo : Nat) : Nat := w / 2 ^ lo % 2 ^ (hi + 1 - lo)

/-- Bits [hi:lo] of a word (R2), as a number. -/
def bits {n : Nat} (w : BitVec n) (hi lo : Nat) : Nat := fld w.toNat hi lo

/-- Whether bit i of a word is 1. -/
def bit {n : Nat} (w : BitVec n) (i : Nat) : Bool := w.getLsbD i

/-- The number whose little-endian bytes are given: the first byte is the lowest (R3). -/
def leNat : List Byte → Nat
  | [] => 0
  | b :: bs => b.toNat + 256 * leNat bs

/-- The k little-endian bytes of a number (R3). -/
def leBytes : Nat → Nat → List Byte
  | 0, _ => []
  | k + 1, n => BitVec.ofNat 8 n :: leBytes k (n / 256)

/-- The 64-bit word at bytes o to o+7 of a record. -/
def le64 (bs : List Byte) (o : Nat) : W64 := BitVec.ofNat 64 (leNat ((bs.drop o).take 8))
/-- The 32-bit word at bytes o to o+3 of a record. -/
def le32 (bs : List Byte) (o : Nat) : W32 := BitVec.ofNat 32 (leNat ((bs.drop o).take 4))
/-- The 16-bit number at bytes o and o+1 of a record. -/
def le16 (bs : List Byte) (o : Nat) : Nat := leNat ((bs.drop o).take 2)
/-- Byte o of a record. -/
def byteAt (bs : List Byte) (o : Nat) : Byte := bs.getD o 0

/-- Whether every byte in a range of a record is zero. -/
def zeroIn (bs : List Byte) (o n : Nat) : Bool := ((bs.drop o).take n).all (· == 0)

/-- The count of one bits of the low k bits of a number. -/
def onesBelow : Nat → Nat → Nat
  | 0, _ => 0
  | k + 1, n => n % 2 + onesBelow k (n / 2)

/-- POPC and the mask counts: the one bits of a word (R220, R309). -/
def popCount {n : Nat} (w : BitVec n) : Nat := onesBelow n w.toNat

/-- CLZ: zero bits above the highest one bit of a 64-bit word; 64 when it is zero (R220). -/
def leadingZeros (w : W64) : Nat := if w = 0 then 64 else 63 - Nat.log2 w.toNat

/-- The index of the lowest one bit among the first k bits, or `none_` when there is none. -/
def lowestFrom (n : Nat) : Nat → Nat → Nat → Nat
  | 0, _, none_ => none_
  | k + 1, i, none_ => if n.testBit i then i else lowestFrom n k (i + 1) none_

/-- The index of the lowest set bit of a mask, or 64 (R309). -/
def lowestSet (w : W64) : Nat := lowestFrom w.toNat 64 0 64

/-- One bit of the CRC of R99 on a 16-bit remainder: polynomial 0x8BB7, the top bit leaves first. -/
def crcBit (crc : Nat) (b : Bool) : Nat :=
  if crc.testBit 15 == b then crc * 2 % 65536 else (crc * 2 % 65536) ^^^ 0x8BB7

/-- k bits of a byte, from bit k-1 down to bit 0 (R99: each byte from its bit 7 first). -/
def crcBits (n : Nat) : Nat → Nat → Nat
  | 0, crc => crc
  | k + 1, crc => crcBits n k (crcBit crc (n.testBit k))

/-- The CRC remainder carried over a list of bytes in ascending address order. The test of the
remainder changes nothing; it makes the kernel compute it byte by byte. -/
def crcRun : List Byte → Nat → Nat
  | [], crc => crc
  | b :: bs, crc => if crcBits b.toNat 8 crc = 0 then crcRun bs 0 else crcRun bs (crcBits b.toNat 8 crc)

/-- The device's CRC-16: width 16, polynomial 0x8BB7, initial value and final XOR zero, not
reflected (R99). -/
def crc16 (bs : List Byte) : W16 := BitVec.ofNat 16 (crcRun bs 0)

/-- The largest multiple of m that is not above n. -/
def alignDown (n m : Nat) : Nat := n / m * m

/-- n rounded up to a multiple of m. -/
def alignUp (n m : Nat) : Nat := (n + m - 1) / m * m

/-- Lane i of a vector register (R299); lanes beyond 63 read as zero. -/
def lane (v : Lanes) (i : Nat) : W32 := if h : i < 64 then v[i] else 0

/-- The vector whose lane i is the 32-bit little-endian word at bytes 4i to 4i+3 (R299). -/
def lanesOfBytes (bs : List Byte) : Lanes := Lanes.build fun i => le32 bs (4 * i.val)

/-- The 256 bytes of a vector register (R299). -/
def bytesOfLanes (v : Lanes) : List Byte := (List.range 64).flatMap fun i => leBytes 4 (lane v i).toNat

end Sys2Proof.Machine
end

