-- ==== Sys2Proof/Syntax.lean ====
section
/-! DEFINITION. The steps of the part, one constructor for every row of the opcode table: the A-set
(R175 to R182), the E-set (R183 to R193), and the events of the device and of the outside world that
the table lists beside them (95_what_each_step_holds.md). An event that the outside world causes
carries what the outside world supplies. -/

namespace Sys2Proof

/-- A guard predicate q0 to q7 (R175). -/
abbrev Guard := Fin 8
/-- An AP register a0 to a31 (R177). -/
abbrev AReg := Fin 32
/-- A stream register st0 to st31. -/
abbrev SReg := Fin 32

/-- Format AR with three registers (R175). -/
structure RRR where
  g : Guard
  d : AReg
  a : AReg
  b : AReg
  deriving DecidableEq, Repr

/-- Format AR with two registers. -/
structure RR where
  g : Guard
  d : AReg
  a : AReg
  deriving DecidableEq, Repr

/-- Format AI: a signed 13-bit immediate (R175, R221). -/
structure RI where
  g : Guard
  d : AReg
  a : AReg
  i : BitVec 13
  deriving DecidableEq, Repr

/-- An immediate shift: imm13 with bits [12:6] zero (R221). -/
structure RSh where
  g : Guard
  d : AReg
  a : AReg
  i : Fin 64
  deriving DecidableEq, Repr

/-- A bit field: position p and length l + 1 (R176, R224). -/
structure RBf where
  g : Guard
  d : AReg
  a : AReg
  p : Fin 64
  l : Fin 64
  deriving DecidableEq, Repr

/-- Format AM: size code and scaled offset (R175, R179, R235). -/
structure RMem where
  g : Guard
  d : AReg
  a : AReg
  s : Fin 8
  o : BitVec 10
  deriving DecidableEq, Repr

/-- LDX and STX: index shift and size code (R176, R236). -/
structure RIdx where
  g : Guard
  d : AReg
  a : AReg
  b : AReg
  k : Fin 4
  s : Fin 8
  deriving DecidableEq, Repr

/-- Format AS with two registers (R253). -/
structure SAB where
  g : Guard
  st : SReg
  a : AReg
  b : AReg
  deriving DecidableEq, Repr

/-- Format AS with one register (R253). -/
structure SA where
  g : Guard
  st : SReg
  a : AReg
  deriving DecidableEq, Repr

/-- Format AS with the stream register alone (R253). -/
structure SO where
  g : Guard
  st : SReg
  deriving DecidableEq, Repr

/-- The fields of an E-set word below its opcode (R183). -/
structure EF where
  g : Fin 16
  nw : Bool
  d : BitVec 8
  a : BitVec 8
  b : BitVec 8
  c : BitVec 8
  ty : BitVec 5
  fn : BitVec 6
  x : BitVec 8
  deriving DecidableEq, Repr

/-- The two AP contexts of a residency (R212). -/
inductive ApId where
  | f | d
  deriving DecidableEq, Repr

/-- The thing that a fault stops and that a service acts on (R418, R422). -/
inductive Item where
  | ap (c : ApId)
  | ep
  | engine (id : Nat)
  | chain (ch : Fin 8)
  /-- an entry of the command queue, by its number in the residency -/
  | queue (id : Nat)
  | gauze
  | stream (st : SReg)
  /-- the residency -/
  | whole
  /-- what a record stopped before its stream was closed or its residency saved -/
  | gone
  /-- a host atomic of an AP context, SYNC.REL's among them, whose completer does not support AtomicOps (R153, R242) -/
  | atomic (c : ApId)
  deriving DecidableEq, Repr

/-- A host access that is not completed: the slot-table entry of its residency, and the item that waits for it (R420). -/
structure HostAccess where
  entry : Fin 416
  item : Item
  deriving DecidableEq, Repr

/-- A master of the privileged registers: 0 none, 1 and 2 the hosts of the ports of die 0 and die 1,
3 the baseboard controller (R386). -/
abbrev Master := Fin 4

/-- Who writes a register: the scheduling core of a die, in its own address space, or a master in BAR 0 (R386, R400). -/
inductive Writer where
  | core (die : Fin 2)
  | master (m : Master)
  deriving DecidableEq, Repr

/-- One step of the part: a row of the opcode table. -/
inductive Instr where
  -- integer arithmetic (R220)
  | add (f : RRR) | sub (f : RRR) | mul (f : RRR) | mulh (f : RRR) | mulhu (f : RRR)
  | divu (f : RRR) | remu (f : RRR) | and (f : RRR) | or (f : RRR) | xor (f : RRR)
  | shl (f : RRR) | shr (f : RRR) | sra (f : RRR) | min (f : RRR) | max (f : RRR)
  | minu (f : RRR) | maxu (f : RRR) | clz (f : RR) | popc (f : RR)
  -- immediates (R221, R222)
  | addi (f : RI) | andi (f : RI) | ori (f : RI) | xori (f : RI)
  | shli (f : RSh) | shri (f : RSh) | srai (f : RSh) | muli (f : RI)
  | lui (g : Guard) (d : AReg) (i : BitVec 18)
  | madd (f : RRR) (c : AReg)
  -- bit fields, selection, predicates (R224 to R227)
  | bfx (f : RBf) | bfxS (f : RBf) | bfi (f : RBf)
  | sel (f : RRR) (n : Guard)
  | cmp (g t f : Guard) (c : Fin 16) (a b : AReg)
  | cmpi (g t f : Guard) (c : Fin 16) (a : AReg) (i : BitVec 8)
  | plog (g t f : Guard) (n : Fin 16) (a b : Guard)
  -- transfers and loops (R228 to R231)
  | b (g : Guard) (o : BitVec 23) | call (g : Guard) (o : BitVec 23) | jr (f : RR)
  | loop (g : Guard) (c : AReg) (l : BitVec 12) | loopi (g : Guard) (n : BitVec 14) (l : BitVec 9)
  -- memory (R235 to R242)
  | ld (f : RMem) | st (f : RMem) | ldx (f : RIdx) | stx (f : RIdx)
  | pref (g : Guard) (a : AReg) (o : BitVec 10)
  | amoAdd (f : RRR) | amoAnd (f : RRR) | amoOr (f : RRR) | amoXor (f : RRR) | amoMin (f : RRR)
  | amoMax (f : RRR) | amoMinu (f : RRR) | amoMaxu (f : RRR) | amoSwap (f : RRR) | cas (f : RRR)
  -- streams (R253 to R268)
  | sOpen (f : SAB) | sOpenH (f : SAB) | sPat (f : SAB) (w : Fin 8) | sGo (f : SO)
  | sAddr (f : SAB) (k : Fin 4) | sData (f : SAB) (z : Fin 4) | sClaim (f : SA)
  | sCommit (f : SA) | sCommitEl (f : SA) | sCommitEnd (f : SA) | sCommitElEnd (f : SA)
  | sAwait (f : SA) | sRetire (f : SA) | sMark (f : SO) | sMarkRel (f : SO) | sRewind (f : SO)
  | sFork (f : SO) (src : SReg) (k : Fin 16) (j : Fin 4) | sClose (f : SO) | sCloseW (f : SO)
  | sStat (f : SO) (d : AReg) (w : Fin 16)
  -- queues and engine commands (R243, R269 to R281)
  | xqPush (g : Guard) (a : AReg) | yqPop (g : Guard) (d : AReg)
  | cpAsync (f : RRR) (t : Fin 128) (c : Bool) | cpChain (f : RR) (ch : Fin 8)
  | cpFence (g : Guard) | cpFenceAll (g : Guard)
  | gxRows (f : SAB) (z c : Bool) | sxRows (f : SAB) (z c : Bool)
  -- handles and formats (R283 to R285)
  | hLoad (g : Guard) (h : Fin 16) (i : W16) | hLoadNone (g : Guard) (h : Fin 16) (i : W16)
  | hGet (g : Guard) (d : AReg) (h : Fin 16) (f : BitVec 8) | fmtPush (g : Guard) (a : AReg)
  -- synchronisation (R286, R287)
  | syncAcq (g : Guard) (d a : AReg) (k : Fin 8) (n : BitVec 8)
  | syncRel (g : Guard) (a : AReg) (k : Fin 8) (n : BitVec 8)
  | syncFence (g : Guard) (k : Fin 8) (n : BitVec 8) | syncLaunchEarly (g : Guard)
  | barArrive (g : Guard) (n : BitVec 8) | barWait (g : Guard) (n : BitVec 8)
  | barExpect (g : Guard) (a : AReg) (n : BitVec 8)
  -- tasks, futures, timetable, skip tests (R288 to R296)
  | taskSpawn (g : Guard) (a : AReg) | taskNext (g : Guard) | taskDone (g : Guard)
  | futRead (f : RR) (w : Fin 8) | futFill (f : RR)
  | ttWait (g : Guard) (b : BitVec 10) | ttDone (g : Guard) (b : BitVec 10)
  | skipTest (g t : Guard) (a : AReg) (b : Fin 64)
  -- alarms, control registers, system (R244, R219, R247)
  | alarmSet (f : RR) (p : BitVec 8) | alarmClr (f : RR) (p : BitVec 8)
  | csrR (g : Guard) (d : AReg) (n : BitVec 11) | csrW (g : Guard) (a : AReg) (n : BitVec 11)
  | halt (g : Guard) | yield (g : Guard) | trap (g : Guard) (n : Fin 8)
  | traceMark (g : Guard) (a : AReg) (t : BitVec 11)
  -- E-set: vector floating point and integer (R304 to R306)
  | vadd (f : EF) | vsub (f : EF) | vmul (f : EF) | vfma (f : EF) | vfms (f : EF) | vmin (f : EF)
  | vmax (f : EF) | vabs (f : EF) | vneg (f : EF) | vsfu (f : EF) | viadd (f : EF) | visub (f : EF)
  | vimul (f : EF) | vimad (f : EF) | vand (f : EF) | vor (f : EF) | vxor (f : EF) | vshl (f : EF)
  | vshr (f : EF) | vsra (f : EF) | vimin (f : EF) | vimax (f : EF)
  -- masks, conversions, permutes, reductions (R307 to R314)
  | vcmp (f : EF) | scmp (f : EF) | mlog (f : EF) | mpop (f : EF) | vcvt (f : EF) | vpack (f : EF)
  | vunpack (f : EF) | scvt (f : EF) | vshuf (f : EF) | vbcast (f : EF) | vslideDn (f : EF)
  | vslideUp (f : EF) | vsel (f : EF) | vkeyPack (f : EF) | vkeyHash (f : EF) | vred (f : EF)
  | vscan (f : EF)
  -- scalars, moves, queues (R315 to R319)
  | sadd (f : EF) | smul (f : EF) | sfma (f : EF) | smov (f : EF) | vmov (f : EF)
  | vli (f : EF) (lit : W64) | sli (f : EF) (lit : W64) | xqPop (f : EF) | yqPush (f : EF)
  -- allotment, spill, control (R302, R303, R320 to R329)
  | vallot (f : EF) | vshrink (f : EF) | vpushm (f : EF) | vpopm (f : EF) | eb (f : EF) | eloop (f : EF)
  | eloopPipe (f : EF) | estage (f : EF) | ehalt (f : EF) | etrap (f : EF) | ecsrR (f : EF)
  | ecsrW (f : EF) | sDrop (f : EF)
  -- matrix unit and Damask (R339 to R366)
  | wload (f : EF) | wloadSc (f : EF) | mxDot (f : EF) | mxDots (f : EF) | rndSet (f : EF)
  | mxWait (f : EF) | jCfg (f : EF) | jClear (f : EF) | jAcc (f : EF) | jMerge (f : EF) | jDrain (f : EF)
  | jDraino (f : EF) | jLook (f : EF) | jLookP (f : EF) | jStat (f : EF) | jWait (f : EF)
  -- Gauze (R369 to R374)
  | gCfg (f : EF) | gSig (f : EF) | gReuse (f : EF) | gKeep (f : EF) | gMapR (f : EF) | gMapW (f : EF)
  | gMapStep (f : EF) | gMapTile (f : EF) | gStep (f : EF)
  -- events of the residency whose turn it is
  | resultDelivery
  | memoryRequestComplete (c : ApId)
  | pageWalkComplete
  | streamFetch (st : SReg) | granuleLand (st : SReg) | decompress (st : SReg)
  | streamDrainWrite (st : SReg) | remoteGranuleSend (st : SReg)
  | engineCommandStart (id : Nat) | engineCommandFinish (id : Nat)
  | chainRecordFetch (ch : Fin 8) | chainRecordDone (ch : Fin 8)
  | commandStart | matrixKStep | queueStreamCopy | damaskAccumulate | damaskDrainEntry
  | commandFinish | gauzeOpComplete
  -- events of time and of the launch; what the firmware chooses for a launch it takes (R397, R403): its
  -- cores, its id, a place in the privileged range and the channel-to-core affinity table
  | frameTick | frameStart (launch : Nat) | blockRelease (launch : Nat) (b : BitVec 10)
  | pinChange | completionRecordWrite (p : Fin 8) | faultRecordPost (p : Fin 8)
  | tracePcSample (c : Fin 3) | traceTimeStamp | watchdogExpire | forcedSave | saveComplete
  | shootdownComplete | regionInstall (s : Fin 8) | partitionFreed (p : Fin 8)
  | launchDescriptorTake (p : Fin 8) (q : Fin 4) (place : List (Fin 416)) (launch : W32)
      (area : W64) (affinity : List (Fin 192))
  | overlayLoad | launchRecordApply
  -- what the firmware does of its own accord: binds of a launch it takes, service requests (R401, R421)
  | bind (e : Fin 416)
  | resume (p : Fin 8) | redirect (p : Fin 8) | cancel (p : Fin 8) | shootdown (p : Fin 8) | trace (p : Fin 8)
  -- ingest (R447); the argument is the grant-mask number of the channel (R391)
  | ingestFrameStart (c : Fin 32) | ingestPayloadWrite (c : Fin 32) (off : BitVec 20) (data : List Byte)
  | ingestEof (c : Fin 32) (len : W64) | ingestFrameCommit (c : Fin 32)
  -- the HBM window and the host port (R446, R420)
  | hbmWindowWrite (m : Master) (off : BitVec 39) (data : List Byte)
  | hbmWindowRead (m : Master) (off : BitVec 39) (len : BitVec 13)
  | hostCompletionTimeout (x : HostAccess)
  -- ownership and partitions (R388 to R393)
  | ownerClaim (m : Master) | ownerForceClaim (m : Master) | ownerHandover (m succ : Master)
  | create (m : Master) (p : Fin 8) | destroy (m : Master) (p : Fin 8) | regrant (m : Master) (p : Fin 8)
  -- queues of a partition (R396, R449) and region tables (R409)
  | lqBase (m : Master) (p : Fin 8) (q : Fin 4) (v : W64) | lqTail (m : Master) (p : Fin 8) (q : Fin 4) (v : W64)
  | crBase (m : Master) (p : Fin 8) (v : W64) | crHead (m : Master) (p : Fin 8) (v : W64)
  | arBase (m : Master) (p : Fin 8) (v : W64) | arHead (m : Master) (p : Fin 8) (v : W64)
  | regionCommit (m : Master) (s : Fin 8) (v : W64)
  -- dispatch and service (R400 to R402, R421 to R435)
  | unbind (e : Fin 416) | save (e : Fin 416) | restore (e : Fin 416)
  | run (launch : W32)
  | faultActResume (token : W32) | faultActRedirect (token : W32) | faultActCancel (token : W32)
  | sdCmd (p : Fin 8)
  | stop (e : Fin 416) (c : Fin 4) | freeze (mask : BitVec 8)
  | pinReset (m : Master) (mask : BitVec 8) | pkgReset (m : Master) (v : W64)
  -- bring-up and the package (R455 to R460)
  | packageReset | fuses (serial : W32) (stepping : Byte) (spares : List (Fin 416)) | clocks (locked3200 : Bool)
  | memoryTraining (passed : BitVec 8) | meshAndBridge (dies : BitVec 2) (links : W16)
  | firmware (crcOk : Bool)
  | fwGo (m : Master) | fwFlash (m : Master) | fwVerifyDone (result : BitVec 8)
  | bridgeLinkRetire (l : Fin 16)
  | slavamusLinkChange (k : Fin 8) (up retrained : Bool) (lanes : BitVec 4) (pserial : W32) (pport : BitVec 3)
  | thermalTrip | registerWrite (w : Writer) (off : BitVec 32) (v : W64)
  | pcieLinkChange (port : Fin 2) (up : Bool)
  | peerAccess (k : Fin 8) (off : BitVec 45) (data : List Byte) (kind : Fin 3)
  | backgroundTraining
  deriving DecidableEq, Repr

end Sys2Proof
end

