-- ==== Sys2Proof/Machine/Checks.lean ====
section
/-! DEFINITION. The causes that an instruction's own fields decide (R182, R177, R185, R193, R197):
unassigned encodings (0x01), reserved fields (0x02) and reserved or illegal selectors (0x03). Every
other cause needs the machine's state. -/

namespace Sys2Proof.Machine

/-- Cause 0x01: unassigned encoding. -/
def cUnassigned : Cause := 0x01
/-- Cause 0x02: reserved field non-zero. -/
def cReserved : Cause := 0x02
/-- Cause 0x03: reserved or illegal selector. -/
def cSelector : Cause := 0x03

/-- What a selector field of an E-set instruction may hold (R184, R185, R300, R301). -/
inductive OpKind where
  /-- the field is not used: 0xFF -/
  | unused
  /-- a vector operand -/
  | vec
  /-- a scalar operand: any source but 0xC3 (R364) -/
  | sc
  /-- a vector operand or 0xFF (R306) -/
  | vecOrNone
  /-- a scalar operand or 0xFF (R319, R322, R362) -/
  | scOrNone
  /-- a destination of a vector result -/
  | vdst
  /-- a destination of a scalar result: 0xC3 is refused (R360) -/
  | sdst
  /-- a mask operand 0xE0 + n -/
  | mask
  /-- a mask destination m1 to m15 -/
  | maskDst
  /-- a pop selector (R320, R335, R373) -/
  | pop
  /-- a pop or a peek selector (R370) -/
  | popPeek
  /-- a push selector (R373) -/
  | push
  /-- a push selector or 0xFF (R358) -/
  | pushOrNone
  /-- a push selector or 0xC3 (R362) -/
  | pushOrJport
  /-- 0xC3 (R345) -/
  | jport
  /-- an s-register sK with k at most 27 (R345, R369) -/
  | sreg27
  /-- bits of an immediate: anything -/
  | imm
  deriving DecidableEq, Repr

/-- A source selector that R184 lists: every code but 0x50-0x5F, 0xC1, 0xC4-0xFE and 0xFF. -/
def isSource (c : BitVec 8) : Bool :=
  let n := c.toNat
  n < 0x50 || (0x60 ≤ n && n < 0xC1) || n = 0xC2 || n = 0xC3

/-- A destination of R185: a vector or scalar register, a push, yq or none. -/
def isDest (c : BitVec 8) : Bool :=
  let n := c.toNat
  n < 0x40 || (0x60 ≤ n && n < 0xA0) || n = 0xC2 || n = 0xFF

/-- Whether a selector is one the field may hold. -/
def OpKind.admits (k : OpKind) (c : BitVec 8) : Bool :=
  let n := c.toNat
  match k with
  | .unused => n = 0xFF
  | .vec => isSource c
  | .sc => isSource c && n ≠ 0xC3
  | .vecOrNone => isSource c || n = 0xFF
  | .scOrNone => (isSource c && n ≠ 0xC3) || n = 0xFF
  | .vdst => isDest c || n = 0xC3
  | .sdst => isDest c
  | .mask => 0xE0 ≤ n && n < 0xF0
  | .maskDst => 0xE1 ≤ n && n < 0xF0
  | .pop => 0x80 ≤ n && n < 0xA0
  | .popPeek => 0x80 ≤ n && n < 0xC0
  | .push => 0x80 ≤ n && n < 0xA0
  | .pushOrNone => (0x80 ≤ n && n < 0xA0) || n = 0xFF
  | .pushOrJport => (0x80 ≤ n && n < 0xA0) || n = 0xC3
  | .jport => n = 0xC3
  | .sreg27 => 0x60 ≤ n && n ≤ 0x7B
  | .imm => true

/-- Whether a field of this kind may name a vector register, so that R185's allotment check (0x11)
applies to it. -/
def OpKind.namesVec : OpKind → Bool
  | .vec | .sc | .vecOrNone | .scOrNone | .vdst | .sdst => true
  | _ => false

/-- Whether a field of this kind is a vector operand or result, not a scalar one that a vector register may serve
(R300, R332). -/
def OpKind.wholeVec : OpKind → Bool
  | .vec | .vecOrNone | .vdst => true
  | _ => false

/-- Whether a field of this kind may name a vector or scalar register that the result is written to. -/
def OpKind.writesReg : OpKind → Bool
  | .vdst | .sdst => true
  | _ => false

/-- The fields of an E-set instruction: what its selectors may hold, and which values of its other
fields are unassigned or reserved. -/
structure ESpec where
  d : OpKind
  a : OpKind
  b : OpKind
  c : OpKind
  /-- the type codes it accepts (R72) -/
  tys : List Nat
  /-- its fn and x hold an unassigned value: cause 0x01 -/
  unassigned : Bool
  /-- its reserved bits, g or nw are not what they must be: cause 0x02 -/
  reserved : Bool

/-- Whether nw is set where R185 does not allow it: with a destination that is no vector or scalar register. -/
def ESpec.badNw (p : ESpec) (f : EF) : Bool :=
  f.nw && !(p.d.writesReg && (f.d.toNat < 0x40 || (0x60 ≤ f.d.toNat && f.d.toNat < 0x80)))

/-- The first of 0x01, 0x02 and 0x03 that an E-set word meets. R197 ranks these before the causes that an instruction's own
description orders, those of R346 among them (log 27). -/
def ESpec.cause (p : ESpec) (f : EF) : Option Cause :=
  if !p.tys.contains f.ty.toNat || p.unassigned then some cUnassigned
  else if p.reserved || p.badNw f then some cReserved
  else if !(p.d.admits f.d && p.a.admits f.a && p.b.admits f.b && p.c.admits f.c) then some cSelector
  else none

/-- F32 only. -/
def tyF32 : List Nat := [0]
/-- I32 and UI32. -/
def tyI : List Nat := [4, 5]
/-- F32, I32 and UI32. -/
def tyW : List Nat := [0, 4, 5]
/-- The codes of R72 but .NQ. -/
def tySrc : List Nat := (List.range 10) ++ [16, 17, 18, 19, 20, 21, 22, 23]
/-- The codes of R72 but TF32 and .NQ: destinations of conversions (R75, R310). -/
def tyDst : List Nat := [0, 2, 3, 4, 5, 6, 7, 8, 9, 16, 17, 18, 19, 20, 21, 22, 23]
/-- The packed types of VPACK and VUNPACK (R310). -/
def tyPacked : List Nat := [2, 3, 6, 7, 8, 9, 16, 17, 18, 19, 20, 21, 22, 23]
/-- The element types of matrix operands (R342, R346). -/
def tyMx : List Nat := [2, 3, 8, 9, 24]
/-- The element types of G.SIG (R370). -/
def tySig : List Nat := [0, 2, 3, 4, 5, 8, 9, 16, 17, 18, 19, 20, 21, 22, 23]

/-- A wide integer type code of R72. -/
def isWideInt (t : Nat) : Bool := 4 ≤ t && t ≤ 9

/-- The rounding mode of a conversion: codes 6 and 7 are unassigned (R85). -/
def badMode (f : EF) : Bool := 6 ≤ f.fn.toNat % 8

/-- A conversion's saturate flag with two wide types that are not both integers (R310). With a
narrow type the format word decides, at issue. -/
def badSat (f : EF) (src : Nat) : Bool :=
  f.fn.getLsbD 3 && ((f.ty.toNat < 16 && !isWideInt f.ty.toNat) || (src < 16 && !isWideInt src))

/-- The condition codes VCMP and SCMP accept for a type (R307). -/
def condOk (ty c : Nat) : Bool := if ty = 0 then [0, 1, 2, 3, 6, 7].contains c else c ≤ 11

/-- The container width in bits of a wide packed type (R311). -/
def wideWidth (t : Nat) : Nat := if t = 8 || t = 9 then 8 else 16

/-- A segment index out of range for a wide packed type (R311); a narrow one waits for its format. -/
def badSegment (t p : Nat) : Bool := t < 16 && (if wideWidth t = 16 then 2 else 4) ≤ p

/-- fn and x both zero. -/
def noFnX (f : EF) : Bool := f.fn ≠ 0 || f.x ≠ 0

/-- The specification of each E-set instruction's fields, with the fields; none for the others. -/
def eSpec : Instr → Option (ESpec × EF)
  -- R304, R305
  | .vadd f | .vsub f | .vmul f | .vmin f | .vmax f =>
    some (⟨.vdst, .vec, .vec, .unused, tyF32, false, noFnX f⟩, f)
  | .vfma f | .vfms f => some (⟨.vdst, .vec, .vec, .vec, tyF32, false, noFnX f⟩, f)
  | .vabs f | .vneg f => some (⟨.vdst, .vec, .unused, .unused, tyF32, false, noFnX f⟩, f)
  | .vsfu f => some (⟨.vdst, .vec, .unused, .unused, tyF32, 9 ≤ f.fn.toNat, f.x ≠ 0⟩, f)
  -- R306
  | .viadd f | .visub f | .vimul f =>
    some (⟨.vdst, .vec, .vec, .unused, tyI, false, 2 ≤ f.fn.toNat || f.x ≠ 0⟩, f)
  | .vimad f => some (⟨.vdst, .vec, .vec, .vec, tyI, false, 2 ≤ f.fn.toNat || f.x ≠ 0⟩, f)
  | .vand f | .vor f | .vxor f | .vimin f | .vimax f =>
    some (⟨.vdst, .vec, .vec, .unused, tyI, false, noFnX f⟩, f)
  | .vshl f | .vshr f | .vsra f =>
    some (⟨.vdst, .vec, .vecOrNone, .unused, tyI, false,
      f.fn ≠ 0 || (if f.b = 0xFF then 32 ≤ f.x.toNat else f.x ≠ 0)⟩, f)
  -- R307 to R309
  | .vcmp f => some (⟨.maskDst, .vec, .vec, .unused, tyW, !condOk f.ty.toNat (f.fn.toNat % 16),
      16 ≤ f.fn.toNat || f.x ≠ 0⟩, f)
  | .scmp f => some (⟨.maskDst, .sc, .sc, .unused, tyW, !condOk f.ty.toNat (f.fn.toNat % 16),
      16 ≤ f.fn.toNat || f.x ≠ 0⟩, f)
  | .mlog f => some (⟨.maskDst, .mask, .mask, .unused, [0], false, 16 ≤ f.fn.toNat || f.x ≠ 0⟩, f)
  | .mpop f => some (⟨.sdst, .mask, .unused, .unused, [5], false, 2 ≤ f.fn.toNat || f.x ≠ 0⟩, f)
  -- R310, R311
  | .vcvt f => some (⟨.vdst, .vec, .unused, .unused, tyDst,
      badMode f || !tySrc.contains (f.x.toNat % 32),
      16 ≤ f.fn.toNat || 32 ≤ f.x.toNat || badSat f (f.x.toNat % 32)⟩, f)
  | .scvt f => some (⟨.sdst, .sc, .unused, .unused, tyDst,
      badMode f || !tySrc.contains (f.x.toNat % 32),
      16 ≤ f.fn.toNat || 32 ≤ f.x.toNat || badSat f (f.x.toNat % 32)⟩, f)
  | .vpack f => some (⟨.vdst, .vec, .unused, .vec, tyPacked,
      badMode f || !tySrc.contains (f.x.toNat % 32) || badSegment f.ty.toNat (f.x.toNat / 32),
      16 ≤ f.fn.toNat || badSat f (f.x.toNat % 32)⟩, f)
  | .vunpack f => some (⟨.vdst, .vec, .unused, .unused, tyW,
      badMode f || !tyPacked.contains (f.x.toNat % 32) || badSegment (f.x.toNat % 32) (f.x.toNat / 32),
      16 ≤ f.fn.toNat || badSat f (f.x.toNat % 32)⟩, f)
  -- R312, R313
  | .vshuf f => some (⟨.vdst, .vec, .vec, .vec, [0], false, noFnX f⟩, f)
  | .vbcast f => some (⟨.vdst, .vec, .unused, .unused, [0], false, f.fn ≠ 0 || 64 ≤ f.x.toNat⟩, f)
  | .vslideDn f | .vslideUp f =>
    some (⟨.vdst, .vec, .vec, .unused, [0], false, f.fn ≠ 0 || 128 ≤ f.x.toNat⟩, f)
  | .vsel f => some (⟨.vdst, .vec, .vec, .unused, [0], false, f.fn ≠ 0 || 16 ≤ f.x.toNat⟩, f)
  | .vkeyPack f => some (⟨.vdst, .vec, .vec, .unused, [5], false, 2 ≤ f.fn.toNat || 32 ≤ f.x.toNat⟩, f)
  | .vkeyHash f => some (⟨.vdst, .vec, .vec, .unused, [5],
      f.x.toNat % 32 = 0 || 16 < f.x.toNat % 32, 2 ≤ f.fn.toNat || 32 ≤ f.x.toNat⟩, f)
  -- R314
  | .vred f => some (⟨.vdst, .vec, .unused, .unused, tyW,
      6 ≤ f.fn.toNat % 8 || (f.ty = 0 && 3 ≤ f.fn.toNat % 8), 8 ≤ f.fn.toNat || 16 ≤ f.x.toNat⟩, f)
  | .vscan f => some (⟨.vdst, .vec, .unused, .unused, tyW,
      6 ≤ f.fn.toNat % 8 || (f.ty = 0 && 3 ≤ f.fn.toNat % 8), 16 ≤ f.fn.toNat || 16 ≤ f.x.toNat⟩, f)
  -- R315 to R319
  | .sadd f | .smul f => some (⟨.sdst, .sc, .sc, .unused, tyW, false, noFnX f⟩, f)
  | .sfma f => some (⟨.sdst, .sc, .sc, .sc, tyW, false, noFnX f⟩, f)
  | .smov f => some (⟨.sdst, .sc, .unused, .unused, [0], false, noFnX f⟩, f)
  | .vmov f => some (⟨.vdst, .vec, .unused, .unused, [0], false, noFnX f⟩, f)
  | .vli f _ => some (⟨.vdst, .unused, .unused, .unused, [0], false, noFnX f⟩, f)
  | .sli f _ => some (⟨.sdst, .unused, .unused, .unused, [0], false, noFnX f⟩, f)
  | .xqPop f => some (⟨.sdst, .unused, .unused, .unused, [0], false, f.fn ≠ 0 || 4 ≤ f.x.toNat⟩, f)
  | .yqPush f => some (⟨.unused, .sc, .scOrNone, .unused, [0], false, noFnX f⟩, f)
  -- R302, R303
  | .vallot f | .vshrink f =>
    some (⟨.unused, .unused, .unused, .unused, [0], false, f.g ≠ 0 || f.fn ≠ 0⟩, f)
  | .vpushm f | .vpopm f =>
    some (⟨.unused, .unused, .unused, .unused, [0], false, f.g ≠ 0 || 64 ≤ f.x.toNat⟩, f)
  -- R320 to R329
  | .eb f => some (⟨.unused, .unused, .imm, .imm, [0], false,
      f.g ≠ 0 || 4 ≤ f.fn.toNat || 16 ≤ f.x.toNat || (f.fn = 0 && f.x ≠ 0)⟩, f)
  | .eloop f => some (⟨.unused, .scOrNone, if f.a = 0xFF then .imm else .unused,
      if f.a = 0xFF then .imm else .unused, [0], false,
      f.g ≠ 0 || f.fn.toNat % 8 ≠ 0 || 16 ≤ f.fn.toNat || 64 ≤ f.x.toNat⟩, f)
  | .eloopPipe f => some (⟨.unused, .scOrNone, if f.a = 0xFF then .imm else .unused,
      if f.a = 0xFF then .imm else .unused, [0], false,
      f.g ≠ 0 || 16 ≤ f.fn.toNat || 64 ≤ f.x.toNat⟩, f)
  | .estage f => some (⟨.unused, .unused, .unused, .unused, [0], false, f.fn ≠ 0 || 8 ≤ f.x.toNat⟩, f)
  | .ehalt f => some (⟨.unused, .unused, .unused, .unused, [0], false, noFnX f⟩, f)
  | .etrap f => some (⟨.unused, .unused, .unused, .unused, [0], false, f.fn ≠ 0 || 8 ≤ f.x.toNat⟩, f)
  | .ecsrR f => some (⟨.sdst, .unused, .unused, .unused, [0], false, 16 ≤ f.fn.toNat⟩, f)
  | .ecsrW f => some (⟨.unused, .sc, .unused, .unused, [0], false, 16 ≤ f.fn.toNat⟩, f)
  | .sDrop f => some (⟨.unused, .pop, .unused, .unused, [0], f.x = 0, f.fn ≠ 0⟩, f)
  -- R339 to R352, R461: g and nw must be zero (R335)
  | .wload f => some (⟨.unused, .pop, .sc, .sc, tyMx,
      (f.fn.toNat % 4 = 2 && (f.ty = 2 || f.ty = 3)) || (f.fn.toNat % 4 = 1 && (f.ty = 2 || f.ty = 3)) ||
        f.fn.toNat % 4 = 3,
      f.g ≠ 0 || f.nw || 4 ≤ f.fn.toNat || 8 ≤ f.x.toNat⟩, f)
  | .wloadSc f => some (⟨.unused, .pop, .sc, .sc, [0], false, f.g ≠ 0 || f.nw || 4 ≤ f.fn.toNat || f.x ≠ 0⟩, f)
  | .mxDot f => some (⟨.jport, .pop, .sc, .sc, tyMx, false, f.g ≠ 0 || f.nw || 8 ≤ f.fn.toNat || 128 ≤ f.x.toNat⟩, f)
  | .mxDots f => some (⟨.jport, .pop, .sc, .sreg27, tyMx, false, f.g ≠ 0 || f.nw || 8 ≤ f.fn.toNat || 128 ≤ f.x.toNat⟩, f)
  | .rndSet f => some (⟨.unused, .unused, .unused, .unused, [0], badMode f,
      f.g ≠ 0 || f.nw || 8 ≤ f.fn.toNat || f.x ≠ 0⟩, f)
  | .mxWait f => some (⟨.unused, .unused, .unused, .unused, [0], false, f.g ≠ 0 || f.nw || f.fn ≠ 0 || 16 ≤ f.x.toNat⟩, f)
  | .jWait f | .jClear f => some (⟨.unused, .unused, .unused, .unused, [0], false, f.g ≠ 0 || f.nw || noFnX f⟩, f)
  -- R358 to R366
  | .jCfg f => some (⟨.pushOrNone, .unused, .unused, .unused, [0, 4], false,
      f.g ≠ 0 || f.nw || 8 ≤ f.fn.toNat || 16 ≤ f.x.toNat⟩, f)
  | .jAcc f => some (⟨.unused, .pop, .sc, .unused, [0], false, f.g ≠ 0 || f.nw || noFnX f⟩, f)
  | .jMerge f => some (⟨.unused, .pop, .pop, .unused, [0], false, f.g ≠ 0 || f.nw || noFnX f⟩, f)
  | .jDrain f => some (⟨.pushOrJport, .unused, if f.c = 0xFF then .unused else .sc,
      if f.b = 0xFF then .unused else .sc, [0], false, f.g ≠ 0 || f.nw || noFnX f⟩, f)
  | .jDraino f => some (⟨.pushOrJport, .unused, .sc, .sc, [0], false, f.g ≠ 0 || f.nw || noFnX f⟩, f)
  | .jLook f | .jLookP f => some (⟨.sdst, .sc, .sc, .unused, [0], false, 2 ≤ f.fn.toNat || f.x ≠ 0⟩, f)
  | .jStat f => some (⟨.sdst, .unused, .unused, .unused, [0], 6 ≤ f.fn.toNat % 8, 8 ≤ f.fn.toNat || f.x ≠ 0⟩, f)
  -- R369 to R374
  | .gCfg f => some (⟨.unused, .unused, .unused, .sreg27, [0], false, f.g ≠ 0 || f.nw || f.fn ≠ 0 || 64 ≤ f.x.toNat⟩, f)
  | .gSig f => some (⟨.unused, .popPeek, .sc, .unused, tySig, false, f.g ≠ 0 || f.nw || f.fn ≠ 0 || 64 ≤ f.x.toNat⟩, f)
  | .gReuse f => some (⟨.push, .unused, .sc, .unused, [0], false, f.g ≠ 0 || f.nw || f.fn ≠ 0 || 64 ≤ f.x.toNat⟩, f)
  | .gKeep f => some (⟨.unused, .pop, .sc, .unused, [0], false, f.g ≠ 0 || f.nw || f.fn ≠ 0 || 64 ≤ f.x.toNat⟩, f)
  | .gMapR f | .gMapTile f =>
    some (⟨.sdst, .unused, .sc, .unused, [0], false, 4 ≤ f.fn.toNat || 64 ≤ f.x.toNat⟩, f)
  | .gMapW f => some (⟨.unused, .sc, .sc, .unused, [0], false, f.g ≠ 0 || f.nw || 4 ≤ f.fn.toNat || 64 ≤ f.x.toNat⟩, f)
  | .gMapStep f => some (⟨.sdst, .unused, .unused, .unused, [0], false, 4 ≤ f.fn.toNat || 64 ≤ f.x.toNat⟩, f)
  | .gStep f => some (⟨.unused, .unused, .unused, .unused, [0], false, f.g ≠ 0 || f.nw || f.fn ≠ 0 || 64 ≤ f.x.toNat⟩, f)
  | _ => none

/-- The cause that an A-set instruction's own fields raise: values of its fields that R176, R178,
R179, R224, R230, R255 and R284 leave unassigned (0x01), and fields that must be zero in a form that
does not use them (0x02: R271, R272, R177). -/
def aStatic : Instr → Option Cause
  | .bfx f | .bfxS f | .bfi f => if 64 < f.p.val + f.l.val + 1 then some cUnassigned else none
  | .cmp _ _ _ c _ _ | .cmpi _ _ _ c _ _ => if 12 ≤ c.val then some cUnassigned else none
  | .loop _ _ l => if l = 0 then some cUnassigned else none
  | .loopi _ _ l => if l = 0 then some cUnassigned else none
  | .ld f => if f.s = 7 then some cUnassigned else none
  | .st f => if 4 ≤ f.s.val then some cUnassigned else none
  | .ldx f => if f.s = 7 then some cUnassigned else none
  | .stx f => if 4 ≤ f.s.val then some cUnassigned else none
  | .sPat _ w => if w = 0 ∨ w = 2 ∨ w = 4 then none else some cUnassigned
  | .hGet _ _ _ f => if 10 ≤ f.toNat then some cUnassigned else none
  | .hLoadNone _ _ i => if i = 0 then none else some cReserved
  | .cpAsync f _ c => if !c && f.d ≠ 0 then some cReserved else none
  | .gxRows f _ c | .sxRows f _ c => if !c && f.st ≠ 0 then some cReserved else none
  | _ => none

/-- The cause that an instruction's own fields raise, whether it is guarded off or masked off (R197). -/
def staticCause (i : Instr) : Option Cause :=
  match eSpec i with
  | some (p, f) => p.cause f
  | none => aStatic i

end Sys2Proof.Machine
end

