-- ==== Sys2Proof/Config.lean ====
section
/-! DEFINITION. What the spec leaves to the device or to chance: free values. Each is an opaque
constant, so no proof can see a value of it; a claim about it holds for every value. -/

namespace Sys2Proof.Config

/-- UNVERIFIED, free: how many lane bytes the register file's tags spared, drawn anew each time
(R299, R332: the tag rule is the device's own; the count per operand is at most 64). Log entry 5. -/
opaque tagSpared : Nat → Nat

/-- Free: bytes that the spec leaves open, drawn by a counter: the scratch area of an ordered drain
(R363), the bytes of a pushed element that no rule supplies, the core count of a refused descriptor whose image
gives none (R399); a draw and the byte of it (log entries 6, 7 and 43). -/
opaque openByte : Nat → Nat → Byte

/-- Free: the byte a peer device answers with (R170, R451: the peer is another module). Log entry 8. -/
opaque peerByte : Nat → Nat → Byte

/-- Free: the value of a special function when the widest interval of this model does not decide
its rounding (R305). Log entry 9. -/
opaque sfuUndecided : Nat → W32 → W32

/-- Free: the PC that a context shows after a JR to a 64-bit target that no 32-bit PC holds (R229).
Log entry 14. -/
opaque farPc : Nat → Nat

/-- Free: the instruction word in the record of a context whose PC lies past its section, where no instruction stands (R173,
R418). Log entry 125. -/
opaque pastWord : Nat → W32

/-- Free: the decoder state that S.STAT reads of a decompressor source, which is opaque (R118). Log
entry 15. -/
opaque openWord : Nat → W64

/-- Free: how many single-bit soft errors the reads of a residency's core have corrected in a core cycle (R115, R428: no
rule says when one comes); a draw and the slot-table entry. Log entry 34. -/
opaque corrected : Nat → Nat → Nat

/-- Free: whether the far end of a Slavamus link refuses an access of a copy, since its window lies in another module
(R452); a draw and the physical address. Log entry 8. -/
opaque peerRefuses : Nat → Nat → Bool

/-- Free: how many rows or bytes of an engine command or a chain record are moved before the host access that gets no
completion (R420: it may be any of them). Log entry 100. -/
opaque failsAfter : Nat → Nat

/-- Free: what the board's own sensors read (POWER, THERM and the level of a pin that the part does not drive:
R450, R459). Log entry 40. -/
opaque sensor : Nat → W64

end Sys2Proof.Config
end

