-- ==== Sys2Proof/Machine/State.lean ====
section
/-! DEFINITION. The state of the whole package (R21, R212, R298, R390): the residencies with their
contexts, streams, queues and units; the launches; the partitions; the package registers; the one
memory; and the inputs that the outside world has queued. Plain data throughout. -/

namespace Sys2Proof.Machine

/-! ### Memory -/

/-- The check value of a granule: the CRC, and how many bytes at the granule's end it takes as zero, because their elements
were not written when a ring commit made it (R99, R114, R123, log 12). -/
structure Check where
  code : W16
  blank : Nat
  deriving DecidableEq, Repr

/-- One entry of a region table (R408). -/
structure RegionEntry where
  a : W64
  b : W64
  deriving DecidableEq, Repr

/-- An installation of a region table that has changed which channel serves some addresses of a stack (R409). -/
structure Remap where
  stack : Fin 8
  old : Vector RegionEntry 16
  new : Vector RegionEntry 16
  /-- the draw of the free values that those addresses read -/
  draw : Nat
  deriving DecidableEq, Repr

/-- Memory: bytes by key, and the side band of each 64-byte granule (R112, R442). A key is a physical
address (R441), or one of the on-chip stores at the bases of Machine/Mem.lean. Each list is in
canonical form: keys strictly rising, no entry equal to what an unlisted key reads as (log 2). -/
structure Memory where
  /-- bytes; an unlisted key reads as zero, or, where its channel has changed, as a free value -/
  cells : List Host.Cell
  /-- full/empty bits by granule number; unlisted: empty -/
  full : List (Nat × Bool)
  /-- check values by granule number; unlisted: zero, the CRC of 64 zero bytes -/
  chk : List (Nat × Check)
  /-- granules whose next read meets an uncorrectable soft error (R115); unlisted: none -/
  bad : List (Nat × Bool)
  /-- the installations that have moved addresses to other channels, newest first: an unlisted byte that one has moved
  reads what its channel holds (R409, log 104) -/
  remaps : List Remap
  deriving DecidableEq, Repr

/-! ### Streams -/

/-- One head of a stream register (R116). -/
structure Head where
  count : BitVec 24
  pos : BitVec 6
  enabled : Bool
  markValid : Bool
  markCount : BitVec 24
  markPos : BitVec 6
  deriving DecidableEq, Repr

/-- The decoder state of a decompressor source (R118): opaque in the register, plain here. -/
structure Decoder where
  /-- input bytes retired and not yet expanded -/
  input : List Byte
  /-- expanded bytes not yet delivered -/
  output : List Byte
  /-- elements delivered -/
  given : Nat
  deriving DecidableEq, Repr

/-- The frame of an ingest channel that is arriving (R447). -/
structure Ingest where
  inFrame : Bool
  admitted : Bool
  seq : W64
  gap : W32
  tick : W64
  eof : Option W64
  deriving DecidableEq, Repr

/-- One stream register (R116), with the state R135, R118 and R132 keep beside it. -/
structure StreamReg where
  control : W64
  ring : W32
  src : Vector W64 6
  drops : W32
  claimed : BitVec 24
  committed : BitVec 24
  tpos : BitVec 7
  ended : Bool
  heads : Vector Head 4
  awaits : Vector W16 4
  cursor : W32
  fcause : BitVec 7
  fpend : Bool
  faddr : BitVec 56
  /-- the pending fault is one of the drain or remote side (R424) -/
  fsink : Bool
  /-- address queue of an address-driven side (R135), in supply order -/
  addrs : List W64
  /-- bytes already written past the first uncommitted byte (R123, R260) -/
  landed : Nat
  /-- the hardware side has nothing left to fetch (R120) -/
  exhausted : Bool
  /-- the remote side has sent the end of the stream (R267) -/
  endSent : Bool
  /-- bytes of ring room reserved by pushes of E in flight (R42) -/
  reserved : Nat
  /-- whether the last claim dropped (R132) -/
  dropping : Bool
  /-- CP.ASYNC, GX.ROWS and SX.ROWS that hold a claim of this ring (R265, R274) -/
  holds : Nat
  /-- the page of the base translated at S.OPEN, pinned until the first access (R414) -/
  pin : Option W64
  dec : Decoder
  ing : Ingest
  deriving DecidableEq, Repr

/-- A loaded tensor handle (R283): the header, the object-table index, and the entry's rights and
bounds as they stood. -/
structure Handle where
  hdr : List Byte
  index : W16
  read : Bool
  write : Bool
  base : W64
  len : W64
  /-- the launch record loaded it (R405) -/
  recorded : Bool
  deriving DecidableEq, Repr

/-! ### The access processor -/

/-- What a context is doing. -/
inductive CtxStatus where
  /-- not started -/
  | off
  | running
  /-- HALT or EHALT has executed (R248, R327) -/
  | halted
  /-- stopped with a cause (R14) -/
  | parked (c : Cause)
  deriving DecidableEq, Repr

/-- One entry of a loop stack (R212). -/
structure LoopEntry where
  start : Nat
  stop : Nat
  count : Nat
  index : Nat
  deriving DecidableEq, Repr

/-- What an AP memory request does when its memory serves it (R237, R242, R283). -/
inductive MemOp where
  | load (d : AReg) (size : Fin 8)
  | store (data : List Byte)
  | amo (fn : Fin 9) (d : AReg) (y : W64)
  | cas (d : AReg) (expect new : W64)
  | header (h : Fin 16) (v : Handle)
  deriving DecidableEq, Repr

/-- An access of an AP context between its issue and its completion (R237). -/
structure MemReq where
  op : MemOp
  addr : W64
  /-- the memory key of each byte, in address order: every part is translated before any is performed -/
  keys : List Nat
  /-- the first core cycle in which the memory may serve a part of it: the one after its issue (R111) -/
  since : Nat
  /-- the bytes of the parts already performed, each with its place in the access (R140, R237) -/
  done : List (Nat × Byte)
  /-- a shootdown has made the translation that it holds stale (R414, R415) -/
  stale : Bool
  deriving DecidableEq, Repr

/-- An AP context (R212). -/
structure ApCtx where
  status : CtxStatus
  pc : W32
  a : Vector W64 32
  q : Vector Bool 8
  /-- innermost entry first -/
  loops : List LoopEntry
  acyc : W64
  ainst : W64
  ablk : W64
  /-- registers still waiting for a result, with the owned slots left (R214) -/
  busy : List (AReg × Nat)
  /-- the first core cycle in which the context may issue after a completed access (R237) -/
  wake : Nat
  pending : Option MemReq
  /-- a stop request waits for the next instruction boundary (R426) -/
  stopReq : Bool
  deriving DecidableEq, Repr

/-- A task record (R56). -/
structure TaskRec where
  entry : W32
  dep : Nat
  affinity : W64
  args : Vector W64 6
  deriving DecidableEq, Repr

/-- The registers and loop stack of context F as they stood when its task began (R288). -/
structure Snapshot where
  a : Vector W64 32
  q : Vector Bool 8
  loops : List LoopEntry
  deriving DecidableEq, Repr

/-- The task state of context F (R288). -/
structure TaskState where
  inTask : Bool
  dispatch : W32
  sideEffect : Bool
  record : TaskRec
  snapshot : Snapshot
  deriving DecidableEq, Repr

/-! ### Engines -/

/-- The kind of an engine command (R269). -/
inductive CmdKind where
  | copy | gather | scatter
  deriving DecidableEq, Repr

/-- Where an engine command stands. -/
inductive CmdStatus where
  /-- issued; not yet started (R271) -/
  | waiting
  /-- every row written; its releases and completion record are due -/
  | written
  /-- its completion record is written and waits for those before it (R274) -/
  | filled
  /-- stopped at a failing row (R276) -/
  | faulted (c : Cause)
  /-- cancelled by the service with a status cause -/
  | cancelled (c : Cause)
  deriving DecidableEq, Repr

/-- The pin of an issue-time translation: the base, and whether a shootdown has made the entry stale since (R414, R415). -/
structure BasePin where
  base : W64
  stale : Bool
  deriving DecidableEq, Repr

/-- An engine command: its block (R269) and its progress (R274, R276). -/
structure Cmd where
  id : Nat
  kind : CmdKind
  issuer : ApId
  pc : W32
  block : W64
  fields : List Byte
  target : W64
  tag : Nat
  zero : Bool
  stream : Option SReg
  claim : BitVec 24
  status : CmdStatus
  /-- rows done, and bytes done of the next one -/
  row : Nat
  off : Nat
  bytes : W64
  oor : W32
  /-- it has begun its accesses (R415) -/
  begun : Bool
  /-- the issue-time translations that it pins -/
  pins : List BasePin
  deriving DecidableEq, Repr

/-- A chain channel (R279, R281): `record` is the transfer record that it runs, empty between records;
`offset` the bytes of it copied. -/
structure Chain where
  ptr : W64
  busy : Bool
  record : List Byte
  faulted : Option Cause
  offset : Nat
  /-- the status of the record has been written: what remains is its release and its event (R281) -/
  stamped : Bool
  deriving DecidableEq, Repr

/-! ### The execute processor -/

/-- A latched result: a whole vector or a scalar (R187). -/
inductive Latch where
  | vec (v : Lanes)
  | sc (w : W32)
  deriving DecidableEq, Repr

/-- Where a result of E goes (R185). -/
inductive EDest where
  | none
  | vreg (n : Fin 64)
  | sreg (n : Fin 32)
  | mask (n : Fin 16)
  | push (st : SReg)
  | yq
  /-- the Damask join port: the queue entry made at issue (R360) -/
  | jport (id : Nat)
  deriving DecidableEq, Repr

/-- The value of a result. -/
inductive EVal where
  | vec (v : Lanes)
  | sc (w : W32)
  | mask (w : W64)
  /-- granules with their check values, of a G.REUSE (R373) -/
  | bytes (bs : List Byte) (chk : List Check)
  deriving DecidableEq, Repr

/-- A result in flight (R196): the issued slots left before it is delivered. -/
structure InFlight where
  left : Nat
  dest : EDest
  val : EVal
  guard : W64
  latch : Option (Fin 16)
  deriving DecidableEq, Repr

/-- The pipelined part of a loop level (R324). -/
structure Pipe where
  stages : Nat
  base : Nat
  stop : Nat
  exec : Nat
  deriving DecidableEq, Repr

/-- One level of E's loop stack (R298). -/
structure ELoop where
  start : Nat
  stop : Nat
  count : Nat
  index : Nat
  pipe : Option Pipe
  deriving DecidableEq, Repr

/-- Context E (R298). -/
structure EpCtx where
  status : CtxStatus
  pc : W32
  v : Vector Lanes 64
  s : Vector W32 32
  m : Vector W64 16
  f : Vector W32 8
  b : Vector (Option Latch) 16
  /-- innermost level first -/
  loops : List ELoop
  /-- the loop buffer: the start offset and the words of the captured body -/
  lbufStart : Nat
  lbuf : List W64
  inflight : List InFlight
  /-- as a share offset: one bit wider than the register's field, since the top of a 4 MiB share is no offset in it
  (R331, log 77) -/
  vsp : BitVec 23
  vregs : Nat
  lfsrV : W32
  ecyc : W64
  einst : W64
  eblk : W64
  etag : W64
  /-- owned slots still taken by a VPUSHM or VPOPM (R303) -/
  occupied : Nat
  /-- the last slot made a group switch (R188, R196) -/
  atSwitch : Bool
  stopReq : Bool
  deriving DecidableEq, Repr

/-! ### Matrix unit, Damask and Gauze -/

/-- A weight descriptor (R341). `loading` is set by the issue of a WLOAD that names it, and stays set: R346's check as of
issue asks for no more. -/
structure WDesc where
  valid : Bool
  loading : Bool
  offset : Nat
  length : Nat
  enc : Nat
  ty : Nat
  format : W32
  ks : Nat
  nb : Nat
  deriving DecidableEq, Repr

/-- A Damask configuration (R358). -/
structure JCfg where
  mode : Fin 4
  i32 : Bool
  sat : Bool
  probes : Nat
  spill : Option SReg
  deriving DecidableEq, Repr

/-- A held entry of Damask: its place (the direct index, or bucket times slots plus slot), its key
and its value or 128 values (R354). Direct entries equal to zero are not listed. -/
structure JEntry where
  place : Nat
  key : Nat
  vals : List W32
  deriving DecidableEq, Repr

/-- The operation of a command-queue entry, with the operands captured at issue (R336, R337). None carries an acquire or a
release: R159 speaks of such matrix and Damask-drain commands, and no rule gives them fields for it (log 127). -/
inductive QOp where
  | wload (w : Fin 8) (st : SReg) (offset enc ty ks nb : Nat)
  | wloadSc (st : SReg) (offset len : Nat)
  | dot (w : Fin 8) (st : SReg) (ty mt : Nat) (base : W32) (tag : Nat)
  | dots (w : Fin 8) (st : SReg) (ty mt : Nat) (base ta tb sa sb : W32) (tag : Nat)
  | rnd (mode : Fin 8)
  | lfsr (hi : Bool) (v : W32)
  | jcfg (c : JCfg)
  | jclear
  | jacc (st : SReg) (count : Option Nat)
  /-- a vector result to 0xC3: the tuples once delivered (R360) -/
  | jvec (v : Option Lanes) (guard : W64)
  | jmerge (a b : SReg)
  /-- output none: the drain queue (R362) -/
  | jdrain (out : Option SReg) (start count : Nat)
  | jdraino (out : Option SReg) (off len : Nat)
  deriving DecidableEq, Repr

/-- A staging tile, or the target found for one block of columns of the current M-tile (R348, R351). -/
structure Target where
  /-- the place in the store, or none for a staging tile -/
  place : Option Nat
  key : Nat
  vals : List W32
  deriving DecidableEq, Repr

/-- One entry of the command queue, with its micro-PC and the unit state that R351 and R361 save. -/
structure QEntry where
  id : Nat
  pc : W32
  op : QOp
  started : Bool
  /-- the unit has nothing more to do for it but to finish -/
  ran : Bool
  fault : Option Cause
  /-- the format word popped at start -/
  word : W32
  mt : Nat
  ks : Nat
  nb : Nat
  /-- items or bytes done -/
  done : Nat
  atile : Option (List Byte)
  targets : List Target
  /-- J.MERGE: the last keys of A and B, the current key, the buffered group, the place within it. J.DRAINO: in `keys`
  the number of the free bytes that its scratch area holds -/
  keys : List (Option Nat)
  group : List (List Byte)
  place : Nat
  deriving DecidableEq, Repr

/-- A configured model block of Gauze (R368). -/
structure GBlock where
  tabs : W32
  trel : W32
  tiles : Nat
  limit : Nat
  v : Nat
  offset : Nat
  step : W32
  deriving DecidableEq, Repr

/-- A queued Gauze operation (R375). -/
inductive GOp where
  | sig (blk : Fin 64) (tile : Nat) (s0 s1 s2 s3 : W32)
  | mapW (blk : Fin 64) (w : Nat) (val : W32)
  | step (blk : Fin 64)
  | keep (blk : Fin 64) (tile : Nat) (data : List Byte)
  | cfg (blk : Fin 64) (b : GBlock)
  | reuse (blk : Fin 64) (tile : Nat)
  deriving DecidableEq, Repr

/-- A queued Gauze operation with the core cycle in which it completes; 0 before it starts. -/
structure GEntry where
  op : GOp
  due : Nat
  fault : Option Cause
  deriving DecidableEq, Repr

/-- The trace configuration of a residency (R435) and the records lost since the last loss record. -/
structure Trace where
  base : W64
  k : Nat
  control : W64
  ctxs : BitVec 8
  lost : W64
  deriving DecidableEq, Repr

/-! ### Residencies -/

/-- Where a residency stands between its bind and its end (R400, R404, R433). -/
inductive ResStage where
  /-- no residency: the place of the focus while nothing is bound -/
  | free
  /-- bind accepted: the sequencer is to load the overlay -/
  | loading
  /-- the code is in place: the launch record is to be applied -/
  | loaded
  | running
  /-- saving to its save area -/
  | saving
  /-- restored, waiting for RUN -/
  | held
  /-- complete (R37) -/
  | done
  deriving DecidableEq, Repr

/-- What the residencies of a core share, as its other residency finds it at the start of a core cycle (R26). -/
structure Beside where
  /-- vector registers that it holds (R302) -/
  vregs : Nat
  /-- slots of each pool that its commands hold (R275) -/
  held : Vector Nat 2
  /-- it has a ready tile command (R67) -/
  tile : Bool
  /-- its age as L (R67) -/
  age : Nat
  deriving DecidableEq, Repr

/-- What the instructions and engines of a core cycle read: the state at its start, less what consumers have taken
from it in the cycle (R26, R126). -/
structure CycleStart where
  /-- a head stands where the consumers of this cycle have come to -/
  st : Vector StreamReg 32
  /-- the oldest position of each ring, past what drops of this cycle have freed (R122, R131) -/
  oldest : Vector (BitVec 24) 32
  /-- heads that this cycle has rewound (R263) -/
  rewound : List (SReg × Fin 4)
  /-- values of xq that nothing has popped -/
  xq : Nat
  yq : Nat
  fq : Nat
  /-- follow-on counts that nothing has taken (R277, R353) -/
  follow : Vector Nat 128
  bovr : W64
  /-- the numbers of the next engine command and the next queue entry: what the cycle issues has higher ones -/
  nextId : Nat
  nextQ : Nat
  /-- the chain channels that were busy (R281) -/
  chains : Vector Bool 8
  /-- bytes of the drain queue (R364) -/
  drainq : Nat
  /-- queue entries whose vector this cycle has brought (R360) -/
  arrived : List Nat
  /-- slots of each pool that its commands held (R275) -/
  held : Vector Nat 2
  stage : ResStage
  /-- the age as L (R67) -/
  age : Nat
  /-- the core's other residency -/
  beside : Option Beside
  /-- the ingest streams of the package: slot-table entry, stream and channel (R118) -/
  ingests : List (Nat × Nat × Nat)
  deriving DecidableEq, Repr

/-- What a bind record fixes for a residency (R401), and the sections of its code (R404). -/
structure Bind where
  /-- the slot-table entry (R400) -/
  e : Nat
  launch : W32
  part : Fin 8
  lcore : Nat
  n : Nat
  frame : Bool
  strict : Bool
  age : Nat
  /-- scratchpad banks: 8, 16, 24 or 32 (R107) -/
  banks : Nat
  apim : Nat
  epim : Nat
  wbuf : Nat
  smem : Nat
  jsh : Nat
  gmem : W64
  mbox : W64
  save : W64
  fetchSize : Nat
  drainBase : Nat
  drainSize : Nat
  epSize : Nat
  deriving DecidableEq, Repr

/-- The matrix unit's state of a residency (R67, R90, R96, R336, R341). -/
structure Matrix where
  queue : List QEntry
  nextQ : Nat
  wdesc : Vector WDesc 8
  mode : Fin 8
  lfsr : W32
  /-- L's age (R67) -/
  age : Nat
  /-- the first core cycle in which the array may take another k-step after this residency's last one (R32, R67) -/
  freeAt : Nat
  deriving DecidableEq, Repr

/-- The Damask state of a residency (R354 to R364). -/
structure Damask where
  /-- the configuration in force, and the one of the last J.CFG issued (R337) -/
  cfg : Option JCfg
  issued : Option JCfg
  /-- held entries, places strictly rising -/
  store : List JEntry
  spilled : W32
  drainq : List Byte
  deriving DecidableEq, Repr

/-- The Gauze state of a residency (R368 to R375). -/
structure Gauze where
  blocks : Vector (Option GBlock) 64
  /-- the blocks configured as of issue (R370) -/
  issued : Vector (Option GBlock) 64
  ops : List GEntry
  /-- tiles decided as of issue in the current step: (block, tile) (R370) -/
  decided : List (Nat × Nat)
  deriving DecidableEq, Repr

/-- What the supervision of a residency keeps: trace (R435), watchdog (R425), save (R429, R430). -/
structure Watch where
  trace : Trace
  /-- ticks gone since anything of the residency moved, and whether the watchdog is armed -/
  idle : Nat
  armed : Bool
  moved : Bool
  yield : Bool
  /-- a save is requested, since this core cycle -/
  saveReq : Option Nat
  forced : Bool
  deriving DecidableEq, Repr

/-- A residency: everything that a bound slot-table entry holds (R21). -/
structure Residency where
  bind : Bind
  stage : ResStage
  f : ApCtx
  d : ApCtx
  ep : EpCtx
  task : TaskState
  /-- the deque, owner end first (R59) -/
  deque : List TaskRec
  st : Vector StreamReg 32
  h : Vector (Option Handle) 16
  xq : List W64
  yq : List W64
  fq : List W32
  follow : Vector Nat 128
  cmds : List Cmd
  nextId : Nat
  chains : Vector Chain 8
  /-- for copy slots (0) and index-engine slots (1): since which core cycle an instruction of the
  residency waits for one, and in which it last tried (R275) -/
  slotWait : Vector (Nat × Nat) 2
  bovr : W64
  mx : Matrix
  dm : Damask
  gz : Gauze
  /-- virtual addresses whose page walk a PREF has started (R239) -/
  walks : List W64
  watch : Watch
  start : CycleStart
  deriving DecidableEq, Repr

/-! ### Launches -/

/-- A member's part in a barrier (R47, R164): phases arrived at, phases waited for, expected bytes of
the oldest incomplete phase and the two after it, bytes received (64-bit counts), and the excess found while the member was
saved (R165). -/
structure BarMember where
  core : Nat
  arrived : Nat
  waited : Nat
  exp0 : W64
  exp1 : W64
  exp2 : W64
  recv : W64
  owed : Nat
  deriving DecidableEq, Repr

/-- A group and its barrier (R44, R47): `phase` is the oldest incomplete phase. -/
structure Group where
  num : Nat
  /-- the die of its lowest-numbered member (R47, R407) -/
  master : Nat
  phase : Nat
  /-- the phase as this core cycle reads it (R26) -/
  phaseStart : Nat
  members : List BarMember
  deriving DecidableEq, Repr

/-- A timetable block with its progress (R49, R51). -/
structure Block where
  core : Nat
  release : Nat
  deadline : Nat
  frame : Nat
  waited : Bool
  /-- the release of the block's frame has been signalled -/
  released : Bool
  deriving DecidableEq, Repr

/-- The frame state of a launch (R50). -/
structure Frames where
  period : Nat
  t0 : Nat
  /-- the newest frame whose start tick has passed, and its start tick -/
  num : Nat
  base : Nat
  /-- the start of frame `num` has passed -/
  begun : Bool
  /-- S(0) is fixed -/
  fixed : Bool
  /-- S(0) is fixed as this core cycle reads it (R26) -/
  fixedStart : Bool
  /-- the latest tick of a TT.DONE of the current frame -/
  last : Nat
  slips : W32
  /-- fslip as this core cycle reads it (R26) -/
  slipsStart : W32
  blocks : List Block
  deriving DecidableEq, Repr

/-- A record spawned in this core cycle (R62): the logical core whose deque it goes to, and, where its room is known
only at the end of the cycle, the slot-table entry and context whose TASK.SPAWN waits for it (R59). -/
structure Spawn where
  core : Nat
  task : TaskRec
  waits : Option (Nat × ApId)
  deriving DecidableEq, Repr

/-- A slip record that waits to be written: the slot-table entry and the logical core that wrote it, its address and its
bytes (R53, R409). -/
structure SlipDue where
  entry : Nat
  core : Nat
  addr : W64
  bytes : List Byte
  deriving DecidableEq, Repr

/-- What all residencies of a launch share (R44, R49, R58, R403). -/
structure Launch where
  id : W32
  part : Fin 8
  tag : W32
  n : Nat
  frameMode : Bool
  onedie : Bool
  /-- 0 none, 1 after the early trigger, 2 after completion; and the predecessor's link or completion
  object (R168) -/
  after : Nat
  pred : W64
  image : W64
  isize : Nat
  link : W64
  compl : W64
  slog : W64
  /-- overflow queue of each die: physical base (R60) -/
  ovf0 : W64
  ovf1 : W64
  affinity : List Nat
  /-- its table in the store of group tables, and its entries in the timetable store, by number (R49, R403, R407) -/
  groupPlace : Nat
  blockPlaces : List Nat
  groups : List Group
  frames : Frames
  outstanding : Nat
  /-- the outstanding count as this core cycle reads it (R26) -/
  outStart : Nat
  /-- parked task records: the future, then the record, in parking order (R65) -/
  parked : List (Nat × TaskRec)
  /-- held records of each die (R65) -/
  held0 : List TaskRec
  held1 : List TaskRec
  /-- records spawned in this core cycle (R62), and before a launch starts its initial ones (R58) -/
  spawned : List Spawn
  /-- slot-table entries whose F looks in this core cycle for a record to steal, by logical core (R61, R62) -/
  thieves : List Nat
  /-- slip records that wait for a region table (R53, R409) -/
  slipsDue : List SlipDue
  /-- futures filled in this core cycle, with the logical core that filled each (R65) -/
  filled : List (Nat × Nat)
  early : List Nat
  earlyFired : Bool
  applied : List Nat
  complete : List Nat
  finished : Bool
  faults : W32
  deriving DecidableEq, Repr

/-! ### Partitions and the package -/

/-- A launch queue (R396). -/
structure LaunchQueue where
  base : W64
  tail : W16
  head : W16
  deriving DecidableEq, Repr

/-- An alarm ring (R449). -/
structure AlarmRing where
  base : W64
  tail : W32
  head : W32
  deriving DecidableEq, Repr

/-- A fault record that the device holds (R418), and the item it stopped. -/
structure FaultRec where
  cause : Cause
  kind : Nat
  unit : Nat
  entry : Nat
  launch : W32
  lcore : Nat
  index : Nat
  pc : W32
  addr : W64
  detail : W64
  tick : W64
  /-- the core cycle of its detection, for the order of posting (R419) -/
  cycle : Nat
  aux : W64
  item : Item
  /-- the sequence number once posted (R419) -/
  seq : Option W64
  deriving DecidableEq, Repr

/-- An event that waits for the end of its core cycle (R427), with the slot-table entry and the unit that order it (R419). -/
structure Event where
  /-- the core cycle of its detection -/
  cycle : Nat
  entry : Nat
  unit : Nat
  kind : Nat
  lcore : Nat
  launch : W32
  detail : W64
  deriving DecidableEq, Repr

/-- The state of a partition (R392). -/
inductive PartState where
  | free | active | destroying
  deriving DecidableEq, Repr

/-- A partition: its record (R391) and its rings. -/
structure Partition where
  state : PartState
  /-- the 256 bytes of the active record; empty while free -/
  record : List Byte
  lq : Vector LaunchQueue 4
  cr : LaunchQueue
  ar : AlarmRing
  /-- alarm records posted (R245) -/
  alarmSeq : W32
  /-- fault records not yet serviced, in the order of R419 -/
  faults : List FaultRec
  /-- events of this core cycle, in the order of R419 -/
  events : List Event
  /-- events lost since the last event of kind 4 (R427) -/
  eventsLost : W64
  /-- completion records that wait for room (R396) -/
  completions : List (List Byte)
  /-- tags of the last 256 launches completed (R398), with their link and completion objects -/
  history : List (W32 × W64 × W64)
  /-- core cycles in which the partition has stood still: its residencies' own clocks are that much behind (R434) -/
  lag : Nat
  deriving DecidableEq, Repr

/-- The region table of one stack (R408, R409). -/
structure RegionTable where
  shadow : Vector RegionEntry 16
  active : Vector RegionEntry 16
  gen : W16
  pending : Bool
  newGen : W16
  result : Byte
  deriving DecidableEq, Repr

/-- One entry of the slot table (R400). The entry of H also keeps the core's slot plan (R39). -/
structure Slot where
  record : List Byte
  /-- 0 free, 1 binding, 2 bound, 3 saving, 4 disabled spare -/
  state : Nat
  reject : Byte
  /-- 0 two-phase, 1 four-phase 3:1, 2 four-phase 1:1 -/
  plan : Nat
  corr : W32
  uncorr : W32
  deriving DecidableEq, Repr

/-- A pending change of the alarm pins (R246). -/
structure PinChange where
  tick : W64
  pins : BitVec 8
  set : Bool
  part : Fin 8
  deriving DecidableEq, Repr

/-- A Slavamus port (R452). -/
structure SlvPort where
  up : Bool
  lanes : BitVec 4
  retrain : Byte
  pserial : W32
  pport : BitVec 3
  expBase : W64
  expLen : W64
  deriving DecidableEq, Repr

/-- A TLB entry (R413): of the first level of a core, or of the second level of a die. -/
structure TlbEntry where
  second : Bool
  /-- core number 0 to 207, or die 0 to 1 -/
  place : Nat
  part : Fin 8
  base : Nat
  size : Nat
  frame : Nat
  read : Bool
  write : Bool
  stale : Bool
  deriving DecidableEq, Repr

/-- Bring-up (R455, R456, R459) and firmware loading (R458). -/
structure Boot where
  powered : Bool
  state : Nat
  /-- whether die 0 has passed its tests, and die 1; once in service, whether die 1 is in service -/
  die0 : Bool
  die1 : Bool
  ready : Bool
  bridge : W16
  /-- bridge links retired in service (R438) -/
  retired : W16
  trained : BitVec 8
  clock : W16
  serial : W32
  stepping : Byte
  spares : List (Fin 416)
  tripped : Bool
  fwAddr : W64
  fwLen : W64
  fwBusy : Bool
  fwFlash : Bool
  fwResult : Byte
  deriving DecidableEq, Repr

/-- The firmware's own registers (R423, R425, R430, R433, R434). -/
structure Firmware where
  faultArg : W64
  faultRes : Byte
  sdVa : W64
  sdLen : W64
  /-- the partition of the shootdown that runs (R415), and whether a service request waits for it (R423) -/
  sdPart : Option (Fin 8)
  sdServes : Bool
  wdog : Vector W32 2
  saveLimit : W32
  freeze : BitVec 8
  runLaunch : W32
  runStarted : Bool
  scanEntry : BitVec 9
  scanOffset : BitVec 23
  deriving DecidableEq, Repr

/-- The links of the package: PCIe (R388, R448) and Slavamus (R452). -/
structure Links where
  pcieUp : Vector Bool 2
  aborted : Vector W32 2
  discarded : Vector W32 2
  slv : Vector SlvPort 8
  deriving DecidableEq, Repr

/-- The privileged and package state (R387, R390, R440). -/
structure Package where
  boot : Boot
  fw : Firmware
  links : Links
  owner : Master
  partAddr : W64
  partBusy : Bool
  partResult : Byte
  parts : Vector Partition 8
  regions : Vector RegionTable 8
  slots : Vector Slot 416
  pinDriven : BitVec 8
  pinQueue : List PinChange
  tlb : List TlbEntry
  deriving DecidableEq, Repr

/-- What a save area holds in the device's own encoding (R431), kept beside the number that stands in the
area for it: the residency as it was saved, and its faults that were pending (log 18). -/
structure Saved where
  id : Nat
  res : Residency
  faults : List FaultRec
  deriving DecidableEq, Repr

/-- Where the machine stands within one core cycle: the AP slot, the EP slot and the units of the
residency in focus, in the order of R26, then the package. The AP slot comes first, so it finds the state at the
start of the cycle; E and the units read the streams and queues as `CycleStart` holds them (log 3). -/
inductive Phase where
  | ap
  | ep
  /-- the units of the residency in focus; what is left of the core cycle's events, once it is known -/
  | units (todo : Option (List Instr))
  /-- the inputs between two core cycles -/
  | inputs
  /-- the package at the start of a core cycle; what is left of its events, once it is known -/
  | package (todo : Option (List Instr))
  deriving DecidableEq, Repr

/-- The whole machine. `r` is the residency in focus and `others` the rest; every residency is in focus once
per core cycle, by logical core (R62), for its AP slot, its EP slot and its units. -/
structure State where
  mem : Memory
  r : Residency
  others : List Residency
  /-- slot-table entries whose turn is still to come in this core cycle, after the focus -/
  turns : List Nat
  /-- scratchpad banks that have served an AP access in this core cycle: one in each of their phases (R111) -/
  banks : List Nat
  /-- the AP context whose slot this is (R40) -/
  ap : ApId
  phase : Phase
  launches : List Launch
  pkg : Package
  /-- core cycles since package reset -/
  cycle : Nat
  /-- the frame counter (R48), and the core cycles gone within the tick -/
  tick : W64
  subtick : Nat
  /-- what the outside world has done and the device has not yet taken, oldest first -/
  inbox : List Instr
  /-- the encoded parts of save areas, newest first -/
  vault : List Saved
  /-- the model's own counter of free values drawn (log 4) -/
  free : Nat
  deriving DecidableEq, Repr

/-! ### Reset values -/

/-- Memory with nothing listed. -/
def Memory.empty : Memory := ⟨[], [], [], [], []⟩

/-- A head that is not enabled (R116). -/
def Head.off : Head := ⟨0, 0, false, false, 0, 0⟩

/-- A decoder with nothing in progress. -/
def Decoder.idle : Decoder := ⟨[], [], 0⟩

/-- An ingest side with no frame received (R130). -/
def Ingest.idle : Ingest := ⟨false, false, 0, 0, 0, none⟩

/-- A closed stream register: every bit zero (R116, R36). -/
def StreamReg.closed : StreamReg where
  control := 0
  ring := 0
  src := Vector.replicate 6 0
  drops := 0
  claimed := 0
  committed := 0
  tpos := 0
  ended := false
  heads := Vector.replicate 4 .off
  awaits := Vector.replicate 4 0
  cursor := 0
  fcause := 0
  fpend := false
  faddr := 0
  fsink := false
  addrs := []
  landed := 0
  exhausted := false
  endSent := false
  reserved := 0
  dropping := false
  holds := 0
  pin := none
  dec := .idle
  ing := .idle

/-- An AP context that has not started: registers, predicates, loops and counters as R36 and R218
give them at launch start (q0 reads true by its accessor). -/
def ApCtx.fresh : ApCtx where
  status := .off
  pc := 0
  a := Vector.replicate 32 0
  q := Vector.replicate 8 false
  loops := []
  acyc := 0
  ainst := 0
  ablk := 0
  busy := []
  wake := 0
  pending := none
  stopReq := false

/-- A task record of zeros. -/
def TaskRec.zero : TaskRec := ⟨0, 0, 0, Vector.replicate 6 0⟩

/-- Task state with no task (R288). -/
def TaskState.idle : TaskState :=
  ⟨false, 0, false, .zero, ⟨Vector.replicate 32 0, Vector.replicate 8 false, []⟩⟩

/-- Context E before it starts (R36, R331, R332); `spill` is the base of the spill region. The
generators hold 1 (R90). -/
def EpCtx.fresh (spill vregs : Nat) : EpCtx where
  status := .off
  pc := 0
  v := Vector.replicate 64 (Lanes.fill 0)
  s := Vector.replicate 32 0
  m := Vector.replicate 16 0
  f := Vector.replicate 8 0
  b := Vector.replicate 16 none
  loops := []
  lbufStart := 0
  lbuf := []
  inflight := []
  vsp := BitVec.ofNat 23 spill
  vregs := vregs
  lfsrV := 1
  ecyc := 0
  einst := 0
  eblk := 0
  etag := 0
  occupied := 0
  atSwitch := false
  stopReq := false

/-- An invalid weight descriptor (R341). -/
def WDesc.invalid : WDesc := ⟨false, false, 0, 0, 0, 0, 0, 0, 0⟩

/-- The start of a core cycle in which nothing is open, queued or counted. -/
def CycleStart.idle : CycleStart where
  st := Vector.replicate 32 .closed
  oldest := Vector.replicate 32 0
  rewound := []
  xq := 0
  yq := 0
  fq := 0
  follow := Vector.replicate 128 0
  bovr := 0
  nextId := 0
  nextQ := 0
  chains := Vector.replicate 8 false
  drainq := 0
  arrived := []
  held := Vector.replicate 2 0
  stage := .loading
  age := 0
  beside := none
  ingests := []

/-- A residency as its scrub leaves it (R404, R36): every register, queue, latch, table and counter
cleared. -/
def Residency.fresh (b : Bind) (vregs : Nat) : Residency where
  bind := b
  stage := .loading
  f := .fresh
  d := .fresh
  ep := .fresh (b.banks * 131072 - 16384) vregs
  task := .idle
  deque := []
  st := Vector.replicate 32 .closed
  h := Vector.replicate 16 none
  xq := []
  yq := []
  fq := []
  follow := Vector.replicate 128 0
  cmds := []
  nextId := 0
  chains := Vector.replicate 8 ⟨0, false, [], none, 0, false⟩
  slotWait := Vector.replicate 2 (0, 0)
  bovr := 0
  mx := ⟨[], 0, Vector.replicate 8 .invalid, 0, 1, 0, 0⟩
  dm := ⟨none, none, [], 0, []⟩
  gz := ⟨Vector.replicate 64 none, Vector.replicate 64 none, [], []⟩
  walks := []
  watch := ⟨⟨0, 0, 0, 0, 0⟩, 0, true, false, false, none, false⟩
  start := .idle

/-- The bind of no residency: it names no slot-table entry. -/
def Bind.none : Bind :=
  ⟨832, 0, 0, 0, 0, false, false, 0, 0, 0, 0, 0, 0, 0, 0, 0, 0, 0, 0, 0, 0⟩

/-- A launch of nothing: what the reads of a launch that is not listed give. -/
def Launch.none : Launch where
  id := 0
  part := 0
  tag := 0
  n := 0
  frameMode := false
  onedie := false
  after := 0
  pred := 0
  image := 0
  isize := 0
  link := 0
  compl := 0
  slog := 0
  ovf0 := 0
  ovf1 := 0
  affinity := []
  groupPlace := 0
  blockPlaces := []
  groups := []
  frames := ⟨0, 0, 0, 0, false, false, false, 0, 0, 0, []⟩
  outstanding := 0
  outStart := 0
  parked := []
  held0 := []
  held1 := []
  spawned := []
  thieves := []
  slipsDue := []
  filled := []
  early := []
  earlyFired := false
  applied := []
  complete := []
  finished := false
  faults := 0

/-- No residency. -/
def Residency.absent : Residency := { Residency.fresh .none 0 with stage := .free }

/-- A free partition (R392, R396, R449). -/
def Partition.free : Partition :=
  ⟨.free, [], Vector.replicate 4 ⟨0, 0, 0⟩, ⟨0, 0, 0⟩, ⟨0, 0, 0⟩, 0, [], [], 0, [], [], 0⟩

/-- A region table with no used entry (R443: the table of a stack that is not in service). -/
def RegionTable.empty : RegionTable :=
  ⟨Vector.replicate 16 ⟨0, 0⟩, Vector.replicate 16 ⟨0, 0⟩, 0, false, 0, 0⟩

/-- A free slot-table entry (R400, R428). -/
def Slot.free : Slot := ⟨List.replicate 64 0, 0, 0, 0, 0, 0⟩

/-- A Slavamus port whose link is down (R452). -/
def SlvPort.down : SlvPort := ⟨false, 0, 0, 0, 0, 0, 0⟩

/-- Bring-up at package reset: state 0 (R455, R456). -/
def Boot.reset : Boot where
  powered := true
  state := 0
  die0 := false
  die1 := false
  ready := false
  bridge := 0
  retired := 0
  trained := 0
  clock := 0
  serial := 0
  stepping := 0
  spares := []
  tripped := false
  fwAddr := 0
  fwLen := 0
  fwBusy := false
  fwFlash := false
  fwResult := 0

/-- The firmware's registers at package reset (R423, R425, R430, R433, R434). -/
def Firmware.reset : Firmware :=
  ⟨0, 0, 0, 0, none, false, Vector.replicate 2 0, 0x00100000, 0, 0, false, 0, 0⟩

/-- The links at package reset (R448, R452); both PCIe links down (log 11). -/
def Links.reset : Links :=
  ⟨Vector.replicate 2 false, Vector.replicate 2 0, Vector.replicate 2 0, Vector.replicate 8 .down⟩

/-- The package at package reset (R388, R392, R450, R455). -/
def Package.reset : Package where
  boot := .reset
  fw := .reset
  links := .reset
  owner := 0
  partAddr := 0
  partBusy := false
  partResult := 0
  parts := Vector.replicate 8 .free
  regions := Vector.replicate 8 .empty
  slots := Vector.replicate 416 .free
  pinDriven := 0
  pinQueue := []
  tlb := []

/-- The machine right after package reset (R455): no partition, no residency, the frame counter at
zero (R48), memory with nothing listed, and nothing from the outside world yet. -/
def State.reset : State where
  mem := .empty
  r := .absent
  others := []
  turns := []
  banks := []
  ap := .f
  phase := .inputs
  launches := []
  pkg := .reset
  cycle := 0
  tick := 0
  subtick := 0
  inbox := []
  vault := []
  free := 0

/-- How a step can stop for good. -/
inductive Fault where
  /-- Raised by `step` alone: a thermal trip has removed power from both dies and nothing that the
  outside world has queued restores it (R460). Safe: nothing runs in that state on the hardware. -/
  | poweredOff
  deriving DecidableEq, Repr

/-- How a step can be refused. -/
inductive Refusal where
  /-- Raised by the dispatch for an instruction that has no meaning yet. Safe. -/
  | notModelled (mnemonic : String)
  deriving DecidableEq, Repr

end Sys2Proof.Machine
end

