-- ==== Sys2Proof/Machine/Mem.lean ====
section
/-! DEFINITION. Memory operations: the canonical lists, bytes, granules with their full/empty bits,
check values and soft errors (R112 to R115), and the keys of the on-chip stores. -/

namespace Sys2Proof.Machine

/-! ### Canonical lists of keyed values -/

/-- The value of key x; d when it is not listed. -/
def kvGet {α : Type} (d : α) : List (Nat × α) → Nat → α
  | [], _ => d
  | (k, v) :: l, x => if k = x then v else kvGet d l x

/-- Set the value of key k: the list stays sorted, and the unlisted value d is not listed. -/
def kvSet {α : Type} [DecidableEq α] (d : α) : List (Nat × α) → Nat → α → List (Nat × α)
  | [], k, v => if v = d then [] else [(k, v)]
  | (k', v') :: l, k, v =>
    if k < k' then (if v = d then (k', v') :: l else (k, v) :: (k', v') :: l)
    else if k = k' then (if v = d then l else (k, v) :: l)
    else (k', v') :: kvSet d l k v

/-- The canonical form: keys strictly rising, no listed value equal to what d gives its key. -/
def kvWf {α : Type} [DecidableEq α] (d : Nat → α) : List (Nat × α) → Bool
  | [] => true
  | (k, v) :: l => decide (v ≠ d k) && l.all (fun p => decide (k < p.1)) && kvWf d l

/-! ### Keys -/

/-- The key of byte `off` of the scratchpad share of slot entry e (R107). -/
def spadKey (e off : Nat) : Nat := 2 ^ 56 + e * 2 ^ 22 + off
/-- The key of byte `off` of the AP instruction memory of entry e. -/
def apimKey (e off : Nat) : Nat := 2 ^ 57 + e * 2 ^ 16 + off
/-- The key of byte `off` of the EP instruction memory of entry e. -/
def epimKey (e off : Nat) : Nat := 2 ^ 58 + e * 2 ^ 17 + off
/-- The key of byte `off` of the weight buffer share of entry e. -/
def wbufKey (e off : Nat) : Nat := 2 ^ 59 + e * 2 ^ 18 + off
/-- The key of byte `off` of the scale memory share of entry e. -/
def smemKey (e off : Nat) : Nat := 2 ^ 60 + e * 2 ^ 16 + off

/-- What kind of storage a key names: the class of a physical address (R441), or on-chip. -/
inductive Store where
  | hbm | host | peer | chip
  deriving DecidableEq, Repr

/-- The storage behind a key. -/
def storeOf (k : Nat) : Store :=
  if 2 ^ 56 ≤ k then .chip
  else if k / 2 ^ 48 = 0 then .hbm
  else if k / 2 ^ 48 ≤ 2 then .host
  else .peer

/-! ### Region tables (R408, R441) -/

/-- The stack of a class-0 physical address. -/
def stackOf (k : Nat) : Fin 8 := Fin.ofNat 8 (k / 2 ^ 36)
/-- The offset of a class-0 physical address within its stack. -/
def stackOff (k : Nat) : Nat := k % 2 ^ 36
/-- The length in bytes of a region entry. -/
def RegionEntry.length (e : RegionEntry) : Nat := bits e.a 55 36 * 65536
/-- The base in bytes of a region entry. -/
def RegionEntry.base (e : RegionEntry) : Nat := bits e.a 35 16 * 65536
/-- The channels of a region entry, ascending. -/
def RegionEntry.chans (e : RegionEntry) : List Nat := (List.range 32).filter fun c => bit e.b c
/-- The interleave granule in bytes of a region entry; 0 for none (R408). -/
def RegionEntry.gran (e : RegionEntry) : Nat :=
  match bits e.b 34 32 with
  | 1 => 256
  | 2 => 4096
  | 3 => 65536
  | _ => 0
/-- Whether a used entry covers an offset. -/
def RegionEntry.covers (e : RegionEntry) (o : Nat) : Bool :=
  decide (e.length ≠ 0) && decide (e.base ≤ o) && decide (o < e.base + e.length)
/-- The channel that serves an offset under an entry (R408). -/
def RegionEntry.channel (e : RegionEntry) (o : Nat) : Nat :=
  let cs := e.chans
  if e.gran = 0 then cs.getD 0 0 else cs.getD ((o - e.base) / e.gran % cs.length) 0

/-- The channel that serves an offset of a stack under a table. -/
def servingChannel (es : Vector RegionEntry 16) (o : Nat) : Option Nat :=
  (es.toList.find? fun e => e.covers o).map fun e => e.channel o

/-- Whether an installation moves an HBM address to another channel (R409). -/
def Remap.moves (r : Remap) (k : Nat) : Bool :=
  storeOf k == .hbm && stackOf k == r.stack && servingChannel r.old (stackOff k) != servingChannel r.new (stackOff k)

/-! ### Bytes and granules -/

/-- What an unlisted byte reads as: zero (log 2); one whose channel has changed, what its new channel holds, which is free
(R409, log 104). -/
def Memory.blank (m : Memory) (k : Nat) : Byte :=
  match m.remaps.find? fun r => r.moves k with
  | some r => Config.openByte r.draw k
  | none => 0

/-- The check value of a granule of 64 zero bytes (R112). -/
def Check.zero : Check := ⟨0, 0⟩

/-- The full/empty bit that an unlisted granule has: empty; one whose channel has changed, what its new channel holds beside
it, which is free (R409, log 104). -/
def Memory.blankFull (m : Memory) (g : Nat) : Bool :=
  match m.remaps.find? fun r => r.moves (64 * g) with
  | some r => bit (Config.openByte r.draw (2 ^ 62 + 4 * g)) 0
  | none => false

/-- The check value that an unlisted granule has: that of zero bytes; one whose channel has changed, what its new channel
holds beside it, which is free (R409, log 104). -/
def Memory.blankChk (m : Memory) (g : Nat) : Check :=
  match m.remaps.find? fun r => r.moves (64 * g) with
  | some r => ⟨BitVec.ofNat 16 (leNat [Config.openByte r.draw (2 ^ 62 + 4 * g + 1), Config.openByte r.draw (2 ^ 62 + 4 * g + 2)]), 0⟩
  | none => Check.zero

/-- The canonical form of a whole memory. -/
def Memory.wf (m : Memory) : Bool :=
  kvWf m.blank m.cells && kvWf m.blankFull m.full && kvWf m.blankChk m.chk && kvWf (fun _ => false) m.bad

/-- Memory after an installation: what has changed its channel reads what the new channel holds, its granules' side band too
(R409, log 104). -/
def Memory.remap (m : Memory) (r : Remap) : Memory :=
  { m with
    cells := m.cells.filter fun p => !r.moves p.1
    full := m.full.filter fun p => !r.moves (64 * p.1)
    chk := m.chk.filter fun p => !r.moves (64 * p.1)
    bad := m.bad.filter fun p => !r.moves (64 * p.1)
    remaps := r :: m.remaps }

/-- The byte at a key. -/
def Memory.byte (m : Memory) (k : Nat) : Byte := kvGet (m.blank k) m.cells k

/-- n bytes from a key upwards. -/
def Memory.bytes (m : Memory) (k n : Nat) : List Byte := (List.range n).map fun i => m.byte (k + i)

/-- The bytes at a list of keys. -/
def Memory.gather (m : Memory) (ks : List Nat) : List Byte := ks.map m.byte

/-- Whether granule g is full (R112). -/
def Memory.isFull (m : Memory) (g : Nat) : Bool := kvGet (m.blankFull g) m.full g

/-- Set the full/empty bit of a granule. -/
def Memory.setFull (m : Memory) (g : Nat) (b : Bool) : Memory := { m with full := kvSet (m.blankFull g) m.full g b }

/-- The stored check value of granule g. -/
def Memory.chkOf (m : Memory) (g : Nat) : Check := kvGet (m.blankChk g) m.chk g

/-- Store a check value beside a granule. -/
def Memory.setChk (m : Memory) (g : Nat) (c : Check) : Memory := { m with chk := kvSet (m.blankChk g) m.chk g c }

/-- Whether a read of granule g meets an uncorrectable soft error (R115). -/
def Memory.isBad (m : Memory) (g : Nat) : Bool := kvGet false m.bad g

/-- The granule is written whole: a soft error in what it held is gone. -/
def Memory.mend (m : Memory) (g : Nat) : Memory := { m with bad := kvSet false m.bad g false }

/-- Write one byte, its granule's side band untouched. -/
def Memory.poke (m : Memory) (k : Nat) (b : Byte) : Memory := { m with cells := kvSet (m.blank k) m.cells k b }

/-- Write a byte at each of a list of keys. -/
def Memory.pokes (m : Memory) : List (Nat × Byte) → Memory
  | [] => m
  | (k, b) :: l => (m.poke k b).pokes l

/-- Write bytes from a key upwards, the side band untouched. -/
def Memory.fill (m : Memory) : Nat → List Byte → Memory
  | _, [] => m
  | k, b :: l => (m.poke k b).fill (k + 1) l

/-- The 64 bytes of granule g. -/
def Memory.granule (m : Memory) (g : Nat) : List Byte := m.bytes (64 * g) 64

/-- The CRC over the 64 bytes of a granule with the last n of them taken as zero (R99, R123). -/
def blankCrc (bs : List Byte) (n : Nat) : W16 := crc16 (bs.take (64 - n) ++ List.replicate n 0)

/-- Whether granule g's data agree with its check value (R99, R114). -/
def Memory.checked (m : Memory) (g : Nat) : Bool := (m.chkOf g).code == blankCrc (m.granule g) (m.chkOf g).blank

/-- The check value of granule g is made anew over what it holds, its last n bytes taken as zero (R123). -/
def Memory.recheckBut (m : Memory) (g n : Nat) : Memory := m.setChk g ⟨blankCrc (m.granule g) n, n⟩

/-- The check value of granule g is made anew over what it holds (R114). -/
def Memory.recheck (m : Memory) (g : Nat) : Memory := m.recheckBut g 0

/-- recheck for each of a list of granules. -/
def Memory.rechecks (m : Memory) : List Nat → Memory
  | [] => m
  | g :: gs => (m.recheck g).rechecks gs

/-- mend for each of a list of granules. -/
def Memory.mends (m : Memory) : List Nat → Memory
  | [] => m
  | g :: gs => (m.mend g).mends gs

/-- The granules that a list of keys touches, each once. -/
def granulesOf (ks : List Nat) : List Nat := (ks.map (· / 64)).eraseDups

/-- The keys of n bytes from k upwards. -/
def keysFrom (k n : Nat) : List Nat := (List.range n).map (k + ·)

/-- Whether granule g lies whole among the keys. -/
def coversWhole (ks : List Nat) (g : Nat) : Bool := 64 ≤ (ks.filter (· / 64 == g)).length

/-- The granules that a list of keys touches in part (R114). -/
def partialOf (ks : List Nat) : List Nat := (granulesOf ks).filter fun g => !coversWhole ks g

/-- The first integrity cause that reading these granules meets: an uncorrectable soft error, then a
check value that does not agree (R115, R114). -/
def Memory.readCause (m : Memory) (gs : List Nat) : Option Cause :=
  if gs.any m.isBad then some 0x41
  else if gs.all m.checked then none
  else some 0x42

/-- Write bytes at keys: each granule written in part is merged, and every granule touched gets a new
check value (R114). Verify first, with `readCause` of the partial granules. -/
def Memory.write (m : Memory) (ks : List Nat) (bs : List Byte) : Memory :=
  ((m.pokes (ks.zip bs)).mends (granulesOf ks)).rechecks (granulesOf ks)

/-- Write a whole granule with the check value its producer supplies (R114). -/
def Memory.writeGranule (m : Memory) (g : Nat) (bs : List Byte) (c : Check) : Memory :=
  ((m.fill (64 * g) (bs.take 64)).mend g).setChk g c

/-- Write whole granules of given bytes from granule g upwards, their check values computed. -/
def Memory.writeGranules (m : Memory) (g : Nat) (bs : List Byte) : Memory :=
  m.write (keysFrom (64 * g) bs.length) bs

/-- The 64-bit word at a key. -/
def Memory.word64 (m : Memory) (k : Nat) : W64 := le64 (m.bytes k 8) 0

/-- Scrub n granules from granule g: zero, empty, check value zero (R112). -/
def Memory.scrub (m : Memory) (g n : Nat) : Memory :=
  { m with
    cells := m.cells.filter fun p => !(decide (64 * g ≤ p.1) && decide (p.1 < 64 * (g + n)))
    full := m.full.filter fun p => !(decide (g ≤ p.1) && decide (p.1 < g + n))
    chk := m.chk.filter fun p => !(decide (g ≤ p.1) && decide (p.1 < g + n))
    bad := m.bad.filter fun p => !(decide (g ≤ p.1) && decide (p.1 < g + n)) }

/-- Copy n granules with data, full/empty bits and check values (R431: as in the save area). -/
def Memory.moveGranules (m : Memory) (src dst : Nat) : Nat → Memory
  | 0 => m
  | n + 1 =>
    let m' := ((m.moveGranules src dst n).writeGranule (dst + n) (m.granule (src + n)) (m.chkOf (src + n)))
    m'.setFull (dst + n) (m.isFull (src + n))

end Sys2Proof.Machine
end

