-- ==== Sys2Proof/Machine/Xlate.lean ====
section
/-! DEFINITION. Partition records (R391), region tables (R408) and the translation of virtual
addresses with its TLBs and causes (R410 to R414). -/

namespace Sys2Proof.Machine

/-- What stops an instruction or an engine access: the cause, the address and the translation aux of
its fault record (R416, R418). -/
structure Trap where
  cause : Cause
  addr : W64 := 0
  aux : W64 := 0
  deriving DecidableEq, Repr

/-! ### Partition records (R391) -/

/-- Physical address of the level-4 page table. -/
def Partition.root (p : Partition) : Nat := (le64 p.record 8).toNat
/-- Physical address of the object table. -/
def Partition.otab (p : Partition) : Nat := (le64 p.record 16).toNat
/-- Entries of the object table. -/
def Partition.oents (p : Partition) : Nat := (le32 p.record 24).toNat
/-- The controlling master. -/
def Partition.master (p : Partition) : Nat := (byteAt p.record 2).toNat
/-- Whether the partition is strict (R395). -/
def Partition.strict (p : Partition) : Bool := bit (byteAt p.record 1) 0
/-- The ingest grant mask. -/
def Partition.ingest (p : Partition) : W32 := le32 p.record 32
/-- The alarm pin grant mask. -/
def Partition.pins (p : Partition) : Byte := byteAt p.record 36
/-- The privileged range: base and length. -/
def Partition.priv (p : Partition) : Nat × Nat := ((le64 p.record 40).toNat, (le64 p.record 48).toNat)
/-- The fault area (R417). -/
def Partition.fq (p : Partition) : Nat := (le64 p.record 56).toNat
/-- The event area (R427). -/
def Partition.evr (p : Partition) : Nat := (le64 p.record 64).toNat
/-- The HBM ranges in use: base and length. -/
def Partition.ranges (p : Partition) : List (Nat × Nat) :=
  ((List.range 8).map fun i =>
    ((le64 p.record (80 + 16 * i)).toNat, (le64 p.record (88 + 16 * i)).toNat)).filter fun r => r.2 ≠ 0

/-- Whether n bytes from k lie in some ranges together: those that one range holds, and the rest in at most `fuel`
further ones. -/
def covered (rs : List (Nat × Nat)) : Nat → Nat → Nat → Bool
  | 0, _, n => n == 0
  | fuel + 1, k, n =>
    n == 0 ||
      match rs.find? fun r => decide (r.1 ≤ k) && decide (k < r.1 + r.2) with
      | some r => covered rs fuel (r.1 + r.2) (n - (r.1 + r.2 - k))
      | none => false

/-- Whether n bytes from k lie in a list of ranges together. -/
def inRanges (rs : List (Nat × Nat)) (k n : Nat) : Bool := covered rs rs.length k n

/-- Whether n bytes from k touch a range. -/
def overlaps (r : Nat × Nat) (k n : Nat) : Bool := decide (r.1 < k + n) && decide (k < r.1 + r.2)

/-! ### The channel of an address (R408, R442) -/

/-- The active entry that covers a class-0 physical address. -/
def regionOf (p : Package) (k : Nat) : Option RegionEntry :=
  (p.regions[stackOf k].active.toList).find? fun e => e.covers (stackOff k)

/-- The package channel number that serves a class-0 physical address (R442). -/
def channelOf (p : Package) (k : Nat) : Option Nat :=
  (regionOf p k).map fun e => 32 * (stackOf k).val + e.channel (stackOff k)

/-! ### Page tables (R410, R411) -/

/-- The lowest VA bit that level l indexes: also the log of the size a leaf of it maps. -/
def levelShift (l : Nat) : Nat := match l with | 4 => 39 | 3 => 30 | 2 => 21 | _ => 16
/-- The VA bits that level l indexes. -/
def levelIndex (l va : Nat) : Nat :=
  match l with
  | 4 => fld va 55 39
  | 3 => fld va 38 30
  | 2 => fld va 29 21
  | _ => fld va 20 16
/-- The size in bytes of a table of level l. -/
def tableSize (l : Nat) : Nat := match l with | 4 => 2 ^ 20 | 3 => 4096 | 2 => 4096 | _ => 256

/-- A table entry's address field: bits [51:8] in place. -/
def pteAddr (e : W64) : Nat := bits e 51 8 * 256

/-- A valid entry that is malformed at level l (R411). -/
def pteMalformed (l : Nat) (e : W64) : Bool :=
  bits e 63 52 ≠ 0 || bits e 7 4 ≠ 0 ||
  (if bit e 1 then l = 4 || pteAddr e % 2 ^ levelShift l ≠ 0
   else l = 1 || bits e 3 2 ≠ 0 || pteAddr e % tableSize (l - 1) ≠ 0)

/-- A leaf found by a walk. -/
structure Leaf where
  frame : Nat
  base : Nat
  size : Nat
  read : Bool
  write : Bool
  aux : W64
  deriving DecidableEq, Repr

/-- The aux field of a translation fault: the entry's physical address and its level (R418). -/
def auxOf (k l : Nat) : W64 := BitVec.ofNat 64 (k % 2 ^ 52 + l * 2 ^ 52)

/-- Whether no used region-table entry covers an HBM address (R408). -/
def Package.unmapped (p : Package) (k : Nat) : Bool := k / 2 ^ 48 = 0 && (regionOf p k).isNone

/-- The walk from level l down (R412, rules 1 to 3). An entry at an address that no region-table entry covers raises the
unmapped-address cause (R408, log 103). -/
def walk (pkg : Package) (m : Memory) (ranges : List (Nat × Nat)) (va : W64) : Nat → Nat → Except Trap Leaf
  | 0, _ => .error ⟨0x33, va, 0⟩
  | l + 1, table =>
    let k := table + 8 * levelIndex (l + 1) va.toNat
    let aux := auxOf k (l + 1)
    if !inRanges ranges table (tableSize (l + 1)) then .error ⟨0x3B, va, aux⟩
    else if pkg.unmapped k then .error ⟨0x3A, va, aux⟩
    else if m.readCause [k / 64] ≠ none then .error ⟨0x3B, va, aux⟩
    else
      let e := m.word64 k
      if !bit e 0 then .error ⟨0x31, va, aux⟩
      else if pteMalformed (l + 1) e then .error ⟨0x33, va, aux⟩
      else if bit e 1 then
        let size := 2 ^ levelShift (l + 1)
        .ok ⟨pteAddr e, alignDown va.toNat size, size, bit e 2, bit e 3, aux⟩
      else walk pkg m ranges va l (pteAddr e)

/-- Whether a leaf's frame may be reached by the partition (R412 rule 5, R441). DEDUCED (log 13): the
whole frame is judged. -/
def frameAllowed (p : Partition) (frame size : Nat) : Bool :=
  if frame / 2 ^ 48 = 0 then
    decide (frame / 2 ^ 39 = 0) && inRanges p.ranges frame size &&
      !overlaps p.priv frame size
  else decide (frame / 2 ^ 48 ≤ 3)

/-! ### TLBs (R413, R415) -/

/-- The rights and rules of R412 (4 to 6) on a leaf for one access; the physical address if it passes. -/
def leafCheck (pkg : Package) (p : Partition) (lf : Leaf) (va : W64) (r w : Bool) : Except Trap Nat :=
  let k := lf.frame + (va.toNat - lf.base)
  if (r && !lf.read) || (w && !lf.write) then .error ⟨0x32, va, lf.aux⟩
  else if !frameAllowed p lf.frame lf.size then .error ⟨0x39, va, lf.aux⟩
  else if pkg.unmapped k then .error ⟨0x3A, va, lf.aux⟩
  else .ok k

/-- A TLB entry that may serve an access of a core (first level) or of its die (second level). -/
def TlbEntry.serves (t : TlbEntry) (second : Bool) (place : Nat) (part : Fin 8) (va : Nat) (r w : Bool) :
    Bool :=
  t.second == second && t.place == place && t.part == part && !t.stale &&
    decide (t.base ≤ va) && decide (va < t.base + t.size) && (!r || t.read) && (!w || t.write)

/-- The entry that an access hits, first level first. -/
def tlbFind (ts : List TlbEntry) (core : Nat) (part : Fin 8) (va : Nat) (r w : Bool) : Option TlbEntry :=
  match ts.find? fun t => t.serves false core part va r w with
  | some t => some t
  | none => ts.find? fun t => t.serves true (core / 104) part va r w

/-- Drop the oldest entry of a pool. -/
def tlbDrop (pool : TlbEntry → Bool) : List TlbEntry → List TlbEntry
  | [] => []
  | t :: ts => if pool t then ts else t :: tlbDrop pool ts

/-- Second-level entries that a strict partition owns on each die (R391, R395). -/
def Partition.tlbOwned (p : Partition) : Nat := if p.strict then le16 p.record 210 else 0

/-- Whether two entries compete for room: of one place, and on the second level both of one strict partition or of
none (R395). -/
def TlbEntry.rivals (pkg : Package) (t u : TlbEntry) : Bool :=
  u.second == t.second && u.place == t.place &&
    (!t.second || u.part == t.part || !((pkg.parts[u.part]).strict || (pkg.parts[t.part]).strict))

/-- Entries that those competing with t may hold: 128 of a core; of a die 8192, less those that strict partitions own,
and those it owns for a strict one (R395, R413). -/
def TlbEntry.room (pkg : Package) (t : TlbEntry) : Nat :=
  if !t.second then 128
  else if (pkg.parts[t.part]).strict then (pkg.parts[t.part]).tlbOwned
  else 8192 - (pkg.parts.toList.map Partition.tlbOwned).sum

/-- Insert an entry, dropping the oldest one of those that it competes with where they have no room left (R395, R413). -/
def tlbInsert (pkg : Package) (ts : List TlbEntry) (t : TlbEntry) : List TlbEntry :=
  let here := (ts.filter (t.rivals pkg)).length
  if here < t.room pkg then ts ++ [t] else if here = 0 then ts else tlbDrop (t.rivals pkg) ts ++ [t]

/-- Fill both levels with a leaf that a walk found (R413). -/
def tlbFill (pkg : Package) (core : Nat) (part : Fin 8) (lf : Leaf) : List TlbEntry :=
  let e (second : Bool) (place : Nat) : TlbEntry :=
    ⟨second, place, part, lf.base, lf.size, lf.frame, lf.read, lf.write, false⟩
  tlbInsert pkg (tlbInsert pkg pkg.tlb (e true (core / 104))) (e false core)

/-- Fill the first level of a core from the second where it does not serve a read (R239). -/
def tlbFirst (pkg : Package) (core : Nat) (part : Fin 8) (va : Nat) : List TlbEntry :=
  if pkg.tlb.any fun t => t.serves false core part va true false then pkg.tlb
  else
    match pkg.tlb.find? fun t => t.serves true (core / 104) part va true false with
    | some t => tlbInsert pkg pkg.tlb { t with second := false, place := core }
    | none => pkg.tlb

/-- Translate one byte address of a core's access (R412, R413): the physical address and the TLBs
after it. An entry that would not let the access pass is walked again. -/
def translate (m : Memory) (pkg : Package) (core : Nat) (part : Fin 8) (va : W64) (r w : Bool) :
    Except Trap (Nat × List TlbEntry) :=
  let p := pkg.parts[part]
  let hit : Option Nat :=
    match tlbFind pkg.tlb core part va.toNat r w with
    | some t =>
      (leafCheck pkg p ⟨t.frame, t.base, t.size, t.read, t.write, 0⟩ va r w).toOption
    | none => none
  match hit with
  | some k => .ok (k, pkg.tlb)
  | none =>
    match walk pkg m p.ranges va 4 p.root with
    | .error t => .error t
    | .ok lf =>
      match leafCheck pkg p lf va r w with
      | .error t => .error t
      | .ok k => .ok (k, tlbFill pkg core part lf)

/-! ### Requests that wait for a region table (R409) -/

/-- Whether a physical address lies in a stack whose region table is being installed. -/
def Package.installing (p : Package) (k : Nat) : Bool := storeOf k == .hbm && (p.regions[stackOf k]).pending

/-- The table entries that a walk from level l down reads. -/
def walkKeys (m : Memory) (ranges : List (Nat × Nat)) (va : W64) : Nat → Nat → List Nat
  | 0, _ => []
  | l + 1, table =>
    let k := table + 8 * levelIndex (l + 1) va.toNat
    let e := m.word64 k
    if !inRanges ranges table (tableSize (l + 1)) then []
    else k :: (if !bit e 0 || pteMalformed (l + 1) e || bit e 1 then [] else walkKeys m ranges va l (pteAddr e))

/-- Whether a translation would walk through a stack whose region table is being installed. -/
def walkWaits (m : Memory) (pkg : Package) (core : Nat) (part : Fin 8) (va : W64) (r w : Bool) : Bool :=
  pkg.regions.toList.any (fun t => t.pending) && (tlbFind pkg.tlb core part va.toNat r w).isNone &&
    (walkKeys m (pkg.parts[part]).ranges va 4 (pkg.parts[part]).root).any pkg.installing

end Sys2Proof.Machine
end

