-- ==== Sys2Proof/Machine/Ops.lean ====
section
/-! DEFINITION. The shared operations: the focus and its launch, registers of the access processor,
taking a fault (R14, R418), the issue of an A-set instruction (R189, R197, R213, R214), its loops
(R231 to R233), and the check and resolution of addresses (R104, R105). -/

namespace Sys2Proof.Machine

/-! ### The focus, its core and its launch -/

/-- Change the residency in focus. -/
def State.updR (s : State) (f : Residency → Residency) : State := { s with r := f s.r }

/-- Every residency, the focus first. -/
def State.all (s : State) : List Residency := s.r :: s.others

/-- The slot-table entry of the residency in focus. -/
def State.entry (s : State) : Nat := s.r.bind.e

/-- The core of a slot-table entry, 0 to 207, and its die (R400). -/
def coreOf (e : Nat) : Nat := e / 2
/-- The die of a slot-table entry. -/
def dieOf (e : Nat) : Nat := e / 208
/-- Residency bit of a slot-table entry: 0 for H, 1 for L. -/
def resOf (e : Nat) : Nat := e % 2

/-- The launch of the residency in focus. -/
def State.launch (s : State) : Launch := (s.launches.find? fun l => l.id == s.r.bind.launch).getD .none

/-- Change the launch with a given id. -/
def State.updLaunch (s : State) (id : W32) (f : Launch → Launch) : State :=
  { s with launches := s.launches.map fun l => if l.id == id then f l else l }

/-- Change the launch of the residency in focus. -/
def State.updMine (s : State) (f : Launch → Launch) : State := s.updLaunch s.r.bind.launch f

/-- The partition of the residency in focus. -/
def State.part (s : State) : Partition := s.pkg.parts[s.r.bind.part]

/-- Change a partition. -/
def State.updPart (s : State) (p : Fin 8) (f : Partition → Partition) : State :=
  { s with pkg := { s.pkg with parts := s.pkg.parts.set p (f s.pkg.parts[p]) } }

/-- Change the residency of a slot-table entry. -/
def State.updAt (s : State) (e : Nat) (f : Residency → Residency) : State :=
  if s.r.bind.e = e then { s with r := f s.r }
  else { s with others := s.others.map fun r => if r.bind.e = e then f r else r }

/-- Put the residency of a slot-table entry into focus, the old focus in its place. -/
def State.focusOn (s : State) (e : Nat) : State :=
  if s.r.bind.e = e then s
  else
    match s.others.find? fun r => r.bind.e == e with
    | none => s
    | some r => { s with r := r, others := s.others.map fun x => if x.bind.e = e then s.r else x }

/-- Whether the launch record or a restore has installed a residency's state, which then stands in it (R35, R429). -/
def ResStage.installed (x : ResStage) : Bool := x == .running || x == .done

/-- The bound residency of logical core c of the launch in focus whose state the launch record or a
restore has installed, at the start of the core cycle too (R26, R35, R429). -/
def State.peer (s : State) (c : Nat) : Option Residency :=
  s.all.find? fun r => r.bind.launch == s.r.bind.launch && r.bind.lcore == c && r.stage.installed && r.start.stage.installed

/-- The core's other residency, while it is bound. -/
def State.sibling (s : State) : Option Residency :=
  s.others.find? fun r => coreOf r.bind.e == coreOf s.entry && r.bind.e != s.entry && r.stage != .free

/-- Whether a residency of partition p stands on a core beside one of another partition. -/
def State.shares (s : State) (p : Fin 8) : Bool :=
  s.all.any fun r => r.bind.part == p && r.stage != .free &&
    s.all.any fun o => o.bind.part != p && o.stage != .free && coreOf o.bind.e == coreOf r.bind.e

/-- Whether a partition stands still: it is frozen (R434); or it has been, and the slots of its clock do not yet agree with
those of the core that it shares with another partition, where at most one context issues in a core cycle (R40, log 98). -/
def State.frozen (s : State) (p : Fin 8) : Bool :=
  bit s.pkg.fw.freeze p.val || ((s.pkg.parts[p]).lag % 4 ≠ 0 && s.shares p)

/-- The clock of a partition's residencies: core cycles without those in which the partition was frozen (R434). -/
def State.clockOf (s : State) (p : Fin 8) : Nat := s.cycle - (s.pkg.parts[p]).lag

/-- The clock of the residency in focus: slots, waits and limits of a residency follow it, so that a run that is
frozen and released keeps its issue order and slot timing (R434, log 98). -/
def State.now (s : State) : Nat := s.clockOf s.r.bind.part

/-- Draw a number for a free value. -/
def State.draw (s : State) : Nat × State := (s.free, { s with free := s.free + 1 })

/-- The device writes bytes at a physical address, merging granules it writes in part (R114). -/
def State.devWrite (s : State) (k : Nat) (bs : List Byte) : State :=
  { s with mem := s.mem.write (keysFrom k bs.length) bs }

/-! ### Registers of the access processor (R212) -/

/-- One AP context of the residency in focus. -/
def State.ctx (s : State) (c : ApId) : ApCtx := match c with | .f => s.r.f | .d => s.r.d

/-- Change one AP context of the residency in focus. -/
def State.updCtx (s : State) (c : ApId) (g : ApCtx → ApCtx) : State :=
  match c with
  | .f => { s with r := { s.r with f := g s.r.f } }
  | .d => { s with r := { s.r with d := g s.r.d } }

/-- The value of an AP register: a0 reads zero (R212). -/
def ApCtx.get (c : ApCtx) (n : AReg) : W64 := if n = 0 then 0 else c.a[n]

/-- Write an AP register: a write of a0 is discarded (R212). -/
def ApCtx.put (c : ApCtx) (n : AReg) (v : W64) : ApCtx :=
  if n = 0 then c else { c with a := c.a.set n v }

/-- The value of a predicate: q0 reads true (R212). -/
def ApCtx.pred (c : ApCtx) (n : Guard) : Bool := if n = 0 then true else c.q[n]

/-- Write a predicate: a write of q0 is discarded (R212). -/
def ApCtx.putPred (c : ApCtx) (n : Guard) (v : Bool) : ApCtx :=
  if n = 0 then c else { c with q := c.q.set n v }

/-- The register of the issuing context. -/
def State.areg (s : State) (n : AReg) : W64 := (s.ctx s.ap).get n
/-- Write a register of the issuing context. -/
def State.setA (s : State) (n : AReg) (v : W64) : State := s.updCtx s.ap fun c => c.put n v
/-- The predicate of the issuing context. -/
def State.apred (s : State) (n : Guard) : Bool := (s.ctx s.ap).pred n
/-- Write a predicate of the issuing context. -/
def State.setQ (s : State) (n : Guard) (v : Bool) : State := s.updCtx s.ap fun c => c.putPred n v
/-- The PC of the issuing context, as a number. -/
def State.apc (s : State) : Nat := (s.ctx s.ap).pc.toNat

/-- Where a context's section begins in the AP instruction memory, and its size (R173, R404). -/
def Residency.section (r : Residency) (c : ApId) : Nat × Nat :=
  match c with
  | .f => (0, r.bind.fetchSize)
  | .d => (r.bind.drainBase, r.bind.drainSize)

/-- Whether the PC of an AP context names a word of its section (R173). -/
def State.inSection (s : State) (c : ApId) : Bool := decide ((s.ctx c).pc.toNat + 4 ≤ (s.r.section c).2)

/-- The instruction word at the PC of an AP context; past its section there is none, and what a record of 0x04 holds for it
is free (R418, log 125). -/
def State.apWord (s : State) (c : ApId) : Nat :=
  if s.inSection c then leNat (s.mem.bytes (apimKey s.entry ((s.r.section c).1 + (s.ctx c).pc.toNat)) 4)
  else (Config.pastWord s.free).toNat

/-! ### Faults (R14, R418, R419) -/

/-- What stops an instruction before it has any effect, or with the partial effect its rule names. -/
inductive Stop where
  /-- it does not issue in this slot (R41, R42) -/
  | block
  /-- it does not issue, and the device notes that it waits (R275) -/
  | blockAt (s : State)
  /-- it does not issue: a claim of g granules waits, and under DROP_OLDEST it has freed what it may (R131) -/
  | blockClaim (n : SReg) (g : Nat)
  /-- the end of the core cycle decides whether it issues (R59, R62) -/
  | defer (s : State)
  | trap (t : Trap)
  | trapAt (t : Trap) (s : State)
  deriving DecidableEq, Repr

/-- A trap with a cause alone. -/
def raise {α : Type} (c : Cause) : Except Stop α := .error (.trap ⟨c, 0, 0⟩)

/-- Raise a cause unless a condition holds. -/
def need (b : Bool) (c : Cause) : Except Stop Unit := if b then .ok () else raise c

/-- Block unless a condition holds. -/
def await (b : Bool) : Except Stop Unit := if b then .ok () else .error .block

/-- Whether record a is posted before record b (R419): by core cycle, slot-table entry, unit. -/
def FaultRec.before (a b : FaultRec) : Bool :=
  decide (a.cycle < b.cycle) || (a.cycle == b.cycle &&
    (decide (a.entry < b.entry) || (a.entry == b.entry && decide (a.unit ≤ b.unit))))

/-- File a record among those that wait, in the order of R419. -/
def fileRecord (a : FaultRec) : List FaultRec → List FaultRec
  | [] => [a]
  | b :: bs => if b.seq.isSome || b.before a then b :: fileRecord a bs else a :: b :: bs

/-- Hand a fault record of the residency in focus to the device for posting (R419). -/
def State.record (s : State) (kind unit index : Nat) (pc : W32) (detail : W64) (t : Trap) (item : Item) :
    State :=
  let rec_ : FaultRec := {
    cause := t.cause, kind := kind, unit := unit, entry := s.entry, launch := s.r.bind.launch
    lcore := s.r.bind.lcore, index := index, pc := pc, addr := t.addr, detail := detail
    tick := s.tick, cycle := s.cycle, aux := t.aux, item := item, seq := none }
  s.updPart s.r.bind.part fun p => { p with faults := fileRecord rec_ p.faults }

/-- Count an uncorrectable soft error of the core in focus (R428). -/
def State.softError (s : State) (c : Cause) : State :=
  if c ≠ 0x41 ∧ c ≠ 0x0A then s
  else
    let e : Fin 416 := Fin.ofNat 416 (coreOf s.entry * 2)
    let sl := s.pkg.slots[e]
    { s with pkg := { s.pkg with
        slots := s.pkg.slots.set e { sl with uncorr := if sl.uncorr = BitVec.allOnes 32 then sl.uncorr
                                                       else sl.uncorr + 1 } } }

/-- TAKING AN EXCEPTION in an AP context: the context is parked with the cause, its PC at the
instruction, and a record of kind 0 goes to the fault queue (R14, R418); a soft error is counted (R428). -/
def State.park (s : State) (c : ApId) (t : Trap) : State :=
  ((s.updCtx c fun x => { x with status := .parked t.cause }).record 0
    (match c with | .f => 0 | .d => 1) 0xFF (s.ctx c).pc (BitVec.ofNat 64 (s.apWord c)) t (.ap c)).softError t.cause

/-! ### Loops and the advance of the PC (R231 to R233) -/

/-- A loop stack, innermost first, when execution passes to `t` in sequence: every level that ends at
`t` advances in turn (R232). The new PC and stack. -/
def loopAdvance (t : Nat) : List LoopEntry → Nat × List LoopEntry
  | [] => (t, [])
  | e :: es =>
    if e.stop ≠ t then (t, e :: es)
    else if e.index + 1 < e.count then (e.start, { e with index := e.index + 1 } :: es)
    else loopAdvance t es

/-- Pop every innermost entry whose body does not hold the target (R233). -/
def loopPop (t : Nat) : List LoopEntry → List LoopEntry
  | [] => []
  | e :: es => if e.start ≤ t ∧ t < e.stop then e :: es else loopPop t es

/-- How an instruction leaves the PC. -/
inductive Flow where
  /-- to the next instruction, with the loop stack (R232) -/
  | next
  /-- to an offset, as if the words before it had been executed in sequence (R231) -/
  | skipTo (t : Nat)
  /-- a taken transfer that pops loops (R233) -/
  | jump (t : Nat)
  /-- a taken transfer that leaves the loop stack as it stands (R233) -/
  | call (t : Nat)
  /-- the instruction is not complete: the PC stays (R237) -/
  | wait
  /-- the PC is already written -/
  | set
  deriving DecidableEq, Repr

/-- Move a context's PC and loop stack. -/
def ApCtx.flow (c : ApCtx) : Flow → ApCtx
  | .next =>
    let p := loopAdvance (c.pc.toNat + 4) c.loops
    { c with pc := BitVec.ofNat 32 p.1, loops := p.2 }
  | .skipTo t =>
    let p := loopAdvance t c.loops
    { c with pc := BitVec.ofNat 32 p.1, loops := p.2 }
  | .jump t => { c with pc := BitVec.ofNat 32 t, loops := loopPop t c.loops }
  | .call t => { c with pc := BitVec.ofNat 32 t }
  | .wait => c
  | .set => c

/-! ### Issue of an A-set instruction -/

/-- An owned slot of a context passes: results come one slot nearer (R214). -/
def ApCtx.slot (c : ApCtx) : ApCtx :=
  { c with busy := (c.busy.map fun p => (p.1, p.2 - 1)).filter fun p => p.2 ≠ 0 }

/-- Registers that an instruction waits for: sources and destination (R213). -/
def apRegs : Instr → List AReg
  | .add f | .sub f | .mul f | .mulh f | .mulhu f | .divu f | .remu f | .and f | .or f | .xor f
  | .shl f | .shr f | .sra f | .min f | .max f | .minu f | .maxu f => [f.d, f.a, f.b]
  | .clz f | .popc f => [f.d, f.a]
  | .addi f | .andi f | .ori f | .xori f | .muli f => [f.d, f.a]
  | .shli f | .shri f | .srai f => [f.d, f.a]
  | .lui _ d _ => [d]
  | .madd f c => [f.d, f.a, f.b, c]
  | .bfx f | .bfxS f | .bfi f => [f.d, f.a]
  | .sel f _ => [f.d, f.a, f.b]
  | .cmp _ _ _ _ a b => [a, b]
  | .cmpi _ _ _ _ a _ => [a]
  | .call _ _ => [31]
  | .jr f => [f.d, f.a]
  | .loop _ c _ => [c]
  | .ld f | .st f => [f.d, f.a]
  | .ldx f | .stx f => [f.d, f.a, f.b]
  | .pref _ a _ => [a]
  | .amoAdd f | .amoAnd f | .amoOr f | .amoXor f | .amoMin f | .amoMax f | .amoMinu f | .amoMaxu f
  | .amoSwap f | .cas f => [f.d, f.a, f.b]
  | .sOpen f | .sOpenH f | .sPat f _ | .sAddr f _ | .sData f _ => [f.a, f.b]
  | .sClaim f | .sCommit f | .sCommitEl f | .sCommitEnd f | .sCommitElEnd f | .sAwait f | .sRetire f =>
    [f.a]
  | .sStat _ d _ => [d]
  | .xqPush _ a => [a]
  | .yqPop _ d => [d]
  | .cpAsync f _ _ => [f.a, f.b]
  | .cpChain f _ => [f.d, f.a]
  | .gxRows f _ _ | .sxRows f _ _ => [f.a, f.b]
  | .hGet _ d _ _ => [d]
  | .fmtPush _ a => [a]
  | .syncAcq _ d a _ _ => [d, a]
  | .syncRel _ a _ _ => [a]
  | .barExpect _ a _ => [a]
  | .taskSpawn _ a => [a]
  | .taskNext _ => [1, 2, 3, 4, 5, 6, 7]
  | .futRead f _ => [f.d, f.a]
  | .futFill f => [f.d, f.a]
  | .skipTest _ _ a _ => [a]
  | .alarmSet f _ | .alarmClr f _ => [f.d, f.a]
  | .csrR _ d _ => [d]
  | .csrW _ a _ => [a]
  | .traceMark _ a _ => [a]
  | _ => []

/-- The slots after which an instruction's result is usable, where it is more than one (R214). The results that R214 does not
list (S.STAT, H.GET, CP.CHAIN, SYNC.ACQ, FUT.READ, SKIP.TEST, TASK.NEXT) are usable in the next owned slot (log 129). -/
def apLatency : Instr → Option (AReg × Nat)
  | .mul f | .mulh f | .mulhu f => some (f.d, 2)
  | .muli f => some (f.d, 2)
  | .madd f _ => some (f.d, 2)
  | .divu f | .remu f => some (f.d, 16)
  | _ => none

/-- The instructions of R64: a task's first of them ends its right to FUT.READ. -/
def sideEffecting : Instr → Bool
  | .st _ | .stx _ | .amoAdd _ | .amoAnd _ | .amoOr _ | .amoXor _ | .amoMin _ | .amoMax _ | .amoMinu _
  | .amoMaxu _ | .amoSwap _ | .cas _ | .xqPush _ _ => true
  | .sOpen _ | .sOpenH _ | .sPat _ _ | .sGo _ | .sAddr _ _ | .sData _ _ | .sClaim _ | .sCommit _
  | .sCommitEl _ | .sCommitEnd _ | .sCommitElEnd _ | .sAwait _ | .sRetire _ | .sMark _ | .sMarkRel _
  | .sRewind _ | .sFork _ _ _ _ | .sClose _ | .sCloseW _ => true
  | .cpAsync _ _ _ | .cpChain _ _ | .gxRows _ _ _ | .sxRows _ _ _ => true
  | .syncAcq _ _ _ _ _ | .syncRel _ _ _ _ | .syncFence _ _ _ | .syncLaunchEarly _ => true
  | .barArrive _ _ | .barWait _ _ | .barExpect _ _ _ | .taskSpawn _ _ | .futFill _ => true
  | .csrW _ _ _ | .alarmSet _ _ | .alarmClr _ _ | .traceMark _ _ _ => true
  | _ => false

/-- The residency has moved: its watchdog is re-armed (R425). -/
def State.move (s : State) : State :=
  s.updR fun r => { r with watch := { r.watch with moved := true } }

/-- The residency has moved, where a byte has (R425). -/
def State.moveIf (s : State) (b : Bool) : State := if b then s.move else s

/-- A context that has issued an instruction: it is counted, and its result's latency begins (R214, R218). -/
def ApCtx.counted (c : ApCtx) (i : Instr) (guarded : Bool) : ApCtx :=
  { c with
    ainst := c.ainst + 1
    busy := match apLatency i with
      | some (d, k) => if guarded || d = 0 then c.busy else c.busy ++ [(d, k)]
      | none => c.busy }

/-- Note a task's first side effect (R64, R288). -/
def TaskState.noting (t : TaskState) (b : Bool) : TaskState :=
  { t with sideEffect := t.sideEffect || (b && t.inTask) }

/-- An instruction has issued: it is counted, its result's latency begins, and a task's first side
effect is noted (R218, R214, R64, R288). -/
def State.issued (s : State) (i : Instr) (guarded : Bool) : State :=
  ((s.updCtx s.ap fun c => c.counted i guarded).updR fun r =>
    { r with task := r.task.noting (!guarded && sideEffecting i && s.ap == .f) }).move

/-- An owned slot in which the context is blocked (R41, R213, R218). -/
def State.blocked (s : State) : State := s.updCtx s.ap fun c => { c with ablk := c.ablk + 1 }

/-- The end of an A-set instruction that completes in its slot. -/
def State.finish (s : State) (i : Instr) (fl : Flow) : State :=
  (s.issued i false).updCtx s.ap fun c => c.flow fl

/-- The issue of an A-set instruction by the context whose slot it is. The causes of its own fields
come first, guarded off or not (R197); a guarded-off instruction does nothing else (R189); one that
waits for a register blocks (R213); then its own body decides. -/
def apIssue (i : Instr) (g : Guard) (s0 : State) (body : State → Except Stop (State × Flow)) :
    Host.Outcome State Fault Refusal :=
  let s := s0.updCtx s0.ap ApCtx.slot
  match staticCause i with
  | some c => .next (s.park s.ap ⟨c, 0, 0⟩)
  | none =>
    if !s.apred g then .next ((s.issued i true).updCtx s.ap fun c => c.flow .next)
    else if (apRegs i).any fun n => n ≠ 0 && (s.ctx s.ap).busy.any fun p => p.1 == n then .next s.blocked
    else
      match body s with
      | .ok (s', fl) => .next (s'.finish i fl)
      | .error .block => .next s.blocked
      | .error (.blockAt s') => .next s'.blocked
      | .error (.blockClaim _ _) => .next s.blocked
      | .error (.defer s') => .next s'
      | .error (.trap t) => .next (s.park s.ap t)
      | .error (.trapAt t s') => .next (s'.park s'.ap t)

/-- The issue of an instruction that only computes on the context's own registers. -/
def apPure (i : Instr) (g : Guard) (s : State) (f : State → State) : Host.Outcome State Fault Refusal :=
  apIssue i g s fun s => .ok (f s, .next)

/-! ### Addresses (R104, R105) -/

/-- What an address names after steps 1 to 3 of R105. -/
inductive Place where
  | virt (va : W64)
  | spad (e off : Nat)
  deriving DecidableEq, Repr

/-- Steps 1 to 3 of R105 for an access of n bytes. A remote core that has not applied its launch
record, or that is saved, makes the access wait (R35, R429). An access that ends past the virtual addresses raises 0x34
(log 143). -/
def formCheck (s : State) (x : W64) (n : Nat) : Except Stop Place :=
  let t (c : Cause) : Except Stop Place := .error (.trap ⟨c, x, 0⟩)
  match bits x 63 56 with
  | 0x00 => if x.toNat + n ≤ 2 ^ 56 then .ok (.virt x) else t 0x34
  | 0xFE =>
    if bits x 55 22 ≠ 0 then t 0x34
    else if bits x 21 0 + n ≤ s.r.bind.banks * 131072 then .ok (.spad s.entry (bits x 21 0))
    else t 0x35
  | 0xFD =>
    if bits x 55 48 ≠ 0 || bits x 31 22 ≠ 0 then t 0x34
    else if s.r.bind.n ≤ bits x 47 32 then t 0x36
    else if bits x 47 32 = s.r.bind.lcore then
      (if bits x 21 0 + n ≤ s.r.bind.banks * 131072 then .ok (.spad s.entry (bits x 21 0)) else t 0x35)
    else
      match s.peer (bits x 47 32) with
      | none => .error .block
      | some r =>
        if bits x 21 0 + n ≤ r.bind.banks * 131072 then .ok (.spad r.bind.e (bits x 21 0)) else t 0x35
  | _ => t 0x34

/-- Whether a request to this key waits for a region table to be installed (R409). -/
def regionWaits (s : State) (k : Nat) : Bool := s.pkg.installing k

/-- Whether a request to n bytes from a key on, in at most two stacks, waits for one (R409). -/
def rangeWaits (s : State) (k n : Nat) : Bool := regionWaits s k || regionWaits s (k + (n - 1))

/-- Whether a command has still to run, or stands at a fault: only then it pins something (R414, log 56). -/
def Cmd.runs (c : Cmd) : Bool := match c.status with | .waiting | .faulted _ => true | _ => false

/-- Virtual addresses whose translation a residency pins: the first and the last byte of accesses under way, and the
bases of opened streams and of commands, their index list's too, whose page has had no access yet (R414). -/
def Residency.pins (r : Residency) : List Nat :=
  let access (q : Option MemReq) : List Nat := match q with
    | some q => if bits q.addr 63 56 = 0 then [q.addr.toNat, q.addr.toNat + (q.keys.length - 1)] else []
    | none => []
  access r.f.pending ++ access r.d.pending ++ (r.st.toList.filterMap fun x => x.pin.map fun a => a.toNat) ++
    ((r.cmds.filter Cmd.runs).flatMap fun c => c.pins.map fun p => p.base.toNat)

/-- The TLBs `new` with every pinned entry of `old`, of either level, that a fill dropped (R414). -/
def keepPinned (s : State) (old new : List TlbEntry) : List TlbEntry :=
  let held (t : TlbEntry) : Bool := s.all.any fun r =>
    (if t.second then dieOf r.bind.e else coreOf r.bind.e) == t.place && r.bind.part == t.part && r.pins.any fun a => decide (t.base ≤ a) && decide (a < t.base + t.size)
  new ++ old.filter fun t => held t && !new.contains t

/-- Translate n bytes (at most one page, so at most two pages are touched); every part is translated
before any is performed (R237). The keys, and the state with its TLBs. -/
def translateSpan (s : State) (va : W64) (n : Nat) (r w : Bool) : Except Stop (List Nat × State) :=
  let core := coreOf s.entry
  let waits (va : W64) (pkg : Package) : Bool := walkWaits s.mem pkg core s.r.bind.part va r w
  if waits va s.pkg then .error .block
  else match translate s.mem s.pkg core s.r.bind.part va r w with
  | .error t => .error (.trap t)
  | .ok (k, tlb) =>
    let s1 := { s with pkg := { s.pkg with tlb := keepPinned s s.pkg.tlb tlb } }
    let room := 65536 - va.toNat % 65536
    if n ≤ room then
      (if regionWaits s k then .error .block else .ok (keysFrom k n, s1))
    else
      if waits (va + BitVec.ofNat 64 room) s1.pkg then .error .block
      else match translate s1.mem s1.pkg core s1.r.bind.part (va + BitVec.ofNat 64 room) r w with
      | .error t => .error (.trap t)
      | .ok (k2, tlb2) =>
        if regionWaits s k || regionWaits s k2 then .error .block
        else .ok (keysFrom k room ++ keysFrom k2 (n - room), { s1 with pkg := { s1.pkg with tlb := keepPinned s1 s1.pkg.tlb tlb2 } })

/-- R105 whole: the keys of an access of n bytes, in address order. -/
def resolve (s : State) (x : W64) (n : Nat) (r w : Bool) : Except Stop (List Nat × State) :=
  match formCheck s x n with
  | .error e => .error e
  | .ok (.spad e off) => .ok (keysFrom (spadKey e off) n, s)
  | .ok (.virt va) => translateSpan s va n r w

/-- A local scratchpad offset: the address form 0xFE inside the share (R269, R292). -/
def localOffset (s : State) (x : W64) (n : Nat) : Option Nat :=
  if bits x 63 56 = 0xFE ∧ bits x 55 22 = 0 ∧ bits x 21 0 + n ≤ s.r.bind.banks * 131072
  then some (bits x 21 0) else none

/-- A 64-bit address from an exact sum; cause 0x34 where none holds it, with address zero, since faddr cannot hold the
sum (log 82). -/
def exactAddr (a : Int) : Except Stop W64 :=
  if 0 ≤ a ∧ a < 2 ^ 64 then .ok (BitVec.ofInt 64 a) else raise 0x34

end Sys2Proof.Machine
end

