-- ==== Sys2Proof/Machine/StreamOps.lean ====
section
/-! DEFINITION. Stream registers as their rules read them (R116 to R128): kinds, ring positions, room,
availability, commits, retires and the full/empty bits they move. -/

namespace Sys2Proof.Machine

/-! ### Fields of the control and ring words (R116) -/

def StreamReg.kind (r : StreamReg) : Nat := bits r.control 3 0
def StreamReg.sink (r : StreamReg) : Nat := bits r.control 7 4
def StreamReg.code (r : StreamReg) : Nat := bits r.control 11 8
def StreamReg.policy (r : StreamReg) : Nat := bits r.control 13 12
def StreamReg.check (r : StreamReg) : Nat := bits r.control 15 14
def StreamReg.tuple3 (r : StreamReg) : Bool := bit r.control 16
def StreamReg.multicast (r : StreamReg) : Bool := bit r.control 17
def StreamReg.group (r : StreamReg) : Nat := bits r.control 25 18
def StreamReg.peerCore (r : StreamReg) : Nat := bits r.control 41 26
def StreamReg.peerSt (r : StreamReg) : SReg := Fin.ofNat 32 (bits r.control 46 42)
def StreamReg.fork (r : StreamReg) : Fin 4 := Fin.ofNat 4 (bits r.control 48 47)
def StreamReg.ringBase (r : StreamReg) : Nat := bits r.ring 15 0
/-- The ring's size in granules: the field holds it minus 1 (R116). -/
def StreamReg.size (r : StreamReg) : Nat := bits r.ring 31 16 + 1
def StreamReg.isOpen (r : StreamReg) : Bool := r.kind ≠ 0

/-- Bytes of an element by its size code (R117). -/
def elemBytes (code : Nat) : Nat :=
  match code with
  | 0 => 1 | 1 => 2 | 2 => 4 | 3 => 8 | 4 => 16 | 5 => 64 | 6 => 256 | 7 => 2 | 8 => 2 | _ => 1

def StreamReg.esize (r : StreamReg) : Nat := elemBytes r.code

/-- Source word i of a register (R116, R255). -/
def StreamReg.word (r : StreamReg) (i : Fin 6) : W64 := r.src[i]

/-- Source state bits [hi:lo], counted from bit 640 of the register (R118, R120). -/
def StreamReg.srcBits (r : StreamReg) (hi lo : Nat) : Nat :=
  bits (r.src[Fin.ofNat 6 (lo / 64)]) (hi % 64) (lo % 64)

/-- The handle register that a stream names, and whether it names one (R118, R139). -/
def StreamReg.handleNo (r : StreamReg) : Fin 16 := Fin.ofNat 16 (r.srcBits 3 0)
def StreamReg.namesHandle (r : StreamReg) : Bool := r.kind = 2 || r.sink = 3

/-- Whether handle register h is pinned by an open stream (R139). -/
def Residency.pinned (r : Residency) (h : Fin 16) : Bool :=
  r.st.toList.any fun x => x.isOpen && x.namesHandle && x.handleNo == h

/-! ### Ring positions (R122) -/

/-- The scratchpad granule that holds ring count c. -/
def StreamReg.granuleAt (r : StreamReg) (c : BitVec 24) : Nat := r.ringBase + c.toNat % r.size

/-- The key of the byte o bytes past the start of ring count c, in the share of entry e. -/
def StreamReg.byteKey (r : StreamReg) (e : Nat) (c : BitVec 24) (o : Nat) : Nat :=
  spadKey e (64 * r.granuleAt (c + BitVec.ofNat 24 (o / 64)) + o % 64)

/-- The keys of n bytes from byte o past ring count c. -/
def StreamReg.byteKeys (r : StreamReg) (e : Nat) (c : BitVec 24) (o n : Nat) : List Nat :=
  (List.range n).map fun i => r.byteKey e c (o + i)

/-- The address by which a program of entry e names a key of its own share (R104). -/
def ownAddress (e k : Nat) : W64 := BitVec.ofNat 64 (0xFE * 2 ^ 56 + (k - spadKey e 0))

/-- The memory granule number of ring count c in the share of entry e. -/
def StreamReg.granuleNo (r : StreamReg) (e : Nat) (c : BitVec 24) : Nat := spadKey e 0 / 64 + r.granuleAt c

/-- The positions that hold granules back: every enabled head's and every valid mark's (R122). -/
def StreamReg.anchors (r : StreamReg) : List (BitVec 24) :=
  r.heads.toList.flatMap fun h =>
    (if h.enabled then [h.count] else []) ++ (if h.markValid then [h.markCount] else [])

/-- Granules claimed and not yet behind every head and mark (R122). -/
def StreamReg.used (r : StreamReg) : Nat := (r.anchors.map fun p => (r.claimed - p).toNat).foldl max 0

/-- The ring count of the oldest granule (R122). -/
def StreamReg.oldest (r : StreamReg) : BitVec 24 := r.claimed - BitVec.ofNat 24 r.used

/-- Granules a producer may claim (R122). -/
def StreamReg.room (r : StreamReg) : Nat := r.size - r.used

/-- Bytes committed past ring count c (R123, R125): the last committed granule counts tpos elements
when it is partial. -/
def StreamReg.committedPast (r : StreamReg) (c : BitVec 24) : Nat :=
  let d := (r.committed - c).toNat
  if d = 0 || r.size < d then 0
  else if r.code = 6 then d / 4 * 256
  else if r.tpos = 0 then 64 * d else 64 * (d - 1) + r.tpos.toNat * r.esize

/-- Bytes available at a head (R125), the commits being those of `c` (the register as its reader sees
it, R26). -/
def availBytes (c : StreamReg) (h : Head) : Nat :=
  c.committedPast h.count - h.pos.toNat * (if c.code = 6 then 64 else c.esize)

/-- A head n bytes further: a granule is behind it as soon as its last element is taken (R125). -/
def Head.advance (h : Head) (es n : Nat) : Head :=
  let o := h.pos.toNat * es + n
  { h with count := h.count + BitVec.ofNat 24 (o / 64), pos := BitVec.ofNat 6 (o % 64 / es) }

/-- The slot pool of a command: 0 the copy slots, 1 the index-engine slots (R275). -/
def CmdKind.pool (k : CmdKind) : Fin 2 := if k == .copy then 0 else 1

/-- Slots of a pool that a residency's commands hold (R275). -/
def Residency.slotsHeld (r : Residency) (p : Fin 2) : Nat := (r.cmds.filter fun c => c.kind.pool == p).length

/-- A residency's streams, queues, slots and counts as the next core cycle finds them (R26). -/
def Residency.latch (r : Residency) : Residency :=
  { r with start := { r.start with
      st := r.st, oldest := r.st.map StreamReg.oldest, rewound := []
      xq := r.xq.length, yq := r.yq.length, fq := r.fq.length, follow := r.follow, bovr := r.bovr
      nextId := r.nextId, nextQ := r.mx.nextQ, chains := r.chains.map fun c => c.busy, drainq := r.dm.drainq.length
      arrived := [], held := Vector.ofFn r.slotsHeld, stage := r.stage, age := r.mx.age } }

/-- The open ingest streams of a residency (R118). -/
def Residency.ingests (r : Residency) : List (Nat × Nat × Nat) :=
  (List.range 32).filterMap fun n =>
    let t := r.st[Fin.ofNat 32 n]
    if t.kind = 6 then some (r.bind.e, n, bits (t.src[0]) 4 0) else none

/-- What the residencies `all` of the package show it at the start of the next core cycle (R26). -/
def Residency.latchAmong (all : List Residency) (r : Residency) : Residency :=
  { r with start := { r.start with
      beside := (all.find? fun o => coreOf o.bind.e == coreOf r.bind.e && o.bind.e != r.bind.e && o.stage != .free).map fun o =>
        ⟨o.ep.vregs, Vector.ofFn o.slotsHeld, false, o.mx.age⟩
      ingests := all.flatMap Residency.ingests } }

/-! ### Registers in the state -/

/-- A stream register of the residency in focus. -/
def State.stream (s : State) (n : SReg) : StreamReg := s.r.st[n]

/-- Change a stream register. -/
def State.updSt (s : State) (n : SReg) (f : StreamReg → StreamReg) : State :=
  s.updR fun r => { r with st := r.st.set n (f r.st[n]) }

/-- A stream register as it stood at the start of the core cycle (R26). -/
def State.streamStart (s : State) (n : SReg) : StreamReg := s.r.start.st[n]

/-- The stream and head that an operation on a head names: the fork of the peer for an alias (R254). -/
def headIn (st : Vector StreamReg 32) (n : SReg) : SReg × Fin 4 :=
  if st[n].kind = 10 then (st[n].peerSt, st[n].fork) else (n, 0)

/-- That of a register as the AP finds it. -/
def Residency.headOf (r : Residency) (n : SReg) : SReg × Fin 4 := headIn r.st n
/-- That of a register as it stood at the start of the core cycle (R26). -/
def Residency.portOf (r : Residency) (n : SReg) : SReg × Fin 4 := headIn r.start.st n

/-- A head as its consumers find it: at the start of the core cycle, past what they have taken in it (R26). -/
def State.headNow (s : State) (p : SReg × Fin 4) : Head := (s.streamStart p.1).heads[p.2]

/-- Change one head of a register. -/
def StreamReg.updHead (r : StreamReg) (j : Fin 4) (f : Head → Head) : StreamReg :=
  { r with heads := r.heads.set j (f r.heads[j]) }

/-- Clear the full/empty bits of n granules of a ring from count c. -/
def clearRing (m : Memory) (e : Nat) (r : StreamReg) (c : BitVec 24) : Nat → Memory
  | 0 => m
  | n + 1 => (clearRing m e r c n).setFull (r.granuleNo e (c + BitVec.ofNat 24 n)) false

/-- Change a stream so that its oldest position may advance: the full/empty bit of every granule that
it passes is cleared (R122). -/
def State.release (s : State) (n : SReg) (f : StreamReg → StreamReg) : State :=
  let r := s.stream n
  let r' := f r
  let s' := s.updSt n fun _ => r'
  { s' with mem := clearRing s'.mem s'.entry r r.oldest (r.used - r'.used) }

/-- What a head becomes when its consumer has gone on from `old` to `new`: that, unless a drop of the same cycle has
moved it further (R26, R131). Its mark stays. -/
def Head.passed (h old new : Head) : Head :=
  if (new.count - old.count).toNat < (h.count - old.count).toNat then h else { h with count := new.count, pos := new.pos }

/-- Change a register as the consumers of this core cycle find it. -/
def State.updStart (s : State) (n : SReg) (f : StreamReg → StreamReg) : State :=
  s.updR fun r => { r with start := { r.start with st := r.start.st.set n (f r.start.st[n]) } }

/-- A consumer has taken n bytes at a head. One that the AP has disabled or rewound in this cycle stays as that left
it (R26, R125, R263). -/
def State.passHead (s : State) (p : SReg × Fin 4) (n : Nat) : State :=
  let x := s.streamStart p.1
  let old := s.headNow p
  let new := old.advance x.esize n
  let t := s.updStart p.1 fun y => y.updHead p.2 fun _ => new
  if !((s.stream p.1).heads[p.2]).enabled || s.r.start.rewound.contains p then t
  else t.release p.1 fun y => y.updHead p.2 fun h => h.passed old new

/-- Set the full/empty bits of n granules of a ring from count c, and make their check values over what
they hold (R113, R123). -/
def sealRing (m : Memory) (e : Nat) (r : StreamReg) (c : BitVec 24) : Nat → Memory
  | 0 => m
  | n + 1 =>
    let g := r.granuleNo e (c + BitVec.ofNat 24 n)
    ((sealRing m e r c n).recheck g).setFull g true

/-- Bytes committed and not whole in the last committed granule. -/
def StreamReg.partialBytes (r : StreamReg) : Nat := r.tpos.toNat * r.esize

/-- Where the first uncommitted byte stands: the ring count of its granule and the offset in it (R260). -/
def StreamReg.tail (r : StreamReg) : BitVec 24 × Nat :=
  if r.tpos = 0 then (r.committed, 0) else (r.committed - 1, r.partialBytes)

/-- A register after n more bytes are committed at its tail (R123). -/
def StreamReg.commitBytes (r : StreamReg) (n : Nat) : StreamReg :=
  let p := r.tail
  let o := p.2 + n
  if r.code = 6 then { r with committed := r.committed + BitVec.ofNat 24 (n / 64) }
  else
    { r with committed := p.1 + BitVec.ofNat 24 ((o + 63) / 64), tpos := BitVec.ofNat 7 (o % 64 / r.esize) }

/-- Bytes at the end of the last committed granule whose elements are not yet written: none of a whole one, and else those
past what is committed and what has landed behind it (R123). -/
def StreamReg.unwritten (r : StreamReg) : Nat := if r.tpos = 0 then 0 else 64 - (r.partialBytes + r.landed)

/-- The check value of the last committed granule takes the elements not yet written as zero; what the bytes hold stays
(R113, R123, log 12). -/
def sealLast (m : Memory) (e : Nat) (r : StreamReg) : Memory :=
  if r.unwritten = 0 then m else m.recheckBut (r.granuleNo e (r.committed - 1)) r.unwritten

/-- Make n bytes at the tail of a stream available: commits, full/empty bits and check values (R123). -/
def State.commit (s : State) (n : SReg) (bytes : Nat) : State :=
  if bytes = 0 then s
  else
    let r := s.stream n
    let r' := { r.commitBytes bytes with landed := r.landed - bytes }
    let s' := s.updSt n fun _ => r'
    let first := r.tail.1
    { s' with mem := sealLast (sealRing s'.mem s'.entry r' first (r'.committed - first).toNat) s'.entry r' }

/-- Write bytes at the tail of a stream, o bytes past its first uncommitted byte. A granule whose first byte is written
is written anew: a soft error in what it held is gone (R115). -/
def State.writeTail (s : State) (n : SReg) (o : Nat) (bs : List Byte) : State :=
  let r := s.stream n
  let p := r.tail
  let ks := r.byteKeys s.entry p.1 (p.2 + o) bs.length
  { s with mem := (s.mem.pokes (ks.zip bs)).mends ((ks.filter fun k => k % 64 = 0).map (· / 64)) }.updSt n
    fun r => { r with landed := max r.landed (o + bs.length) }

/-- Bytes claimed and not committed past the first uncommitted byte. -/
def StreamReg.claimedBytes (r : StreamReg) : Nat := 64 * (r.claimed - r.tail.1).toNat - r.tail.2

/-- Granules that must be claimed so that n more bytes fit behind those already reserved. -/
def StreamReg.claimFor (r : StreamReg) (n : Nat) : Nat :=
  (r.reserved + n - r.claimedBytes + 63) / 64

/-! ### Full policies (R129 to R132) -/

/-- Elements of a granule, for the drops field (R131); a 256-byte element counts with its first. -/
def StreamReg.epg (r : StreamReg) : Nat := if r.code = 6 then 1 else 64 / r.esize

/-- What DROP_OLDEST frees at once: the granules, and what they add to drops. -/
structure DropUnit where
  len : Nat
  adds : Nat

/-- Whether DROP_OLDEST may free `len` granules from position o of a register as it stood at the start of the core
cycle: committed whole, and in no head's awaited range (R131). -/
def StreamReg.mayDrop (x : StreamReg) (o : BitVec 24) (len : Nat) : Bool :=
  let d := (x.committed - o).toNat
  decide (len ≠ 0 ∧ len ≤ d ∧ d ≤ x.size) && (decide (len < d) || x.tpos == 0) &&
    (List.finRange 4).all fun j =>
      !((x.heads[j]).enabled && decide (((x.heads[j]).count - o).toNat < len) && (x.awaits[j]) != 0)

/-- Whether a hold stands on a stream register: fault pending with cause 0x00, which no fault uses (R257). -/
def StreamReg.held (r : StreamReg) : Bool := r.fpend && r.fcause = 0

/-- Free what stands from position o: heads and marks within it go to what follows (R131). -/
def StreamReg.dropAt (r : StreamReg) (o : BitVec 24) (u : DropUnit) : StreamReg :=
  let next := o + BitVec.ofNat 24 u.len
  let step (h : Head) : Head :=
    let h1 := if h.enabled && decide ((h.count - o).toNat < u.len) then { h with count := next, pos := 0 } else h
    if h1.markValid && decide ((h1.markCount - o).toNat < u.len) then { h1 with markCount := next, markPos := 0 } else h1
  { r with heads := r.heads.map step, drops := r.drops + BitVec.ofNat 32 u.adds }

/-- Granules that a claim finds free, with everything from position o on in use (R122). -/
def StreamReg.roomFrom (r : StreamReg) (o : BitVec 24) : Nat := r.size - (r.claimed - o).toNat

/-- Free the oldest units from position o on, at most `fuel`, until g granules fit or the next may not be dropped
(R129, R131). `x` is the register at the start of the core cycle and `unit` what one drop frees. -/
def dropUntil (x : StreamReg) (unit : BitVec 24 → DropUnit) (g : Nat) : Nat → StreamReg × BitVec 24 → StreamReg × BitVec 24
  | 0, p => p
  | k + 1, (r, o) =>
    if g ≤ r.roomFrom o || !x.mayDrop o (unit o).len then (r, o)
    else dropUntil x unit g k (r.dropAt o (unit o), o + BitVec.ofNat 24 (unit o).len)

/-- One granule, which adds its elements to drops (R131). The rule does not say what a quarter of a 256-byte element adds: the
model counts the element with the granule at count 0 modulo 4 (log 134). -/
def StreamReg.granuleUnit (x : StreamReg) (o : BitVec 24) : DropUnit :=
  ⟨1, if x.code = 6 ∧ o.toNat % 4 ≠ 0 then 0 else x.epg⟩

/-- Write an event at the tail of a partition's event ring (R427). -/
def putEvent (s : State) (p : Fin 8) (kind lcore : Nat) (launch : W32) (detail : W64) : State :=
  let k := (s.pkg.parts[p]).evr
  let n := s.mem.word64 k
  let ev := leBytes 8 n.toNat ++ leBytes 1 kind ++ leBytes 1 p.val ++ leBytes 2 lcore ++ leBytes 4 launch.toNat ++
    leBytes 8 s.tick.toNat ++ leBytes 8 detail.toNat
  (s.devWrite (k + 64 + 32 * (n.toNat % 1024)) ev).devWrite k (leBytes 8 (n + 1).toNat)

/-- Post an event of partition p, or count it where it finds 1023 unconsumed; when room returns for two, an event of
kind 4 with the count goes first (R427). -/
def postEvent (p : Fin 8) (s : State) (e : Event) : State :=
  let x := s.pkg.parts[p]
  let used := (s.mem.word64 x.evr - s.mem.word64 (x.evr + 8)).toNat
  let post (s : State) : State := putEvent s p e.kind e.lcore e.launch e.detail
  if x.eventsLost = 0 && used < 1023 then post s
  else if x.eventsLost ≠ 0 && used + 2 ≤ 1023 then
    post ((putEvent s p 4 0xFFFF 0 x.eventsLost).updPart p fun x => { x with eventsLost := 0 })
  else s.updPart p fun x => { x with eventsLost := x.eventsLost + 1 }

/-- EVENT_POST: the events of a core cycle are posted at its end, or once no region table keeps them waiting (R409, R427). -/
def State.postEvents (s : State) (p : Fin 8) : State :=
  if regionWaits s (s.pkg.parts[p]).evr then s
  else (s.pkg.parts[p]).events.foldl (postEvent p) (s.updPart p fun x => { x with events := [] })

/-- File an event behind those that are posted before it: by core cycle, slot-table entry and unit (R419, R427). -/
def fileEvent (a : Event) : List Event → List Event
  | [] => [a]
  | b :: bs =>
    if b.cycle < a.cycle || b.entry < a.entry || (b.entry = a.entry && b.unit ≤ a.unit) then b :: fileEvent a bs else a :: b :: bs

/-- An event of the residency in focus, from a unit of R418. -/
def State.event (s : State) (unit kind : Nat) (detail : W64) : State :=
  if s.part.record.isEmpty then s
  else
    s.updPart s.r.bind.part fun x => { x with
      events := fileEvent ⟨s.cycle, s.entry, unit, kind, s.r.bind.lcore, s.r.bind.launch, detail⟩ x.events }

/-- The unit of R418 that fills a ring: the AP context that claims, E, the copy engine, the decompressor, or the side
that brings its elements from outside. -/
def StreamReg.filler (r : StreamReg) (c : ApId) : Nat :=
  match r.kind with
  | 5 => 9
  | 7 => 2
  | 8 => (match c with | .f => 0 | .d => 1)
  | 9 => 3
  | _ => 8

/-- The first drop after a claim that dropped nothing posts an event (R132). -/
def State.noteDrop (s : State) (n : SReg) : State :=
  if (s.stream n).dropping then s
  else (s.event ((s.stream n).filler s.ap) 1 (BitVec.ofNat 64 n.val)).updSt n fun r => { r with dropping := true }

/-- A stream under DROP_OLDEST frees its oldest units, as the start of the core cycle gives them, until g granules fit
or the next may not be dropped; where it has freed any, it has dropped (R26, R129, R131, R132). -/
def State.dropBy (s : State) (n : SReg) (unit : BitVec 24 → DropUnit) (g : Nat) : State :=
  let o := s.r.start.oldest[n]
  let p := dropUntil (s.streamStart n) unit g (s.stream n).size (s.stream n, o)
  if (s.stream n).policy ≠ 2 || p.2 == o then s
  else
    ((s.release n fun _ => p.1).updR fun r =>
      { r with start := { r.start with oldest := r.start.oldest.set n p.2 } }).noteDrop n

/-- What a claim of g granules that finds too little room does under DROP_OLDEST: the oldest granules are
freed one at a time (R129, R131). What a blocked push of E or a unit has freed stays freed (log 78). -/
def State.dropFor (s : State) (n : SReg) (g : Nat) : State := s.dropBy n (s.streamStart n).granuleUnit g

/-- The room of a stream as a claim sees it: that of the start of the core cycle, and what drops have freed since
(R126, R131). -/
def State.roomStart (s : State) (n : SReg) : Nat := (s.stream n).roomFrom s.r.start.oldest[n]

/-- Claim g granules at the tail of a stream under its full policy; none while it must wait (R126, R129). What the
granules hold stays (R113). A claim that fits without a drop of its own arms the drop event again, also where earlier
tries have dropped (R132, log 78). -/
def State.claim (s : State) (n : SReg) (g : Nat) : Option State :=
  let take (s : State) (d : Bool) : State :=
    s.updSt n fun r => { r with claimed := r.claimed + BitVec.ofNat 24 g, dropping := r.dropping && d }
  if g = 0 then some s
  else if g ≤ s.roomStart n then some (take s false)
  else
    let s1 := s.dropFor n g
    if g ≤ s1.roomStart n then some (take s1 true) else none

/-- Put n elements' room aside for a push of E (R42): the bytes, and the granules they need. A ring that has been
closed since the start of the core cycle takes none. -/
def State.reserve (s : State) (n : SReg) (bytes : Nat) : Option State :=
  if !(s.stream n).isOpen then some s
  else
    match s.claim n ((s.stream n).claimFor bytes) with
    | none => none
    | some s1 => some (s1.updSt n fun r => { r with reserved := r.reserved + bytes })

end Sys2Proof.Machine
end

