-- ==== Sys2Proof/Machine/Expand.lean ====
section
/-! DEFINITION. The three expansions: bitmap-sparse, codebook-16 and delta-line (R100 to R103, R462). -/

namespace Sys2Proof.Machine

/-! ### Containers (R79) and bitmap-sparse segments (R100) -/

/-- Containers of w bits packed into bytes (R79). -/
def packCodes (w : Nat) : List Nat → List Byte
  | [] => []
  | [c] => leBytes (max 1 (w / 8)) (c % 2 ^ w)
  | c :: d :: cs =>
    if w = 4 then BitVec.ofNat 8 (c % 16 + 16 * (d % 16)) :: packCodes w cs
    else leBytes (w / 8) c ++ leBytes (w / 8) d ++ packCodes w cs

/-- Container i of w bits of some bytes (R79). -/
def containerAt (w : Nat) (bs : List Byte) (i : Nat) : Nat :=
  if w = 4 then fld (byteAt bs (i / 2)).toNat (4 * (i % 2) + 3) (4 * (i % 2))
  else leNat ((bs.drop (i * (w / 8))).take (w / 8))

/-- Expand a bitmap over 64 containers: the stored ones in order, zero elsewhere (R100). -/
def expandBits (bitmap : Nat) : Nat → Nat → List Nat → List Nat
  | 0, _, _ => []
  | k + 1, i, vs =>
    if bitmap.testBit i then vs.headD 0 :: expandBits bitmap k (i + 1) vs.tail
    else 0 :: expandBits bitmap k (i + 1) vs

/-- One segment of R100 at the head of some bytes: the 64 containers of w bits as bytes, and the bytes it
takes; the cause of one that runs past the end or disagrees with its popcount (R101, R344). -/
def segment (w : Nat) (bs : List Byte) : Except Cause (List Byte × Nat) :=
  if bs.length < 16 then .error 0x5C
  else
    let map := leNat (bs.take 8)
    let len := (byteAt bs 8).toNat
    let n := 16 + alignUp ((len * w + 7) / 8) 16
    if onesBelow 64 map ≠ len then .error 0x54
    else if bs.length < n then .error 0x5C
    else
      let vs := (List.range len).map (containerAt w (bs.drop 16))
      .ok (packCodes w (expandBits map 64 0 vs), n)

/-- What the head of the input gives. -/
inductive Expand where
  /-- more input is needed -/
  | more
  /-- expanded bytes, and the input bytes they take -/
  | out (bs : List Byte) (taken : Nat)
  | fail (c : Cause)
  /-- the input holds nothing further -/
  | stop
  deriving DecidableEq, Repr

/-! ### Bitmap-sparse (R100, R101) -/

/-- Bytes of the segment at the head of some bytes, by its length field. -/
def segmentBytes (w : Nat) (bs : List Byte) : Nat := 16 + alignUp (((byteAt bs 8).toNat * w + 7) / 8) 16

/-- At most k complete segments at the head of some bytes: their containers, the bytes taken and how many
they are, or the cause of one that disagrees with its popcount. -/
def segmentRun (w : Nat) : Nat → List Byte → Except Cause (List Byte × Nat × Nat)
  | 0, _ => .ok ([], 0, 0)
  | k + 1, bs =>
    if bs.length < 16 || bs.length < segmentBytes w bs then .ok ([], 0, 0)
    else
      match segment w bs with
      | .error c => .error c
      | .ok (out, n) =>
        match segmentRun w k (bs.drop n) with
        | .error c => .error c
        | .ok (rest, m, j) => .ok (out ++ rest, n + m, j + 1)

/-- One tile of bitmap-sparse input; the last one may hold fewer segments: where the input ends (R101), and, with
`left` bytes remaining of a known count, those that it still needs (log 44). -/
def expandTile (w : Nat) (left : Option Nat) (ended : Bool) (bs : List Byte) : Expand :=
  let segs := match left with | some n => min (128 / w) ((n + 8 * w - 1) / (8 * w)) | none => 128 / w
  match segmentRun w segs bs with
  | .error c => .fail c
  | .ok (out, n, k) =>
    if k = segs then .out out n
    else if !ended then .more
    else if k = 0 then .stop
    else .out out n

/-! ### Codebook-16 (R102) -/

/-- Container j of a codebook-16 block. -/
def codebookAt (bs : List Byte) (j : Nat) : Byte :=
  let i := (byteAt bs (16 + j / 2)).toNat
  byteAt bs (if j % 2 = 0 then i % 16 else i / 16)

/-- One codebook-16 block; `left` is what remains of the containers, where it is known. -/
def expandBlock (left : Option Nat) (ended : Bool) (bs : List Byte) : Expand :=
  let c := match left with | some n => min n 4096 | none => 4096
  let need := 16 + (c + 1) / 2
  let out (c n : Nat) : Expand := .out ((List.range c).map (codebookAt bs)) n
  if need ≤ bs.length then out c need
  else if !ended then .more
  else if bs.length ≤ 16 then .stop
  else out (min c (2 * (bs.length - 16))) bs.length

/-! ### Delta-line (R103) -/

/-- Sample width of a delta-line stream by its element size code (R462). -/
def sampleBits (code : Nat) : Nat :=
  match code with
  | 0 => 8
  | 1 => 16
  | 7 => 10
  | _ => 12

/-- A field of w bits in two's complement. -/
def signedField (v w : Nat) : Int := if w ≠ 0 && v.testBit (w - 1) then (v : Int) - 2 ^ w else v

/-- k samples after sample `prev`, from bit `o` of the block on. -/
def deltaRun (x n w : Nat) : Nat → Nat → Nat → List Nat
  | 0, _, _ => []
  | k + 1, o, prev =>
    let v := (((prev : Int) + signedField (x / 2 ^ o % 2 ^ w) w) % 2 ^ n).toNat
    v :: deltaRun x n w k (o + w) v

/-- The c samples of a delta-line block. -/
def deltaSamples (n c : Nat) (bs : List Byte) : List Nat :=
  let x := leNat bs
  let w := x % 16
  let first := x / 16 % 2 ^ n
  first :: deltaRun x n w (c - 1) (4 + n) first

/-- One delta-line block; `left` is what remains of the samples, where it is known. Input left at the end that is too short
for one sample gives none: it is discarded (log 105). -/
def expandLine (n : Nat) (left : Option Nat) (ended : Bool) (bs : List Byte) : Expand :=
  let c := match left with | some k => min k 64 | none => 64
  let w := (byteAt bs 0).toNat % 16
  let need (c : Nat) : Nat := (4 + n + (c - 1) * w + 7) / 8
  let out (c : Nat) : Expand := .out ((deltaSamples n c (bs.take (need c))).flatMap (leBytes (if n = 8 then 1 else 2))) (need c)
  if bs.isEmpty then (if ended then .stop else .more)
  else if need c ≤ bs.length then out c
  else if !ended then .more
  else if 8 * bs.length < 4 + n then .stop
  else out (min c (1 + (8 * bs.length - 4 - n) / w))

/-! ### What some input gives (R462) -/

/-- Element count N of a decompressor source; none for 0. -/
def StreamReg.count (r : StreamReg) : Option Nat := if r.src[1] = 0 then none else some (r.src[1]).toNat

/-- Expanded bytes that remain to be made, where N is given. -/
def StreamReg.bytesLeft (r : StreamReg) : Option Nat :=
  r.count.map fun n => (n - r.dec.given) * r.esize - r.dec.output.length

/-- What some input gives next, `ended` where no more follows it. -/
def StreamReg.expand (r : StreamReg) (ended : Bool) (bs : List Byte) : Expand :=
  match r.srcBits 3 0 with
  | 0 => expandTile (if r.srcBits 4 4 = 1 then 4 else 8) r.bytesLeft ended bs
  | 1 => expandBlock r.bytesLeft ended bs
  | _ => expandLine (sampleBits r.code) (r.bytesLeft.map fun k => k / r.esize) ended bs

end Sys2Proof.Machine
end

