-- ==== Sys2Proof/Machine/GauzeMap.lean ====
section
/-! DEFINITION. Where Gauze keeps a model block: its map, its tile records and its output cache in the
scratchpad (R368). -/

namespace Sys2Proof.Machine

/-- Granules of the map of T tiles (R368). -/
def mapGranules (t : Nat) : Nat := (t + 511) / 512
/-- Bytes of one output tile (R368). -/
def GBlock.ob (b : GBlock) : Nat := 256 * b.v
/-- Bytes of a block's region (R368). -/
def GBlock.size (b : GBlock) : Nat := 64 * (mapGranules b.tiles + b.tiles) + b.tiles * b.ob
/-- The key of byte o of the map of a block, in the share of entry e. -/
def GBlock.mapKey (b : GBlock) (e o : Nat) : Nat := spadKey e (b.offset + o)
/-- The key of byte o of the record of tile t. -/
def GBlock.recKey (b : GBlock) (e t o : Nat) : Nat :=
  spadKey e (b.offset + 64 * mapGranules b.tiles + 64 * t + o)
/-- The key of byte o of output tile t. -/
def GBlock.outKey (b : GBlock) (e t o : Nat) : Nat :=
  spadKey e (b.offset + 64 * (mapGranules b.tiles + b.tiles) + t * b.ob + o)

/-- Map bit t of a block. -/
def GBlock.mapBit (b : GBlock) (m : Memory) (e t : Nat) : Bool := bit (m.byte (b.mapKey e (t / 8))) (t % 8)
/-- Whether tile t is decided in the current step (R368, byte 18 of its record). -/
def GBlock.decidedAt (b : GBlock) (m : Memory) (e t : Nat) : Bool := bit (m.byte (b.recKey e t 18)) 2

/-! ### The operation queue (R375) -/

/-- Operations that Gauze holds per residency. -/
def gauzeSize : Nat := 16

/-- Core cycles of an operation in a share of k banks (R369, R375); a G.REUSE ends with its push. -/
def GOp.cycles (k : Nat) (o : GOp) : Nat :=
  match o with
  | .sig _ _ _ _ _ _ => 24
  | .mapW _ _ _ => 1
  | .step _ => 1
  | .keep _ _ data => 8 + data.length / 128
  | .cfg _ b => 8 * ((mapGranules b.tiles + b.tiles + k - 1) / k)
  | .reuse _ _ => 0

/-- Whether an operation is a G.REUSE. -/
def GOp.isReuse (o : GOp) : Bool := match o with | .reuse _ _ => true | _ => false

/-- The oldest operation starts in this cycle, if it has not started; 0 stands for a cycle not yet known. -/
def startOldest (k cycle : Nat) : List GEntry → List GEntry
  | [] => []
  | g :: gs => (if g.due = 0 && !g.op.isReuse then { g with due := cycle + g.op.cycles k } else g) :: gs

/-- Change Gauze's state. -/
def State.updGz (s : State) (f : Gauze → Gauze) : State := s.updR fun r => { r with gz := f r.gz }

/-- An operation enters Gauze's queue; none while it is full (R375). -/
def State.gauzePut (s : State) (o : GOp) : Option State :=
  if s.r.gz.ops.length < gauzeSize then
    some (s.updGz fun g => { g with ops := startOldest s.r.bind.banks s.now (g.ops ++ [⟨o, 0, none⟩]) })
  else none

/-- The oldest operation has completed: the next one starts (R375). -/
def State.gauzeNext (s : State) : State :=
  s.updGz fun g => { g with ops := startOldest s.r.bind.banks s.now (g.ops.drop 1) }

/-- The push of a G.REUSE commits: it completes (R373, R375). -/
def State.reuseDone (s : State) : State :=
  match s.r.gz.ops with
  | g :: _ => if g.op.isReuse then s.gauzeNext else s
  | [] => s

end Sys2Proof.Machine
end

