-- ==== Sys2Proof/Machine/ApMemory.lean ====
section
/-! DEFINITION. Loads, stores, prefetch and atomics of the access processor, from their issue to the
completion of their memory request (R235 to R242, R110, R111). -/

namespace Sys2Proof.Machine

/-- Bytes of an access of a size code (R179). -/
def sizeBytes (z : Nat) : Nat := 2 ^ (z % 4)

/-- The register value of loaded bytes: zero-extended, or sign-extended for codes 4 to 6 (R179). -/
def extendLoad (z : Fin 8) (bs : List Byte) : W64 :=
  let w := BitVec.ofNat 64 (leNat bs)
  if z.val < 4 then w else (w <<< (64 - 8 * bs.length)).sshiftRight (64 - 8 * bs.length)

/-- The operation of an AMO by its function code (R240). -/
def amoOp (fn : Fin 9) (old y : W64) : W64 :=
  match fn with
  | 0 => old + y
  | 1 => old &&& y
  | 2 => old ||| y
  | 3 => old ^^^ y
  | 4 => if old.toInt ≤ y.toInt then old else y
  | 5 => if y.toInt ≤ old.toInt then old else y
  | 6 => if old.toNat ≤ y.toNat then old else y
  | 7 => if y.toNat ≤ old.toNat then old else y
  | 8 => y

/-! ### When a memory serves a request -/

/-- The bank of byte offset o of a residency's share (R107, R402). -/
def bankOf (e banks o : Nat) : Nat :=
  (if resOf e = 0 then 0 else 32 - banks) + o / 64 % banks

/-- Whether bank b is in a phase in core cycle t (R110). -/
def inPhase (t b phase : Nat) : Bool := (t + b) % 8 == phase

/-- The slot-table entry in whose share a key lies; none outside the scratchpads. -/
def shareOf (k : Nat) : Option Nat := if k < spadKey 0 0 || spadKey 416 0 ≤ k then none else some ((k - spadKey 0 0) / 2 ^ 22)

/-- The bank of the package that holds a scratchpad key in the share of a residency: 32 to a core (R107). -/
def bankNo (r : Residency) (k : Nat) : Nat := 32 * coreOf r.bind.e + bankOf r.bind.e r.bind.banks ((k - spadKey 0 0) % 2 ^ 22)

/-- The bank that holds a key, where it is one of a bound residency's share. -/
def State.bankHolding (s : State) (k : Nat) : Option Nat :=
  (shareOf k).bind fun e => (s.all.find? fun r => r.bind.e == e).map fun r => bankNo r k

/-- Whether the memory that holds a byte serves an AP access of the residency in focus in this core cycle: the bank of a
scratchpad byte does in its phase 2 where the share is the residency's own, and in its phase 6 where it is another core's;
in each phase it serves one (R106, R110, R111). HBM and the host serve in any core cycle: the spec gives no number (log 1). -/
def State.serving (s : State) (k : Nat) : Bool :=
  match shareOf k with
  | none => true
  | some e =>
    match s.all.find? fun r => r.bind.e == e with
    | some r => inPhase s.now (bankNo r k) (if e = s.entry then 2 else 6) && !s.banks.contains (bankNo r k)
    | none => false

/-- Cause 0x44: an access that the memory behind a key does not serve (R237, R242): peer memory for
every access, host memory for the atomics PCIe has not. -/
def unsupported (op : MemOp) (ks : List Nat) : Bool :=
  ks.any (fun k => storeOf k == .peer) ||
    (match op with
     | .amo fn _ _ => fn.val ≠ 0 && fn.val ≠ 8 && ks.any fun k => storeOf k == .host
     | _ => false)

/-- Issue a memory access: its address is checked under R105, its support under R242, and the context
waits for its memory (R237). -/
def issueAccess (s : State) (x : W64) (n : Nat) (r w : Bool) (op : MemOp) : Except Stop (State × Flow) :=
  match resolve s x n r w with
  | .error e => .error e
  | .ok (ks, s1) =>
    if unsupported op ks then .error (.trap ⟨0x44, x, 0⟩)
    else
      .ok (s1.updCtx s1.ap fun c => { c with pending := some ⟨op, x, ks, s.now + 1, [], false⟩ }, .wait)

/-- The effective address of an AM-format access (R235). -/
def amAddress (s : State) (f : RMem) : W64 :=
  s.areg f.a + f.o.signExtend 64 * BitVec.ofNat 64 (sizeBytes f.s.val)

/-- The effective address of LDX and STX (R236). -/
def axAddress (s : State) (f : RIdx) : W64 := s.areg f.a + (s.areg f.b <<< f.k.val)

/-- LD (R235, R237). -/
def execLd (f : RMem) (s : State) : Host.Outcome State Fault Refusal :=
  apIssue (.ld f) f.g s fun s =>
    issueAccess s (amAddress s f) (sizeBytes f.s.val) true false (.load f.d f.s)
/-- ST (R235, R237). -/
def execSt (f : RMem) (s : State) : Host.Outcome State Fault Refusal :=
  apIssue (.st f) f.g s fun s =>
    issueAccess s (amAddress s f) (sizeBytes f.s.val) false true
      (.store (leBytes (sizeBytes f.s.val) (s.areg f.d).toNat))
/-- LDX (R236). -/
def execLdx (f : RIdx) (s : State) : Host.Outcome State Fault Refusal :=
  apIssue (.ldx f) f.g s fun s =>
    issueAccess s (axAddress s f) (sizeBytes f.s.val) true false (.load f.d f.s)
/-- STX (R236). -/
def execStx (f : RIdx) (s : State) : Host.Outcome State Fault Refusal :=
  apIssue (.stx f) f.g s fun s =>
    issueAccess s (axAddress s f) (sizeBytes f.s.val) false true
      (.store (leBytes (sizeBytes f.s.val) (s.areg f.d).toNat))

/-- PREF: on a miss of the first-level TLB a walk is started; it never blocks and never faults (R239). -/
def prefetch (s : State) (x : W64) : State :=
  if bits x 63 56 ≠ 0 then s
  else if s.pkg.tlb.any fun t => t.serves false (coreOf s.entry) s.r.bind.part x.toNat true false then s
  else s.updR fun r => { r with walks := r.walks ++ [x] }

/-- PREF (R239): access size 8. -/
def execPref (g : Guard) (a : AReg) (o : BitVec 10) (s : State) : Host.Outcome State Fault Refusal :=
  apPure (.pref g a o) g s fun s => prefetch s (s.areg a + o.signExtend 64 * 8)

/-- The checks of AMO and CAS in the order of R242, then the access. -/
def issueAtomic (s : State) (x : W64) (op : MemOp) : Except Stop (State × Flow) :=
  match formCheck s x 8 with
  | .error e => .error e
  | .ok _ => if x.toNat % 8 ≠ 0 then .error (.trap ⟨0x43, x, 0⟩) else issueAccess s x 8 true true op

/-- An AMO of one function (R240). -/
def amo (i : Instr) (f : RRR) (fn : Fin 9) (s : State) : Host.Outcome State Fault Refusal :=
  apIssue i f.g s fun s => issueAtomic s (s.areg f.a) (.amo fn f.d (s.areg f.b))

/-- AMO.ADD (R240). -/
def execAmoAdd (f : RRR) (s : State) : Host.Outcome State Fault Refusal := amo (.amoAdd f) f 0 s
/-- AMO.AND (R240). -/
def execAmoAnd (f : RRR) (s : State) : Host.Outcome State Fault Refusal := amo (.amoAnd f) f 1 s
/-- AMO.OR (R240). -/
def execAmoOr (f : RRR) (s : State) : Host.Outcome State Fault Refusal := amo (.amoOr f) f 2 s
/-- AMO.XOR (R240). -/
def execAmoXor (f : RRR) (s : State) : Host.Outcome State Fault Refusal := amo (.amoXor f) f 3 s
/-- AMO.MIN (R240). -/
def execAmoMin (f : RRR) (s : State) : Host.Outcome State Fault Refusal := amo (.amoMin f) f 4 s
/-- AMO.MAX (R240). -/
def execAmoMax (f : RRR) (s : State) : Host.Outcome State Fault Refusal := amo (.amoMax f) f 5 s
/-- AMO.MINU (R240). -/
def execAmoMinu (f : RRR) (s : State) : Host.Outcome State Fault Refusal := amo (.amoMinu f) f 6 s
/-- AMO.MAXU (R240). -/
def execAmoMaxu (f : RRR) (s : State) : Host.Outcome State Fault Refusal := amo (.amoMaxu f) f 7 s
/-- AMO.SWAP (R240). -/
def execAmoSwap (f : RRR) (s : State) : Host.Outcome State Fault Refusal := amo (.amoSwap f) f 8 s
/-- CAS (R241). -/
def execCas (f : RRR) (s : State) : Host.Outcome State Fault Refusal :=
  apIssue (.cas f) f.g s fun s => issueAtomic s (s.areg f.a) (.cas f.d (s.areg f.d) (s.areg f.b))

/-! ### Completion -/

/-- The granules among some keys that carry check values: HBM and scratchpad, not host memory. -/
def checkable (ks : List Nat) : List Nat := ks.filter fun k => storeOf k != .host

/-- A tensor header that H.LOAD accepts (R136). -/
def headerOk (hdr : List Byte) : Bool :=
  let ty := (byteAt hdr 0).toNat
  let rank := (byteAt hdr 3).toNat
  let el := (byteAt hdr 2).toNat
  ty ≤ 5 && (if ty = 0 then 1 ≤ rank && rank ≤ 6 else rank = 2) && (el ≤ 9 || el = 16)

/-- The integrity cause of a request when its memory serves it: loads and atomics verify what they
read, stores the granules they write in part (R114, R237, R453). -/
def MemReq.integrity (m : Memory) (q : MemReq) : Option Cause :=
  match q.op with
  | .store _ => m.readCause (partialOf (checkable q.keys))
  | _ => m.readCause (granulesOf (checkable q.keys))

/-- A request as its memory stands now: an access to another core's scratchpad goes to where that core's residency is
bound, and waits while it is saved (R35, R429); none while it waits. -/
def MemReq.placed (q : MemReq) (s : State) : Option MemReq :=
  match formCheck s q.addr q.keys.length with
  | .ok (.spad e o) => some { q with keys := keysFrom (spadKey e o) q.keys.length }
  | .ok (.virt _) => some q
  | .error _ => none

/-- The places in an access of the bytes that no part performed so far holds (R140). -/
def MemReq.rest (q : MemReq) : List Nat :=
  (List.range q.keys.length).filter fun i => !(q.done.any fun p => p.1 == i)

/-- Whether a bank of another core's share serves, before a request, one of any context that has come there earlier, one of
the same core's other context too; of those that come in one core cycle the lower core has its turn first (R111). -/
def MemReq.behind (q : MemReq) (s : State) (k : Nat) : Bool :=
  match shareOf k with
  | none => false
  | some e =>
    e != s.entry && s.all.any fun o =>
      o.bind.launch == s.r.bind.launch && o.bind.e != e && [o.f, o.d].any fun c =>
        match c.pending.bind fun p => p.placed (s.focusOn o.bind.e) with
        | some p => decide (p.since < q.since) && p.rest.any fun i => s.bankHolding (p.keys.getD i 0) == s.bankHolding k
        | none => false

/-- Those of them whose memory serves them in this core cycle: the parts that are performed now (R111, R140). Of one residency,
context F has its turn before D. -/
def MemReq.due (q : MemReq) (s : State) : List Nat :=
  q.rest.filter fun i => s.serving (q.keys.getD i 0) && !q.behind s (q.keys.getD i 0)

/-- The keys of some bytes of an access. -/
def MemReq.keysAt (q : MemReq) (l : List Nat) : List Nat := l.map fun i => q.keys.getD i 0

/-- The bytes that an access reads: those of the parts performed as they stood then, the rest as they stand. -/
def MemReq.seen (q : MemReq) (m : Memory) : List Byte :=
  (List.range q.keys.length).map fun i =>
    match q.done.find? fun p => p.1 == i with
    | some p => p.2
    | none => m.byte (q.keys.getD i 0)

/-- The bytes that an access writes, or none: data, or the new value of an atomic from the old one (R237, R240, R241). -/
def MemReq.writes (q : MemReq) (m : Memory) : Option (List Byte) :=
  let old := BitVec.ofNat 64 (leNat (q.seen m))
  match q.op with
  | .store data => some data
  | .amo fn _ y => some (leBytes 8 (amoOp fn old y).toNat)
  | .cas _ e v => if old = e then some (leBytes 8 v.toNat) else none
  | .load _ _ | .header _ _ => none

/-- The memory once some bytes of an access are performed. -/
def MemReq.store (q : MemReq) (m : Memory) (l : List Nat) : Memory :=
  match q.writes m with
  | some bs => m.write (q.keysAt l) (l.map fun i => bs.getD i 0)
  | none => m

/-- What an access that is performed whole gives its context: the loaded value, the old value of an atomic, or a handle
(R237, R240, R241, R283). -/
def MemReq.give (q : MemReq) (s : State) (c : ApId) : State :=
  let bs := q.seen s.mem
  match q.op with
  | .load d z => s.updCtx c fun x => x.put d (extendLoad z bs)
  | .store _ => s
  | .amo _ d _ | .cas d _ _ => s.updCtx c fun x => x.put d (BitVec.ofNat 64 (leNat bs))
  | .header h v => s.updR fun r => { r with h := r.h.set h (some { v with hdr := bs }) }

/-- Whether an access gives its context a value, which is usable two core cycles after its memory has served it; a store is
complete as soon as it is written (R111, R237). -/
def MemOp.answers : MemOp → Bool
  | .store _ => false
  | _ => true

/-- The cause of a request: a handle register that a stream has pinned since the issue; integrity, which is verified for
every part before the first is performed; then what the data themselves break (R139, R237, R283). -/
def MemReq.cause (q : MemReq) (s : State) : Option Cause :=
  let verified := if q.done.isEmpty then q.integrity s.mem else none
  match q.op with
  | .header h _ =>
    if s.r.pinned h then some 0x29
    else
      match verified with
      | some c => some c
      | none => if q.rest != q.due s || headerOk (q.seen s.mem) then none else some 0x2B
  | _ => verified

/-- A context's request is gone. -/
def ApCtx.unpend (c : ApCtx) : ApCtx := { c with pending := none }

/-- A context whose request has met a fault: the instruction has had no effect and is not counted (R14, R218). -/
def ApCtx.undone (c : ApCtx) : ApCtx := { c.unpend with ainst := c.ainst - 1 }

/-- The die to whose memory a key belongs: by stack, by PCIe or Slavamus port, or by core (R400, R441, R442, R451). -/
def dieOfKey (k : Nat) : Nat :=
  match storeOf k with
  | .hbm => (stackOf k).val / 4
  | .host => k / 2 ^ 48 - 1
  | .peer => fld k 47 45 / 4
  | .chip => if k < spadKey 208 0 then 0 else 1

/-- Whether a request crosses the bridge from the die of an entry (R438). -/
def MemReq.crosses (q : MemReq) (e : Nat) : Bool := q.keys.any fun k => dieOfKey k != dieOf e

/-- An access with the parts of some bytes performed. -/
def MemReq.performed (q : MemReq) (m : Memory) (l : List Nat) : MemReq :=
  { q with done := q.done ++ l.map fun i => (i, (q.seen m).getD i 0) }

/-- The end of an access: its context has its value, and goes on from the next instruction (R111, R237). -/
def MemReq.complete (q : MemReq) (s : State) (c : ApId) : State :=
  (((q.give s c).updCtx c ApCtx.unpend).updCtx c fun x =>
    { x.flow .next with wake := if q.op.answers then s.now + 3 else s.now + 1 }).move

/-- MEMORY_REQUEST_COMPLETE: the memory serves the parts of a context's access whose banks are in their phase (R111,
R140). With the last of them the context goes on from the next instruction; a cause that the access meets parks it at this
one before any part is performed (R237, R242). A request that was crossing the bridge when its last link was retired is
discarded: it is never served (R455). One that waits for a saved core, in a residency that is itself being saved, is
withdrawn: the context is saved at the instruction on which it is blocked (R213, R429). -/
def execMemoryRequestComplete (c : ApId) (s : State) : Host.Outcome State Fault Refusal :=
  match (s.ctx c).pending, (s.ctx c).pending.bind fun q => q.placed s with
  | none, _ => .next s
  | some _, none => .next (if s.r.stage == .saving then s.updCtx c ApCtx.undone else s)
  | some _, some q =>
    let l := q.due s
    if s.now < q.since || l.isEmpty || (s.pkg.boot.state == 10 && q.crosses s.entry) then .next s
    else
      match q.cause s with
      | some k => .next ((s.updCtx c ApCtx.undone).park c ⟨k, q.addr, 0⟩)
      | none =>
        let m := q.store s.mem l
        let bs := s.banks ++ (q.keysAt l).filterMap s.bankHolding
        if l = q.rest then .next { q.complete s c with mem := m, banks := bs }
        else .next (({ s with mem := m, banks := bs }.updCtx c fun x => { x with pending := some (q.performed s.mem l) }).move)

/-- PAGE_WALK_COMPLETE: the oldest walk that a PREF started fills the TLBs, or is discarded (R239,
R412, R413). -/
def execPageWalkComplete (s : State) : Host.Outcome State Fault Refusal :=
  match s.r.walks with
  | [] => .next s
  | x :: ws =>
    let s1 := s.updR fun r => { r with walks := ws }
    if walkWaits s.mem s.pkg (coreOf s.entry) s.r.bind.part x true false then .next s
    else match translate s.mem s.pkg (coreOf s.entry) s.r.bind.part x true false with
    | .error _ => .next s1
    | .ok (_, tlb) => .next { s1 with pkg := { s1.pkg with tlb := tlbFirst { s1.pkg with tlb := tlb } (coreOf s.entry) s.r.bind.part x.toNat } }

end Sys2Proof.Machine
end

