-- ==== Sys2Proof/Machine/StreamOpen.lean ====
section
/-! DEFINITION. Opening a stream: the checks of S.OPEN in their order (R256), shared by S.OPEN, S.FORK
and the launch record, and the patterns and handles they judge (R118 to R121, R138, R139). -/

namespace Sys2Proof.Machine

/-! ### Patterns (R120) -/

/-- Dimensions of a pattern. -/
def StreamReg.dims (r : StreamReg) : Nat := r.srcBits 162 160
/-- Count of dimension i. -/
def StreamReg.patCount (r : StreamReg) (i : Nat) : Nat :=
  if i < 4 then bits r.src[1] (16 * i + 15) (16 * i) + 1 else bits r.src[2] (16 * (i - 4) + 15) (16 * (i - 4)) + 1
/-- Signed stride of dimension i in bytes. -/
def StreamReg.patStride (r : StreamReg) (i : Nat) : Int :=
  let w := r.src[Fin.ofNat 6 (3 + i / 2)]
  (BitVec.ofNat 32 (bits w (32 * (i % 2) + 31) (32 * (i % 2)))).toInt

/-- Product of the first d counts. -/
def StreamReg.patTotal (r : StreamReg) : Nat := ((List.range r.dims).map r.patCount).foldl (· * ·) 1

/-- d from 1 to 6 and at most 2^32 elements (R120, cause 0x27). -/
def StreamReg.patOk (r : StreamReg) : Bool := 1 ≤ r.dims && r.dims ≤ 6 && r.patTotal ≤ 2 ^ 32

/-- The exact address of element e: base plus index times stride in each dimension (R120). -/
def patWalk (r : StreamReg) : Nat → Nat → Nat → Int → Int
  | 0, _, _, addr => addr
  | k + 1, i, rest, addr =>
    patWalk r k (i + 1) (rest / r.patCount i) (addr + (rest % r.patCount i : Nat) * r.patStride i)

/-- The address of element e of a pattern; none where the exact sum is no 64-bit value. -/
def StreamReg.patAddr (r : StreamReg) (e : Nat) : Option W64 :=
  let a := patWalk r r.dims 0 e (r.src[0]).toNat
  if 0 ≤ a ∧ a < 2 ^ 64 then some (BitVec.ofInt 64 a) else none

/-! ### Handles (R136 to R139) -/

def Handle.type (h : Handle) : Nat := (byteAt h.hdr 0).toNat
def Handle.elem (h : Handle) : Nat := (byteAt h.hdr 2).toNat
def Handle.rank (h : Handle) : Nat := (byteAt h.hdr 3).toNat
def Handle.format (h : Handle) : W32 := le32 h.hdr 4
/-- Bytes of a pointer and of an index of a sparse tensor (R136). -/
def Handle.ptrBytes (h : Handle) : Nat := if bit (byteAt h.hdr 1) 0 then 8 else 4
def Handle.idxBytes (h : Handle) : Nat := if bit (byteAt h.hdr 1) 1 then 4 else 2

/-- Width in bits of a wide type's element (R72). -/
def wideBits (ty : Nat) : Nat :=
  match ty with
  | 0 | 1 | 4 | 5 => 32
  | 2 | 3 | 6 | 7 => 16
  | _ => 8

/-- Width of a narrow element: signed + e + m of its format word (R76, R77). -/
def fmtWidth (w : W32) : Nat := (bit w 6).toNat + bits w 2 0 + bits w 5 3

/-- Whether a format word is valid (R77). -/
def fmtValid (w : W32) : Bool :=
  let e := bits w 2 0
  let m := bits w 5 3
  let pol := bits w 16 15
  bits w 31 23 = 0 && 2 ≤ fmtWidth w && fmtWidth w ≤ 8 &&
  (if e = 0 then (pol = 0 || pol = 3) && bits w 14 7 = 0
   else pol ≠ 0 && (pol ≠ 1 || (2 ≤ e && 1 ≤ m))) &&
  bits w 19 17 ≤ 3 && (bits w 19 17 = 0 || bits w 22 20 ≤ 5)

/-- The container width in bits of a narrow type (R79). -/
def containerBits (w : W32) : Nat := if fmtWidth w ≤ 4 then 4 else 8

/-- Bytes of the element a handle yields (R138); containers of 4 bits go two to a byte (log 16). -/
def Handle.yields (h : Handle) : Nat :=
  match h.type with
  | 0 => if h.elem = 16 then 1 else wideBits h.elem / 8
  | 1 | 2 | 3 => 16
  | 4 => if h.elem = 16 then 1 else wideBits h.elem / 8
  | _ => 1

/-! ### The checks (R256) -/

/-- The element size is assigned and legal for the source (R117, R256, R462). -/
def StreamReg.elemOk (r : StreamReg) : Bool :=
  r.code ≤ 8 && (r.kind ≠ 9 || r.code = 5) &&
  (if r.kind = 5 then
      let enc := r.srcBits 3 0
      enc ≤ 2 && (enc = 0 || r.srcBits 4 4 = 0) && r.srcBits 63 5 = 0 &&
      (if enc = 2 then r.code = 0 || r.code = 1 || r.code = 7 || r.code = 8 else r.code ≤ 6)
   else r.code ≤ 6)

/-- The full policy is permitted for the source kind (R129). -/
def StreamReg.policyOk (r : StreamReg) : Bool :=
  match r.policy with
  | 0 => r.kind ≠ 6
  | 1 => r.kind = 6
  | 2 => r.kind = 6 || r.kind = 7 || r.kind = 8
  | _ => false

/-- Frame length L of an ingest source (R130). -/
def StreamReg.frameLen (r : StreamReg) : Nat := r.srcBits 21 5
/-- Ingest channel of an ingest source (R118). -/
def StreamReg.channel (r : StreamReg) : Nat := r.srcBits 4 0

/-- Whether the issuing core is a member of group g of its launch (R46): g stands in gmem (R45). -/
def Residency.member (r : Residency) (g : Nat) : Bool :=
  (List.range 4).any fun j => bit r.bind.gmem (32 + j) && bits r.bind.gmem (8 * j + 7) (8 * j) = g

/-- Whether a handle's format word, where its walk needs one, is valid (R77, log 86). -/
def Handle.formatOk (h : Handle) : Bool := h.elem ≠ 16 || h.type = 3 || fmtValid h.format

/-- The checks of the side that reads or writes memory by a pattern, a handle or addresses, with the
element size `es` (R256, R264): `rd` for a source, otherwise a drain. -/
def sideChecks (s : State) (r : StreamReg) (pat han rd : Bool) (es : Nat) : Except Stop State := do
  if han then
    match s.r.h[r.handleNo] with
    | none => raise 0x2A
    | some h =>
      need (h.yields == es && (rd || h.type == 0 || h.type == 3)) 0x2A
      need h.formatOk 0x53
      need (if rd then h.read else h.write) 0x38
  if pat then
    let (_, s1) ← resolve s (r.src[0]) es rd (!rd)
    return s1
  return s

/-- Every check of S.OPEN on a register as it would stand, in the order of R256. R119 says that a stream has a pattern, a
handle or an address queue on at most one side and names no cause: one with both opens, and its sides share the source
words, the cursor and the queue (log 87). -/
def openChecks (s : State) (n : SReg) (r : StreamReg) : Except Stop State := do
  need (1 ≤ r.kind && r.kind ≤ 9 && r.sink ≤ 7) 0x20
  need r.elemOk 0x27
  need r.policyOk 0x26
  need ((r.ringBase + r.size) * 64 ≤ s.r.bind.banks * 131072 &&
    (r.kind ≠ 6 || (2 ≤ r.frameLen && r.frameLen ≤ r.size))) 0x21
  need ((r.kind ≠ 1 && r.sink ≠ 2) || r.patOk) 0x27
  let s1 ← sideChecks s r false (r.kind = 2) true r.esize
  let s2 ← sideChecks s1 r false (r.sink = 3) false r.esize
  need (!((r.kind = 4 || (r.sink = 5 && !r.multicast)) && s.r.bind.n ≤ r.peerCore)) 0x36
  need (!(r.sink = 5 && r.multicast) || s.r.member r.group) 0x61
  need (r.kind ≠ 5 || (s.stream r.peerSt).sink = 6 && (s.stream r.peerSt).isOpen) 0x20
  need (r.kind ≠ 6 || (bit s.part.ingest r.channel &&
    (s.r.start.ingests ++ s.all.flatMap Residency.ingests).all fun x =>
      (x.1 == s.entry && x.2.1 == n.val) || x.2.2 != r.channel)) 0x2E
  let s3 ← sideChecks s2 r (r.kind = 1) false true r.esize
  sideChecks s3 r (r.sink = 2) false false r.esize

/-- The page that an opened stream holds until its first access (R414). -/
def basePin (r : StreamReg) : Option W64 :=
  if (r.kind = 1 || r.sink = 2) && bits (r.src[0]) 63 56 = 0 then some (r.src[0]) else none

/-- A register freshly opened over its source words: producer, heads and fetch state zero, head 0
enabled, held if asked for (R256, R257). -/
def openReg (control : W64) (ring : W32) (src : Vector W64 6) (hold : Bool) : StreamReg :=
  let r : StreamReg := { StreamReg.closed with
    control := control, ring := ring, src := src, fpend := hold
    heads := (Vector.replicate 4 Head.off).set 0 { Head.off with enabled := true } }
  { r with pin := basePin r }

/-- The control word with its reserved bits zero (R116, R256). -/
def controlWord (w : W64) : W64 := w &&& BitVec.ofNat 64 (2 ^ 49 - 1)

/-- Open stream register n with a control word and a ring word over its source words (R256). -/
def openStream (s : State) (n : SReg) (control : W64) (ring : W32) (hold : Bool) : Except Stop State := do
  let r := openReg (controlWord control) ring (s.stream n).src hold
  let s1 ← openChecks s n r
  return s1.updSt n fun _ => r

end Sys2Proof.Machine
end

