-- ==== Sys2Proof/Machine/ApHandle.lean ====
section
/-! DEFINITION. Tensor handles, the format queue and the skip test (R283 to R285, R296, R405). -/

namespace Sys2Proof.Machine

/-- The 64 bytes of an object-table entry (R405). -/
def objectEntry (s : State) (i : Nat) : List Byte := s.mem.bytes (s.part.otab + 64 * i) 64

/-- Read an object-table entry: it waits for its region table; an address that no region-table entry covers, or a soft
error, stops the read (R115, R405, R408, R409). -/
def readEntry (s : State) (i : Nat) : Except Stop (List Byte) := do
  let k := s.part.otab + 64 * i
  await (!regionWaits s k)
  need (!s.pkg.unmapped k) 0x3A
  need (!s.mem.isBad (k / 64)) 0x41
  return objectEntry s i

/-- Whether an object-table entry is a valid tensor entry: its reserved bytes zero, at least one byte
long, its header aligned (R405); the reserved bits of its rights are ignored (R11). That an entry of length zero, or
with a header that is not aligned, is no valid one is the model's reading (log 30). -/
def tensorEntry (e : List Byte) : Bool :=
  byteAt e 0 == 1 && zeroIn e 2 6 && zeroIn e 40 24 && le64 e 16 != 0 && (le64 e 24).toNat % 64 = 0

/-- The handle that an entry gives, its header still to come (R283). -/
def entryHandle (e : List Byte) (i : W16) : Handle :=
  ⟨[], i, bit (byteAt e 1) 0, bit (byteAt e 1) 1, le64 e 8, le64 e 16, false⟩

/-- H.LOAD of an entry: the header is fetched like any load (R283). -/
def execHLoad (g : Guard) (h : Fin 16) (i : W16) (s : State) : Host.Outcome State Fault Refusal :=
  apIssue (.hLoad g h i) g s fun s => do
    need (!s.r.pinned h) 0x29
    need (i.toNat < s.part.oents) 0x30
    let e ← readEntry s i.toNat
    need (tensorEntry e) 0x30
    issueAccess s (le64 e 24) 64 true false (.header h (entryHandle e i))

/-- H.LOAD none: the handle register becomes invalid (R283). -/
def execHLoadNone (g : Guard) (h : Fin 16) (i : W16) (s : State) : Host.Outcome State Fault Refusal :=
  apIssue (.hLoadNone g h i) g s fun s => do
    need (!s.r.pinned h) 0x29
    return (s.updR fun r => { r with h := r.h.set h none }, .next)

/-- What H.GET reads of a handle (R284). -/
def handleField (v : Handle) (pinned : Bool) (f : Nat) : W64 :=
  if f < 8 then le64 v.hdr (8 * f)
  else if f = 8 then
    BitVec.ofNat 64 (v.index.toNat + v.read.toNat * 2 ^ 16 + v.write.toNat * 2 ^ 17 + pinned.toNat * 2 ^ 18)
  else v.len

/-- H.GET (R284). -/
def execHGet (g : Guard) (d : AReg) (h : Fin 16) (f : BitVec 8) (s : State) :
    Host.Outcome State Fault Refusal :=
  apIssue (.hGet g d h f) g s fun s =>
    match s.r.h[h] with
    | none => raise 0x2A
    | some v => .ok (s.setA d (handleField v (s.r.pinned h) f.toNat), .next)

/-- FMT.PUSH: blocks while the queue held 16 words at the start of the cycle (R285, R268, R26). -/
def execFmtPush (g : Guard) (a : AReg) (s : State) : Host.Outcome State Fault Refusal :=
  apIssue (.fmtPush g a) g s fun s => do
    await (max s.r.start.fq s.r.fq.length < 16)
    return (s.updR fun r => { r with fq := r.fq ++ [(s.areg a).setWidth 32] }, .next)

/-- SKIP.TEST (R296), by the block as the last completed G.CFG has configured it: the spec does not say whether one that is
issued and not complete counts (log 116). -/
def execSkipTest (g t : Guard) (a : AReg) (b : Fin 64) (s : State) : Host.Outcome State Fault Refusal :=
  apIssue (.skipTest g t a b) g s fun s =>
    match s.r.gz.blocks[b] with
    | none => raise 0x58
    | some blk => do
      let n := (s.areg a).toNat
      need (n < blk.tiles) 0x59
      let ks := [blk.recKey s.entry n 18, blk.mapKey s.entry (n / 8)]
      need (!((granulesOf ks).any s.mem.isBad)) 0x41
      await (blk.decidedAt s.mem s.entry n)
      return (s.setQ t (blk.mapBit s.mem s.entry n), .next)

end Sys2Proof.Machine
end

