-- ==== Sys2Proof/WellFormed.lean ====
section
/-! DEFINITION. Well-formed steps: an instruction whose own fields raise no cause (R197). The events
of the table carry no encoding, and every one is well formed. -/

namespace Sys2Proof

/-- No field of the instruction is unassigned, reserved or an illegal selector. -/
def Instr.wellFormed (i : Instr) : Bool := Machine.staticCause i == none

end Sys2Proof
end

