-- ==== Sys2Proof/Decode.lean ====
section
/-! DEFINITION. The decoder, from bytes to an instruction or a cause (R173 to R193), and after it the
encoder, written from the same tables. Values of fields that an instruction leaves unassigned are no
matter of the decoder's: `Machine.staticCause` finds them. -/

namespace Sys2Proof

open Machine

/-- A register field of the word (R175). -/
def reg (w lo : Nat) : AReg := Fin.ofNat 32 (w / 2 ^ lo)
/-- A 3-bit field: a guard, a predicate or a small number. -/
def f3 (w lo : Nat) : Fin 8 := Fin.ofNat 8 (w / 2 ^ lo)
/-- A 4-bit field. -/
def f4 (w lo : Nat) : Fin 16 := Fin.ofNat 16 (w / 2 ^ lo)
/-- An immediate field of n bits. -/
def imm (n w lo : Nat) : BitVec n := BitVec.ofNat n (w / 2 ^ lo)

/-- The AR fields. -/
def rrr (w : Nat) : RRR := ⟨f3 w 23, reg w 18, reg w 13, reg w 8⟩
/-- The AR fields of an instruction that leaves b unused. -/
def rr (w : Nat) : RR := ⟨f3 w 23, reg w 18, reg w 13⟩
/-- The AI fields. -/
def ri (w : Nat) : RI := ⟨f3 w 23, reg w 18, reg w 13, imm 13 w 0⟩
/-- The fields of an immediate shift. -/
def rsh (w : Nat) : RSh := ⟨f3 w 23, reg w 18, reg w 13, Fin.ofNat 64 w⟩
/-- The fields of BFX and BFI. -/
def rbf (w : Nat) : RBf := ⟨f3 w 23, reg w 18, reg w 13, Fin.ofNat 64 (w / 2 ^ 7), Fin.ofNat 64 (w / 2 ^ 1)⟩
/-- The AM fields. -/
def rmem (w : Nat) : RMem := ⟨f3 w 23, reg w 18, reg w 13, f3 w 10, imm 10 w 0⟩
/-- The fields of LDX and STX. -/
def ridx (w : Nat) : RIdx := ⟨f3 w 23, reg w 18, reg w 13, reg w 8, Fin.ofNat 4 (w / 2 ^ 3), f3 w 0⟩
/-- The AS fields. -/
def sab (w : Nat) : SAB := ⟨f3 w 23, reg w 18, reg w 13, reg w 8⟩
/-- The AS fields of an operation with one register. -/
def sa (w : Nat) : SA := ⟨f3 w 23, reg w 18, reg w 13⟩
/-- The AS fields of an operation without a register. -/
def so (w : Nat) : SO := ⟨f3 w 23, reg w 18⟩

/-- The instruction when the fields that must be zero are; otherwise cause 0x02 (R177), unless the instruction's other
fields name an unassigned encoding, whose cause 0x01 ranks first (R197). -/
def ifZero (n : Nat) (i : Instr) : Except Cause Instr :=
  if n = 0 then .ok i else .error (if staticCause i = some cUnassigned then cUnassigned else cReserved)

/-- The ALU group by its function field (R181). -/
def decodeAlu (w : Nat) : Except Cause Instr :=
  match fld w 7 0 with
  | 0x00 => .ok (.add (rrr w)) | 0x01 => .ok (.sub (rrr w)) | 0x02 => .ok (.mul (rrr w))
  | 0x03 => .ok (.mulh (rrr w)) | 0x04 => .ok (.mulhu (rrr w)) | 0x05 => .ok (.divu (rrr w))
  | 0x06 => .ok (.remu (rrr w)) | 0x07 => .ok (.and (rrr w)) | 0x08 => .ok (.or (rrr w))
  | 0x09 => .ok (.xor (rrr w)) | 0x0A => .ok (.shl (rrr w)) | 0x0B => .ok (.shr (rrr w))
  | 0x0C => .ok (.sra (rrr w)) | 0x0D => .ok (.min (rrr w)) | 0x0E => .ok (.max (rrr w))
  | 0x0F => .ok (.minu (rrr w)) | 0x10 => .ok (.maxu (rrr w))
  | 0x11 => ifZero (fld w 12 8) (.clz (rr w)) | 0x12 => ifZero (fld w 12 8) (.popc (rr w))
  | _ => .error cUnassigned

/-- The AMO group by its function field (R181, R240). -/
def decodeAmo (w : Nat) : Except Cause Instr :=
  match fld w 7 0 with
  | 0 => .ok (.amoAdd (rrr w)) | 1 => .ok (.amoAnd (rrr w)) | 2 => .ok (.amoOr (rrr w))
  | 3 => .ok (.amoXor (rrr w)) | 4 => .ok (.amoMin (rrr w)) | 5 => .ok (.amoMax (rrr w))
  | 6 => .ok (.amoMinu (rrr w)) | 7 => .ok (.amoMaxu (rrr w)) | 8 => .ok (.amoSwap (rrr w))
  | _ => .error cUnassigned

/-- The SYNC group (R286). -/
def decodeSync (w : Nat) : Except Cause Instr :=
  match fld w 12 11 with
  | 0 => .ok (.syncAcq (f3 w 23) (reg w 18) (reg w 13) (f3 w 8) (imm 8 w 0))
  | 1 => ifZero (fld w 22 18) (.syncRel (f3 w 23) (reg w 13) (f3 w 8) (imm 8 w 0))
  | 2 => ifZero (fld w 22 13) (.syncFence (f3 w 23) (f3 w 8) (imm 8 w 0))
  | _ => ifZero (fld w 22 13 + fld w 10 0) (.syncLaunchEarly (f3 w 23))

/-- The BAR group (R287). -/
def decodeBar (w : Nat) : Except Cause Instr :=
  match fld w 12 11 with
  | 0 => ifZero (fld w 22 13 + fld w 10 8) (.barArrive (f3 w 23) (imm 8 w 0))
  | 1 => ifZero (fld w 22 13 + fld w 10 8) (.barWait (f3 w 23) (imm 8 w 0))
  | 2 => ifZero (fld w 22 18 + fld w 10 8) (.barExpect (f3 w 23) (reg w 13) (imm 8 w 0))
  | _ => .error cUnassigned

/-- The TASK group (R289). -/
def decodeTask (w : Nat) : Except Cause Instr :=
  match fld w 12 11 with
  | 0 => ifZero (fld w 22 18 + fld w 10 0) (.taskSpawn (f3 w 23) (reg w 13))
  | 1 => ifZero (fld w 22 13 + fld w 10 0) (.taskNext (f3 w 23))
  | 2 => ifZero (fld w 22 13 + fld w 10 0) (.taskDone (f3 w 23))
  | _ => .error cUnassigned

/-- The FUT group (R292). -/
def decodeFut (w : Nat) : Except Cause Instr :=
  match fld w 12 11 with
  | 0 => ifZero (fld w 10 3) (.futRead (rr w) (f3 w 0))
  | 1 => ifZero (fld w 10 0) (.futFill (rr w))
  | _ => .error cUnassigned

/-- The TT group (R295). -/
def decodeTt (w : Nat) : Except Cause Instr :=
  match fld w 12 11 with
  | 0 => ifZero (fld w 22 13 + fld w 10 10) (.ttWait (f3 w 23) (imm 10 w 0))
  | 1 => ifZero (fld w 22 13 + fld w 10 10) (.ttDone (f3 w 23) (imm 10 w 0))
  | _ => .error cUnassigned

/-- The MISC group (R181, R244, R219, R296). -/
def decodeMisc (w : Nat) : Except Cause Instr :=
  match fld w 12 11 with
  | 0 => ifZero (fld w 22 21 + fld w 10 6) (.skipTest (f3 w 23) (f3 w 18) (reg w 13) (Fin.ofNat 64 w))
  | 1 =>
    match fld w 10 8 with
    | 0 => .ok (.alarmSet (rr w) (imm 8 w 0))
    | 1 => .ok (.alarmClr (rr w) (imm 8 w 0))
    | _ => .error cUnassigned
  | 2 => ifZero (fld w 17 13) (.csrR (f3 w 23) (reg w 18) (imm 11 w 0))
  | _ => ifZero (fld w 22 18) (.csrW (f3 w 23) (reg w 13) (imm 11 w 0))

/-- The SYS group (R247). -/
def decodeSys (w : Nat) : Except Cause Instr :=
  match fld w 12 11 with
  | 0 => ifZero (fld w 22 13 + fld w 10 0) (.halt (f3 w 23))
  | 1 => ifZero (fld w 22 13 + fld w 10 0) (.yield (f3 w 23))
  | 2 => ifZero (fld w 22 13 + fld w 10 3) (.trap (f3 w 23) (f3 w 0))
  | _ => ifZero (fld w 22 18) (.traceMark (f3 w 23) (reg w 13) (imm 11 w 0))

/-- An A-set word (R180 to R182). -/
def decodeA (w : Nat) : Except Cause Instr :=
  match fld w 31 26 with
  | 0x01 => decodeAlu w
  | 0x02 => .ok (.addi (ri w)) | 0x03 => .ok (.andi (ri w)) | 0x04 => .ok (.ori (ri w))
  | 0x05 => .ok (.xori (ri w))
  | 0x06 => ifZero (fld w 12 6) (.shli (rsh w))
  | 0x07 => ifZero (fld w 12 6) (.shri (rsh w))
  | 0x08 => ifZero (fld w 12 6) (.srai (rsh w))
  | 0x09 => .ok (.muli (ri w))
  | 0x0A => .ok (.lui (f3 w 23) (reg w 18) (imm 18 w 0))
  | 0x0B => ifZero (fld w 7 5) (.madd (rrr w) (reg w 0))
  | 0x0C => if w % 2 = 0 then .ok (.bfx (rbf w)) else .ok (.bfxS (rbf w))
  | 0x0D => ifZero (w % 2) (.bfi (rbf w))
  | 0x0E => ifZero (fld w 7 3) (.sel (rrr w) (f3 w 0))
  | 0x10 => ifZero (fld w 2 0) (.cmp (f3 w 23) (f3 w 20) (f3 w 17) (f4 w 13) (reg w 8) (reg w 3))
  | 0x11 => .ok (.cmpi (f3 w 23) (f3 w 20) (f3 w 17) (f4 w 13) (reg w 8) (imm 8 w 0))
  | 0x12 => ifZero (fld w 12 11 + fld w 7 6 + fld w 2 0)
      (.plog (f3 w 23) (f3 w 20) (f3 w 17) (f4 w 13) (f3 w 8) (f3 w 3))
  | 0x13 => .ok (.b (f3 w 23) (imm 23 w 0))
  | 0x14 => .ok (.call (f3 w 23) (imm 23 w 0))
  | 0x15 => ifZero (fld w 12 0) (.jr (rr w))
  | 0x16 => ifZero (fld w 17 12) (.loop (f3 w 23) (reg w 18) (imm 12 w 0))
  | 0x17 => .ok (.loopi (f3 w 23) (imm 14 w 9) (imm 9 w 0))
  | 0x18 => .ok (.ld (rmem w)) | 0x19 => .ok (.st (rmem w))
  | 0x1A => ifZero (fld w 7 5) (.ldx (ridx w))
  | 0x1B => ifZero (fld w 7 5) (.stx (ridx w))
  | 0x1C => if fld w 12 10 = 3 then ifZero (fld w 22 18) (.pref (f3 w 23) (reg w 13) (imm 10 w 0))
      else if fld w 12 10 = 7 then .error cUnassigned else .error cReserved
  | 0x1D => decodeAmo w
  | 0x1E => ifZero (fld w 7 0) (.cas (rrr w))
  | 0x20 => ifZero (fld w 7 1) (if w % 2 = 0 then .sOpen (sab w) else .sOpenH (sab w))
  | 0x21 => ifZero (fld w 7 3) (.sPat (sab w) (f3 w 0))
  | 0x22 => ifZero (fld w 17 0) (.sGo (so w))
  | 0x23 => ifZero (fld w 7 2) (.sAddr (sab w) (Fin.ofNat 4 w))
  | 0x24 => ifZero (fld w 7 2) (.sData (sab w) (Fin.ofNat 4 w))
  | 0x25 => ifZero (fld w 12 0) (.sClaim (sa w))
  | 0x26 => ifZero (fld w 12 2)
      (match fld w 1 0 with
        | 0 => .sCommit (sa w) | 1 => .sCommitEl (sa w) | 2 => .sCommitEnd (sa w) | _ => .sCommitElEnd (sa w))
  | 0x27 => ifZero (fld w 12 0) (.sAwait (sa w))
  | 0x28 => ifZero (fld w 12 0) (.sRetire (sa w))
  | 0x29 => ifZero (fld w 17 1) (if w % 2 = 0 then .sMark (so w) else .sMarkRel (so w))
  | 0x2A => ifZero (fld w 17 0) (.sRewind (so w))
  | 0x2B => ifZero (fld w 17 13 + fld w 7 6) (.sFork (so w) (reg w 8) (f4 w 2) (Fin.ofNat 4 w))
  | 0x2C => ifZero (fld w 17 1) (if w % 2 = 0 then .sClose (so w) else .sCloseW (so w))
  | 0x2D => ifZero (fld w 12 4) (.sStat (so w) (reg w 13) (f4 w 0))
  | 0x2E => ifZero (fld w 22 18 + fld w 12 0) (.xqPush (f3 w 23) (reg w 13))
  | 0x2F => ifZero (fld w 17 0) (.yqPop (f3 w 23) (reg w 18))
  | 0x30 => .ok (.cpAsync (rrr w) (Fin.ofNat 128 (w / 2)) (w % 2 == 1))
  | 0x31 => ifZero (fld w 12 3) (.cpChain (rr w) (f3 w 0))
  | 0x32 => ifZero (fld w 22 1) (if w % 2 = 0 then .cpFence (f3 w 23) else .cpFenceAll (f3 w 23))
  | 0x34 => ifZero (fld w 7 2) (.gxRows (sab w) (w / 2 % 2 == 1) (w % 2 == 1))
  | 0x35 => ifZero (fld w 7 2) (.sxRows (sab w) (w / 2 % 2 == 1) (w % 2 == 1))
  | 0x36 => ifZero (fld w 22 22 + fld w 16 16)
      (if w / 2 ^ 17 % 2 = 0 then .hLoad (f3 w 23) (f4 w 18) (imm 16 w 0)
        else .hLoadNone (f3 w 23) (f4 w 18) (imm 16 w 0))
  | 0x37 => ifZero (fld w 17 17 + fld w 12 8) (.hGet (f3 w 23) (reg w 18) (f4 w 13) (imm 8 w 0))
  | 0x38 => ifZero (fld w 22 18 + fld w 12 0) (.fmtPush (f3 w 23) (reg w 13))
  | 0x39 => decodeSync w
  | 0x3A => decodeBar w
  | 0x3B => decodeTask w
  | 0x3C => decodeFut w
  | 0x3D => decodeTt w
  | 0x3E => decodeMisc w
  | 0x3F => decodeSys w
  | _ => .error cUnassigned

/-- The fields of an E-set word (R183). -/
def ef (w : Nat) : EF :=
  ⟨f4 w 52, w / 2 ^ 51 % 2 == 1, imm 8 w 43, imm 8 w 35, imm 8 w 27, imm 8 w 19, imm 5 w 14, imm 6 w 8, imm 8 w 0⟩

/-- Whether an E-set word is the first of a long form (R191). -/
def isLong (w : Nat) : Bool := 0xF0 ≤ fld w 63 56

/-- An E-set word with the word that follows it, which only a long form reads (R191 to R193). -/
def decodeE (w lit : Nat) : Except Cause Instr :=
  let f := ef w
  match fld w 63 56 with
  | 0x01 => .ok (.vadd f) | 0x02 => .ok (.vsub f) | 0x03 => .ok (.vmul f) | 0x04 => .ok (.vfma f)
  | 0x05 => .ok (.vfms f) | 0x06 => .ok (.vmin f) | 0x07 => .ok (.vmax f) | 0x08 => .ok (.vabs f)
  | 0x09 => .ok (.vneg f) | 0x0A => .ok (.vsfu f)
  | 0x10 => .ok (.viadd f) | 0x11 => .ok (.visub f) | 0x12 => .ok (.vimul f) | 0x13 => .ok (.vimad f)
  | 0x14 => .ok (.vand f) | 0x15 => .ok (.vor f) | 0x16 => .ok (.vxor f) | 0x17 => .ok (.vshl f)
  | 0x18 => .ok (.vshr f) | 0x19 => .ok (.vsra f) | 0x1A => .ok (.vimin f) | 0x1B => .ok (.vimax f)
  | 0x20 => .ok (.vcmp f) | 0x21 => .ok (.mlog f) | 0x22 => .ok (.mpop f)
  | 0x28 => .ok (.vcvt f) | 0x29 => .ok (.vpack f) | 0x2A => .ok (.vunpack f)
  | 0x2B => .ok (.vred f) | 0x2C => .ok (.vscan f) | 0x2D => .ok (.vshuf f) | 0x2E => .ok (.vbcast f)
  | 0x2F => .ok (if f.x.getLsbD 6 then .vslideUp f else .vslideDn f)
  | 0x30 => .ok (.vsel f)
  | 0x31 => .ok (if f.fn.getLsbD 0 then .vkeyHash f else .vkeyPack f)
  | 0x38 => .ok (.sadd f) | 0x39 => .ok (.smul f) | 0x3A => .ok (.sfma f) | 0x3B => .ok (.smov f)
  | 0x3C => .ok (.scmp f) | 0x3D => .ok (.scvt f)
  | 0x40 => .ok (.vmov f) | 0x41 => .ok (.xqPop f) | 0x42 => .ok (.yqPush f)
  | 0x48 => .ok (.vallot f) | 0x49 => .ok (.vshrink f) | 0x4A => .ok (.vpushm f) | 0x4B => .ok (.vpopm f)
  | 0x50 => .ok (.eb f)
  | 0x51 => .ok (if f.fn.getLsbD 3 then .eloopPipe f else .eloop f)
  | 0x52 => .ok (.estage f) | 0x53 => .ok (.ehalt f)
  | 0x60 => .ok (if f.fn.toNat % 4 = 3 then .wloadSc f else .wload f)
  | 0x61 => .ok (.mxDot f) | 0x62 => .ok (.mxDots f) | 0x63 => .ok (.rndSet f) | 0x64 => .ok (.mxWait f)
  | 0x70 => .ok (.jCfg f) | 0x71 => .ok (.jClear f) | 0x72 => .ok (.jAcc f) | 0x73 => .ok (.jMerge f)
  | 0x74 => .ok (.jDrain f) | 0x75 => .ok (.jDraino f)
  | 0x76 => .ok (if f.fn.getLsbD 0 then .jLookP f else .jLook f)
  | 0x77 => .ok (.jStat f) | 0x78 => .ok (.jWait f)
  | 0x80 => .ok (.gCfg f) | 0x81 => .ok (.gSig f) | 0x82 => .ok (.gReuse f) | 0x83 => .ok (.gKeep f)
  | 0x84 => .ok (match f.fn.toNat % 4 with
      | 0 => .gMapR f | 1 => .gMapW f | 2 => .gMapStep f | _ => .gMapTile f)
  | 0x85 => .ok (.gStep f)
  | 0x90 => .ok (.sDrop f) | 0x91 => .ok (.etrap f) | 0x92 => .ok (.ecsrR f) | 0x93 => .ok (.ecsrW f)
  | 0xF0 => .ok (.vli f (BitVec.ofNat 64 lit)) | 0xF1 => .ok (.sli f (BitVec.ofNat 64 lit))
  | _ => .error cUnassigned

/-- An A-set instruction from its four bytes, lowest address first (R3, R173). -/
def decodeABytes (bs : List Byte) : Except Cause Instr := decodeA (leNat (bs.take 4))

/-- An E-set instruction from its eight bytes and the eight that follow (R3, R173, R191). -/
def decodeEBytes (bs : List Byte) : Except Cause Instr :=
  decodeE (leNat (bs.take 8)) (leNat ((bs.drop 8).take 8))

/-- The instruction that this decoder reads from a word whose bits are numbered as the opcode table
numbers them: an A-set word of 32 bits, or an E-set word of 64 bits with its literal above it. -/
def decodeTableWord (nbits w : Nat) : Option Instr :=
  if nbits ≤ 32 then (decodeABytes (leBytes 4 w)).toOption else (decodeEBytes (leBytes 16 w)).toOption

/-! ## The encoder -/

/-- The word of an AR format with opcode op and the low byte fn (R175). -/
def encRRR (op : Nat) (f : RRR) (fn : Nat) : Nat :=
  op * 2 ^ 26 + f.g.val * 2 ^ 23 + f.d.val * 2 ^ 18 + f.a.val * 2 ^ 13 + f.b.val * 2 ^ 8 + fn
/-- An AR word whose b field is given as part of the low 13 bits. -/
def encRR (op : Nat) (f : RR) (low : Nat) : Nat :=
  op * 2 ^ 26 + f.g.val * 2 ^ 23 + f.d.val * 2 ^ 18 + f.a.val * 2 ^ 13 + low
/-- An AI word. -/
def encRI (op : Nat) (f : RI) : Nat :=
  op * 2 ^ 26 + f.g.val * 2 ^ 23 + f.d.val * 2 ^ 18 + f.a.val * 2 ^ 13 + f.i.toNat
/-- An immediate shift. -/
def encSh (op : Nat) (f : RSh) : Nat :=
  op * 2 ^ 26 + f.g.val * 2 ^ 23 + f.d.val * 2 ^ 18 + f.a.val * 2 ^ 13 + f.i.val
/-- A bit-field instruction with its signed bit. -/
def encBf (op : Nat) (f : RBf) (s : Nat) : Nat :=
  op * 2 ^ 26 + f.g.val * 2 ^ 23 + f.d.val * 2 ^ 18 + f.a.val * 2 ^ 13 + f.p.val * 2 ^ 7 + f.l.val * 2 + s
/-- An AM word. -/
def encMem (op : Nat) (f : RMem) : Nat :=
  op * 2 ^ 26 + f.g.val * 2 ^ 23 + f.d.val * 2 ^ 18 + f.a.val * 2 ^ 13 + f.s.val * 2 ^ 10 + f.o.toNat
/-- An LDX or STX word. -/
def encIdx (op : Nat) (f : RIdx) : Nat :=
  op * 2 ^ 26 + f.g.val * 2 ^ 23 + f.d.val * 2 ^ 18 + f.a.val * 2 ^ 13 + f.b.val * 2 ^ 8 + f.k.val * 2 ^ 3 + f.s.val
/-- An AS word with two registers. -/
def encSAB (op : Nat) (f : SAB) (fn : Nat) : Nat :=
  op * 2 ^ 26 + f.g.val * 2 ^ 23 + f.st.val * 2 ^ 18 + f.a.val * 2 ^ 13 + f.b.val * 2 ^ 8 + fn
/-- An AS word with one register. -/
def encSA (op : Nat) (f : SA) (fn : Nat) : Nat :=
  op * 2 ^ 26 + f.g.val * 2 ^ 23 + f.st.val * 2 ^ 18 + f.a.val * 2 ^ 13 + fn
/-- An AS word without registers. -/
def encSO (op : Nat) (f : SO) (low : Nat) : Nat := op * 2 ^ 26 + f.g.val * 2 ^ 23 + f.st.val * 2 ^ 18 + low
/-- An AG word. -/
def encAG (op : Nat) (g : Guard) (d a fn low : Nat) : Nat :=
  op * 2 ^ 26 + g.val * 2 ^ 23 + d * 2 ^ 18 + a * 2 ^ 13 + fn * 2 ^ 11 + low

/-- The word of an A-set instruction (R175 to R181); none for the others. -/
def encodeA : Instr → Option Nat
  | .add f => some (encRRR 1 f 0x00) | .sub f => some (encRRR 1 f 0x01) | .mul f => some (encRRR 1 f 0x02)
  | .mulh f => some (encRRR 1 f 0x03) | .mulhu f => some (encRRR 1 f 0x04) | .divu f => some (encRRR 1 f 0x05)
  | .remu f => some (encRRR 1 f 0x06) | .and f => some (encRRR 1 f 0x07) | .or f => some (encRRR 1 f 0x08)
  | .xor f => some (encRRR 1 f 0x09) | .shl f => some (encRRR 1 f 0x0A) | .shr f => some (encRRR 1 f 0x0B)
  | .sra f => some (encRRR 1 f 0x0C) | .min f => some (encRRR 1 f 0x0D) | .max f => some (encRRR 1 f 0x0E)
  | .minu f => some (encRRR 1 f 0x0F) | .maxu f => some (encRRR 1 f 0x10)
  | .clz f => some (encRR 1 f 0x11) | .popc f => some (encRR 1 f 0x12)
  | .addi f => some (encRI 0x02 f) | .andi f => some (encRI 0x03 f) | .ori f => some (encRI 0x04 f)
  | .xori f => some (encRI 0x05 f) | .shli f => some (encSh 0x06 f) | .shri f => some (encSh 0x07 f)
  | .srai f => some (encSh 0x08 f) | .muli f => some (encRI 0x09 f)
  | .lui g d i => some (0x0A * 2 ^ 26 + g.val * 2 ^ 23 + d.val * 2 ^ 18 + i.toNat)
  | .madd f c => some (encRRR 0x0B f c.val)
  | .bfx f => some (encBf 0x0C f 0) | .bfxS f => some (encBf 0x0C f 1) | .bfi f => some (encBf 0x0D f 0)
  | .sel f n => some (encRRR 0x0E f n.val)
  | .cmp g t f c a b => some (0x10 * 2 ^ 26 + g.val * 2 ^ 23 + t.val * 2 ^ 20 + f.val * 2 ^ 17 + c.val * 2 ^ 13 +
      a.val * 2 ^ 8 + b.val * 2 ^ 3)
  | .cmpi g t f c a i => some (0x11 * 2 ^ 26 + g.val * 2 ^ 23 + t.val * 2 ^ 20 + f.val * 2 ^ 17 + c.val * 2 ^ 13 +
      a.val * 2 ^ 8 + i.toNat)
  | .plog g t f n a b => some (0x12 * 2 ^ 26 + g.val * 2 ^ 23 + t.val * 2 ^ 20 + f.val * 2 ^ 17 + n.val * 2 ^ 13 +
      a.val * 2 ^ 8 + b.val * 2 ^ 3)
  | .b g o => some (0x13 * 2 ^ 26 + g.val * 2 ^ 23 + o.toNat)
  | .call g o => some (0x14 * 2 ^ 26 + g.val * 2 ^ 23 + o.toNat)
  | .jr f => some (encRR 0x15 f 0)
  | .loop g c l => some (0x16 * 2 ^ 26 + g.val * 2 ^ 23 + c.val * 2 ^ 18 + l.toNat)
  | .loopi g n l => some (0x17 * 2 ^ 26 + g.val * 2 ^ 23 + n.toNat * 2 ^ 9 + l.toNat)
  | .ld f => some (encMem 0x18 f) | .st f => some (encMem 0x19 f)
  | .ldx f => some (encIdx 0x1A f) | .stx f => some (encIdx 0x1B f)
  | .pref g a o => some (0x1C * 2 ^ 26 + g.val * 2 ^ 23 + a.val * 2 ^ 13 + 3 * 2 ^ 10 + o.toNat)
  | .amoAdd f => some (encRRR 0x1D f 0) | .amoAnd f => some (encRRR 0x1D f 1) | .amoOr f => some (encRRR 0x1D f 2)
  | .amoXor f => some (encRRR 0x1D f 3) | .amoMin f => some (encRRR 0x1D f 4) | .amoMax f => some (encRRR 0x1D f 5)
  | .amoMinu f => some (encRRR 0x1D f 6) | .amoMaxu f => some (encRRR 0x1D f 7) | .amoSwap f => some (encRRR 0x1D f 8)
  | .cas f => some (encRRR 0x1E f 0)
  | .sOpen f => some (encSAB 0x20 f 0) | .sOpenH f => some (encSAB 0x20 f 1)
  | .sPat f w => some (encSAB 0x21 f w.val) | .sGo f => some (encSO 0x22 f 0)
  | .sAddr f k => some (encSAB 0x23 f k.val) | .sData f z => some (encSAB 0x24 f z.val)
  | .sClaim f => some (encSA 0x25 f 0)
  | .sCommit f => some (encSA 0x26 f 0) | .sCommitEl f => some (encSA 0x26 f 1)
  | .sCommitEnd f => some (encSA 0x26 f 2) | .sCommitElEnd f => some (encSA 0x26 f 3)
  | .sAwait f => some (encSA 0x27 f 0) | .sRetire f => some (encSA 0x28 f 0)
  | .sMark f => some (encSO 0x29 f 0) | .sMarkRel f => some (encSO 0x29 f 1) | .sRewind f => some (encSO 0x2A f 0)
  | .sFork f s k j => some (encSO 0x2B f (s.val * 2 ^ 8 + k.val * 2 ^ 2 + j.val))
  | .sClose f => some (encSO 0x2C f 0) | .sCloseW f => some (encSO 0x2C f 1)
  | .sStat f d w => some (encSO 0x2D f (d.val * 2 ^ 13 + w.val))
  | .xqPush g a => some (encAG 0x2E g 0 a.val 0 0) | .yqPop g d => some (encAG 0x2F g d.val 0 0 0)
  | .cpAsync f t c => some (encRRR 0x30 f (t.val * 2 + c.toNat))
  | .cpChain f ch => some (encRR 0x31 f ch.val)
  | .cpFence g => some (encAG 0x32 g 0 0 0 0) | .cpFenceAll g => some (encAG 0x32 g 0 0 0 1)
  | .gxRows f z c => some (encSAB 0x34 f (z.toNat * 2 + c.toNat))
  | .sxRows f z c => some (encSAB 0x35 f (z.toNat * 2 + c.toNat))
  | .hLoad g h i => some (0x36 * 2 ^ 26 + g.val * 2 ^ 23 + h.val * 2 ^ 18 + i.toNat)
  | .hLoadNone g h i => some (0x36 * 2 ^ 26 + g.val * 2 ^ 23 + h.val * 2 ^ 18 + 2 ^ 17 + i.toNat)
  | .hGet g d h f => some (0x37 * 2 ^ 26 + g.val * 2 ^ 23 + d.val * 2 ^ 18 + h.val * 2 ^ 13 + f.toNat)
  | .fmtPush g a => some (encAG 0x38 g 0 a.val 0 0)
  | .syncAcq g d a k n => some (encAG 0x39 g d.val a.val 0 (k.val * 2 ^ 8 + n.toNat))
  | .syncRel g a k n => some (encAG 0x39 g 0 a.val 1 (k.val * 2 ^ 8 + n.toNat))
  | .syncFence g k n => some (encAG 0x39 g 0 0 2 (k.val * 2 ^ 8 + n.toNat))
  | .syncLaunchEarly g => some (encAG 0x39 g 0 0 3 0)
  | .barArrive g n => some (encAG 0x3A g 0 0 0 n.toNat) | .barWait g n => some (encAG 0x3A g 0 0 1 n.toNat)
  | .barExpect g a n => some (encAG 0x3A g 0 a.val 2 n.toNat)
  | .taskSpawn g a => some (encAG 0x3B g 0 a.val 0 0) | .taskNext g => some (encAG 0x3B g 0 0 1 0)
  | .taskDone g => some (encAG 0x3B g 0 0 2 0)
  | .futRead f w => some (encRR 0x3C f w.val) | .futFill f => some (encRR 0x3C f (2 ^ 11))
  | .ttWait g b => some (encAG 0x3D g 0 0 0 b.toNat) | .ttDone g b => some (encAG 0x3D g 0 0 1 b.toNat)
  | .skipTest g t a b => some (encAG 0x3E g t.val a.val 0 b.val)
  | .alarmSet f p => some (encRR 0x3E f (2 ^ 11 + p.toNat))
  | .alarmClr f p => some (encRR 0x3E f (2 ^ 11 + 2 ^ 8 + p.toNat))
  | .csrR g d n => some (encAG 0x3E g d.val 0 2 n.toNat) | .csrW g a n => some (encAG 0x3E g 0 a.val 3 n.toNat)
  | .halt g => some (encAG 0x3F g 0 0 0 0) | .yield g => some (encAG 0x3F g 0 0 1 0)
  | .trap g n => some (encAG 0x3F g 0 0 2 n.val) | .traceMark g a t => some (encAG 0x3F g 0 a.val 3 t.toNat)
  | _ => none

/-- The word of an E-set instruction with opcode op (R183). -/
def encEF (op : Nat) (f : EF) : Nat :=
  op * 2 ^ 56 + f.g.val * 2 ^ 52 + f.nw.toNat * 2 ^ 51 + f.d.toNat * 2 ^ 43 + f.a.toNat * 2 ^ 35 +
    f.b.toNat * 2 ^ 27 + f.c.toNat * 2 ^ 19 + f.ty.toNat * 2 ^ 14 + f.fn.toNat * 2 ^ 8 + f.x.toNat

/-- The opcode of an E-set instruction with its fields (R192); none for the others. -/
def opcodeE : Instr → Option (Nat × EF)
  | .vadd f => some (0x01, f) | .vsub f => some (0x02, f) | .vmul f => some (0x03, f) | .vfma f => some (0x04, f)
  | .vfms f => some (0x05, f) | .vmin f => some (0x06, f) | .vmax f => some (0x07, f) | .vabs f => some (0x08, f)
  | .vneg f => some (0x09, f) | .vsfu f => some (0x0A, f)
  | .viadd f => some (0x10, f) | .visub f => some (0x11, f) | .vimul f => some (0x12, f) | .vimad f => some (0x13, f)
  | .vand f => some (0x14, f) | .vor f => some (0x15, f) | .vxor f => some (0x16, f) | .vshl f => some (0x17, f)
  | .vshr f => some (0x18, f) | .vsra f => some (0x19, f) | .vimin f => some (0x1A, f) | .vimax f => some (0x1B, f)
  | .vcmp f => some (0x20, f) | .mlog f => some (0x21, f) | .mpop f => some (0x22, f)
  | .vcvt f => some (0x28, f) | .vpack f => some (0x29, f) | .vunpack f => some (0x2A, f)
  | .vred f => some (0x2B, f) | .vscan f => some (0x2C, f) | .vshuf f => some (0x2D, f) | .vbcast f => some (0x2E, f)
  | .vslideDn f => some (0x2F, f) | .vslideUp f => some (0x2F, f) | .vsel f => some (0x30, f)
  | .vkeyPack f => some (0x31, f) | .vkeyHash f => some (0x31, f)
  | .sadd f => some (0x38, f) | .smul f => some (0x39, f) | .sfma f => some (0x3A, f) | .smov f => some (0x3B, f)
  | .scmp f => some (0x3C, f) | .scvt f => some (0x3D, f)
  | .vmov f => some (0x40, f) | .xqPop f => some (0x41, f) | .yqPush f => some (0x42, f)
  | .vallot f => some (0x48, f) | .vshrink f => some (0x49, f) | .vpushm f => some (0x4A, f) | .vpopm f => some (0x4B, f)
  | .eb f => some (0x50, f) | .eloop f => some (0x51, f) | .eloopPipe f => some (0x51, f)
  | .estage f => some (0x52, f) | .ehalt f => some (0x53, f)
  | .wload f => some (0x60, f) | .wloadSc f => some (0x60, f) | .mxDot f => some (0x61, f) | .mxDots f => some (0x62, f)
  | .rndSet f => some (0x63, f) | .mxWait f => some (0x64, f)
  | .jCfg f => some (0x70, f) | .jClear f => some (0x71, f) | .jAcc f => some (0x72, f) | .jMerge f => some (0x73, f)
  | .jDrain f => some (0x74, f) | .jDraino f => some (0x75, f) | .jLook f => some (0x76, f) | .jLookP f => some (0x76, f)
  | .jStat f => some (0x77, f) | .jWait f => some (0x78, f)
  | .gCfg f => some (0x80, f) | .gSig f => some (0x81, f) | .gReuse f => some (0x82, f) | .gKeep f => some (0x83, f)
  | .gMapR f => some (0x84, f) | .gMapW f => some (0x84, f) | .gMapStep f => some (0x84, f) | .gMapTile f => some (0x84, f)
  | .gStep f => some (0x85, f)
  | .sDrop f => some (0x90, f) | .etrap f => some (0x91, f) | .ecsrR f => some (0x92, f) | .ecsrW f => some (0x93, f)
  | .vli f _ => some (0xF0, f) | .sli f _ => some (0xF1, f)
  | _ => none

/-- The field of an E-set instruction that selects it among those of its opcode has its value: the
slide direction, the key function, the pipelined bit, the WLOAD form, the presence form, the map form. -/
def Instr.formOk : Instr → Bool
  | .vslideDn f => !f.x.getLsbD 6 | .vslideUp f => f.x.getLsbD 6
  | .vkeyPack f => !f.fn.getLsbD 0 | .vkeyHash f => f.fn.getLsbD 0
  | .eloop f => !f.fn.getLsbD 3 | .eloopPipe f => f.fn.getLsbD 3
  | .wload f => f.fn.toNat % 4 != 3 | .wloadSc f => f.fn.toNat % 4 == 3
  | .jLook f => !f.fn.getLsbD 0 | .jLookP f => f.fn.getLsbD 0
  | .gMapR f => f.fn.toNat % 4 == 0 | .gMapW f => f.fn.toNat % 4 == 1
  | .gMapStep f => f.fn.toNat % 4 == 2 | .gMapTile f => f.fn.toNat % 4 == 3
  | _ => true

/-- The literal of a long form (R191). -/
def literalE : Instr → Option W64
  | .vli _ l => some l | .sli _ l => some l
  | _ => none

/-- The bytes of an instruction in memory order: four for the A-set, eight for the E-set, sixteen for
a long form; none for the events of the table, which no word encodes. -/
def encode (i : Instr) : List Byte :=
  match encodeA i with
  | some w => leBytes 4 w
  | none =>
    match opcodeE i with
    | some (op, f) => leBytes 8 (encEF op f) ++ (match literalE i with | some l => leBytes 8 l.toNat | none => [])
    | none => []

/-- Whether an instruction is one of the A-set. -/
def Instr.isA (i : Instr) : Bool := (encodeA i).isSome

/-- Whether an instruction is one of the E-set. -/
def Instr.isE (i : Instr) : Bool := (opcodeE i).isSome

end Sys2Proof
end

