-- ==== Sys2Proof/Machine/ApStream.lean ====
section
/-! DEFINITION. The stream operations of the access processor (R253 to R268). -/

namespace Sys2Proof.Machine

/-- A stream operation whose body gives the next state. -/
def apStream (i : Instr) (g : Guard) (s : State) (body : State → Except Stop State) :
    Host.Outcome State Fault Refusal :=
  apIssue i g s fun s =>
    match body s with
    | .ok s' => .ok (s', .next)
    | .error e => .error e

/-- S.OPEN and S.OPEN.H (R256, R257): legal on a closed register. -/
def doOpen (s : State) (f : SAB) (hold : Bool) : Except Stop State := do
  need (!(s.stream f.st).isOpen) 0x20
  openStream s f.st (s.areg f.a) ((s.areg f.b).setWidth 32) hold

/-- S.OPEN (R256). -/
def execSOpen (f : SAB) (s : State) : Host.Outcome State Fault Refusal :=
  apStream (.sOpen f) f.g s fun s => doOpen s f false
/-- S.OPEN.H (R256, R257). -/
def execSOpenH (f : SAB) (s : State) : Host.Outcome State Fault Refusal :=
  apStream (.sOpenH f) f.g s fun s => doOpen s f true

/-- S.PAT: source words w and w+1 of a closed register (R255). -/
def execSPat (f : SAB) (w : Fin 8) (s : State) : Host.Outcome State Fault Refusal :=
  apStream (.sPat f w) f.g s fun s => do
    need (!(s.stream f.st).isOpen) 0x20
    return s.updSt f.st fun r =>
      { r with src := (r.src.set (Fin.ofNat 6 w.val) (s.areg f.a)).set (Fin.ofNat 6 (w.val + 1)) (s.areg f.b) }

/-- S.GO: clears a hold, and nothing else (R257). -/
def execSGo (f : SO) (s : State) : Host.Outcome State Fault Refusal :=
  apStream (.sGo f) f.g s fun s => do
    need (s.stream f.st).isOpen 0x20
    return s.updSt f.st fun r => if r.held then { r with fpend := false } else r

/-- S.ADDR: one address more in the queue of 64 (R258). -/
def execSAddr (f : SAB) (k : Fin 4) (s : State) : Host.Outcome State Fault Refusal :=
  apStream (.sAddr f k) f.g s fun s => do
    let r := s.stream f.st
    need (r.kind = 3 || (r.isOpen && r.sink = 4)) 0x20
    await (r.addrs.length < 64)
    return s.updSt f.st fun r => { r with addrs := r.addrs ++ [s.areg f.a + (s.areg f.b <<< k.val)] }

/-- An AP-produced ring that has not ended (R254). -/
def StreamReg.apProduced (r : StreamReg) : Bool := r.kind = 8 && !r.ended

/-- S.DATA: bytes into claimed room; no check value, no full/empty bit (R260). -/
def execSData (f : SAB) (z : Fin 4) (s : State) : Host.Outcome State Fault Refusal :=
  apStream (.sData f z) f.g s fun s => do
    let r := s.stream f.st
    need r.apProduced 0x20
    let o := (s.areg f.b).toNat
    need (o % sizeBytes z.val = 0 && o + sizeBytes z.val ≤ r.claimedBytes) 0x2D
    return s.writeTail f.st o (leBytes (sizeBytes z.val) (s.areg f.a).toNat)

/-- S.CLAIM (R259). -/
def execSClaim (f : SA) (s : State) : Host.Outcome State Fault Refusal :=
  apStream (.sClaim f) f.g s fun s => do
    let r := s.stream f.st
    need r.apProduced 0x20
    let g := (s.areg f.a).toNat
    need (g ≤ r.size) 0x22
    match s.claim f.st g with
    | some s' => return s'
    | none => .error .block

/-- Bytes that committing n granules makes available: a partial granule is the first of them and is
made whole (R261). -/
def StreamReg.granuleCommit (r : StreamReg) (n : Nat) : Nat := if n = 0 then 0 else 64 * n - r.tail.2

/-- S.COMMIT in its four forms (R261). -/
def doCommit (s : State) (f : SA) (elements last : Bool) : Except Stop State := do
  let r := s.stream f.st
  need r.apProduced 0x20
  let n := (s.areg f.a).toNat
  let bytes := if elements then n * r.esize else r.granuleCommit n
  need (bytes ≤ r.claimedBytes) 0x23
  let s1 := s.commit f.st bytes
  return if last then s1.updSt f.st fun r => { r with ended := true } else s1

/-- S.COMMIT (R261). -/
def execSCommit (f : SA) (s : State) : Host.Outcome State Fault Refusal :=
  apStream (.sCommit f) f.g s fun s => doCommit s f false false
/-- S.COMMIT.EL (R261). -/
def execSCommitEl (f : SA) (s : State) : Host.Outcome State Fault Refusal :=
  apStream (.sCommitEl f) f.g s fun s => doCommit s f true false
/-- S.COMMIT.END (R261). -/
def execSCommitEnd (f : SA) (s : State) : Host.Outcome State Fault Refusal :=
  apStream (.sCommitEnd f) f.g s fun s => doCommit s f false true
/-- S.COMMIT.EL.END (R261). -/
def execSCommitElEnd (f : SA) (s : State) : Host.Outcome State Fault Refusal :=
  apStream (.sCommitElEnd f) f.g s fun s => doCommit s f true true

/-- The head that an AP consumer names, which must have the AP for its sink (R254). -/
def apHead (s : State) (n : SReg) : Except Stop (SReg × Fin 4) := do
  let p := s.r.headOf n
  need ((s.stream n).isOpen && (s.stream n).sink = 1 && (s.stream p.1).isOpen) 0x20
  return p

/-- The granules past a head's awaited ones that are committed, the last one whole or the stream ended,
as they stood at the start of the cycle (R125, R126). -/
def awaitable (c : StreamReg) (h : Head) (awaited : Nat) : Nat :=
  let d := (c.committed - h.count).toNat
  let n := if c.size < d then 0 else d
  (if c.tpos ≠ 0 && !c.ended then n - 1 else n) - awaited

/-- The first k two-coordinate tuples of some bytes agree with their own check values, bytes 12 and 13
over bytes 0 to 11 (R98, R99). -/
def tuplesOk : List Byte → Nat → Bool
  | _, 0 => true
  | bs, k + 1 => (le16 bs 12 == (crc16 (bs.take 12)).toNat) && tuplesOk (bs.drop 16) k

/-- Whether a consumer of the stream verifies the check values of the tuples it takes (R454). -/
def StreamReg.tuplesChecked (r : StreamReg) : Bool := decide (2 ≤ r.check) && r.code = 4 && !r.tuple3

/-- Whether granule g passes a stream's check mode when its first element is taken (R454). -/
def granOk (m : Memory) (r : StreamReg) (g : Nat) : Bool := r.check = 0 || m.checked g

/-- Whether the tuples in n bytes from byte o of the granule at ring count c agree with their own check values,
where the stream asks for it (R99, R454). -/
def tuplesAgree (s : State) (r : StreamReg) (c : BitVec 24) (o n : Nat) : Bool :=
  !r.tuplesChecked || tuplesOk (s.mem.gather (r.byteKeys s.entry c o n)) (n / 16)

/-- The integrity cause that a consumer of n granules from ring count c meets (R115, R454): of a last granule that
is not whole, only the committed tuples are looked at. -/
def ringCause (s : State) (r : StreamReg) (c : BitVec 24) (n : Nat) : Option Cause :=
  let gs := (List.range n).map fun i => r.granuleNo s.entry (c + BitVec.ofNat 24 i)
  let part := r.tpos ≠ 0 && c + BitVec.ofNat 24 n == r.committed
  let k := if part then 64 * (n - 1) + 16 * r.tpos.toNat else 64 * n
  if gs.any s.mem.isBad then some 0x41
  else if gs.all (granOk s.mem r) && tuplesAgree s r c 0 k then none
  else some 0x42

/-- S.AWAIT (R125, R262). -/
def execSAwait (f : SA) (s : State) : Host.Outcome State Fault Refusal :=
  apStream (.sAwait f) f.g s fun s => do
    let (m, j) ← apHead s f.st
    let r := s.stream m
    let g := (s.areg f.a).toNat
    let w := (r.awaits[j]).toNat
    if g = 0 then return s
    need (w + g ≤ r.size && w + g ≤ 65535) 0x22
    let n := awaitable (s.streamStart m) r.heads[j] w
    if n < g then
      (if (s.streamStart m).ended then raise 0x25 else .error .block)
    else
      match ringCause s r (r.heads[j].count + BitVec.ofNat 24 w) g with
      | some c => raise c
      | none => return s.updSt m fun r => { r with awaits := r.awaits.set j (BitVec.ofNat 16 (w + g)) }

/-- S.RETIRE (R125, R262). -/
def execSRetire (f : SA) (s : State) : Host.Outcome State Fault Refusal :=
  apStream (.sRetire f) f.g s fun s => do
    let (m, j) ← apHead s f.st
    let r := s.stream m
    let g := (s.areg f.a).toNat
    need (g ≤ (r.awaits[j]).toNat) 0x23
    return s.release m fun r =>
      { r.updHead j fun h => { h with count := h.count + BitVec.ofNat 24 g, pos := 0 } with
        awaits := r.awaits.set j (BitVec.ofNat 16 ((r.awaits[j]).toNat - g)) }

/-- The head that S.MARK and S.REWIND name: any open head (R254). -/
def openHead (s : State) (n : SReg) : Except Stop (SReg × Fin 4) := do
  let p := s.r.headOf n
  need ((s.stream n).isOpen && (s.stream p.1).isOpen) 0x20
  return p

/-- S.MARK (R128, R263). -/
def execSMark (f : SO) (s : State) : Host.Outcome State Fault Refusal :=
  apStream (.sMark f) f.g s fun s => do
    let (m, j) ← openHead s f.st
    return s.release m fun r =>
      r.updHead j fun h => { h with markValid := true, markCount := h.count, markPos := h.pos }
/-- S.MARK.REL (R128, R263). -/
def execSMarkRel (f : SO) (s : State) : Host.Outcome State Fault Refusal :=
  apStream (.sMarkRel f) f.g s fun s => do
    let (m, j) ← openHead s f.st
    return s.release m fun r => r.updHead j fun h => { h with markValid := false }
/-- S.REWIND (R128, R263). -/
def execSRewind (f : SO) (s : State) : Host.Outcome State Fault Refusal :=
  apStream (.sRewind f) f.g s fun s => do
    let (m, j) ← openHead s f.st
    need ((s.stream m).heads[j]).markValid 0x24
    let s1 := s.updR fun r => { r with start := { r.start with rewound := (m, j) :: r.start.rewound } }
    return s1.updSt m fun r =>
      { r.updHead j fun h => { h with count := h.markCount, pos := h.markPos } with
        awaits := r.awaits.set j 0 }

/-- The control word of an alias: kind 10, its sink, its peer and its fork (R264). -/
def aliasControl (sink : Fin 16) (src : SReg) (j : Fin 4) : W64 :=
  BitVec.ofNat 64 (10 + sink.val * 2 ^ 4 + src.val * 2 ^ 42 + j.val * 2 ^ 47)

/-- S.FORK (R127, R264). Await field j stays: the rules give it no value here (log 79). -/
def execSFork (f : SO) (src : SReg) (k : Fin 16) (j : Fin 4) (s : State) : Host.Outcome State Fault Refusal :=
  apStream (.sFork f src k j) f.g s fun s => do
    let a := s.stream f.st
    let r := s.stream src
    need (!a.isOpen && r.kind ≠ 10) 0x20
    need (j ≠ 0 && r.isOpen && !(r.heads[j]).enabled) 0x24
    let n := { a with control := aliasControl k src j, cursor := 0, pin := none }
    need (k.val ≤ 7) 0x20
    need (n.sink ≠ 2 || n.patOk) 0x27
    let s1 ← sideChecks s n false (n.sink = 3) false r.esize
    let s2 ← sideChecks s1 n (n.sink = 2) false false r.esize
    let s3 := s2.updSt src fun r => r.updHead j fun _ =>
      { Head.off with enabled := true, count := (r.heads[(0 : Fin 4)]).count, pos := (r.heads[(0 : Fin 4)]).pos }
    return s3.updSt f.st fun _ => { n with pin := basePin n }

/-- Whether the drain or remote side of a register has committed elements it has not delivered
(R265, R37). -/
def undeliveredIn (st : Vector StreamReg 32) (n : SReg) : Bool :=
  let x := st[n]
  let p := headIn st n
  x.isOpen && 2 ≤ x.sink && x.sink ≤ 5 && 0 < availBytes st[p.1] (st[p.1]).heads[p.2]
/-- That of a residency's registers as they stand. -/
def Residency.undelivered (r : Residency) (n : SReg) : Bool := undeliveredIn r.st n

/-- A closed stream's fault is discarded: its record no longer names an item (R265, R422). -/
def forgetFault (e : Nat) (n : SReg) (fs : List FaultRec) : List FaultRec :=
  fs.map fun r => if r.entry = e ∧ r.item = .stream n then { r with item := .gone } else r

/-- S.CLOSE and S.CLOSE.W (R265); what is undelivered is that of the start of the core cycle (R254). -/
def doClose (s : State) (n : SReg) (wait : Bool) : Except Stop State := do
  let r := s.stream n
  need r.isOpen 0x20
  need (r.kind = 10 || (List.finRange 32).all fun m => !((s.stream m).kind = 10 && (s.stream m).peerSt == n)) 0x20
  await (!(wait || r.kind = 9) || (!undeliveredIn s.r.start.st n && r.holds = 0))
  let s1 :=
    if r.kind = 10 then s.release r.peerSt fun x => x.updHead r.fork fun _ => .off
    else { s with mem := clearRing s.mem s.entry r 0 r.size }
  let s2 := s1.updPart s1.r.bind.part fun p => { p with faults := forgetFault s1.entry n p.faults }
  return s2.updSt n fun _ => .closed

/-- S.CLOSE (R265). -/
def execSClose (f : SO) (s : State) : Host.Outcome State Fault Refusal :=
  apStream (.sClose f) f.g s fun s => doClose s f.st false
/-- S.CLOSE.W (R265). -/
def execSCloseW (f : SO) (s : State) : Host.Outcome State Fault Refusal :=
  apStream (.sCloseW f) f.g s fun s => doClose s f.st true

/-! ### The register as S.STAT reads it (R116) -/

/-- Head j's 64-bit field. -/
def packHead (h : Head) : W64 :=
  BitVec.ofNat 64 (h.count.toNat + h.pos.toNat * 2 ^ 24 + h.enabled.toNat * 2 ^ 30 +
    h.markValid.toNat * 2 ^ 31 + h.markCount.toNat * 2 ^ 32 + h.markPos.toNat * 2 ^ 56)

/-- Whether the source words of a register are a pattern: of its source or of its drain (R118, R119). -/
def StreamReg.hasPattern (r : StreamReg) : Bool := r.kind = 1 || r.sink = 2

/-- Word w of a stream register (R116, R266); the reserved bits [831:803] of a pattern, in word 12, read zero (R10, R120). -/
def StreamReg.pack (r : StreamReg) (w : Fin 16) : W64 :=
  match w with
  | 0 => r.control
  | 1 => BitVec.ofNat 64 (r.ring.toNat + r.drops.toNat * 2 ^ 32)
  | 2 => BitVec.ofNat 64 (r.claimed.toNat + r.committed.toNat * 2 ^ 24 + r.tpos.toNat * 2 ^ 48 +
      r.ended.toNat * 2 ^ 55)
  | 3 => packHead (r.heads[(0 : Fin 4)])
  | 4 => packHead (r.heads[(1 : Fin 4)])
  | 5 => packHead (r.heads[(2 : Fin 4)])
  | 6 => packHead (r.heads[(3 : Fin 4)])
  | 7 => BitVec.ofNat 64 ((r.awaits[(0 : Fin 4)]).toNat + (r.awaits[(1 : Fin 4)]).toNat * 2 ^ 16 +
      (r.awaits[(2 : Fin 4)]).toNat * 2 ^ 32 + (r.awaits[(3 : Fin 4)]).toNat * 2 ^ 48)
  | 8 => BitVec.ofNat 64 (r.cursor.toNat + r.fcause.toNat * 2 ^ 32 + r.fpend.toNat * 2 ^ 39)
  | 9 => r.faddr.setWidth 64
  | 12 => if r.hasPattern then r.src[2] &&& BitVec.ofNat 64 (2 ^ 35 - 1) else r.src[2]
  | w => r.src[Fin.ofNat 6 (w.val - 10)]

/-- Whether word w is the opaque decoder state of a decompressor source (R118). -/
def StreamReg.opaqueWord (r : StreamReg) (w : Fin 16) : Bool := r.kind = 5 && 12 ≤ w.val

/-- S.STAT: word w as it stood at the start of the core cycle, zero of a closed register (R266); the opaque decoder
state reads as a free value (R118, log 15). -/
def execSStat (f : SO) (d : AReg) (w : Fin 16) (s : State) : Host.Outcome State Fault Refusal :=
  apStream (.sStat f d w) f.g s fun s =>
    let r := s.streamStart f.st
    if r.opaqueWord w then
      let (n, s1) := s.draw
      .ok (s1.setA d (Config.openWord n))
    else .ok (s.setA d (if r.isOpen then r.pack w else 0))

end Sys2Proof.Machine
end

