-- ==== Sys2Proof/Machine/Trace.lean ====
section
/-! DEFINITION. The trace stream of a residency (R435, R436). -/

namespace Sys2Proof.Machine

/-- One 16-byte trace record (R436). -/
def traceRecord (kind ctx b2 b4 : Nat) (b8 : W64) : List Byte :=
  leBytes 1 kind ++ leBytes 1 ctx ++ leBytes 2 b2 ++ leBytes 4 b4 ++ leBytes 8 b8.toNat

/-- Write a record at the tail of the trace ring and advance the tail (R435). -/
def traceAppend (s : State) (rec_ : List Byte) : State :=
  let t := s.r.watch.trace
  let base := t.base.toNat
  let tail := s.mem.word64 base
  let s1 := s.devWrite (base + 64 + 16 * (tail.toNat % (2 ^ t.k - 4))) rec_
  s1.devWrite base (leBytes 8 (tail + 1).toNat)

/-- The number of lost records since the last loss record. -/
def State.setLost (s : State) (n : W64) : State :=
  s.updR fun r => { r with watch := { r.watch with trace := { r.watch.trace with lost := n } } }

/-- Write a trace record, or count it as lost; when room returns for two, a loss record goes first
(R436). -/
def traceWrite (s : State) (rec_ : List Byte) : State :=
  let t := s.r.watch.trace
  let base := t.base.toNat
  let used := (s.mem.word64 base - s.mem.word64 (base + 8)).toNat
  let cap := 2 ^ t.k - 4
  if t.lost = 0 then
    (if used < cap then traceAppend s rec_ else s.setLost 1)
  else if used + 2 ≤ cap then
    traceAppend (traceAppend (s.setLost 0) (traceRecord 5 0xFF 0 0 t.lost)) rec_
  else s.setLost (t.lost + 1)

/-- Whether tracing of one kind is enabled for a context: F 0, D 1, E 2 (R435). -/
def State.tracing (s : State) (bitNo ctx : Nat) : Bool :=
  s.r.watch.trace.k ≠ 0 && bit s.r.watch.trace.control bitNo && bit s.r.watch.trace.ctxs ctx

/-- The context number of trace records and fault records. -/
def ctxNo : ApId → Nat
  | .f => 0
  | .d => 1

/-- The branch record of a taken transfer of an AP context (R436). -/
def traceBranch (s : State) (c : ApId) (target : Nat) : State :=
  if s.tracing 1 (ctxNo c) then
    traceWrite s (traceRecord 2 (ctxNo c) 0 (s.ctx c).pc.toNat (BitVec.ofNat 64 (target % 2 ^ 32)))
  else s

/-- The branch record of a taken EB (R436). -/
def traceBranchE (s : State) (target : Nat) : State :=
  if s.tracing 1 2 then
    traceWrite s (traceRecord 2 2 0 s.r.ep.pc.toNat (BitVec.ofNat 64 (target % 2 ^ 32)))
  else s

end Sys2Proof.Machine
end

