-- ==== Sys2Proof/Machine/Complete.lean ====
section
/-! DEFINITION. What follows from the end of work: completion of a residency and of its launch (R37,
R169), the early trigger (R38, R168), and the task deadlock (R66). -/

namespace Sys2Proof.Machine

/-- Do something with the residency of an entry in focus, and return. -/
def State.within (s : State) (e : Nat) (f : State → State) : State :=
  (f (s.focusOn e)).focusOn s.r.bind.e

/-- The release of a sync word by the device: its count rises by one (R153). -/
def State.bump (s : State) (k : Nat) : State :=
  s.devWrite k (leBytes 8 (s.mem.word64 k + 1).toNat)

/-- The completion record of a launch but for its tick, which is filled in when it is written (R399). -/
def completionRecord (l : Launch) (status : Nat) : List Byte :=
  leBytes 4 l.tag.toNat ++ leBytes 1 status ++ [0] ++ leBytes 2 l.n ++ leBytes 8 0 ++
    leBytes 4 l.frames.slips.toNat ++ leBytes 4 l.faults.toNat ++ leBytes 8 0

/-- End a launch with a status: its completion record is queued, and the partition remembers the tag of one that has
completed, with its objects (R398, R399). -/
def State.endLaunch (s : State) (l : Launch) (status : Nat) : State :=
  (s.updLaunch l.id fun l => { l with finished := true, groups := [], parked := [], held0 := [], held1 := [] }).updPart
    l.part fun p =>
      { p with
        completions := p.completions ++ [completionRecord l status]
        history :=
          if status ≠ 0 then p.history
          else (p.history ++ [(l.tag, l.link, l.compl)]).drop (p.history.length + 1 - 256) }

/-- Whether every core of a launch has signalled early launch or completed (R38). -/
def Launch.allEarly (l : Launch) : Bool :=
  (List.range l.n).all fun c => l.early.contains c || l.complete.contains c

/-- Fire the early trigger of the launch in focus, once (R38, R168): the link object is incremented. -/
def State.fireEarly (s : State) : State :=
  let l := s.launch
  if l.allEarly && !l.earlyFired && l.n ≠ 0 then
    (s.bump l.link.toNat).updMine fun l => { l with earlyFired := true }
  else s

/-- Whether the input of a decompressor source is open for it (R118). -/
def State.hasInput (s : State) (r : StreamReg) : Bool := (s.stream r.peerSt).isOpen && (s.stream r.peerSt).sink = 6

/-- Whether a decompressor source has elements to write from what it holds and what stands at its head (R37, log 45). -/
def State.expands (s : State) (r : StreamReg) : Bool :=
  let p := s.r.headOf r.peerSt
  let y := s.stream p.1
  let av := availBytes y y.heads[p.2] / y.esize * y.esize
  let bs := r.dec.input ++ s.mem.gather (y.byteKeys s.entry (y.heads[p.2]).count ((y.heads[p.2]).pos.toNat * y.esize) av)
  r.esize ≤ r.dec.output.length ||
    (s.hasInput r && match r.expand y.ended bs with
      | .more => false
      | .stop => r.count.isNone && !r.dec.output.isEmpty
      | _ => true)

/-- Whether the fetch side of a register has elements still to bring: those of a pattern or a handle to their end, those
of an address queue that have been supplied. -/
def StreamReg.bringing (x : StreamReg) : Bool :=
  x.isOpen && 1 ≤ x.kind && x.kind ≤ 3 && (x.landed ≠ 0 || !x.exhausted) && (x.kind ≠ 3 || !x.addrs.isEmpty)

/-- Whether all three contexts of a residency have halted. -/
def Residency.halted (r : Residency) : Bool := r.f.status == .halted && r.d.status == .halted && r.ep.status == .halted

/-- Whether the contexts, the engines, the command queue or a G.REUSE of a residency may still put elements into its
rings. -/
def Residency.working (r : Residency) : Bool :=
  !r.halted || !r.cmds.isEmpty || !r.mx.queue.isEmpty || !r.ep.inflight.isEmpty ||
    r.gz.ops.any fun g => g.op.isReuse && g.fault.isNone

/-- Whether elements may still come into ring n of the residency in focus (R37): those that its fetch side, its
decompressor, its units, or the core that sends to it has left, as far as `fuel` rings back. An ingest ring never ends, and the spec does
not say when its drain has committed its last granule: the model takes what is committed as all there is (log 133). -/
def State.fed : Nat → State → SReg → Bool
  | 0, _, _ => false
  | k + 1, s, n =>
    let x := s.stream n
    x.isOpen && !x.ended &&
      match x.kind with
      | 4 =>
        (match s.all.find? fun y => y.bind.launch == s.r.bind.launch && y.bind.lcore == x.peerCore && y.stage != .free with
         | none => !s.launch.complete.contains x.peerCore
         | some y =>
           let z := y.st[x.peerSt]
           !y.halted || (z.isOpen && z.sink = 5 &&
             (y.undelivered x.peerSt || State.fed k (s.focusOn y.bind.e) (y.headOf x.peerSt).1)))
      | 5 =>
        x.count != some x.dec.given &&
          (s.expands x || (s.hasInput x && State.fed k s (s.r.headOf x.peerSt).1))
      | 6 | 10 => false
      | 7 | 8 | 9 => s.r.working
      | _ => x.bringing

/-- Rings that can stand one behind another in a launch. -/
def State.ringDepth (s : State) : Nat := 32 * s.all.length

/-- Whether a drain of the residency in focus to memory still has elements to write: committed ones, or ones that its
stream's source is yet to bring (R37). -/
def State.draining (s : State) (n : SReg) : Bool :=
  let x := s.stream n
  x.isOpen && 2 ≤ x.sink && x.sink ≤ 4 && (s.r.undelivered n || s.fed s.ringDepth (s.r.headOf n).1)

/-- Whether a decompressor of the residency in focus still has elements to write (R37). -/
def State.expanding (s : State) (n : SReg) : Bool := (s.stream n).kind = 5 && s.fed s.ringDepth n

/-- Whether a slip record of the residency in focus still waits to be written: completion performs every write of the launch
first (R53, R169, log 64). -/
def State.slipping (s : State) : Bool := s.launch.slipsDue.any fun x => x.core == s.r.bind.lcore

/-- Whether the residency in focus has completed its work (R37). -/
def State.finished (s : State) : Bool :=
  let r := s.r
  r.halted && r.cmds.isEmpty && r.chains.toList.all (fun c => !c.busy) && r.mx.queue.isEmpty &&
  r.ep.inflight.isEmpty && !s.slipping &&
  (List.finRange 32).all fun n => !s.draining n && !s.expanding n

/-- RESIDENCY_COMPLETE and LAUNCH_COMPLETE: the residency in focus completes when its work is done, and
its launch when every residency has (R37, R169): the completion object is released and the completion
record queued. -/
def State.settle (s : State) : State :=
  if s.r.stage == .running && s.finished then
    let s1 := (s.updR fun r => { r with stage := .done }).updMine fun l =>
      { l with complete := if l.complete.contains s.r.bind.lcore then l.complete
                           else s.r.bind.lcore :: l.complete }
    let s2 := s1.fireEarly
    let l := s2.launch
    if l.complete.length = l.n && !l.finished then (s2.bump l.compl.toNat).endLaunch l 0 else s2
  else s

/-! ### Task deadlock (R66) -/

/-- Whether context F of a residency is about to issue TASK.NEXT, which it fetches from its own code alone (R25, R394). -/
def Residency.atTaskNext (m : Memory) (r : Residency) : Bool :=
  r.f.status == .running && r.f.pending.isNone && decide (r.f.pc.toNat + 4 ≤ (r.section .f).2) &&
  match decodeABytes (m.bytes (apimKey r.bind.e r.f.pc.toNat) 4) with
  | .ok (.taskNext g) => r.f.pred g
  | _ => false

/-- Whether an overflow queue holds nothing: as many records taken as added (R60). -/
def ovfEmpty (m : Memory) (k : W64) : Bool := m.word64 k.toNat == m.word64 (k.toNat + 8)

/-- Whether the launch in focus is deadlocked in its tasks (R66). -/
def State.deadlocked (s : State) : Bool :=
  let l := s.launch
  let rs := s.all.filter fun r => r.bind.launch == l.id && r.stage == .running
  !l.frameMode && l.outstanding ≠ 0 && rs.length = l.n && l.n ≠ 0 &&
  rs.all (fun r => r.atTaskNext s.mem && r.d.status == .halted && r.deque.isEmpty) &&
  l.spawned.isEmpty && l.filled.isEmpty && l.held0.isEmpty && l.held1.isEmpty && ovfEmpty s.mem l.ovf0 && ovfEmpty s.mem l.ovf1

/-- TASK_DEADLOCK: cause 0x67 in F of logical core 0 (R66). -/
def State.checkDeadlock (s : State) : State :=
  if s.deadlocked then
    match s.peer 0 with
    | some r => s.within r.bind.e fun s => s.park .f ⟨0x67, 0, 0⟩
    | none => s
  else s

end Sys2Proof.Machine
end

