-- ==== Sys2Proof/Machine/Barrier.lean ====
section
/-! DEFINITION. Groups, barriers and their byte counts (R44 to R47, R163 to R166). -/

namespace Sys2Proof.Machine

/-- The group of the launch in focus with a number. -/
def State.group (s : State) (g : Nat) : Option Group := s.launch.groups.find? fun x => x.num == g

/-- A member's part in a group. -/
def Group.part (g : Group) (c : Nat) : Option BarMember := g.members.find? fun m => m.core == c

/-- Change a group of the launch in focus. -/
def State.updGroup (s : State) (g : Nat) (f : Group → Group) : State :=
  s.updMine fun l => { l with groups := l.groups.map fun x => if x.num = g then f x else x }

/-- Change one member's part. -/
def Group.updPart (g : Group) (c : Nat) (f : BarMember → BarMember) : Group :=
  { g with members := g.members.map fun m => if m.core = c then f m else m }

/-- Whether the oldest incomplete phase of a group is complete: every member arrived, and received at
least what it expects (R164). -/
def Group.phaseDone (g : Group) : Bool :=
  !g.members.isEmpty && g.members.all fun m => decide (g.phase < m.arrived) && decide (m.exp0 ≤ m.recv)

/-- The next phase: counts start from zero but for expectations already declared (R164). -/
def Group.advance (g : Group) : Group :=
  { g with
    phase := g.phase + 1
    members := g.members.map fun m => { m with exp0 := m.exp1, exp1 := m.exp2, exp2 := 0, recv := 0 } }

/-- Add an excess to bovr's field j and set its pend bit (R165, R166). -/
def addOverrun (v : W64) (j excess : Nat) : W64 :=
  let exc := min 0x7FFF (bits v (16 * j + 14) (16 * j) + excess)
  (v &&& ~~~(BitVec.ofNat 64 (0xFFFF * 2 ^ (16 * j)))) ||| BitVec.ofNat 64 ((exc + 0x8000) * 2 ^ (16 * j))

/-- The gmem slot in which a residency lists group g (R45). -/
def Residency.groupSlot (r : Residency) (g : Nat) : Option Nat :=
  (List.range 4).find? fun j => bit r.bind.gmem (32 + j) && bits r.bind.gmem (8 * j + 7) (8 * j) = g

/-- Record a member's overrun (R165). -/
def overrun (g : Nat) (m : BarMember) (launch : W32) (r : Residency) : Residency :=
  if r.bind.launch = launch ∧ r.bind.lcore = m.core ∧ m.exp0 < m.recv then
    match r.groupSlot g with
    | some j => { r with bovr := addOverrun r.bovr j (m.recv - m.exp0).toNat }
    | none => r
  else r

/-- Whether logical core c of the launch in focus stands on a core: neither saved nor held (R429, R433). -/
def State.stands (s : State) (c : Nat) : Bool :=
  s.all.any fun r => r.bind.launch == s.r.bind.launch && r.bind.lcore == c && r.stage != .free && r.stage != .held

/-- If the oldest phase of a group is complete, it ends. The overrun of a member that is saved waits in its part of the
group for its return (R164, R165, log 49). -/
def State.barrierEnd (s : State) (g : Nat) : State :=
  match s.group g with
  | none => s
  | some x =>
    if x.phaseDone then
      let id := s.r.bind.launch
      let hit (r : Residency) : Residency := if r.stage == .held then r else x.members.foldl (fun r m => overrun g m id r) r
      let owe (m : BarMember) : BarMember := if s.stands m.core then m else { m with owed := m.owed + (m.recv - m.exp0).toNat }
      { s with r := hit s.r, others := s.others.map hit }.updGroup g fun y => { y with members := y.members.map owe }.advance
    else s

/-- BARRIER_PHASE_COMPLETE: the complete phases of a group end. A member arrives at most one phase ahead (R47), so at
most two phases end together. -/
def State.barrierCheck (s : State) (g : Nat) : State := (s.barrierEnd g).barrierEnd g

/-- The same for the group of tagged writes, where they have one (R164). -/
def State.endPhase (s : State) : Option Nat → State
  | some g => s.barrierCheck g
  | none => s

/-- A restored residency receives in bovr what was owed to it while it was saved (R165, R166). -/
def State.payOverruns (s : State) : State :=
  let c := s.r.bind.lcore
  s.launch.groups.foldl (fun t x => match x.part c, t.r.groupSlot x.num with
    | some m, some j =>
      if m.owed = 0 then t
      else (t.updR fun r => { r with bovr := addOverrun r.bovr j m.owed }).updGroup x.num fun y =>
        y.updPart c fun m => { m with owed := 0 }
    | _, _ => t) s

/-- Bytes of a tagged write that land at core c count towards barrier g (R164). What a command writes in one core cycle is
counted together, and then `barrierCheck` says whether the phase is complete (log 113). -/
def State.barrierBytes (s : State) (g c n : Nat) : State :=
  s.updGroup g fun x => x.updPart c fun m => { m with recv := m.recv + BitVec.ofNat 64 n }

/-- BAR.ARRIVE by the core in focus: blocked when it was two phases ahead at the start of the core cycle (R26, R47, R163). Its earlier
accesses are performed: an AP context issues one access at a time (R238). -/
def barArrive (s : State) (g : Nat) : Except Stop State := do
  need (s.r.member g) 0x61
  match s.group g with
  | none => raise 0x61
  | some x =>
    match x.part s.r.bind.lcore with
    | none => raise 0x61
    | some m =>
      await (m.arrived ≤ x.phaseStart + 1)
      return (s.updGroup g fun x => x.updPart s.r.bind.lcore fun m =>
        { m with arrived := m.arrived + 1 }).barrierCheck g

/-- BAR.WAIT by the core in focus: it sees the phase and bovr of the start of the core cycle (R26, R47, R163, R165). -/
def barWait (s : State) (g : Nat) : Except Stop State := do
  need (s.r.member g) 0x61
  match s.group g, s.r.groupSlot g with
  | some x, some j =>
    match x.part s.r.bind.lcore with
    | none => raise 0x61
    | some m =>
      await (m.waited == m.arrived || m.arrived ≤ x.phaseStart)
      need (!bit s.r.start.bovr (16 * j + 15)) 0x60
      return s.updGroup g fun x => x.updPart s.r.bind.lcore fun m => { m with waited := m.arrived }
  | _, _ => raise 0x61

/-- BAR.EXPECT by the core in focus: the bytes are expected in the oldest phase at which it has not
arrived (R164). -/
def barExpect (s : State) (g : Nat) (v : W64) : Except Stop State := do
  need (v.toNat < 2 ^ 32) 0x55
  need (s.r.member g) 0x61
  return s.updGroup g fun x => x.updPart s.r.bind.lcore fun m =>
    match m.arrived - x.phase with
    | 0 => { m with exp0 := m.exp0 + v }
    | 1 => { m with exp1 := m.exp1 + v }
    | _ => { m with exp2 := m.exp2 + v }

end Sys2Proof.Machine
end

