-- ==== Sys2Proof/Machine/EngineOps.lean ====
section
/-! DEFINITION. What the engines share: scope words and sync words (R149, R151), acquire and release
(R153, R154), and the copying of bytes between any two memories (R114, R271, R453). -/

namespace Sys2Proof.Machine

/-! ### Scopes and sync words -/

/-- Validate a scope word: kind, zero bits, group (R149). -/
def checkScope (s : State) (w : Nat) : Except Stop Unit := do
  let kind := w % 8
  let grp := fld w 15 8
  need (kind ≤ 5 && fld w 7 3 = 0 && (kind = 2 || grp = 0)) 0x68
  need (kind ≠ 2 || s.r.member grp) 0x61

/-- The link that a peer address goes through is up (R420, R441). -/
def linkUp (s : State) (k : Nat) : Bool := (s.pkg.links.slv[Fin.ofNat 8 (fld k 47 45)]).up

/-- What keys in peer memory meet, where `peer` is the cause of an access that may not reach it (R149, R170, R242): a link
that is down (0x45), or a far end that refuses the offset (0x39), which a free value decides (R420, R452, log 8). -/
def peerMeets (s : State) (peer : Option Cause) (ks : List Nat) : Option Cause :=
  let far := ks.filter fun k => storeOf k == .peer
  if far.isEmpty then none
  else if peer.isSome then peer
  else if far.any fun k => !linkUp s k then some 0x45
  else if far.any (Config.peerRefuses s.free) then some 0x39
  else none

/-- Go on unless there is a cause. -/
def unlessCause : Option Cause → Except Stop Unit
  | some c => raise c
  | none => .ok ()

/-- Check a sync word for a scope kind and resolve the 8 bytes of its count (R151, R105); `peer` is the cause that one in
peer memory meets, where its party does not reach peers (R170). -/
def checkSync (s : State) (x : W64) (kind : Nat) (w : Bool) (peer : Option Cause) : Except Stop (List Nat × State) := do
  need (x.toNat % 64 = 0) 0x69
  let (ks, s1) ← resolve s x 8 true w
  need (!(kind < 5 && ks.any fun k => storeOf k == .host)) 0x69
  unlessCause (peerMeets s1 peer ks)
  return (ks, s1)

/-- What the issue of an engine command checks of its sync word, once its translation waits for no region table (R409); a
translation that fails is left to the command, which reports it as its own fault (R151, R159). -/
def checkSyncIssue (s : State) (x : W64) (kind : Nat) (w : Bool) (peer : Option Cause) : Except Stop State := do
  need (x.toNat % 64 = 0) 0x69
  match ← formCheck s x 8 with
  | .spad _ _ => return s
  | .virt va =>
    match translateSpan s va 8 true w with
    | .error (.trap _) | .error (.trapAt _ _) => return s
    | .error e => .error e
    | .ok (ks, s1) =>
      need (!(kind < 5 && ks.any fun k => storeOf k == .host)) 0x69
      if ks.any fun k => storeOf k == .peer then unlessCause peer
      return s1

/-- The bytes at some keys as an engine reads them: a peer answers with bytes the spec does not give
(R170, R451, log 8). -/
def State.readKeys (s : State) (ks : List Nat) : List Byte :=
  ks.map fun k => if storeOf k == .peer then Config.peerByte s.free k else s.mem.byte k

/-- Whether a count has reached a target modulo 2^64 (R154). -/
def reached (c t : W64) : Bool := (c - t).toNat < 2 ^ 63

/-- The release of a resolved sync word: one atomic increment; one in peer memory is done there. -/
def State.releaseAt (s : State) (ks : List Nat) : State :=
  if ks.any fun k => storeOf k == .peer then s
  else { s with mem := s.mem.write ks (leBytes 8 (BitVec.ofNat 64 (leNat (s.mem.gather ks)) + 1).toNat) }

/-! ### Copies -/

/-- The check value that arrives from a peer with a granule: the peer's own, and so free (R451, R453, log 8). -/
def peerCheck (n k : Nat) : Check :=
  ⟨BitVec.ofNat 16 (leNat [Config.peerByte n (2 ^ 52 + k), Config.peerByte n (2 ^ 52 + k + 1)]), 0⟩

/-- Whether granule g of peer memory agrees with the check value that comes with it: both are the peer's own, and so
free (R453, log 8). -/
def peerAgrees (s : State) (g : Nat) : Bool :=
  (peerCheck s.free (64 * g)).code == crc16 ((List.range 64).map fun i => Config.peerByte s.free (64 * g + i))

/-- The first integrity cause that granules at some keys meet when they are verified: of HBM and the on-chip stores, then
of a peer's memory; host memory has none (R115, R453). -/
def State.verify (s : State) (gs : List Nat) : Option Cause :=
  match s.mem.readCause (gs.filter fun g => storeOf (64 * g) == .hbm || storeOf (64 * g) == .chip) with
  | some c => some c
  | none => if (gs.filter fun g => storeOf (64 * g) == .peer).all (peerAgrees s) then none else some 0x42

/-- The cause that an access to a sync word meets: its granule is verified where it lies, a peer's too (R153, R451, R453). -/
def State.syncCause (s : State) (ks : List Nat) : Option Cause := s.verify (granulesOf ks)

/-- The check value that travels with a whole granule: made at the port for host data, carried otherwise (R114, R453). -/
def carriedCheck (s : State) (k : Nat) (bs : List Byte) : Check :=
  if storeOf k == .host then ⟨crc16 bs, 0⟩ else if storeOf k == .peer then peerCheck s.free k else s.mem.chkOf (k / 64)

/-- The cause that a piece of a copy meets before it moves: what peer memory answers (R149, R452); a soft
error (0x41), or a check value that disagrees (0x42): of the source where the piece is no whole granule
or leaves for the host, then of the destination where it is merged, a peer's too (R114, R271, R420, R453, R454). -/
def pieceCause (peer : Option Cause) (s : State) (src dst : List Nat) : Option Cause :=
  let whole := coversWhole src (src.headD 0 / 64) && coversWhole dst (dst.headD 0 / 64)
  let out := dst.any fun k => storeOf k == .host
  if (peerMeets s peer (src ++ dst)).isSome then peerMeets s peer (src ++ dst)
  else if (granulesOf (src.filter fun k => storeOf k == .hbm || storeOf k == .chip)).any s.mem.isBad then some 0x41
  else if whole && !out then none
  else
    match s.verify (granulesOf src) with
    | some c => some c
    | none => s.verify (partialOf dst)

/-- Move a piece that lies in one granule of source and destination (R114, R271). -/
def movePiece (s : State) (src dst : List Nat) : State :=
  let bs := s.readKeys src
  let k := dst.headD 0
  if storeOf k == .peer then s
  else if 64 ≤ src.length && coversWhole src (src.headD 0 / 64) && coversWhole dst (k / 64) then
    { s with mem := s.mem.writeGranule (k / 64) bs (carriedCheck s (src.headD 0) bs) }
  else { s with mem := s.mem.write dst bs }

/-- The member core whose share holds a key, for tagged writes (R164). -/
def coreOfKey (s : State) (k : Nat) : Option Nat :=
  (s.all.find? fun r => decide (spadKey r.bind.e 0 ≤ k) && decide (k < spadKey (r.bind.e + 1) 0) &&
    r.bind.launch == s.r.bind.launch).map fun r => r.bind.lcore

/-- Count the bytes of a tagged write at the core they land on (R164). -/
def tagged (s : State) (g : Option Nat) (dst : List Nat) : State :=
  match g, coreOfKey s (dst.headD 0) with
  | some g, some c => s.barrierBytes g c dst.length
  | _, _ => s

/-- Bytes of the next piece: it crosses no granule of either side. -/
def pieceLen (a b : W64) (n : Nat) : Nat := min n (min (64 - a.toNat % 64) (64 - b.toNat % 64))

/-- Copy n bytes from address a to address b in pieces; at most `fuel` pieces. The state, the bytes
moved, and what stopped it. -/
def copyRun (peer : Option Cause) (g : Option Nat) : Nat → State → W64 → W64 → Nat → State × Nat × Option Stop
  | 0, s, _, _, _ => (s, 0, none)
  | fuel + 1, s, a, b, n =>
    if n = 0 then (s, 0, none)
    else
      let k := pieceLen a b n
      match resolve s a k true false with
      | .error e => (s, 0, some e)
      | .ok (src, s1) =>
        match resolve s1 b k false true with
        | .error e => (s, 0, some e)
        | .ok (dst, s2) =>
          match pieceCause peer s2 src dst with
          | some c => (s, 0, some (.trap ⟨c, a, 0⟩))
          | none =>
            let s3 := (tagged (movePiece s2 src dst) g dst).draw.2
            let r := copyRun peer g fuel s3 (a + BitVec.ofNat 64 k) (b + BitVec.ofNat 64 k) (n - k)
            (r.1, r.2.1 + k, r.2.2)

/-- Write n zero bytes at an address in pieces (R272). -/
def zeroRun (peer : Option Cause) (g : Option Nat) : Nat → State → W64 → Nat → State × Nat × Option Stop
  | 0, s, _, _ => (s, 0, none)
  | fuel + 1, s, b, n =>
    if n = 0 then (s, 0, none)
    else
      let k := min n (64 - b.toNat % 64)
      match resolve s b k false true with
      | .error e => (s, 0, some e)
      | .ok (dst, s1) =>
        match pieceCause peer s1 [] dst with
        | some c => (s, 0, some (.trap ⟨c, b, 0⟩))
        | none =>
          let s2 := tagged { s1 with mem := s1.mem.write dst (List.replicate k 0) } g dst
          let r := zeroRun peer g fuel s2 (b + BitVec.ofNat 64 k) (n - k)
          (r.1, r.2.1 + k, r.2.2)

end Sys2Proof.Machine
end

