-- ==== Sys2Proof/Machine/Csr.lean ====
section
/-! DEFINITION. The control and status registers that F, D and E share, and those of the AP alone
(R27 to R30, R45, R54, R108, R141, R166, R216 to R218). -/

namespace Sys2Proof.Machine

/-- Reduced service: die 1 is not in service (R456, R457). -/
def Boot.reduced (b : Boot) : Bool := !b.die1

/-- Whether bring-up has ended in service: cap_core is loaded then (R30, R455). -/
def Boot.loaded (b : Boot) : Bool := b.state == 6 || b.state == 7 || b.state == 10

/-- cap_core (R30). R30 gives no value from before the end of bring-up, when it is loaded: this model holds zero
until then (log 10). -/
def capCore (b : Boot) : W64 :=
  let n := if b.reduced then 96 else 192
  if b.loaded then
    BitVec.ofNat 64 (b.clock.toNat + n * 2 ^ 16 + b.reduced.toNat * 2 ^ 24 + (!b.reduced).toNat * 2 ^ 25 +
      (!b.reduced).toNat * 2 ^ 26)
  else 0

/-- The slot plan of the core in focus: 0 two-phase, 1 four-phase 3:1, 2 four-phase 1:1 (R39). -/
def State.plan (s : State) : Nat := (s.pkg.slots[Fin.ofNat 416 (2 * coreOf s.entry)]).plan

/-- resid (R29): its peer bit as the core cycle found it, or since a bind (R26). -/
def State.resid (s : State) : W64 :=
  BitVec.ofNat 64 (resOf s.entry + s.plan * 2 + (s.r.start.beside.isSome || s.sibling.isSome).toNat * 8 + s.r.bind.frame.toNat * 16)

/-- A register that F, D and E all read, by its number (R216): bovr, fslip and, until S(0) is fixed, fbase as
they stood at the start of the core cycle (R26). -/
def sharedCsr (s : State) (n : Nat) : Option W64 :=
  let fr := s.launch.frames
  let inFrame (v : Nat) : W64 := if s.r.bind.frame then BitVec.ofNat 64 v else 0
  match n with
  | 0x000 => some (BitVec.ofNat 64 s.r.bind.lcore)
  | 0x001 => some (BitVec.ofNat 64 s.r.bind.n)
  | 0x002 => some s.resid
  | 0x003 => some (capCore s.pkg.boot)
  | 0x004 => some 0x082040
  | 0x005 => some (BitVec.ofNat 64 (s.r.bind.banks * 131072))
  | 0x006 => some s.r.bind.gmem
  | 0x008 => some s.tick
  | 0x009 => some (inFrame (if fr.begun then fr.num else 0))
  | 0x00A => some (inFrame (if fr.fixedStart then fr.base else fr.t0))
  | 0x00B => some (inFrame fr.slipsStart.toNat)
  | 0x010 => some s.r.start.bovr
  | _ => none

/-- The loop level K of a stack kept innermost first (R217, R333). -/
def levelOf {α : Type} (l : List α) (k : Nat) : Option α := l.reverse[k]?

/-- A register of an AP context, by its number (R216); none for a number not assigned or not the AP's. -/
def apCsr (s : State) (c : ApCtx) (n : Nat) : Option W64 :=
  if 0x020 ≤ n ∧ n ≤ 0x025 then
    some (match levelOf c.loops (n - 0x020) with
      | some e => BitVec.ofNat 64 (e.count * 2 ^ 32 + e.index)
      | none => 0)
  else if n = 0x026 then some (BitVec.ofNat 64 c.loops.length)
  else if n = 0x030 then some c.acyc
  else if n = 0x031 then some c.ainst
  else if n = 0x032 then some c.ablk
  else sharedCsr s n

/-- The bits that writing v to bovr clears: pend and exc of each slot whose pend bit is 1 in v (R166). -/
def bovrMask (v : W64) : W64 :=
  (if bit v 15 then 0xFFFF else 0) ||| (if bit v 31 then 0xFFFF0000 else 0) |||
    (if bit v 47 then 0xFFFF00000000 else 0) ||| (if bit v 63 then 0xFFFF000000000000 else 0)

/-- Write a shared register: bovr clears by ones, every other one ignores the write (R9, R166, R216). -/
def writeShared (s : State) (n : Nat) (v : W64) : State :=
  if n = 0x010 then s.updR fun r => { r with bovr := r.bovr &&& ~~~bovrMask v } else s

end Sys2Proof.Machine
end

