-- ==== Sys2Proof/Machine/Flags.lean ====
section
/-! DEFINITION. The truth values of the machine: conditions on words (R178) and truth tables of two
predicates or mask bits (R227, R308). -/

namespace Sys2Proof.Machine

/-- Condition(cond, x, y) of R178 on words of one width; codes 12 to 15 are unassigned. -/
def condition {n : Nat} (c : Nat) (x y : BitVec n) : Bool :=
  match c with
  | 0 => x == y
  | 1 => x != y
  | 2 => decide (x.toInt < y.toInt)
  | 3 => decide (y.toInt ≤ x.toInt)
  | 4 => decide (x.toNat < y.toNat)
  | 5 => decide (y.toNat ≤ x.toNat)
  | 6 => decide (x.toInt ≤ y.toInt)
  | 7 => decide (y.toInt < x.toInt)
  | 8 => decide (x.toNat ≤ y.toNat)
  | 9 => decide (y.toNat < x.toNat)
  | 10 => (x &&& y) != 0
  | 11 => (x &&& y) == 0
  | _ => false

/-- Bit 2a + b of a 4-bit truth table (R227, R308). -/
def tableBit (t : Nat) (a b : Bool) : Bool := t.testBit (2 * a.toNat + b.toNat)

/-- The truth table applied bit by bit to two masks (R308). -/
def tableMask (t : Nat) (a b : W64) : W64 :=
  let f (k : Bool) (x y : W64) : W64 := if k then x &&& y else 0
  f (t.testBit 0) (~~~a) (~~~b) ||| f (t.testBit 1) (~~~a) b ||| f (t.testBit 2) a (~~~b) |||
    f (t.testBit 3) a b

end Sys2Proof.Machine
end

