-- ==== Sys2Proof/Machine/Operands.lean ====
section
/-! DEFINITION. Context E: its operand and destination forms, the results in flight with their latches,
its loops, and the issue of an E-set instruction (R183 to R197, R300, R322 to R326). -/

namespace Sys2Proof.Machine

/-! ### Context E -/

/-- Change context E. -/
def State.updE (s : State) (f : EpCtx → EpCtx) : State := { s with r := { s.r with ep := f s.r.ep } }

/-- Mask mN: m0 is all-true (R298). -/
def EpCtx.mask (e : EpCtx) (n : Fin 16) : W64 := if n = 0 then BitVec.allOnes 64 else e.m[n]

/-- The guard mask of an instruction (R190). -/
def State.eguard (s : State) (f : EF) : W64 := s.r.ep.mask f.g

/-- Whether lane i is on in a mask. -/
def laneOn (g : W64) (i : Nat) : Bool := g.getLsbD i

/-- The lanes of a value where a mask is on, and those of another elsewhere. -/
def mergeLanes (g : W64) (new old : Lanes) : Lanes := Lanes.build fun i => if laneOn g i then new[i] else old[i]

/-- A value as a vector: a scalar is broadcast (R187). -/
def Latch.toVec : Latch → Lanes
  | .vec v => v
  | .sc w => Lanes.fill w
/-- A value as a scalar: lane 0 of a vector (R187). -/
def Latch.toSc : Latch → W32
  | .vec v => v[0]
  | .sc w => w

/-! ### Ports (R186) -/

/-- The head of a port that E pops or peeks: the EP must be its sink (R119, cause 0x20), at the start of the core
cycle (R26). -/
def ePort (s : State) (n : SReg) : Except Stop (SReg × Fin 4) := do
  let p := s.r.portOf n
  need ((s.streamStart n).isOpen && (s.streamStart n).sink = 0 && (s.streamStart p.1).isOpen) 0x20
  return p

/-- The granules that n bytes at a head lie in. -/
def granulesTaken (r : StreamReg) (e : Nat) (h : Head) (n : Nat) : List Nat :=
  (List.range ((h.pos.toNat * r.esize + n + 63) / 64)).map fun i => r.granuleNo e (h.count + BitVec.ofNat 24 i)

/-- Those of them whose first element is taken: all, but for one that the head stands within. -/
def firstTaken (r : StreamReg) (e : Nat) (h : Head) (n : Nat) : List Nat :=
  (granulesTaken r e h n).drop (if h.pos = 0 then 0 else 1)

/-- The integrity cause that a consumer of n bytes at a head meets: a soft error in any granule that it reads, and a check
value by the check mode, when a granule's first element is taken (R99, R115, R454). -/
def takenCause (s : State) (r : StreamReg) (h : Head) (n : Nat) : Option Cause :=
  if (granulesTaken r s.entry h n).any s.mem.isBad then some 0x41
  else if (firstTaken r s.entry h n).all (granOk s.mem r) && tuplesAgree s r h.count (h.pos.toNat * r.esize) n then none
  else some 0x42

/-- The n bytes at a head, with the head advanced past them when they are popped. -/
def takeBytes (s : State) (p : SReg × Fin 4) (n : Nat) (peek : Bool) : Except Stop (List Byte × State) :=
  let r := s.streamStart p.1
  let h := s.headNow p
  match takenCause s r h n with
  | some c => .error (.trap ⟨c, ownAddress s.entry (r.byteKey s.entry h.count (h.pos.toNat * r.esize)), 0⟩)
  | none =>
    let bs := s.mem.gather (r.byteKeys s.entry h.count (h.pos.toNat * r.esize) n)
    .ok (bs, if peek then s else s.passHead p n)

/-- A pop or peek of `want` bytes, all of which must be there: whole elements; an element larger than that gives its first
bytes (R186). It waits for them, and raises 0x25 where the stream has ended before them (R42, R125, R320, R370, R373). -/
def popAll (s : State) (n : SReg) (want : Nat) (peek : Bool) : Except Stop (List Byte × State) := do
  let p ← ePort s n
  let r := s.streamStart p.1
  let k := max want r.esize
  if k ≤ availBytes r (s.headNow p) then
    let (bs, s1) ← takeBytes s p k peek
    return (bs.take want, s1)
  else if r.ended then raise 0x25
  else .error .block

/-- A pop or peek of a vector or scalar operand of `want` bytes. Of an ended stream with fewer left it takes the elements that
remain; the rest of a vector operand (`zero`) is zero, and that of a scalar one a free value (R186, log 80). -/
def popOperand (s : State) (n : SReg) (want : Nat) (zero peek : Bool) : Except Stop (List Byte × State) := do
  let p ← ePort s n
  let r := s.streamStart p.1
  let av := availBytes r (s.headNow p)
  if r.ended && decide (r.esize ≤ av) && decide (av < want) then
    let (bs, s1) ← takeBytes s p av peek
    if zero then return (bs ++ List.replicate (want - av) 0, s1)
    else return (bs ++ (List.range (want - av)).map (Config.openByte s.free), s1.draw.2)
  else popAll s n want peek

/-- The oldest xq entry, popped (R186); one pushed in this core cycle is not there yet (R26). -/
def popXq (s : State) : Except Stop (W64 × State) :=
  match s.r.xq with
  | [] => .error .block
  | v :: vs =>
    if s.r.start.xq = 0 then .error .block
    else .ok (v, s.updR fun r => { r with xq := vs, start := { r.start with xq := r.start.xq - 1 } })

/-- Whether a queue entry is a drain whose output is the drain queue. -/
def QEntry.feedsDrain (q : QEntry) : Bool :=
  match q.op with
  | .jdrain none _ _ | .jdraino none _ _ => true
  | _ => false

/-- Selector 0xC3 as a vector operand: 256 bytes of the drain queue (R364). Fewer that a finished drain has left wait while
another drain to the queue is still to come (log 114). -/
def popDrain (s : State) : Except Stop (Lanes × State) :=
  let q := s.r.dm.drainq
  let feeding := s.r.mx.queue.any QEntry.feedsDrain
  let take := s.updR fun r => { r with dm := { r.dm with drainq := q.drop 256 } }
  if 256 ≤ q.length then .ok (lanesOfBytes (q.take 256), take)
  else if feeding then .error .block
  else if q.isEmpty then raise 0x25
  else .ok (lanesOfBytes (q ++ List.replicate (256 - q.length) 0), take)

/-! ### Operands (R184, R300) -/

/-- A vector operand. -/
def readV (s : State) (c : BitVec 8) : Except Stop (Lanes × State) :=
  let n := c.toNat
  if n < 0x40 then .ok (s.r.ep.v[Fin.ofNat 64 n], s)
  else if n < 0x50 then
    match s.r.ep.b[Fin.ofNat 16 n] with
    | some l => .ok (l.toVec, s)
    | none => raise 0x12
  else if n < 0x60 then raise 0x03
  else if n < 0x80 then .ok (Lanes.fill s.r.ep.s[Fin.ofNat 32 n], s)
  else if n < 0xC0 then
    match popOperand s (Fin.ofNat 32 n) 256 true (decide (0xA0 ≤ n)) with
    | .ok (bs, s1) => .ok (lanesOfBytes bs, s1)
    | .error e => .error e
  else if n = 0xC0 then .ok (Lanes.fill 0, s)
  else if n = 0xC2 then
    match popXq s with
    | .ok (v, s1) => .ok (Lanes.fill (v.setWidth 32), s1)
    | .error e => .error e
  else if n = 0xC3 then popDrain s
  else raise 0x03

/-- A scalar operand. -/
def readS (s : State) (c : BitVec 8) : Except Stop (W32 × State) :=
  let n := c.toNat
  if n < 0x40 then .ok ((s.r.ep.v[Fin.ofNat 64 n])[0], s)
  else if n < 0x50 then
    match s.r.ep.b[Fin.ofNat 16 n] with
    | some l => .ok (l.toSc, s)
    | none => raise 0x12
  else if n < 0x60 then raise 0x03
  else if n < 0x80 then .ok (s.r.ep.s[Fin.ofNat 32 n], s)
  else if n < 0xC0 then
    match popOperand s (Fin.ofNat 32 n) 4 false (decide (0xA0 ≤ n)) with
    | .ok (bs, s1) => .ok (le32 bs 0, s1)
    | .error e => .error e
  else if n = 0xC0 then .ok (0, s)
  else if n = 0xC2 then
    match popXq s with
    | .ok (v, s1) => .ok (v.setWidth 32, s1)
    | .error e => .error e
  else raise 0x03

/-! ### Destinations (R185, R42, R336) -/

/-- A queue entry at its issue. -/
def QEntry.fresh (id : Nat) (pc : W32) (op : QOp) : QEntry :=
  ⟨id, pc, op, false, false, none, 0, 0, 0, 0, 0, none, [], [], [], 0⟩

/-- Entries of the command queue (R336). -/
def queueSize : Nat := 16

/-- Take one entry of the command queue; none while it is full (R336). -/
def State.queuePut (s : State) (op : QOp) : Option State :=
  if s.r.mx.queue.length < queueSize then
    some (s.updR fun r => { r with
      mx := { r.mx with queue := r.mx.queue ++ [QEntry.fresh r.mx.nextQ r.ep.pc op], nextQ := r.mx.nextQ + 1 } })
  else none

/-- Enqueue a command, or do not issue. -/
def enqueueCmd (s : State) (op : QOp) : Except Stop State :=
  match s.queuePut op with
  | some s1 => .ok s1
  | none => .error .block

/-- Room in yq for one more result: entries held, and those in flight (R42). -/
def State.yqRoom (s : State) : Bool :=
  max s.r.start.yq s.r.yq.length + (s.r.ep.inflight.filter fun x => x.dest == .yq).length < 32

/-- An EP-produced ring that E may push to (cause 0x20). -/
def ePush (s : State) (n : SReg) : Except Stop Unit := need ((s.streamStart n).kind = 7) 0x20

/-- Bytes that a result occupies in a ring: a vector 256; a scalar one element, or 4 bytes of smaller
elements (R316). -/
def pushBytes (r : StreamReg) (v : EVal) : Nat :=
  match v with
  | .sc _ => if 4 < r.esize then r.esize else 4
  | .bytes bs _ => bs.length
  | _ => 256

/-- The destination of a result, its room reserved at issue (R42, R185, R360). -/
def reserveDest (s : State) (f : EF) (v : EVal) : Except Stop (EDest × State) := do
  let n := f.d.toNat
  if n = 0xFF || f.nw then return (.none, s)
  else if n < 0x40 then return (.vreg (Fin.ofNat 64 n), s)
  else if 0x60 ≤ n && n < 0x80 then return (.sreg (Fin.ofNat 32 n), s)
  else if 0x80 ≤ n && n < 0xA0 then
    let st : SReg := Fin.ofNat 32 n
    ePush s st
    match s.reserve st (pushBytes (s.streamStart st) v) with
    | some s1 => return (.push st, s1)
    | none => .error (.blockClaim st ((s.stream st).claimFor (pushBytes (s.streamStart st) v)))
  else if n = 0xC2 then
    await s.yqRoom
    return (.yq, s)
  else
    match s.r.dm.issued with
    | none => raise 0x5A
    | some c =>
      need (c.mode.val % 2 = 0) 0x5A
      let id := s.r.mx.nextQ
      let s1 ← enqueueCmd s (.jvec none (s.eguard f))
      return (.jport id, s1)

/-- A result of unit class `cls` and latency `lat` goes in flight (R187, R194). -/
def State.eResult (s : State) (f : EF) (lat cls : Nat) (v : EVal) : Except Stop State := do
  let g := s.eguard f
  let (d, s1) ← reserveDest s f v
  return s1.updE fun e => { e with
    inflight := e.inflight ++ [⟨lat, d, v, g, some (Fin.ofNat 16 (2 * cls))⟩] }

/-- Whether a mask is a stage mask of the active pipelined loop (R301). -/
def EpCtx.stageMask (e : EpCtx) (n : Fin 16) : Bool :=
  match e.loops with
  | ⟨_, _, _, _, some p⟩ :: _ => decide (8 ≤ n.val) && decide (n.val < 8 + p.stages)
  | _ => false

/-- A mask result of latency `lat` goes in flight; a stage mask may not be written (R301, R307). -/
def State.eMaskResult (s : State) (f : EF) (lat : Nat) (v : W64) : Except Stop State := do
  let n : Fin 16 := Fin.ofNat 16 f.d.toNat
  need (!s.r.ep.stageMask n) 0x13
  return s.updE fun e => { e with inflight := e.inflight ++ [⟨lat, .mask n, .mask v, s.eguard f, none⟩] }

/-! ### Delivery (R187, R190, R195) -/

/-- The value with masked-off lanes zero (R187, R190). A latch of a scalar result holds the scalar, zero where lane 0 is
masked off (log 109). -/
def maskedVal (g : W64) (v : EVal) : Latch :=
  match v with
  | .vec x => .vec (mergeLanes g x (Lanes.fill 0))
  | .sc w => .sc (if laneOn g 0 then w else 0)
  | _ => .sc 0

/-- A value as the lanes it would write. -/
def EVal.toVec : EVal → Lanes
  | .vec v => v
  | .sc w => Lanes.fill w
  | _ => Lanes.fill 0
/-- A value as a scalar: lane 0 of a vector. -/
def EVal.toSc : EVal → W32
  | .vec v => v[0]
  | .sc w => w
  | _ => 0

/-- Lane or scalar latches of a class: the newest result and the one before it (R187). -/
def pushLatch (b : Vector (Option Latch) 16) (i : Fin 16) (l : Latch) : Vector (Option Latch) 16 :=
  (b.set (Fin.ofNat 16 (i.val + 1)) b[i]).set i (some l)

/-- A result enters its class's latch. -/
def EpCtx.latched (e : EpCtx) (i : Option (Fin 16)) (l : Latch) : EpCtx :=
  match i with
  | some i => { e with b := pushLatch e.b i l }
  | none => e

/-- The bytes that a result pushes (R316): the other bytes of an element larger than a scalar are free
(log 7). -/
def resultBytes (free es : Nat) (g : W64) (v : EVal) : List Byte :=
  match v, maskedVal g v with
  | .bytes bs _, _ => bs
  | _, .vec x => bytesOfLanes x
  | _, .sc w => leBytes 4 w.toNat ++ (List.range (es - 4)).map fun i => Config.openByte free i

/-- Whole granules are pushed with the check values they carry (R373). -/
def carryChecks (m : Memory) (e : Nat) (r : StreamReg) : BitVec 24 → List Check → Memory
  | _, [] => m
  | c, k :: ks => carryChecks (m.setChk (r.granuleNo e c) k) e r (c + 1) ks

/-- A push commits its bytes (R195); a ring closed since then takes nothing. -/
def deliverPush (s : State) (n : SReg) (x : InFlight) : State :=
  let r := s.stream n
  let k := pushBytes r x.val
  if r.kind = 7 && decide (k ≤ r.reserved) then
    let bs := resultBytes s.free r.esize x.guard x.val
    let at_ := r.tail.1
    let s1 := ((s.draw.2.writeTail n 0 bs).commit n k).updSt n fun r => { r with reserved := r.reserved - k }
    match x.val with
    | .bytes _ ks => if r.tail.2 = 0 then { s1 with mem := carryChecks s1.mem s1.entry r at_ ks } else s1
    | _ => s1
  else s

/-- One result is delivered: its destination is written under its mask, and its latch receives it
(R187, R190). The join store takes it with its masked-off lanes zero, and its tuples by their own guard bits (R360,
log 47). -/
def deliver (s : State) (x : InFlight) : State :=
  match x.dest with
  | .vreg n =>
    s.updE fun e =>
      let v := mergeLanes x.guard x.val.toVec e.v[n]
      { e with v := e.v.set n v }.latched x.latch (.vec v)
  | .sreg n =>
    s.updE fun e =>
      let w := if laneOn x.guard 0 then x.val.toSc else e.s[n]
      { e with s := e.s.set n w }.latched x.latch (.sc w)
  | .mask n =>
    s.updE fun e =>
      match x.val with
      | .mask v => { e with m := e.m.set n ((v &&& x.guard) ||| (e.m[n] &&& ~~~x.guard)) }
      | _ => e
  | .none => s.updE fun e => e.latched x.latch (maskedVal x.guard x.val)
  | .push n =>
    match x.val with
    | .bytes _ _ => (deliverPush s n x).reuseDone
    | _ => (deliverPush s n x).updE fun e => e.latched x.latch (maskedVal x.guard x.val)
  | .yq =>
    let l := maskedVal x.guard x.val
    (s.updR fun r => { r with yq := r.yq ++ [l.toSc.setWidth 64] }).updE fun e => e.latched x.latch l
  | .jport id =>
    let l := maskedVal x.guard x.val
    (s.updR fun r => { r with
      mx := { r.mx with queue := r.mx.queue.map fun q => if q.id = id then { q with op := .jvec (some l.toVec) x.guard } else q }
      start := { r.start with arrived := id :: r.start.arrived } }).updE
      fun e => e.latched x.latch l

/-- Results delivered in issue order. -/
def deliverAll (s : State) : List InFlight → State
  | [] => s
  | x :: xs => deliverAll (deliver s x) xs

/-- A slot of E passes: every result in flight comes one slot nearer, and those that are due are
delivered, before anything is read in the slot (R7, R187). -/
def State.tickE (s : State) : State :=
  let xs := s.r.ep.inflight.map fun x => { x with left := x.left - 1 }
  deliverAll (s.updE fun e => { e with inflight := xs.filter fun x => x.left ≠ 0 })
    (xs.filter fun x => x.left = 0)

/-- Whether a result in flight is the push of a G.REUSE, which counts every owned slot of E, also one in which E is
blocked (R373, R383, log 46). -/
def InFlight.replays (x : InFlight) : Bool :=
  match x.val with
  | .bytes _ _ => true
  | _ => false

/-- A slot that does not count, because E is blocked in it: every result in flight is held (R7, R42, log 42), but for the
push of a G.REUSE, which comes one slot nearer (R383, log 46). One in which E faults or is at rest holds them all (R196). -/
def State.holdE (s : State) : State :=
  let xs := s.r.ep.inflight.map fun x => if x.replays then { x with left := x.left - 1 } else x
  deliverAll (s.updE fun e => { e with inflight := xs.filter fun x => x.left ≠ 0 }) (xs.filter fun x => x.left = 0)

/-! ### Loops (R322 to R326) -/

/-- Whether E is to stop at its next group switch: for a save or a stop request (R196, R426). -/
def State.eRequest (s : State) : Bool := s.r.watch.saveReq.isSome || s.r.ep.stopReq

/-- A run of a pipelined level is over: its oldest stage carries no iteration (R324). -/
def Pipe.over (p : Pipe) : Bool := decide (p.stop + (p.stages - 1) ≤ p.base + p.exec)

/-- The stage masks of an execution, or all-false (R324). -/
def stageMasks (p : Pipe) (on : Bool) (m : Vector W64 16) : Vector W64 16 :=
  Vector.ofFn fun i =>
    if 8 ≤ i.val && i.val < 8 + p.stages then
      let k := i.val - 8
      if on && decide (k ≤ p.exec) && decide (p.base + p.exec - k < p.stop) then BitVec.allOnes 64 else 0
    else m[i]

/-- Where control stands after a body's last instruction. -/
structure EMove where
  pc : Nat
  loops : List ELoop
  m : Vector W64 16
  switched : Bool

/-- Control passes to offset t in sequence: every level that ends at t advances (R323, R324, R326). -/
def eAdvance (req : Bool) (t : Nat) (m : Vector W64 16) : List ELoop → EMove
  | [] => ⟨t, [], m, false⟩
  | l :: ls =>
    if l.stop ≠ t then ⟨t, l :: ls, m, false⟩
    else
      match l.pipe with
      | none =>
        if l.index + 1 < l.count then ⟨l.start, { l with index := l.index + 1 } :: ls, m, true⟩
        else { eAdvance req t m ls with switched := true }
      | some p =>
        let e := p.exec + 1
        let stop := if req && decide (p.base + e < p.stop) then p.base + e else p.stop
        let p' : Pipe := { p with exec := e, stop := stop }
        if !p'.over then
          ⟨l.start, { l with index := min (p.base + e + 1) stop, pipe := some p' } :: ls, stageMasks p' true m, true⟩
        else if stop < l.count then ⟨l.start, { l with pipe := some p' } :: ls, stageMasks p' false m, true⟩
        else { eAdvance req t (stageMasks p' false m) ls with switched := true }

/-- A drained pipelined level starts its next run when E issues again (R326). -/
def EpCtx.refill (e : EpCtx) : EpCtx :=
  match e.loops with
  | l :: ls =>
    match l.pipe with
    | some p =>
      if p.over then
        let p' : Pipe := { p with base := p.stop, stop := l.count, exec := 0 }
        { e with loops := { l with index := min (p.stop + 1) l.count, pipe := some p' } :: ls
                 m := stageMasks p' true e.m }
      else e
    | none => e
  | [] => e

/-- Pop every level whose body does not hold the target (R321). -/
def eLoopPop (t : Nat) : List ELoop → List ELoop
  | [] => []
  | l :: ls => if l.start ≤ t ∧ t < l.stop then l :: ls else eLoopPop t ls

/-- Bytes of the instruction that begins with a word: long forms take two words (R191). -/
def wordLen (w : W64) : Nat := if 0xF0 ≤ bits w 63 56 then 16 else 8

/-- The E word at an offset: from the loop buffer where it holds it, otherwise from the instruction
memory (R298, R323). -/
def State.eWordAt (s : State) (o : Nat) : W64 :=
  let e := s.r.ep
  if e.lbufStart ≤ o ∧ o < e.lbufStart + 8 * e.lbuf.length ∧ e.loops ≠ [] then
    e.lbuf.getD ((o - e.lbufStart) / 8) 0
  else s.mem.word64 (epimKey s.entry o)

/-- The word at E's PC; past its section there is none, and what a record of 0x04 holds for it is free (R418, log 125). -/
def State.eWord (s : State) : W64 :=
  if s.r.ep.pc.toNat + 8 ≤ s.r.bind.epSize then s.eWordAt s.r.ep.pc.toNat else (Config.pastWord s.free).setWidth 64

/-- The stage of the instruction at an offset: of the nearest ESTAGE before it in the body (R324). -/
def stageFrom (s : State) (target : Nat) : Nat → Nat → Nat → Nat
  | 0, _, st => st
  | k + 1, o, st =>
    if target ≤ o then st
    else
      let w := s.eWordAt o
      stageFrom s target k (o + wordLen w) (if bits w 63 56 = 0x52 then bits w 2 0 else st)

/-- Whether the instruction at E's PC is withheld (R325). -/
def State.withheld (s : State) : Bool :=
  match s.r.ep.loops with
  | l :: _ =>
    match l.pipe with
    | some p =>
      let st := stageFrom s s.r.ep.pc.toNat 64 l.start 0
      decide (st < p.stages) && s.r.ep.m[Fin.ofNat 16 (8 + st)] == 0
    | none => false
  | [] => false

/-! ### Issue -/

/-- How an E-set instruction leaves the PC. -/
inductive EFlow where
  | next
  /-- to an offset, as if in sequence (R322) -/
  | skipTo (t : Nat)
  /-- a taken EB (R321) -/
  | jump (t : Nat)
  /-- into a loop body that has just been opened -/
  | enter
  /-- the PC is already written -/
  | set
  deriving DecidableEq, Repr

/-- Bytes of an instruction (R191). -/
def eLen : Instr → Nat
  | .vli _ _ | .sli _ _ => 16
  | _ => 8

/-- Move E in sequence to offset t. -/
def EpCtx.moveTo (e : EpCtx) (req : Bool) (t : Nat) : EpCtx :=
  let r := eAdvance req t e.m e.loops
  { e with
    pc := BitVec.ofNat 32 r.pc, loops := r.loops, m := r.m, atSwitch := r.switched
    b := if r.switched then Vector.replicate 16 none else e.b
    lbuf := if r.loops = [] then [] else e.lbuf }

/-- Move E's PC and loop stack. -/
def EpCtx.flow (e : EpCtx) (req : Bool) (len : Nat) : EFlow → EpCtx
  | .next => e.moveTo req (e.pc.toNat + len)
  | .skipTo t => e.moveTo req t
  | .jump t =>
    let ls := eLoopPop t e.loops
    { e with pc := BitVec.ofNat 32 t, loops := ls, atSwitch := true, b := Vector.replicate 16 none
             lbuf := if ls = [] then [] else e.lbuf }
  | .enter => { e with atSwitch := true, b := Vector.replicate 16 none }
  | .set => { e with atSwitch := false }

/-- The vector operands and results of an instruction that are vector registers, for etag's bound: with `nw` it writes
none (R332). -/
def vecNames (i : Instr) : Nat :=
  match eSpec i with
  | some (p, f) =>
    ((if f.nw then [] else [(p.d, f.d)]) ++ [(p.a, f.a), (p.b, f.b), (p.c, f.c)]).countP fun q =>
      q.1.wholeVec && decide (q.2.toNat < 0x40)
  | none => 0

/-- etag grows by a free amount within its bound (R332, log 5). -/
def State.tagE (s : State) (n : Nat) : State :=
  let (k, s1) := s.draw
  s1.updE fun e => { e with etag := e.etag + BitVec.ofNat 64 (Config.tagSpared k % (64 * n + 1)) }

/-- The issue of an instruction of n bytes: its flow and its count. -/
def State.ePassed (s : State) (n : Nat) (fl : EFlow) : State :=
  let req := s.eRequest
  (s.updE fun e => { e.flow req n fl with einst := e.einst + 1 }).move

/-- The end of an instruction that E issued. -/
def State.eDone (s : State) (i : Instr) (fl : EFlow) : State := (s.tagE (vecNames i)).ePassed (eLen i) fl

/-- An owned slot in which E does not issue under R42: results in flight are held (R332). -/
def State.eBlocked (s : State) : State := s.updE fun e => { e with eblk := e.eblk + 1 }

/-- TAKING AN EXCEPTION in context E: it is parked with the cause, its PC at the instruction and its
latches empty, and a record of kind 0 goes to the fault queue (R14, R188, R196, R418). -/
def State.parkE (s : State) (t : Trap) : State :=
  ((s.updE fun e => { e with status := .parked t.cause, b := Vector.replicate 16 none, atSwitch := false }).record 0 2
    0xFF s.r.ep.pc s.eWord t .ep).softError t.cause

/-- Causes of ranks 0x01 and 0x02 that need a format word: the width of a packed narrow type (R311) and
the saturate flag of a narrow conversion (R310). -/
def eLate (s : State) (i : Instr) : Option Cause :=
  let fmt (c : Nat) : W32 := s.r.ep.f[Fin.ofNat 8 c]
  let narrow (c : Nat) : Bool := decide (16 ≤ c) && decide (c < 24)
  let badSegN (c p : Nat) : Bool := narrow c && decide (32 / containerBits (fmt c) ≤ p)
  let isInt (c : Nat) : Bool := if narrow c then bits (fmt c) 2 0 = 0 else isWideInt c
  let badSatN (f : EF) : Bool := f.fn.getLsbD 3 && !(isInt f.ty.toNat && isInt (f.x.toNat % 32))
  match i with
  | .vcvt f | .scvt f => if badSatN f then some 0x02 else none
  | .vpack f =>
    if badSegN f.ty.toNat (f.x.toNat / 32) then some 0x01 else if badSatN f then some 0x02 else none
  | .vunpack f =>
    if badSegN (f.x.toNat % 32) (f.x.toNat / 32) then some 0x01 else if badSatN f then some 0x02 else none
  | _ => none

/-- Whether a field names a vector register outside the allotment (R185). -/
def outsideAllotment (s : State) (i : Instr) : Bool :=
  match eSpec i with
  | some (p, f) =>
    [(p.d, f.d), (p.a, f.a), (p.b, f.b), (p.c, f.c)].any fun q =>
      q.1.namesVec && decide (q.2.toNat < 0x40) && decide (s.r.ep.vregs ≤ q.2.toNat)
  | none => false

/-- Whether a source field names an empty latch (R188). -/
def namesEmptyLatch (s : State) (i : Instr) : Bool :=
  match eSpec i with
  | some (p, f) =>
    [(p.a, f.a), (p.b, f.b), (p.c, f.c)].any fun q =>
      q.1.namesVec && decide (0x40 ≤ q.2.toNat) && decide (q.2.toNat < 0x50) &&
        (s.r.ep.b[Fin.ofNat 16 q.2.toNat]).isNone
  | none => false

/-- The first cause of an instruction's own fields: that of the lowest rank, its format words counted (R197). -/
def eCause (s : State) (i : Instr) : Option Cause :=
  match staticCause i, eLate s i with
  | some a, some b => some (if b < a then b else a)
  | some a, none => some a
  | none, b => b

/-- The issue of an E-set instruction by the residency in focus: withheld by its stage, so that it touches nothing
(R325), or its causes in the order of R197; then its own body decides, on a state in which the results due in the slot
are delivered. The slot of one that does not issue does not count, so nothing is delivered in it (R7, R42). A withheld
instruction takes one slot, a VPUSHM or VPOPM of several registers too (log 112). -/
def eIssue (i : Instr) (s0 : State) (body : State → Except Stop (State × EFlow)) :
    Host.Outcome State Fault Refusal :=
  let s := s0.updE EpCtx.refill
  if s.withheld then .next (s.tickE.ePassed (eLen i) .next)
  else
    match eCause s i with
    | some c => .next (s.parkE ⟨c, 0, 0⟩)
    | none =>
      let s1 := s.tickE
      if outsideAllotment s1 i then .next (s.parkE ⟨0x11, 0, 0⟩)
      else if namesEmptyLatch s1 i then .next (s.parkE ⟨0x12, 0, 0⟩)
      else
        match body s1 with
        | .ok (s2, fl) => .next (s2.eDone i fl)
        | .error .block => .next s.holdE.eBlocked
        | .error (.blockAt _) | .error (.defer _) => .next s.holdE.eBlocked
        | .error (.blockClaim n g) => .next (s.holdE.dropFor n g).eBlocked
        | .error (.trap t) => .next (s.parkE t)
        | .error (.trapAt t s2) => .next (s2.parkE t)

/-! ### Shapes of instructions -/

/-- An instruction of one vector operand. -/
def eVec1 (i : Instr) (f : EF) (lat cls : Nat) (op : Lanes → Lanes) (s : State) :
    Host.Outcome State Fault Refusal :=
  eIssue i s fun s => do
    let (a, s1) ← readV s f.a
    let s2 ← s1.eResult f lat cls (.vec (op a))
    return (s2, .next)

/-- An instruction of two vector operands. -/
def eVec2 (i : Instr) (f : EF) (lat cls : Nat) (op : Lanes → Lanes → Lanes) (s : State) :
    Host.Outcome State Fault Refusal :=
  eIssue i s fun s => do
    let (a, s1) ← readV s f.a
    let (b, s2) ← readV s1 f.b
    let s3 ← s2.eResult f lat cls (.vec (op a b))
    return (s3, .next)

/-- An instruction of three vector operands. -/
def eVec3 (i : Instr) (f : EF) (lat cls : Nat) (op : Lanes → Lanes → Lanes → Lanes) (s : State) :
    Host.Outcome State Fault Refusal :=
  eIssue i s fun s => do
    let (a, s1) ← readV s f.a
    let (b, s2) ← readV s1 f.b
    let (c, s3) ← readV s2 f.c
    let s4 ← s3.eResult f lat cls (.vec (op a b c))
    return (s4, .next)

/-- A scalar instruction of two operands. -/
def eSc2 (i : Instr) (f : EF) (lat cls : Nat) (op : W32 → W32 → W32) (s : State) :
    Host.Outcome State Fault Refusal :=
  eIssue i s fun s => do
    let (a, s1) ← readS s f.a
    let (b, s2) ← readS s1 f.b
    let s3 ← s2.eResult f lat cls (.sc (op a b))
    return (s3, .next)

/-- An instruction whose scalar result is read from the state. -/
def eRead (i : Instr) (f : EF) (lat cls : Nat) (op : State → Except Stop (W32 × State)) (s : State) :
    Host.Outcome State Fault Refusal :=
  eIssue i s fun s => do
    let (v, s1) ← op s
    let s2 ← s1.eResult f lat cls (.sc v)
    return (s2, .next)

/-- An instruction without a result. -/
def eAct (i : Instr) (s : State) (op : State → Except Stop State) : Host.Outcome State Fault Refusal :=
  eIssue i s fun s => do
    let s1 ← op s
    return (s1, .next)

/-- Lanewise operations. -/
def map1 (op : W32 → W32) (a : Lanes) : Lanes := Lanes.build fun i => op a[i]
/-- Lanewise operations of two vectors. -/
def map2 (op : W32 → W32 → W32) (a b : Lanes) : Lanes := Lanes.build fun i => op a[i] b[i]
/-- Lanewise operations of three vectors. -/
def map3 (op : W32 → W32 → W32 → W32) (x y z : Lanes) : Lanes := Lanes.build fun i => op x[i] y[i] z[i]

/-- The mask whose bit i is `f i`. -/
def buildMask (f : Fin 64 → Bool) : W64 := BitVec.ofNat 64 ((List.finRange 64).foldl (fun n i => if f i then n + 2 ^ i.val else n) 0)

end Sys2Proof.Machine
end

