-- ==== Sys2Proof/Machine/Fp.lean ====
section
/-! DEFINITION. Numbers: exact values, element types, decoding, rounding and conversion (R72 to R93). -/

namespace Sys2Proof.Machine

/-! ### Exact values -/

/-- An exact value of an element type: (−1)^neg · mant · 2^exp, an infinity, or a NaN (R74, R78). -/
inductive Num where
  | nan
  | inf (neg : Bool)
  | fin (neg : Bool) (mant : Nat) (exp : Int)
  deriving DecidableEq, Repr

/-- Zero. -/
def Num.zero (neg : Bool) : Num := .fin neg 0 0

/-- The value of an integer. -/
def Num.ofInt (n : Int) : Num := .fin (decide (n < 0)) n.natAbs 0

/-- The negation; NaN stays NaN. -/
def Num.neg : Num → Num
  | .nan => .nan
  | .inf s => .inf (!s)
  | .fin s m e => .fin (!s) m e

/-- The magnitude. -/
def Num.abs : Num → Num
  | .nan => .nan
  | .inf _ => .inf false
  | .fin _ m e => .fin false m e

/-- The exact product; infinity times zero is NaN. -/
def Num.mul : Num → Num → Num
  | .fin s m e, .fin t n d => .fin (s != t) (m * n) (e + d)
  | .inf s, .inf t => .inf (s != t)
  | .inf s, .fin t n _ => if n = 0 then .nan else .inf (s != t)
  | .fin s m _, .inf t => if m = 0 then .nan else .inf (s != t)
  | _, _ => .nan

/-- A signed mantissa at a lower exponent. -/
def scaled (s : Bool) (m : Nat) (e d : Int) : Int :=
  (if s then -(m : Int) else (m : Int)) * 2 ^ (e - d).toNat

/-- The exact sum. An exact zero of addends that are not both zeros of one sign is −0 when rounding
goes toward −infinity (`down`) and +0 otherwise (R86). -/
def Num.add (down : Bool) : Num → Num → Num
  | .fin s m e, .fin t n d =>
    if m = 0 ∧ n = 0 then .fin (if s = t then s else down) 0 0
    else if m = 0 then .fin t n d
    else if n = 0 then .fin s m e
    else
      let k := min e d
      let v := scaled s m e k + scaled t n d k
      if v = 0 then .fin down 0 0 else .fin (decide (v < 0)) v.natAbs k
  | .inf s, .inf t => if s = t then .inf s else .nan
  | .inf s, .fin _ _ _ => .inf s
  | .fin _ _ _, .inf t => .inf t
  | _, _ => .nan

/-- Whether x < y; false with a NaN. -/
def Num.lt : Num → Num → Bool
  | .fin s m e, .fin t n d => let k := min e d; decide (scaled s m e k < scaled t n d k)
  | .inf s, .inf t => s && !t
  | .inf s, .fin _ _ _ => s
  | .fin _ _ _, .inf t => !t
  | _, _ => false

/-- Whether x = y, −0 equal to +0; false with a NaN. -/
def Num.eq : Num → Num → Bool
  | .fin s m e, .fin t n d => let k := min e d; scaled s m e k == scaled t n d k
  | .inf s, .inf t => s == t
  | _, _ => false

/-- Whether a value is a NaN. -/
def Num.isNan : Num → Bool
  | .nan => true
  | _ => false

/-- The sign of a value; false for NaN. -/
def Num.isNeg : Num → Bool
  | .nan => false
  | .inf s => s
  | .fin s _ _ => s

/-! ### Element types (R72, R73, R77) -/

/-- How an integer destination treats a value outside its range (R92, R93). -/
inductive IntRule where
  /-- a wide type -/
  | wide
  /-- a narrow type of policy 3 -/
  | sat
  /-- a narrow type of policy 0 -/
  | wrap
  deriving DecidableEq, Repr

/-- An element type. -/
inductive Ty where
  /-- exponent bits, fraction bits, bias, whether signed, special-value policy 1, 2 or 3, and low
  fraction bits that are ignored (TF32, R75) -/
  | float (e m : Nat) (bias : Int) (signed : Bool) (policy : Nat) (ignored : Nat)
  | int (w : Nat) (signed : Bool) (rule : IntRule)
  deriving DecidableEq, Repr

/-- FP32 (R73). -/
def tyFp32 : Ty := .float 8 23 127 true 1 0

/-- The type that a format word describes (R76 to R78). -/
def tyOfFmt (w : W32) : Ty :=
  let e := bits w 2 0
  let m := bits w 5 3
  if e = 0 then .int (fmtWidth w) (bit w 6) (if bits w 16 15 = 0 then .wrap else .sat)
  else .float e m (BitVec.ofNat 8 (bits w 14 7)).toInt (bit w 6) (bits w 16 15) 0

/-- The type of a code of R72; a narrow code takes its format word. -/
def tyOf (code : Nat) (fmt : W32) : Ty :=
  match code with
  | 0 => tyFp32
  | 1 => .float 8 23 127 true 1 13
  | 2 => .float 8 7 127 true 1 0
  | 3 => .float 5 10 15 true 1 0
  | 4 => .int 32 true .wide
  | 5 => .int 32 false .wide
  | 6 => .int 16 true .wide
  | 7 => .int 16 false .wide
  | 8 => .int 8 true .wide
  | 9 => .int 8 false .wide
  | _ => tyOfFmt fmt

/-- Whether a type is an integer type. -/
def Ty.isInt : Ty → Bool
  | .int _ _ _ => true
  | .float _ _ _ _ _ _ => false

/-- Bits of a code of a type. -/
def Ty.width : Ty → Nat
  | .int w _ _ => w
  | .float e m _ s _ _ => s.toNat + e + m

/-- The least and the greatest value of an integer type. -/
def intRange (w : Nat) (signed : Bool) : Int × Int :=
  if signed then (-(2 ^ (w - 1)), 2 ^ (w - 1) - 1) else (0, 2 ^ w - 1)

/-- The integer of a code of w bits. -/
def intOfCode (w : Nat) (signed : Bool) (c : Nat) : Int :=
  let v := c % 2 ^ w
  if signed && decide (2 ^ (w - 1) ≤ v) then (v : Int) - 2 ^ w else v

/-- The code of an integer modulo 2^w. -/
def codeOfInt (w : Nat) (n : Int) : Nat := (n % 2 ^ w).toNat

/-- The exact value of a code (R74, R75, R78). -/
def Ty.decode (t : Ty) (c : Nat) : Num :=
  match t with
  | .int w s _ => .ofInt (intOfCode w s c)
  | .float e m bias s pol ign =>
    let neg := s && c.testBit (e + m)
    let ex := c / 2 ^ m % 2 ^ e
    let fr := c % 2 ^ m / 2 ^ ign * 2 ^ ign
    if pol = 1 && ex = 2 ^ e - 1 then (if fr = 0 then .inf neg else .nan)
    else if pol = 2 && c % 2 ^ (e + m) = 2 ^ (e + m) - 1 then .nan
    else if ex = 0 then .fin neg fr (1 - bias - m)
    else .fin neg (2 ^ m + fr) (ex - bias - m)

/-! ### Rounding (R85 to R88) -/

/-- Rounding modes (R85). -/
inductive Mode where
  | rne | rtz | rdn | rup | rna | sr
  deriving DecidableEq, Repr

/-- The mode of a code; 6 and 7 are refused before (R85). -/
def modeOf (c : Nat) : Mode :=
  match c with
  | 0 => .rne
  | 1 => .rtz
  | 2 => .rdn
  | 3 => .rup
  | 4 => .rna
  | _ => .sr

/-- One step of the generator (R88). -/
def lfsrStep (x : W32) : W32 := if bit x 0 then (x >>> 1) ^^^ 0x80200003 else x >>> 1

/-- The integer multiple of 2^q that a magnitude mant · 2^exp rounds to (R86, R88). `code` is what a code is beyond its
count of units: RNE breaks a tie toward the even code (R85). -/
def roundUnits (md : Mode) (draw : W32) (neg : Bool) (mant : Nat) (exp q : Int) (code : Nat) : Nat :=
  if q ≤ exp then mant * 2 ^ (exp - q).toNat
  else
    let k := (q - exp).toNat
    let n := mant / 2 ^ k
    let r := mant % 2 ^ k
    let up : Bool :=
      match md with
      | .rne => decide (2 ^ k < 2 * r) || (decide (2 * r = 2 ^ k) && decide ((code + n) % 2 = 1))
      | .rtz => false
      | .rdn => neg && decide (r ≠ 0)
      | .rup => !neg && decide (r ≠ 0)
      | .rna => decide (2 ^ k ≤ 2 * r)
      | .sr => decide (draw.toNat < 2 ^ 32 * r / 2 ^ k)
    if up then n + 1 else n

/-- The largest finite magnitude code of a floating type (R73, R78). -/
def maxCode (e m pol : Nat) : Nat :=
  if pol = 1 then (2 ^ e - 1) * 2 ^ m - 1 else if pol = 2 then 2 ^ (e + m) - 2 else 2 ^ (e + m) - 1

/-- The magnitude code that a finite overflow gives (R91, R86). -/
def overflowCode (e m pol : Nat) (md : Mode) (neg : Bool) : Nat :=
  if pol ≠ 1 then maxCode e m pol
  else
    match md with
    | .rtz => maxCode e m pol
    | .rdn => if neg then (2 ^ e - 1) * 2 ^ m else maxCode e m pol
    | .rup => if neg then maxCode e m pol else (2 ^ e - 1) * 2 ^ m
    | _ => (2 ^ e - 1) * 2 ^ m

/-- The code of a value in a floating type (R91). Minus infinity is an infinity and a negative value: an unsigned format
gives +0 for it (log 65). -/
def floatCode (e m : Nat) (bias : Int) (signed : Bool) (pol : Nat) (md : Mode) (draw : W32) (v : Num) : Nat :=
  let put (neg : Bool) (mag : Nat) : Nat := if neg then 2 ^ (e + m) + mag else mag
  match v with
  | .nan =>
    if pol = 1 then (2 ^ e - 1) * 2 ^ m + 2 ^ (m - 1) else if pol = 2 then 2 ^ (e + m) - 1 else 0
  | .inf neg =>
    if neg && !signed then 0
    else if pol = 1 then put neg ((2 ^ e - 1) * 2 ^ m) else put neg (maxCode e m pol)
  | .fin neg mant exp =>
    if neg && !signed then 0
    else if mant = 0 then put neg 0
    else
      let qmin : Int := 1 - bias - m
      let q : Int := max qmin (exp + Nat.log2 mant - m)
      let base := (q - qmin).toNat * 2 ^ m
      let mag := base + roundUnits md draw neg mant exp q base
      if maxCode e m pol < mag then put neg (overflowCode e m pol md neg) else put neg mag

/-- The integer that a finite value rounds to (R92). -/
def roundInt (md : Mode) (draw : W32) (neg : Bool) (mant : Nat) (exp : Int) : Int :=
  let n : Int := roundUnits md draw neg mant exp 0 0
  if neg then -n else n

/-- n held within a range (R93). -/
def clampInt (r : Int × Int) (n : Int) : Int := max r.1 (min r.2 n)

/-- The code of an integer in an integer type (R93). -/
def fitInt (w : Nat) (signed : Bool) (rule : IntRule) (sat : Bool) (n : Int) : Nat :=
  if sat || rule == .sat then codeOfInt w (clampInt (intRange w signed) n) else codeOfInt w n

/-- The code of a value of a floating source in an integer type (R92). -/
def intCode (w : Nat) (signed : Bool) (rule : IntRule) (md : Mode) (draw : W32) (v : Num) : Nat :=
  let r := intRange w signed
  match v with
  | .nan => 0
  | .inf neg => if rule == .wrap then 0 else codeOfInt w (if neg then r.1 else r.2)
  | .fin neg mant exp =>
    let n := roundInt md draw neg mant exp
    if rule == .wrap then codeOfInt w n else codeOfInt w (clampInt r n)

/-- A conversion of one code (R91 to R93). -/
def convert (src dst : Ty) (md : Mode) (sat : Bool) (draw : W32) (c : Nat) : Nat :=
  match src, dst with
  | .int w s _, .int w' s' rule => fitInt w' s' rule sat (intOfCode w s c)
  | _, .int w s rule => intCode w s rule md draw (src.decode c)
  | _, .float e m bias s pol _ => floatCode e m bias s pol md draw (src.decode c)

/-- Whether a conversion steps the generator in mode SR (R89). -/
def stepsLfsr (src dst : Ty) (md : Mode) : Bool := md == .sr && !(src.isInt && dst.isInt)

/-! ### FP32 -/

/-- The value of an FP32 word. -/
def fp (w : W32) : Num := tyFp32.decode w.toNat

/-- RoundToF32 in a mode, with the draw of an SR step. -/
def toF32 (md : Mode) (draw : W32) (v : Num) : W32 := BitVec.ofNat 32 (floatCode 8 23 127 true 1 md draw v)

/-- RoundToF32(v, RNE). -/
def rneF32 (v : Num) : W32 := toF32 .rne 0 v

/-- The canonical NaN of FP32 (R74). -/
def nanF32 : W32 := 0x7FC00000

/-- a + b rounded RNE. -/
def fAdd (a b : W32) : W32 := rneF32 ((fp a).add false (fp b))
/-- a − b rounded RNE. -/
def fSub (a b : W32) : W32 := rneF32 ((fp a).add false (fp b).neg)
/-- a · b rounded RNE. -/
def fMul (a b : W32) : W32 := rneF32 ((fp a).mul (fp b))
/-- a · b + c rounded once. -/
def fFma (a b c : W32) : W32 := rneF32 (((fp a).mul (fp b)).add false (fp c))
/-- a · b − c rounded once. -/
def fFms (a b c : W32) : W32 := rneF32 (((fp a).mul (fp b)).add false (fp c).neg)

/-- Whether a stands before b in the order of VMIN: −0 below +0 (R304). -/
def fBelow (a b : W32) : Bool := (fp a).lt (fp b) || ((fp a).eq (fp b) && bit a 31 && !bit b 31)

/-- The lesser of two; canonical NaN if either is NaN (R304). -/
def fMin (a b : W32) : W32 := if (fp a).isNan || (fp b).isNan then nanF32 else if fBelow b a then b else a
/-- The greater of two (R304). -/
def fMax (a b : W32) : W32 := if (fp a).isNan || (fp b).isNan then nanF32 else if fBelow a b then b else a
/-- |a| (R304). -/
def fAbs (a : W32) : W32 := if (fp a).isNan then nanF32 else a &&& 0x7FFFFFFF
/-- −a (R304). -/
def fNeg (a : W32) : W32 := if (fp a).isNan then nanF32 else a ^^^ 0x80000000

/-- Condition of R307 on FP32: −0 equals +0; with a NaN only NE holds. -/
def fCondition (c : Nat) (a b : W32) : Bool :=
  let x := fp a
  let y := fp b
  match c with
  | 0 => x.eq y
  | 1 => !x.eq y
  | 2 => x.lt y
  | 3 => x.eq y || y.lt x
  | 6 => x.eq y || x.lt y
  | 7 => y.lt x
  | _ => false

end Sys2Proof.Machine
end

