-- ==== Sys2Proof/Machine/Sfu.lean ====
section
/-! DEFINITION. The special functions of VSFU (R305): reciprocal and roots by exact integer arithmetic,
the others by enclosures in fixed point, narrowed until both ends round to one result. -/

namespace Sys2Proof.Machine

/-! ### Reciprocal and roots -/

/-- floor(√n), bit by bit from bit k-1: `r` is the root so far. -/
def isqrtFrom (n : Nat) : Nat → Nat → Nat
  | 0, r => r
  | k + 1, r => if (r + 2 ^ k) * (r + 2 ^ k) ≤ n then isqrtFrom n k (r + 2 ^ k) else isqrtFrom n k r

/-- floor(√n). -/
def isqrt (n : Nat) : Nat := isqrtFrom n (Nat.log2 n / 2 + 1) 0

/-- A magnitude a little above mant · 2^exp when `more` holds, else equal to it, as a value that rounds
alike: one bit more holds the excess. -/
def sticky (neg : Bool) (mant : Nat) (exp : Int) (more : Bool) : Num := .fin neg (2 * mant + more.toNat) (exp - 1)

/-- 1/(m · 2^e) for m ≠ 0. -/
def recip (neg : Bool) (m : Nat) (e : Int) : Num :=
  sticky neg (2 ^ 80 / m) (-80 - e) (decide (2 ^ 80 % m ≠ 0))

/-- √(m · 2^e) for an even e. -/
def rootEven (m : Nat) (e : Int) : Num :=
  let n := m * 2 ^ 80
  let r := isqrt n
  sticky false r (e / 2 - 40) (decide (r * r ≠ n))

/-- √(m · 2^e). -/
def root (m : Nat) (e : Int) : Num := if e % 2 = 0 then rootEven m e else rootEven (2 * m) (e - 1)

/-- 1/√(m · 2^e) for an even e and m ≠ 0. -/
def rrootEven (m : Nat) (e : Int) : Num :=
  let r := isqrt (2 ^ 160 / m)
  sticky false r (-(e / 2) - 80) (decide (r * r * m ≠ 2 ^ 160))

/-- 1/√(m · 2^e). -/
def rroot (m : Nat) (e : Int) : Num := if e % 2 = 0 then rrootEven m e else rrootEven (2 * m) (e - 1)

/-! ### Enclosures: a pair (lo, hi) of natural numbers stands for the reals from lo/2^p to hi/2^p -/

/-- An enclosure. -/
abbrev Enc := Nat × Nat

/-- n/d in fixed point. -/
def encOf (p n d : Nat) : Enc := (n * 2 ^ p / d, n * 2 ^ p / d + 1)
/-- Sum. -/
def encAdd (a b : Enc) : Enc := (a.1 + b.1, a.2 + b.2)
/-- Difference, held at zero below. -/
def encSub (a b : Enc) : Enc := (a.1 - b.2, a.2 - b.1)
/-- Product. -/
def encMul (p : Nat) (a b : Enc) : Enc := (a.1 * b.1 / 2 ^ p, a.2 * b.2 / 2 ^ p + 1)
/-- Quotient, b above zero. -/
def encDiv (p : Nat) (a b : Enc) : Enc := (a.1 * 2 ^ p / b.2, a.2 * 2 ^ p / max 1 b.1 + 1)
/-- Division by a small number. -/
def encShrink (a : Enc) (k : Nat) : Enc := (a.1 / k, a.2 / k + 1)
/-- One. -/
def encOne (p : Nat) : Enc := (2 ^ p, 2 ^ p)

/-- The terms t·x^i/(i+1)... of the exponential series from term i on: t is term i (R305). -/
def expTerms (p : Nat) (x : Enc) : Nat → Nat → Enc → Enc → Enc
  | 0, _, _, s => (s.1, s.2 + 2)
  | k + 1, i, t, s =>
    let t' := encShrink (encMul p t x) i
    expTerms p x k (i + 1) t' (encAdd s t')

/-- e^x for 0 ≤ x < 1: after p terms the rest is below one unit. -/
def encExp (p : Nat) (x : Enc) : Enc := expTerms p x p 1 (encOne p) (encOne p)

/-- Squared k times. -/
def encSquares (p : Nat) : Nat → Enc → Enc
  | 0, a => a
  | k + 1, a => encSquares p k (encMul p a a)

/-- e^x for 0 ≤ x < 256. -/
def encExpWide (p : Nat) (x : Enc) : Enc := encSquares p 8 (encExp p (encShrink x 256))

/-- Σ y^(2i+1)/(2i+1): the series of artanh, with alternating signs for arctan; t is y^(2i+1). -/
def oddTerms (p : Nat) (alt : Bool) (y2 : Enc) : Nat → Nat → Enc → Enc → Enc
  | 0, _, _, s => (s.1 - 2, s.2 + 2)
  | k + 1, i, t, s =>
    let u := encShrink t (2 * i + 1)
    let s' := if alt && decide (i % 2 = 1) then encSub s u else encAdd s u
    oddTerms p alt y2 k (i + 1) (encMul p t y2) s'

/-- artanh y for 0 ≤ y ≤ 1/2. -/
def encArtanh (p : Nat) (y : Enc) : Enc := oddTerms p false (encMul p y y) p 0 y (0, 0)

/-- arctan(1/n) for n ≥ 2. -/
def encArctanInv (p n : Nat) : Enc :=
  let y := encOf p 1 n
  oddTerms p true (encMul p y y) p 0 y (0, 0)

/-- An enclosure times a small number. -/
def encTimes (a : Enc) (k : Nat) : Enc := (a.1 * k, a.2 * k)

/-- ln 2 = 2 artanh(1/3). -/
def encLn2 (p : Nat) : Enc := encTimes (encArtanh p (encOf p 1 3)) 2

/-- π = 16 arctan(1/5) − 4 arctan(1/239). -/
def encPi (p : Nat) : Enc := encSub (encTimes (encArctanInv p 5) 16) (encTimes (encArctanInv p 239) 4)

/-- The terms of sine (from i = 1, t = x) or cosine (from i = 0, t = 1): t·x²/((i+1)(i+2)). -/
def trigTerms (p : Nat) (x2 : Enc) : Nat → Nat → Bool → Enc → Enc → Enc
  | 0, _, _, _, s => (s.1 - 2, s.2 + 2)
  | k + 1, i, minus, t, s =>
    let t' := encShrink (encMul p t x2) ((i + 1) * (i + 2))
    let s' := if minus then encSub s t' else encAdd s t'
    trigTerms p x2 k (i + 2) (!minus) t' s'

/-- sin x for 0 ≤ x < 2. -/
def encSin (p : Nat) (x : Enc) : Enc := trigTerms p (encMul p x x) p 1 true x x
/-- cos x for 0 ≤ x < 1. -/
def encCos (p : Nat) (x : Enc) : Enc := trigTerms p (encMul p x x) p 0 true (encOne p) (encOne p)

/-- The FP32 word that both ends of an enclosure times 2^d round to, if they agree (R305). -/
def encRound (p : Nat) (neg : Bool) (a : Enc) (d : Int) : Option W32 :=
  let r (n : Nat) : W32 := rneF32 (.fin neg n (d - p))
  if r a.1 = r a.2 then some (r a.1) else none

/-! ### The functions -/

/-- The integer and the fixed-point fraction of a magnitude m · 2^e at precision p ≥ −e. -/
def splitAt (p m : Nat) (e : Int) : Nat × Nat :=
  let n := m * 2 ^ (e + p).toNat
  (n / 2 ^ p, n % 2 ^ p)

/-- 2^x for a finite x of magnitude below 256. -/
def exp2Enc (p : Nat) (neg : Bool) (m : Nat) (e : Int) : Option W32 :=
  let (i, f) := splitAt p m e
  let (n, g) : Int × Nat := if !neg then (i, f) else if f = 0 then (-i, 0) else (-i - 1, 2 ^ p - f)
  if g = 0 then some (rneF32 (.fin false 1 n))
  else encRound p false (encExp p (encMul p (g, g) (encLn2 p))) n

/-- log₂ of m · 2^e, m ≠ 0. -/
def log2Enc (p m : Nat) (e : Int) : Option W32 :=
  let k := Nat.log2 m
  let n : Int := e + k
  if m = 2 ^ k then some (rneF32 (.ofInt n))
  else
    let y := encOf p (m - 2 ^ k) (m + 2 ^ k)
    let l := encDiv p (encTimes (encArtanh p y) 2) (encLn2 p)
    if 0 ≤ n then encRound p false (encAdd (n.toNat * 2 ^ p, n.toNat * 2 ^ p) l) 0
    else encRound p true (encSub ((-n).toNat * 2 ^ p, (-n).toNat * 2 ^ p) l) 0

/-- sin(π · r/2^p) and its sign for r/2^p in half-turns modulo 2, from 0 to 2: reduced to a quarter. -/
def sinTurn (p r : Nat) : Bool × Option Enc :=
  let neg := decide (2 ^ p ≤ r)
  let u := r % 2 ^ p
  let q := if 2 * u ≤ 2 ^ p then u else 2 ^ p - u
  -- q/2^p from 0 to 1/2
  if q = 0 then (neg, none)
  else if 4 * q ≤ 2 ^ p then (neg, some (encSin p (encMul p (q, q) (encPi p))))
  else
    let c := 2 ^ (p - 1) - q
    (neg, some (if c = 0 then encOne p else encCos p (encMul p (c, c) (encPi p))))

/-- sin(π·x) for a finite x that is no integer, or cos(π·x) as the sine half a half-turn on. -/
def sinEnc (p : Nat) (quarter : Bool) (neg : Bool) (m : Nat) (e : Int) : Option W32 :=
  let n := m * 2 ^ (e + p).toNat % 2 ^ (p + 1)
  let n1 := if neg then (2 ^ (p + 1) - n) % 2 ^ (p + 1) else n
  let r := if quarter then (n1 + 2 ^ (p - 1)) % 2 ^ (p + 1) else n1
  match sinTurn p r with
  | (_, none) => some 0
  | (s, some a) => encRound p s a 0

/-- tanh of a finite magnitude below 128. -/
def tanhEnc (p : Nat) (neg : Bool) (m : Nat) (e : Int) : Option W32 :=
  let x := 2 * m * 2 ^ (e + p).toNat
  let a := encExpWide p (x, x)
  encRound p neg (encDiv p (encSub a (encOne p)) (encAdd a (encOne p))) 0

/-- 1/(1 + e^−x) of a finite magnitude below 256. -/
def sigmEnc (p : Nat) (neg : Bool) (m : Nat) (e : Int) : Option W32 :=
  let x := m * 2 ^ (e + p).toNat
  let a := encExpWide p (x, x)
  encRound p false (encDiv p (if neg then encOne p else a) (encAdd a (encOne p))) 0

/-- The first precision that decides a result; a free value where none does (log 9). -/
def decideAt (f : Nat → Option W32) (fn : Nat) (x : W32) : W32 :=
  match f 400 with
  | some w => w
  | none =>
    match f 1000 with
    | some w => w
    | none => Config.sfuUndecided fn x

/-- Whether m · 2^e, m ≠ 0, is at least 2^k. -/
def atLeast (m : Nat) (e : Int) (k : Int) : Bool := decide (k ≤ e + Nat.log2 m)

/-- Whether m · 2^e is an integer. -/
def isWhole (m : Nat) (e : Int) : Bool := decide (0 ≤ e) || m % 2 ^ (-e).toNat == 0

/-- A zero, an infinity and one in FP32. -/
def zeroF32 (neg : Bool) : W32 := if neg then 0x80000000 else 0
/-- Infinity in FP32. -/
def infF32 (neg : Bool) : W32 := if neg then 0xFF800000 else 0x7F800000
/-- ±1 in FP32. -/
def oneF32 (neg : Bool) : W32 := if neg then 0xBF800000 else 0x3F800000

/-- VSFU: the exact value of the function rounded to FP32 by RNE, with its special results (R305). -/
def sfu (fn : Nat) (x : W32) : W32 :=
  match fn, fp x with
  | _, .nan => nanF32
  | 0, .inf s => zeroF32 s
  | 0, .fin s m e => if m = 0 then infF32 s else rneF32 (recip s m e)
  | 1, .inf s => if s then nanF32 else zeroF32 false
  | 1, .fin s m e => if m = 0 then infF32 s else if s then nanF32 else rneF32 (rroot m e)
  | 2, .inf s => if s then nanF32 else infF32 false
  | 2, .fin s m e => if m = 0 then zeroF32 s else if s then nanF32 else rneF32 (root m e)
  | 3, .inf s => if s then zeroF32 false else infF32 false
  | 3, .fin s m e =>
    if m = 0 then oneF32 false
    else if atLeast m e 8 then (if s then zeroF32 false else infF32 false)
    else decideAt (fun p => exp2Enc p s m e) fn x
  | 4, .inf s => if s then nanF32 else infF32 false
  | 4, .fin s m e =>
    if m = 0 then infF32 true else if s then nanF32 else decideAt (fun p => log2Enc p m e) fn x
  | 5, .inf _ => nanF32
  | 5, .fin s m e =>
    if m = 0 || isWhole m e then zeroF32 s else decideAt (fun p => sinEnc p false s m e) fn x
  | 6, .inf _ => nanF32
  | 6, .fin s m e => if m = 0 then oneF32 false else decideAt (fun p => sinEnc p true s m e) fn x
  | 7, .inf s => oneF32 s
  | 7, .fin s m e =>
    if m = 0 then zeroF32 s else if atLeast m e 5 then oneF32 s else decideAt (fun p => tanhEnc p s m e) fn x
  | _, .inf s => if s then zeroF32 false else oneF32 false
  | _, .fin s m e =>
    if m = 0 then 0x3F000000
    else if atLeast m e 7 then (if s then zeroF32 false else oneF32 false)
    else decideAt (fun p => sigmEnc p s m e) fn x

end Sys2Proof.Machine
end

