-- ==== Sys2Proof/Machine/EpVector.lean ====
section
/-! DEFINITION. The vector, mask, conversion, permute, reduction, scalar and move instructions of
context E (R304 to R320). -/

namespace Sys2Proof.Machine

/-! ### Floating point (R304, R305) -/

/-- VADD (R304). -/
def execVadd (f : EF) (s : State) : Host.Outcome State Fault Refusal := eVec2 (.vadd f) f 3 0 (map2 fAdd) s
/-- VSUB (R304). -/
def execVsub (f : EF) (s : State) : Host.Outcome State Fault Refusal := eVec2 (.vsub f) f 3 0 (map2 fSub) s
/-- VMUL (R304). -/
def execVmul (f : EF) (s : State) : Host.Outcome State Fault Refusal := eVec2 (.vmul f) f 4 2 (map2 fMul) s
/-- VFMA (R304). -/
def execVfma (f : EF) (s : State) : Host.Outcome State Fault Refusal := eVec3 (.vfma f) f 5 2 (map3 fFma) s
/-- VFMS (R304). -/
def execVfms (f : EF) (s : State) : Host.Outcome State Fault Refusal := eVec3 (.vfms f) f 5 2 (map3 fFms) s
/-- VMIN (R304). -/
def execVmin (f : EF) (s : State) : Host.Outcome State Fault Refusal := eVec2 (.vmin f) f 3 0 (map2 fMin) s
/-- VMAX (R304). -/
def execVmax (f : EF) (s : State) : Host.Outcome State Fault Refusal := eVec2 (.vmax f) f 3 0 (map2 fMax) s
/-- VABS (R304). -/
def execVabs (f : EF) (s : State) : Host.Outcome State Fault Refusal := eVec1 (.vabs f) f 3 0 (map1 fAbs) s
/-- VNEG (R304). -/
def execVneg (f : EF) (s : State) : Host.Outcome State Fault Refusal := eVec1 (.vneg f) f 3 0 (map1 fNeg) s
/-- VSFU (R305). -/
def execVsfu (f : EF) (s : State) : Host.Outcome State Fault Refusal :=
  eVec1 (.vsfu f) f 10 3 (map1 (sfu f.fn.toNat)) s

/-! ### Integers (R306) -/

/-- A lane read by the signedness of ty: 4 is I32, 5 is UI32 (R306). -/
def laneInt (ty : BitVec 5) (w : W32) : Int := if ty = 4 then w.toInt else w.toNat

/-- Fit(): wrap, or saturate to the type's range (R306). -/
def viFit (f : EF) (n : Int) : W32 :=
  if f.fn.getLsbD 0 then BitVec.ofInt 32 (clampInt (intRange 32 (f.ty = 4)) n) else BitVec.ofInt 32 n

/-- a + b, then Fit() (R306). -/
def iAdd (f : EF) (a b : W32) : W32 := viFit f (laneInt f.ty a + laneInt f.ty b)
/-- a − b, then Fit() (R306). -/
def iSub (f : EF) (a b : W32) : W32 := viFit f (laneInt f.ty a - laneInt f.ty b)
/-- a · b, then Fit() (R306). -/
def iMul (f : EF) (a b : W32) : W32 := viFit f (laneInt f.ty a * laneInt f.ty b)
/-- a · b + c, then Fit() (R306). -/
def iMad (f : EF) (a b c : W32) : W32 := viFit f (laneInt f.ty a * laneInt f.ty b + laneInt f.ty c)
/-- The lesser by the signedness of ty (R306). -/
def iMin (f : EF) (a b : W32) : W32 := if laneInt f.ty a ≤ laneInt f.ty b then a else b
/-- The greater by the signedness of ty (R306). -/
def iMax (f : EF) (a b : W32) : W32 := if laneInt f.ty b ≤ laneInt f.ty a then a else b

/-- VIADD (R306). -/
def execViadd (f : EF) (s : State) : Host.Outcome State Fault Refusal := eVec2 (.viadd f) f 2 1 (map2 (iAdd f)) s
/-- VISUB (R306). -/
def execVisub (f : EF) (s : State) : Host.Outcome State Fault Refusal := eVec2 (.visub f) f 2 1 (map2 (iSub f)) s
/-- VIMUL (R306). -/
def execVimul (f : EF) (s : State) : Host.Outcome State Fault Refusal := eVec2 (.vimul f) f 4 2 (map2 (iMul f)) s
/-- VIMAD (R306). -/
def execVimad (f : EF) (s : State) : Host.Outcome State Fault Refusal := eVec3 (.vimad f) f 4 2 (map3 (iMad f)) s
/-- VAND (R306). -/
def execVand (f : EF) (s : State) : Host.Outcome State Fault Refusal :=
  eVec2 (.vand f) f 2 1 (map2 fun a b => a &&& b) s
/-- VOR (R306). -/
def execVor (f : EF) (s : State) : Host.Outcome State Fault Refusal :=
  eVec2 (.vor f) f 2 1 (map2 fun a b => a ||| b) s
/-- VXOR (R306). -/
def execVxor (f : EF) (s : State) : Host.Outcome State Fault Refusal :=
  eVec2 (.vxor f) f 2 1 (map2 fun a b => a ^^^ b) s
/-- VIMIN (R306). -/
def execVimin (f : EF) (s : State) : Host.Outcome State Fault Refusal := eVec2 (.vimin f) f 2 1 (map2 (iMin f)) s
/-- VIMAX (R306). -/
def execVimax (f : EF) (s : State) : Host.Outcome State Fault Refusal := eVec2 (.vimax f) f 2 1 (map2 (iMax f)) s

/-- A shift: the count is b[i][4:0], or x[4:0] when b is 0xFF (R306). -/
def eShift (i : Instr) (f : EF) (op : W32 → Nat → W32) (s : State) : Host.Outcome State Fault Refusal :=
  if f.b = 0xFF then eVec1 i f 2 1 (map1 fun a => op a (f.x.toNat % 32)) s
  else eVec2 i f 2 1 (map2 fun a b => op a (b.toNat % 32)) s

/-- VSHL (R306). -/
def execVshl (f : EF) (s : State) : Host.Outcome State Fault Refusal := eShift (.vshl f) f (fun a n => a <<< n) s
/-- VSHR (R306). -/
def execVshr (f : EF) (s : State) : Host.Outcome State Fault Refusal := eShift (.vshr f) f (fun a n => a >>> n) s
/-- VSRA (R306). -/
def execVsra (f : EF) (s : State) : Host.Outcome State Fault Refusal :=
  eShift (.vsra f) f (fun a n => a.sshiftRight n) s

/-! ### Masks and comparison (R307 to R309) -/

/-- Condition(cond, a, b) by the type (R307). -/
def eCondition (f : EF) (a b : W32) : Bool :=
  if f.ty = 0 then fCondition (f.fn.toNat % 16) a b else condition (f.fn.toNat % 16) a b

/-- VCMP (R307). -/
def execVcmp (f : EF) (s : State) : Host.Outcome State Fault Refusal :=
  eIssue (.vcmp f) s fun s => do
    let (a, s1) ← readV s f.a
    let (b, s2) ← readV s1 f.b
    let s3 ← s2.eMaskResult f 2 (buildMask fun i => eCondition f a[i] b[i])
    return (s3, .next)

/-- SCMP: the result in every bit (R307). -/
def execScmp (f : EF) (s : State) : Host.Outcome State Fault Refusal :=
  eIssue (.scmp f) s fun s => do
    let (a, s1) ← readS s f.a
    let (b, s2) ← readS s1 f.b
    let s3 ← s2.eMaskResult f 2 (if eCondition f a b then BitVec.allOnes 64 else 0)
    return (s3, .next)

/-- The mask that a mask field names (R301). -/
def State.maskOf (s : State) (c : BitVec 8) : W64 := s.r.ep.mask (Fin.ofNat 16 c.toNat)

/-- MLOG (R308). -/
def execMlog (f : EF) (s : State) : Host.Outcome State Fault Refusal :=
  eIssue (.mlog f) s fun s => do
    let s1 ← s.eMaskResult f 1 (tableMask f.fn.toNat (s.maskOf f.a) (s.maskOf f.b))
    return (s1, .next)

/-- MPOP: the one bits, or the index of the lowest (R309). -/
def execMpop (f : EF) (s : State) : Host.Outcome State Fault Refusal :=
  eRead (.mpop f) f 3 1 (fun s =>
    let m := s.maskOf f.a
    .ok (BitVec.ofNat 32 (if f.fn = 0 then popCount m else lowestSet m), s)) s

/-! ### Conversion and packing (R310, R311) -/

/-- The format word of a narrow type code (R310). -/
def State.fmtOf (s : State) (c : Nat) : W32 := s.r.ep.f[Fin.ofNat 8 c]

/-- A type code's type, its format word checked at use (R77, cause 0x53). -/
def State.typeAt (s : State) (c : Nat) : Except Stop Ty := do
  need (c < 16 || fmtValid (s.fmtOf c)) 0x53
  return tyOf c (s.fmtOf c)

/-- Convert codes in order; in mode SR each steps the generator where R89 says so. -/
def convertAll (src dst : Ty) (md : Mode) (sat : Bool) : W32 → List Nat → List Nat × W32
  | x, [] => ([], x)
  | x, c :: cs =>
    let x1 := if stepsLfsr src dst md then lfsrStep x else x
    let r := convertAll src dst md sat x1 cs
    (convert src dst md sat x1 c :: r.1, r.2)

/-- Convert codes with the residency's vector generator (R88 to R90). -/
def convertHere (s : State) (src dst : Ty) (f : EF) (cs : List Nat) : List Nat × State :=
  let r := convertAll src dst (modeOf (f.fn.toNat % 8)) (f.fn.getLsbD 3) s.r.ep.lfsrV cs
  (r.1, s.updE fun e => { e with lfsrV := r.2 })

/-- The lane form of a code: sign copies above I16 and I8, zero above the rest (R299). -/
def laneForm (ty c : Nat) : W32 :=
  if ty = 6 then (BitVec.ofNat 16 c).signExtend 32 else if ty = 8 then (BitVec.ofNat 8 c).signExtend 32
  else BitVec.ofNat 32 c

/-- The vector whose lane i is given by a list. -/
def lanesOfList (ws : List W32) : Lanes := Lanes.build fun i => ws.getD i.val 0

/-- The codes of a vector's lanes. -/
def laneCodes (v : Lanes) : List Nat := v.toList.map fun w => w.toNat

/-- VCVT (R310). -/
def execVcvt (f : EF) (s : State) : Host.Outcome State Fault Refusal :=
  eIssue (.vcvt f) s fun s => do
    let dst ← s.typeAt f.ty.toNat
    let src ← s.typeAt (f.x.toNat % 32)
    let (a, s1) ← readV s f.a
    let (cs, s2) := convertHere s1 src dst f (laneCodes a)
    let s3 ← s2.eResult f 4 4 (.vec (lanesOfList (cs.map (laneForm f.ty.toNat))))
    return (s3, .next)

/-- SCVT: lane 0 only (R310). -/
def execScvt (f : EF) (s : State) : Host.Outcome State Fault Refusal :=
  eIssue (.scvt f) s fun s => do
    let dst ← s.typeAt f.ty.toNat
    let src ← s.typeAt (f.x.toNat % 32)
    let (a, s1) ← readS s f.a
    let (cs, s2) := convertHere s1 src dst f [a.toNat]
    let s3 ← s2.eResult f 2 5 (.sc (laneForm f.ty.toNat (cs.getD 0 0)))
    return (s3, .next)

/-- The container width of a packed type (R311). -/
def packedBits (s : State) (c : Nat) : Nat := if c < 16 then wideWidth c else containerBits (s.fmtOf c)

/-- VPACK (R311). -/
def execVpack (f : EF) (s : State) : Host.Outcome State Fault Refusal :=
  eIssue (.vpack f) s fun s => do
    let dst ← s.typeAt f.ty.toNat
    let src ← s.typeAt (f.x.toNat % 32)
    let w := packedBits s f.ty.toNat
    let p := f.x.toNat / 32
    let (a, s1) ← readV s f.a
    let (z, s2) ← readV s1 f.c
    let (cs, s3) := convertHere s2 src dst f (laneCodes a)
    let old := bytesOfLanes z
    let new := old.take (8 * w * p) ++ packCodes w cs ++ old.drop (8 * w * (p + 1))
    let s4 ← s3.eResult f 4 4 (.vec (lanesOfBytes new))
    return (s4, .next)

/-- VUNPACK (R311). Between integer types fn[3] selects saturation, as R310 has it; R93 does not name VUNPACK (log 118). -/
def execVunpack (f : EF) (s : State) : Host.Outcome State Fault Refusal :=
  eIssue (.vunpack f) s fun s => do
    let dst ← s.typeAt f.ty.toNat
    let src ← s.typeAt (f.x.toNat % 32)
    let w := packedBits s (f.x.toNat % 32)
    let (a, s1) ← readV s f.a
    let seg := (bytesOfLanes a).drop (8 * w * (f.x.toNat / 32))
    let (cs, s2) := convertHere s1 src dst f ((List.range 64).map (containerAt w seg))
    let s3 ← s2.eResult f 4 4 (.vec (lanesOfList (cs.map (laneForm f.ty.toNat))))
    return (s3, .next)

/-! ### Permutes, selection, keys (R312, R313) -/

/-- VSHUF (R312). -/
def shuffle (a b z : Lanes) : Lanes :=
  Lanes.build fun i =>
    let j := z[i].toNat % 256
    if 128 ≤ j then 0 else if j < 64 then lane a j else lane b (j - 64)
/-- Lane i of a followed by b (R312). -/
def laneOf2 (a b : Lanes) (i : Nat) : W32 := if i < 64 then lane a i else lane b (i - 64)

/-- VSHUF (R312). -/
def execVshuf (f : EF) (s : State) : Host.Outcome State Fault Refusal := eVec3 (.vshuf f) f 5 4 shuffle s
/-- VBCAST (R312). -/
def execVbcast (f : EF) (s : State) : Host.Outcome State Fault Refusal :=
  eVec1 (.vbcast f) f 3 4 (fun a => Lanes.fill (lane a f.x.toNat)) s
/-- VSLIDE.DN (R312). -/
def execVslideDn (f : EF) (s : State) : Host.Outcome State Fault Refusal :=
  eVec2 (.vslideDn f) f 3 4 (fun a b => Lanes.build fun i => laneOf2 a b (i.val + f.x.toNat % 64)) s
/-- VSLIDE.UP (R312). -/
def execVslideUp (f : EF) (s : State) : Host.Outcome State Fault Refusal :=
  eVec2 (.vslideUp f) f 3 4 (fun a b => Lanes.build fun i => laneOf2 b a (i.val + 64 - f.x.toNat % 64)) s

/-- VSEL (R312). -/
def execVsel (f : EF) (s : State) : Host.Outcome State Fault Refusal :=
  eIssue (.vsel f) s fun s => do
    let (a, s1) ← readV s f.a
    let (b, s2) ← readV s1 f.b
    let m := s2.r.ep.mask (Fin.ofNat 16 f.x.toNat)
    let s3 ← s2.eResult f 2 0 (.vec (mergeLanes m a b))
    return (s3, .next)

/-- The hash multiplier of R313 and R355. -/
def hashMul : Nat := 0x9E3779B97F4A7C15
/-- Bits [63:64−b] of key · multiplier modulo 2^64 (R313, R355). -/
def keyHash (key b : Nat) : Nat := key * hashMul % 2 ^ 64 / 2 ^ (64 - b)

/-- VKEY.PACK (R313). -/
def execVkeyPack (f : EF) (s : State) : Host.Outcome State Fault Refusal :=
  let n := f.x.toNat % 32
  eVec2 (.vkeyPack f) f 3 4 (map2 fun a b => (a <<< n) ||| BitVec.ofNat 32 (b.toNat % 2 ^ n)) s
/-- VKEY.HASH (R313). -/
def execVkeyHash (f : EF) (s : State) : Host.Outcome State Fault Refusal :=
  eVec2 (.vkeyHash f) f 3 4
    (map2 fun a b => BitVec.ofNat 32 (keyHash (a.toNat * 2 ^ 32 + b.toNat) (f.x.toNat % 32))) s

/-! ### Reductions and scans (R314) -/

/-- The operation of a reduction by its code and type (R314). -/
def redOp (f : EF) (a b : W32) : W32 :=
  match f.fn.toNat % 8 with
  | 0 => if f.ty = 0 then fAdd a b else a + b
  | 1 => if f.ty = 0 then fMin a b else iMin f a b
  | 2 => if f.ty = 0 then fMax a b else iMax f a b
  | 3 => a &&& b
  | 4 => a ||| b
  | _ => a ^^^ b

/-- The identity of a reduction (R314). -/
def redIdentity (f : EF) : W32 :=
  match f.fn.toNat % 8 with
  | 0 => if f.ty = 0 then 0x80000000 else 0
  | 1 => if f.ty = 0 then 0x7F800000 else if f.ty = 4 then 0x7FFFFFFF else 0xFFFFFFFF
  | 2 => if f.ty = 0 then 0xFF800000 else if f.ty = 4 then 0x80000000 else 0
  | 3 => 0xFFFFFFFF
  | _ => 0

/-- One level of the pairwise tree. -/
def pairUp (op : W32 → W32 → W32) : List W32 → List W32
  | a :: b :: l => op a b :: pairUp op l
  | l => l

/-- The pairwise tree over 2^k values (R314). -/
def treeOf (op : W32 → W32 → W32) : Nat → List W32 → W32
  | 0, l => l.headD 0
  | k + 1, l => treeOf op k (pairUp op l)

/-- The lanes that enter a reduction: the identity where the lane mask is off (R314). -/
def entering (s : State) (f : EF) (a : Lanes) : List W32 :=
  let m := s.r.ep.mask (Fin.ofNat 16 f.x.toNat)
  (List.finRange 64).map fun i => if laneOn m i.val then a[i] else redIdentity f

/-- VRED (R314). Pushed to a port it is a vector with the result in every lane, which the spec leaves open (log 117). -/
def execVred (f : EF) (s : State) : Host.Outcome State Fault Refusal :=
  eIssue (.vred f) s fun s => do
    let (a, s1) ← readV s f.a
    let s2 ← s1.eResult f 8 6 (.vec (Lanes.fill (treeOf (redOp f) 6 (entering s1 f a))))
    return (s2, .next)

/-- A step of the scan at distance d (R314). -/
def scanStep (op : W32 → W32 → W32) (d : Nat) (l : List W32) : List W32 :=
  l.take d ++ List.zipWith op l (l.drop d)

/-- VSCAN: six steps (R314). Lane 0 is copied as it stands, a NaN with its payload too: the pseudocode performs no operation
on it, though the rule's sentence gives the canonical NaN (log 136). -/
def scanOf (op : W32 → W32 → W32) (l : List W32) : List W32 :=
  [1, 2, 4, 8, 16, 32].foldl (fun t d => scanStep op d t) l

/-- VSCAN (R314). -/
def execVscan (f : EF) (s : State) : Host.Outcome State Fault Refusal :=
  eIssue (.vscan f) s fun s => do
    let (a, s1) ← readV s f.a
    let t := scanOf (redOp f) (entering s1 f a)
    let r := if f.fn.getLsbD 3 then redIdentity f :: t else t
    let s2 ← s1.eResult f 10 6 (.vec (lanesOfList r))
    return (s2, .next)

/-! ### Scalars, moves, literals, queues (R315 to R320) -/

/-- A scalar operation by its type: F32 rounds, integers wrap (R315). -/
def scOp (f : EF) (fl : W32 → W32 → W32) (int : W32 → W32 → W32) (a b : W32) : W32 :=
  if f.ty = 0 then fl a b else int a b

/-- SADD (R315). -/
def execSadd (f : EF) (s : State) : Host.Outcome State Fault Refusal :=
  eSc2 (.sadd f) f 2 5 (scOp f fAdd fun a b => a + b) s
/-- SMUL (R315). -/
def execSmul (f : EF) (s : State) : Host.Outcome State Fault Refusal :=
  eSc2 (.smul f) f 2 5 (scOp f fMul fun a b => a * b) s
/-- SFMA: rounds once (R315). -/
def execSfma (f : EF) (s : State) : Host.Outcome State Fault Refusal :=
  eIssue (.sfma f) s fun s => do
    let (a, s1) ← readS s f.a
    let (b, s2) ← readS s1 f.b
    let (z, s3) ← readS s2 f.c
    let s4 ← s3.eResult f 4 5 (.sc (if f.ty = 0 then fFma a b z else a * b + z))
    return (s4, .next)
/-- SMOV (R315). -/
def execSmov (f : EF) (s : State) : Host.Outcome State Fault Refusal :=
  eRead (.smov f) f 2 5 (fun s => readS s f.a) s
/-- VMOV (R317). -/
def execVmov (f : EF) (s : State) : Host.Outcome State Fault Refusal := eVec1 (.vmov f) f 1 4 (fun a => a) s

/-- VLI (R318). -/
def execVli (f : EF) (lit : W64) (s : State) : Host.Outcome State Fault Refusal :=
  eIssue (.vli f lit) s fun s => do
    let s1 ← s.eResult f 2 4 (.vec (Lanes.build fun i =>
      if i.val % 2 = 0 then lit.setWidth 32 else (lit >>> 32).setWidth 32))
    return (s1, .next)
/-- SLI (R318). -/
def execSli (f : EF) (lit : W64) (s : State) : Host.Outcome State Fault Refusal :=
  eRead (.sli f lit) f 2 5 (fun s => .ok (lit.setWidth 32, s)) s

/-- XQ.POP in its four forms (R319). -/
def execXqPop (f : EF) (s : State) : Host.Outcome State Fault Refusal :=
  eRead (.xqPop f) f 1 5 (fun s => do
    let (v, s1) ← popXq s
    let w : W32 := if f.x.getLsbD 0 then (v >>> 32).setWidth 32 else v.setWidth 32
    return (w, if f.x.getLsbD 1 then s else s1)) s

/-- YQ.PUSH (R319). -/
def execYqPush (f : EF) (s : State) : Host.Outcome State Fault Refusal :=
  eAct (.yqPush f) s fun s => do
    let (a, s1) ← readS s f.a
    let (b, s2) ← if f.b = 0xFF then pure (0, s1) else readS s1 f.b
    await s2.yqRoom
    return s2.updR fun r => { r with yq := r.yq ++ [BitVec.ofNat 64 (a.toNat + b.toNat * 2 ^ 32)] }

/-- S.DROP: x elements of a port (R320). -/
def execSDrop (f : EF) (s : State) : Host.Outcome State Fault Refusal :=
  eAct (.sDrop f) s fun s => do
    let n : SReg := Fin.ofNat 32 f.a.toNat
    let p ← ePort s n
    let (_, s1) ← popAll s n (f.x.toNat * (s.streamStart p.1).esize) false
    return s1

end Sys2Proof.Machine
end

