-- ==== Sys2Proof/Machine/Damask.lean ====
section
/-! DEFINITION. The store of Damask: modes and sizes, keys and probes, accumulation, spills and records
(R354 to R357), and how a unit takes bytes from an operand stream and gives records to a ring (R335). -/

namespace Sys2Proof.Machine

/-! ### Operand streams (R335) -/

/-- The register and head that a queue command takes its operand stream from; cause 0x20 where it is
closed or has another sink. -/
def unitPort (s : State) (n : SReg) : Except Stop (SReg × Fin 4) := do
  let p := s.r.portOf n
  need ((s.streamStart n).isOpen && (s.streamStart n).sink = 7 && (s.streamStart p.1).isOpen) 0x20
  return p

/-- Bytes available to a unit at an operand stream, and whether the stream has ended (R26, R125). -/
def unitAvail (s : State) (p : SReg × Fin 4) : Nat × Bool :=
  let c := s.streamStart p.1
  (availBytes c (s.headNow p), c.ended)

/-- The next n bytes of an operand stream, taken or looked at: cause 0x25 where the stream ends before
them. -/
def unitTake (s : State) (n : SReg) (k : Nat) (peek : Bool) : Except Stop (List Byte × State) := do
  let p ← unitPort s n
  let (av, ended) := unitAvail s p
  if k ≤ av then takeBytes s p k peek
  else if ended then raise 0x25
  else .error .block

/-- Whether an operand stream has ended and holds nothing more; none while that is not known. -/
def unitDone (s : State) (n : SReg) : Except Stop Bool := do
  let p ← unitPort s n
  let (av, ended) := unitAvail s p
  if 0 < av then return false
  else if ended then return true
  else .error .block

/-! ### Modes and sizes (R354) -/

/-- Whether a mode holds keys in buckets. -/
def JCfg.hash (c : JCfg) : Bool := 2 ≤ c.mode.val
/-- Whether a mode holds tiles. -/
def JCfg.tile (c : JCfg) : Bool := c.mode.val % 2 = 1
/-- Values of an entry. -/
def JCfg.width (c : JCfg) : Nat := if c.tile then 128 else 1
/-- Entries of a direct mode in a share of j bytes. -/
def JCfg.entries (c : JCfg) (j : Nat) : Nat := if c.tile then j / 512 else j / 16
/-- Buckets of a hash mode in a share of j bytes. -/
def JCfg.buckets (c : JCfg) (j : Nat) : Nat := if c.tile then j / 4096 else j / 256
/-- Slots or ways of a bucket. -/
def JCfg.slots (c : JCfg) : Nat := if c.tile then 8 else 16
/-- The element-size code of the records of a mode (R357). -/
def JCfg.recordCode (c : JCfg) : Nat := if c.tile then 5 else 4

/-! ### The store -/

/-- The entry at a place. -/
def storeAtPlace (st : List JEntry) (p : Nat) : Option JEntry := st.find? fun e => e.place == p

/-- Put an entry at its place, the list staying sorted. -/
def storePut (x : JEntry) : List JEntry → List JEntry
  | [] => [x]
  | e :: es => if x.place < e.place then x :: e :: es else if x.place = e.place then x :: es else e :: storePut x es

/-- Remove the entry at a place. -/
def storeDrop (st : List JEntry) (p : Nat) : List JEntry := st.filter fun e => e.place != p

/-- Put values at a place; a direct entry that is all zero is not listed. -/
def storeWrite (c : JCfg) (st : List JEntry) (p key : Nat) (vals : List W32) : List JEntry :=
  if !c.hash && vals.all (· == 0) then storeDrop st p else storePut ⟨p, key, vals⟩ st

/-- The values at a place; zeros for one that is not listed. -/
def storeRead (c : JCfg) (st : List JEntry) (p : Nat) : List W32 :=
  match storeAtPlace st p with
  | some e => e.vals
  | none => List.replicate c.width 0

/-- The key of two coordinates; causes 0x5B and 0x52 (R355). -/
def tupleKey (c0 c1 : Nat) : Except Stop Nat := do
  need (c0 < 2 ^ 24 && c1 < 2 ^ 24) 0x5B
  need (c0 * 2 ^ 24 + c1 ≠ 2 ^ 48 - 1) 0x52
  return c0 * 2 ^ 24 + c1

/-- What the probe of a key finds. -/
inductive Found where
  /-- an entry holds the key, or a direct entry always does -/
  | hit (place : Nat)
  /-- no entry holds it, and this slot is free for it -/
  | fresh (place : Nat)
  /-- neither -/
  | full
  deriving DecidableEq, Repr

/-- The first empty slot of bucket bk among n (R355). -/
def emptySlot (st : List JEntry) (bk n : Nat) : Option Nat :=
  ((List.range n).find? fun i => (storeAtPlace st (bk * n + i)).isNone).map (bk * n + ·)

/-- The probe loop of R355 from step j, at most `fuel` buckets. -/
def probe (st : List JEntry) (slots buckets h key : Nat) : Nat → Nat → Found
  | 0, _ => .full
  | fuel + 1, j =>
    let bk := (h + j * (j + 1) / 2) % buckets
    match st.find? fun e => e.place / slots == bk && e.key == key with
    | some e => .hit e.place
    | none =>
      match emptySlot st bk slots with
      | some p => .fresh p
      | none => probe st slots buckets h key fuel (j + 1)

/-- Find a key in the store of a share of j bytes (R354, R355); a direct index beyond the entries raises
0x5B. -/
def locate (c : JCfg) (j : Nat) (st : List JEntry) (key : Nat) : Except Stop Found := do
  if c.hash then
    let n := c.buckets j
    return probe st c.slots n (keyHash key (Nat.log2 n)) key c.probes 0
  else
    need (key < c.entries j) 0x5B
    return .hit key

/-! ### Accumulation (R356) -/

/-- n wrapped or saturated to 32 bits, as the store is configured. -/
def JCfg.fit (c : JCfg) (n : Int) : W32 :=
  BitVec.ofInt 32 (if c.sat then clampInt (intRange 32 true) n else n)

/-- A value added to a held one. -/
def JCfg.addTo (c : JCfg) (e v : W32) : W32 := if c.i32 then c.fit (e.toInt + v.toInt) else fAdd e v
/-- A product added to a held value, rounded once. -/
def JCfg.mulTo (c : JCfg) (e a b : W32) : W32 := if c.i32 then c.fit (e.toInt + a.toInt * b.toInt) else fFma a b e
/-- The value of a product where none is held. -/
def JCfg.mulNew (c : JCfg) (a b : W32) : W32 := if c.i32 then c.fit (a.toInt * b.toInt) else fMul a b

/-! ### Records and spills (R357) -/

/-- A scalar record: a two-coordinate tuple with its check value (R98, R99). A three-coordinate tuple that is spilled becomes
one too: R357 has it pushed unchanged and knows no record of three coordinates (log 121). -/
def scalarRecord (key : Nat) (v : W32) : List Byte :=
  let body := leBytes 4 (key / 2 ^ 24) ++ leBytes 4 (key % 2 ^ 24) ++ leBytes 4 v.toNat
  body ++ leBytes 2 (crc16 body).toNat ++ [0, 0]

/-- A tile record: nine granules. -/
def tileRecord (key : Nat) (vals : List W32) : List Byte :=
  leBytes 8 key ++ List.replicate 56 0 ++ vals.flatMap fun v => leBytes 4 v.toNat

/-- The record of an entry in a mode. -/
def JCfg.record (c : JCfg) (key : Nat) (vals : List W32) : List Byte :=
  if c.tile then tileRecord key vals else scalarRecord key (vals.headD 0)

/-- Whether a ring takes the records of a mode: EP-produced, of their element size (R357). -/
def ringTakes (s : State) (c : JCfg) (n : SReg) : Bool :=
  (s.streamStart n).kind = 7 && (s.streamStart n).code = c.recordCode

/-- Push bytes to an EP-produced ring and commit them, under its full policy (R129). A ring that has been closed since
the start of the core cycle takes nothing (R26). -/
def unitPush (s : State) (n : SReg) (bs : List Byte) : Except Stop State :=
  let g := (s.stream n).claimFor bs.length
  if !(s.stream n).isOpen then .ok s
  else
    match s.claim n g with
    | none => .error (.blockClaim n g)
    | some s1 => .ok ((s1.writeTail n 0 bs).commit n bs.length)

/-- Change the Damask state. -/
def State.updDm (s : State) (f : Damask → Damask) : State := s.updR fun r => { r with dm := f r.dm }

/-- A record that found no entry goes to the spill stream (R357). -/
def spill (s : State) (c : JCfg) (key : Nat) (vals : List W32) : Except Stop State := do
  match c.spill with
  | none => raise 0x5D
  | some n =>
    need (ringTakes s c n) 0x20
    let s1 ← unitPush s n (c.record key vals)
    return s1.updDm fun d => { d with spilled := d.spilled + 1 }

/-- Accumulate one item: `upd` on the values of an entry, `miss` where there is none (R356, R357). -/
def accumulate (s : State) (c : JCfg) (key : Nat) (upd : List W32 → List W32) (miss : List W32) :
    Except Stop State := do
  match ← locate c s.r.bind.jsh s.r.dm.store key with
  | .hit p => return s.updDm fun d => { d with store := storeWrite c d.store p key (upd (storeRead c d.store p)) }
  | .fresh p => return s.updDm fun d => { d with store := storeWrite c d.store p key miss }
  | .full => spill s c key miss

/-- Accumulate the values of an item one by one. -/
def accValues (s : State) (c : JCfg) (key : Nat) (vals : List W32) : Except Stop State :=
  accumulate s c key (fun old => List.zipWith c.addTo old vals) vals

/-- Accumulate the product of two values (R361). -/
def accProduct (s : State) (c : JCfg) (key : Nat) (a b : W32) : Except Stop State :=
  accumulate s c key (fun old => [c.mulTo (old.headD 0) a b]) [c.mulNew a b]

/-- The 32-bit words of some bytes. -/
def wordsOf (bs : List Byte) (n : Nat) : List W32 := (List.range n).map fun i => le32 bs (4 * i)

/-- One tuple or tile record of J.ACC: its key and its values (R360). -/
def itemOf (c : JCfg) (bs : List Byte) : Except Stop (Nat × List W32) := do
  if c.tile then
    need (zeroIn bs 6 2) 0x5B
    let k := (le64 bs 0).toNat
    let key ← tupleKey (k / 2 ^ 24) (k % 2 ^ 24)
    return (key, wordsOf (bs.drop 64) 128)
  else
    let key ← tupleKey (le32 bs 0).toNat (le32 bs 4).toNat
    return (key, [le32 bs 8])

/-- Bytes of an item. -/
def JCfg.itemBytes (c : JCfg) : Nat := if c.tile then 576 else 16

/-- The store as J.CFG and J.CLEAR leave it (R358, R359). -/
def Damask.cleared (d : Damask) : Damask := { d with store := [], spilled := 0 }

/-! ### J.LOOK and J.STAT (R365, R366) -/

/-- The key and the place within the entry that J.LOOK names. DEDUCED: in the tile modes the key is the
tile number c0. -/
def lookKey (c : JCfg) (c0 c1 : Nat) : Except Stop (Nat × Nat) := do
  if c.tile then
    need (c0 < 2 ^ 24 && c1 < 128) 0x5B
    return (c0, c1)
  else
    let k ← tupleKey c0 c1
    return (k, 0)

/-- The entry that J.LOOK reads: its value, or none (R365). -/
def lookUp (s : State) (c : JCfg) (c0 c1 : Nat) : Except Stop (Option W32) := do
  let (key, i) ← lookKey c c0 c1
  match ← locate c s.r.bind.jsh s.r.dm.store key with
  | .hit p => return some ((storeRead c s.r.dm.store p).getD i 0)
  | _ => return none

/-- The CFG word of J.STAT (R366). -/
def cfgWord (c : JCfg) (jsh : Nat) : W32 :=
  BitVec.ofNat 32 (c.mode.val + c.i32.toNat * 4 + c.sat.toNat * 8 + (c.probes - 1) * 16 + 256 +
    (if jsh = 262144 then 0 else if jsh = 524288 then 1 else 2) * 512)

/-- The micro-PC of a queue entry (R342, R351, R361 to R363): [63:32] of J.DRAINO is opaque. Where the spec gives no layout
(WLOAD of weights, J.ACC, a vector result to 0xC3, J.MERGE) it shows the entry's progress count (log 120). -/
def QEntry.microPc (q : QEntry) (open_ : W64) : W64 :=
  match q.op with
  | .dot _ _ _ _ _ _ | .dots _ _ _ _ _ _ _ _ _ _ =>
    let p := if q.ks = 0 ∧ q.nb = 0 ∧ q.mt = 0 ∧ !q.started then 0 else 2 ^ 41
    let at_ := if q.place = 1 then q.mt + 1 else q.mt + q.ks * 2 ^ 16 + q.nb * 2 ^ 32
    BitVec.ofNat 64 (at_ + (if q.atile.isSome then 2 ^ 40 else 0) + p)
  | .jdraino _ _ _ => BitVec.ofNat 64 (q.done + open_.toNat % 2 ^ 32 * 2 ^ 32)
  | _ => BitVec.ofNat 64 q.done

/-- The running or faulted command of a queue. Where a WLOAD runs beside another command it is the first faulted one, else the
first started one: the spec speaks of one command alone (log 130). -/
def Matrix.current (m : Matrix) : Option QEntry :=
  match m.queue.find? fun q => q.fault.isSome with
  | some q => some q
  | none => m.queue.find? fun q => q.started

/-- J.STAT (R366, R358). A granule of the drain queue that is partly filled counts as one (log 130). -/
def jstat (s : State) (sel : Nat) : W32 × State :=
  let d := s.r.dm
  let m := s.r.mx
  if sel = 5 then
    (BitVec.ofNat 32 (m.queue.length + (d.drainq.length + 63) / 64 * 256 +
      (m.queue.any fun q => q.fault.isSome).toNat * 65536), s)
  else if d.issued.isNone then (0, s)
  else if sel = 3 || sel = 4 then
    match m.current with
    | none => (0, s)
    | some q =>
      let (n, s1) := s.draw
      let p := q.microPc (Config.openWord n)
      (if sel = 3 then p.setWidth 32 else (p >>> 32).setWidth 32, s1)
  else
    match d.cfg with
    | none => (0, s)
    | some c =>
      (if sel = 0 then BitVec.ofNat 32 (if c.hash then d.store.length else c.entries s.r.bind.jsh)
       else if sel = 1 then d.spilled else cfgWord c s.r.bind.jsh, s)

end Sys2Proof.Machine
end

