-- ==== Sys2Proof/Machine/Matrix.lean ====
section
/-! DEFINITION. The matrix unit: scales, panels of B in their three encodings, and one k-step (R94 to
R97, R100 to R102, R341 to R351). -/

namespace Sys2Proof.Machine

/-! ### Formats -/

/-- Elements per block along the reduction dimension by the block field; 0 for none (R76). -/
def blockSize (w : W32) : Nat := match bits w 19 17 with | 1 => 8 | 2 => 16 | 3 => 32 | _ => 0

/-- Bytes of a scale by its format code (R95). -/
def scaleBytes (code : Nat) : Nat := if code ≤ 3 then 1 else if code = 4 then 2 else 3

/-- The value of a scale (R95). -/
def scaleOf (code n : Nat) : Num :=
  match code with
  | 0 => (Ty.float 4 3 7 true 2 0).decode n
  | 1 => (Ty.float 5 2 15 true 1 0).decode n
  | 2 => if n = 255 then .nan else .fin false 1 ((n : Int) - 127)
  | 3 => (Ty.float 4 4 7 false 2 0).decode n
  | 4 => (Ty.float 8 7 127 true 1 0).decode n
  | _ => (Ty.float 8 15 127 true 1 0).decode n

/-- The type of a matrix operand: a wide one, or .NQ of its word (R346). -/
def mxTy (code : Nat) (w : W32) : Ty := if code = 24 then tyOfFmt w else tyOf code 0

/-- The container width in bits of a matrix operand (R347). -/
def mxBits (code : Nat) (w : W32) : Nat :=
  if code = 24 then containerBits w else if code = 8 || code = 9 then 8 else 16

/-- Elements per k-step of containers of w bits (R350). -/
def perStep (w : Nat) : Nat := 512 / w

/-! ### Panels of B (R343, R344) -/

/-- Bytes of a codebook-16 region of c containers (R342). -/
def codebookBytes (c : Nat) : Nat :=
  2064 * (c / 4096) + if c % 4096 = 0 then 0 else 16 + (c % 4096 + 1) / 2

/-- Bytes of a dense or codebook-16 operand (R342). -/
def weightBytes (enc ks nb : Nat) : Nat := if enc = 2 then codebookBytes (ks * nb * 512) else ks * nb * 512

/-- Where the data of a bitmap-sparse region begin (R343). -/
def dirBytes (ks nb : Nat) : Nat := alignUp (4 * (ks * nb + 1)) 16

/-- n bytes of the weight-buffer share of the residency in focus. -/
def State.wbytes (s : State) (o n : Nat) : List Byte := s.mem.bytes (wbufKey s.entry o) n

/-- Entry p of the directory of a bitmap-sparse region at offset o. -/
def State.dirEntry (s : State) (o p : Nat) : Nat := leNat (s.wbytes (o + 4 * p) 4)

/-- Whether entries p to p + k of a directory do not fall and are multiples of 16. -/
def dirRises (s : State) (o : Nat) : Nat → Nat → Bool
  | 0, p => s.dirEntry o p % 16 = 0
  | k + 1, p => s.dirEntry o p % 16 = 0 && s.dirEntry o p ≤ s.dirEntry o (p + 1) && dirRises s o k (p + 1)

/-- Whether a directory of KS·NB panels keeps R343 in a share of `share` bytes. -/
def dirOk (s : State) (o ks nb share : Nat) : Bool :=
  s.dirEntry o 0 = dirBytes ks nb && dirRises s o (ks * nb) 0 && o + s.dirEntry o (ks * nb) ≤ share

/-- Byte c of a codebook-16 region at offset o (R102). -/
def codebookByte (s : State) (o c : Nat) : Byte :=
  let base := o + 2064 * (c / 4096)
  let i := (byteAt (s.wbytes (base + 16 + c % 4096 / 2) 1) 0).toNat
  byteAt (s.wbytes (base + (if c % 2 = 0 then i % 16 else i / 16)) 1) 0

/-- k segments one after another. -/
def segments (w : Nat) : Nat → List Byte → Except Cause (List Byte)
  | 0, _ => .ok []
  | k + 1, bs =>
    match segment w bs with
    | .error c => .error c
    | .ok (out, n) =>
      match segments w k (bs.drop n) with
      | .error c => .error c
      | .ok rest => .ok (out ++ rest)

/-- FetchPanel: the 512 dense bytes of panel (ks, nb) of a descriptor (R343, R344). -/
def fetchPanel (s : State) (d : WDesc) (ks nb : Nat) : Except Cause (List Byte) :=
  let p := ks * d.nb + nb
  match d.enc with
  | 0 => .ok (s.wbytes (d.offset + 512 * p) 512)
  | 1 =>
    let w := mxBits d.ty d.format
    let a := s.dirEntry d.offset p
    let b := s.dirEntry d.offset (p + 1)
    segments w (64 / w) (s.wbytes (d.offset + a) (b - a))
  | _ => .ok ((List.range 512).map fun i => codebookByte s d.offset (512 * p + i))

/-! ### The checks of a start (R347) -/

/-- The scale parameters of an MX.DOTS. -/
structure Scaling where
  ta : W32
  tb : W32
  sa : Nat
  sb : Nat
  deriving DecidableEq, Repr

/-- What a tile command names: descriptor, stream, A type, M-tiles, target base, scaling, hold tag. -/
structure TileCmd where
  w : Fin 8
  st : SReg
  ty : Nat
  mt : Nat
  base : W32
  sc : Option Scaling
  tag : Nat
  deriving DecidableEq, Repr

/-- The tile command of a queue entry. -/
def QEntry.tile (q : QEntry) : Option TileCmd :=
  match q.op with
  | .dot w st ty mt base tag => some ⟨w, st, ty, mt, base, none, tag⟩
  | .dots w st ty mt base ta tb sa sb tag => some ⟨w, st, ty, mt, base, some ⟨ta, tb, sa.toNat, sb.toNat⟩, tag⟩
  | _ => none

/-- Whether the block and scale fields of a word are ones R77 permits. -/
def blockFieldsOk (w : W32) : Bool := bits w 19 17 ≤ 3 && (bits w 19 17 = 0 || bits w 22 20 ≤ 5)

/-- Blocks of the whole reduction dimension (R350). -/
def blocksOf (t : TileCmd) (d : WDesc) (fa : W32) : Nat :=
  d.ks * (perStep (mxBits t.ty fa) / blockSize fa)

/-- The scale ranges of R350 lie in the share. -/
def scalesFit (t : TileCmd) (d : WDesc) (sc : Scaling) (fa : W32) (share : Nat) : Bool :=
  let gb := blocksOf t d fa
  decide (sc.sa + 16 * t.mt * gb * scaleBytes (bits fa 22 20) ≤ share) &&
    decide (sc.sb + 8 * d.nb * gb * scaleBytes (bits d.format 22 20) ≤ share)

/-- The first cause that the start of a tile command with MT above 0 meets (R347, R349). -/
def tileCause (s : State) (t : TileCmd) (fa : W32) : Option Cause :=
  let d := s.r.mx.wdesc[t.w]
  let fb := d.format
  let narrowOk := !s.pkg.boot.reduced
  let i32 := match s.r.dm.cfg with | some c => c.i32 | none => false
  if !d.valid then some 0x5C
  else if (t.ty = 24 && !fmtValid fa) || (d.ty = 24 && !fmtValid fb) ||
      ((mxBits t.ty fa < 8 || mxBits d.ty fb < 8) && !narrowOk) then some 0x53
  else if t.sc.isSome && (i32 || !blockFieldsOk fa || !blockFieldsOk fb || bits fa 19 17 = 0 ||
      bits fa 19 17 ≠ bits fb 19 17) then some 0x53
  else if mxBits t.ty fa ≠ mxBits d.ty fb then some 0x5F
  else
    match t.sc with
    | some sc => if scalesFit t d sc fa s.r.bind.smem then none else some 0x5C
    | none => none

/-- The element size of the A stream (R349). -/
def aSizeOk (s : State) (n : SReg) : Bool :=
  let c := (s.streamStart (s.r.portOf n).1).code
  c = 5 || c = 6

/-! ### One k-step (R94, R97) -/

/-- The exact values of k containers of w bits from byte o. -/
def valuesAt (t : Ty) (w : Nat) (bs : List Byte) (o k : Nat) : List Num :=
  (List.range k).map fun i => t.decode (containerAt w (bs.drop o) i)

/-- An exact dot product added to a value. -/
def dotAdd (down : Bool) (acc : Num) (a b : List Num) : Num :=
  (List.zipWith Num.mul a b).foldl (fun x y => Num.add down x y) acc

/-- An exact sum of values; +0 of none. -/
def sumOf (down : Bool) : List Num → Num
  | [] => .zero false
  | x :: xs => xs.foldl (fun x y => Num.add down x y) x

/-- A block contribution whose magnitude reaches 2^1024 is infinite (R97). -/
def capped : Num → Num
  | .fin s m e => if m ≠ 0 ∧ 1024 ≤ e + Nat.log2 m then .inf s else .fin s m e
  | x => x

/-- The scale at an offset of the scale-memory share. -/
def State.scaleAt (s : State) (w : W32) (o g : Nat) : Num :=
  let code := bits w 22 20
  let n := scaleBytes code
  scaleOf code (leNat (s.mem.bytes (smemKey s.entry (o + g * n)) n))

/-- The sum over the blocks of a k-step, starting from the accumulator (R97). -/
def blockSum (down : Bool) (size : Nat) : List Num → List Num → List Num → Num → Num
  | [], _, _, acc => acc
  | c :: cs, a, b, acc =>
    let d := sumOf down (List.zipWith Num.mul (a.take size) (b.take size))
    blockSum down size cs (a.drop size) (b.drop size) (Num.add down acc (capped (c.mul d)))

/-- The scales of the blocks of k-step ks for row r of A and column n of B, all four multiplied. -/
def blockScales (s : State) (t : TileCmd) (d : WDesc) (sc : Scaling) (fa : W32) (ks r n : Nat) : List Num :=
  let bpk := perStep (mxBits t.ty fa) / blockSize fa
  let gb := d.ks * bpk
  (List.range bpk).map fun g =>
    let at_ := ks * bpk + g
    (((s.scaleAt fa sc.sa (r * gb + at_)).mul (s.scaleAt d.format sc.sb (n * gb + at_))).mul (fp sc.ta)).mul (fp sc.tb)

/-- The accumulator's exact value. -/
def JCfg.accVal (c : JCfg) (w : W32) : Num := if c.i32 then .ofInt w.toInt else fp w

/-- The rounded accumulator (R94). -/
def JCfg.accRound (c : JCfg) (md : Mode) (draw : W32) (v : Num) : W32 :=
  if c.i32 then
    match v with
    | .nan => 0
    | .inf neg => if neg then 0x80000000 else 0x7FFFFFFF
    | .fin neg m e => c.fit (roundInt md draw neg m e)
  else toF32 md draw v

/-- What one k-step computes with. -/
structure StepIn where
  cfg : JCfg
  md : Mode
  /-- rows of A and columns of B, decoded -/
  rows : List (List Num)
  cols : List (List Num)
  /-- the block scales of an entry (row, column), and the block size -/
  scales : Nat → Nat → Option (List Num × Nat)

/-- Entry (i, jj) of a target after one k-step, before its rounding. R86 gives the sign of an exact zero sum in modes 0 to
4; in mode SR it is +0 (log 107). -/
def StepIn.sum (x : StepIn) (i jj : Nat) (acc : Num) : Num :=
  let a := x.rows.getD i []
  let b := x.cols.getD jj []
  let down := x.md == .rdn
  match x.scales i jj with
  | none => dotAdd down acc a b
  | some (cs, size) => blockSum down size cs a b acc

/-- The entries of a target from index i on, in row-major order; in mode SR the generator steps once for
each (R89, R348). -/
def StepIn.run (x : StepIn) : List W32 → Nat → W32 → List W32 × W32
  | [], _, l => ([], l)
  | w :: ws, i, l =>
    let l1 := if x.md == .sr then lfsrStep l else l
    let v := x.cfg.accRound x.md l1 (x.sum (i / 8) (i % 8) (x.cfg.accVal w))
    let r := x.run ws (i + 1) l1
    (v :: r.1, r.2)

/-- The inputs of a k-step from a tile of A and a panel of B (R349, R343). -/
def stepIn (s : State) (t : TileCmd) (q : QEntry) (cfg : JCfg) (a b : List Byte) : StepIn :=
  let d := s.r.mx.wdesc[t.w]
  let w := mxBits t.ty q.word
  let k := perStep w
  { cfg := cfg
    md := modeOf s.r.mx.mode.val
    rows := (List.range 16).map fun i => valuesAt (mxTy t.ty q.word) w a (64 * i) k
    cols := (List.range 8).map fun j => valuesAt (mxTy d.ty d.format) w b (64 * j) k
    scales := fun i jj =>
      match t.sc with
      | none => none
      | some sc =>
        some (blockScales s t d sc q.word q.ks (16 * q.mt + i) (8 * q.nb + jj), blockSize q.word) }

/-! ### Targets (R348) -/

/-- The key of the target of block nb of M-tile mt: the tile index in the direct mode (R348). -/
def TileCmd.key (t : TileCmd) (c : JCfg) (mt nb nbs : Nat) : Nat :=
  if c.hash then (bits t.base 31 16 + mt) * 2 ^ 24 + (bits t.base 15 0 + nb)
  else t.base.toNat + mt * nbs + nb

/-- Target(mt, nb): the place in the store, an entry made for it where there is room, or a staging tile. -/
def findTarget (s : State) (c : JCfg) (key : Nat) : Except Stop (Target × State) := do
  match ← locate c s.r.bind.jsh s.r.dm.store key with
  | .hit p => return (⟨some p, key, []⟩, s)
  | .fresh p =>
    let zeros := List.replicate 128 (0 : W32)
    return (⟨some p, key, []⟩, s.updDm fun d => { d with store := storeWrite c d.store p key zeros })
  | .full => return (⟨none, key, List.replicate 128 0⟩, s)

/-- The values of a target. -/
def Target.read (t : Target) (s : State) (c : JCfg) : List W32 :=
  match t.place with
  | some p => storeRead c s.r.dm.store p
  | none => t.vals

end Sys2Proof.Machine
end

