-- ==== Sys2Proof/Machine/StreamSides.lean ====
section
/-! DEFINITION. The hardware sides of streams that reach memory or another core: fetches by pattern,
handle and address queue, landings, drains and remote sends (R118 to R125, R134 to R138, R161, R267, R424). -/

namespace Sys2Proof.Machine

/-! ### Faults (R134, R424) -/

/-- A stream's hardware side stops at element e: the register notes the fault, and a record goes to the
fault queue. The cursor is that of the fetch side, or of a drain, which stops where it stands (R134, R424). -/
def State.streamFault (s : State) (n : SReg) (unit : Nat) (e : Nat) (t : Trap) : State :=
  (((s.updSt n fun r => { r with
      cursor := if unit = 10 then r.cursor else BitVec.ofNat 32 e, fcause := t.cause.setWidth 7, fpend := true, faddr := t.addr.setWidth 56
      fsink := unit == 10 }).record 2 unit n.val 0 (BitVec.ofNat 64 e) t (.stream n)).softError t.cause)

/-- What a step of a stream's side leads to. One that moves no byte, a fault among them, leaves the watchdog alone (R425). -/
def sideStep (s : State) (n : SReg) (unit e : Nat) (r : Except Stop State) : Host.Outcome State Fault Refusal :=
  match r with
  | .ok s1 => .next s1
  | .error (.trap t) => .next (s.streamFault n unit e t)
  | .error (.trapAt t s1) => .next (s1.streamFault n unit e t)
  | .error _ => .next s

/-! ### Reading and writing memory for a side -/

/-- Whether an element of a size is where R121 asks it to be. -/
def elemAligned (x : W64) (es : Nat) : Bool := x.toNat % (min es 64) = 0

/-- Read n bytes for a side: R105, no peer memory (log 81), no uncorrectable error (R115). -/
def sideRead (s : State) (x : W64) (n : Nat) : Except Stop (List Nat × State) := do
  let (ks, s1) ← resolve s x n true false
  if ks.any fun k => storeOf k == .peer then .error (.trap ⟨0x44, x, 0⟩)
  else if (granulesOf (checkable ks)).any s1.mem.isBad then .error (.trap ⟨0x41, x, 0⟩)
  else return (ks, s1)

/-- The form of an element's address, then its alignment (R105, R121). -/
def elemCheck (s : State) (x : W64) (es : Nat) : Except Stop Unit := do
  let _ ← formCheck s x es
  if elemAligned x es then return () else .error (.trap ⟨0x28, x, 0⟩)

/-- n bytes at an address of a handle's tensor, inside its bounds (R138): cause 0x37 comes before those of R105 (log 27). -/
def boundRead (s : State) (h : Handle) (x : W64) (n : Nat) : Except Stop (List Byte × State) := do
  if h.base.toNat ≤ x.toNat && x.toNat + n ≤ h.base.toNat + h.len.toNat then
    let (ks, s1) ← sideRead s x n
    return (s1.mem.gather ks, s1)
  else .error (.trap ⟨0x37, x, 0⟩)

/-! ### Where elements are (R120, R138) -/

/-- Bytes per tile of a bitmap-tiled tensor: 16 rows of 64 bytes (R100). -/
def tileBytes : Nat := 1024

/-- An extent, a stride of a dense header (R137). -/
def Handle.extent (h : Handle) (i : Nat) : Nat := (le32 h.hdr (16 + 4 * i)).toNat
def Handle.stride (h : Handle) (i : Nat) : Int := (le32 h.hdr (40 + 4 * i)).toInt

/-- The exact address of element e of a dense tensor, by R120 with the extents as counts. -/
def denseWalk (h : Handle) : Nat → Nat → Nat → Int → Int
  | 0, _, _, addr => addr
  | k + 1, i, rest, addr => denseWalk h k (i + 1) (rest / h.extent i) (addr + (rest % h.extent i : Nat) * h.stride i)

/-- Bits of a stored element: those of its container for a narrow type (R79). -/
def Handle.elemBits (h : Handle) : Nat := if h.elem = 16 then containerBits h.format else wideBits h.elem

/-- Elements of a tensor but for CSR and CSC, whose pointers end it (R137, R138). A codebook tensor yields
its dense bytes, each of one element or of two 4-bit ones (R102). -/
def Handle.total (h : Handle) : Nat :=
  let rows := (le32 h.hdr 24).toNat
  let cols := (le32 h.hdr 28).toNat
  match h.type with
  | 0 => ((List.range h.rank).map h.extent).foldl (· * ·) 1
  | 3 => (le64 h.hdr 16).toNat
  | 4 => ((rows + 15) / 16) * ((cols * h.elemBits + 511) / 512) * tileBytes / h.yields
  | 5 => ((le32 h.hdr 16).toNat * (le32 h.hdr 20).toNat * h.elemBits + 7) / 8
  | _ => 0

/-- The address of element e of a dense or COO-tuple tensor. -/
def Handle.address (h : Handle) (e : Nat) : Except Stop W64 :=
  if h.type = 0 then exactAddr (denseWalk h h.rank 0 e (le64 h.hdr 8).toNat)
  else exactAddr ((le64 h.hdr 8).toNat + 16 * e)

/-- The sum of a stream's base and an address that S.ADDR has supplied. The spec does not say what a sum of 2^64 and above
means: this model takes it modulo 2^64, so that an address may stand below the base (R118, R258, log 96). -/
def StreamReg.basePlus (r : StreamReg) (a : W64) : W64 := r.src[0] + a

/-- The address of element e of the side of a register that has a pattern, a handle or an address queue;
none while it is not supplied. -/
def StreamReg.elemAddr (r : StreamReg) (h : Option Handle) (way e : Nat) : Except Stop (Option W64) :=
  match way with
  | 1 =>
    match r.patAddr e with
    | some a => .ok (some a)
    | none => raise 0x34
  | 2 =>
    match h with
    | some h => do return some (← h.address e)
    | none => raise 0x2A
  | _ => .ok ((r.addrs[r.landed / r.esize]?).map r.basePlus)

/-- Elements of a side; none where it has no end. -/
def StreamReg.elements (r : StreamReg) (h : Option Handle) (way : Nat) : Option Nat :=
  match way with
  | 1 => some r.patTotal
  | 2 => h.map Handle.total
  | _ => none

/-! ### Sparse walks (R138) -/

/-- A stored value as the tuple's value type (R138): converted under RNE where it is not of that type. -/
def tupleValue (h : Handle) (c : Nat) : W32 :=
  let i32 := bit (byteAt h.hdr 1) 3
  let code := h.elem
  if (code = 0 && !i32) || (code = 4 && i32) then BitVec.ofNat 32 c
  else BitVec.ofNat 32 (convert (tyOf code h.format) (if i32 then .int 32 true .wide else tyFp32) .rne false 0 c)

/-- The 16 bytes of a yielded tuple, with its check value in the two-coordinate layout (R98, R99). In the
three-coordinate layout c2 is zero: a matrix gives it no value (log 84). -/
def tupleBytes (h : Handle) (c0 c1 : Nat) (v : W32) : List Byte :=
  let body := leBytes 4 c0 ++ leBytes 4 c1 ++ leBytes 4 v.toNat
  if bit (byteAt h.hdr 1) 2 then body ++ [0, 0, 0, 0] else body ++ leBytes 2 (crc16 body).toNat ++ [0, 0]

/-- n bytes that a walk reads at an exact address (R138, log 82). -/
def readExact (s : State) (h : Handle) (x n : Nat) : Except Stop (List Byte × State) := do
  boundRead s h (← exactAddr x) n

/-- Pointer i of a CSR or CSC tensor. -/
def readPtr (s : State) (h : Handle) (i : Nat) : Except Stop (Nat × State) := do
  let (bs, s1) ← readExact s h ((le64 h.hdr 8).toNat + h.ptrBytes * i) h.ptrBytes
  return (leNat bs, s1)

/-- Value container k of a CSR or CSC tensor, as a code. -/
def readValue (s : State) (h : Handle) (k : Nat) : Except Stop (Nat × State) := do
  let w := h.elemBits
  let (bs, s1) ← readExact s h ((le64 h.hdr 24).toNat + k * w / 8) ((w + 7) / 8)
  return (if w = 4 then fld (leNat bs) (4 * (k % 2) + 3) (4 * (k % 2)) else leNat bs, s1)

/-- What one step of a walk gives: the bytes of the element, another walk position, or the end. -/
inductive Walk where
  | element (bs : List Byte)
  | position (p : Nat)
  | buffer (bs : List Byte)
  | done
  deriving DecidableEq, Repr

/-- The address of pointer i of a CSR or CSC tensor, where it has one. -/
def ptrAddress (h : Handle) (i : Nat) : W64 := le64 h.hdr 8 + BitVec.ofNat 64 (h.ptrBytes * i)

/-- Raise a cause at an address unless a condition holds. -/
def needAt (b : Bool) (c : Cause) (x : W64) : Except Stop Unit := if b then .ok () else .error (.trap ⟨c, x, 0⟩)

/-- One step of the walk of a CSR or CSC tensor at row or column p and stream element e (R138). -/
def sparseWalk (s : State) (h : Handle) (p e : Nat) : Except Stop (Walk × State) := do
  let rows := (le32 h.hdr 32).toNat
  let cols := (le32 h.hdr 36).toNat
  let lines := if h.type = 1 then rows else cols
  let other := if h.type = 1 then cols else rows
  let (p0, s0) ← readPtr s h 0
  let k := p0 + e
  let (a, s1) ← readPtr s0 h p
  if lines ≤ p then
    needAt (a = (le64 h.hdr 40).toNat) 0x2C (ptrAddress h p)
    return (.done, s1)
  else
    let (b, s2) ← readPtr s1 h (p + 1)
    needAt (a ≤ b) 0x2C (ptrAddress h (p + 1))
    if b ≤ k then return (.position (p + 1), s2)
    else
      let x ← exactAddr ((le64 h.hdr 16).toNat + k * h.idxBytes)
      let (ib, s3) ← boundRead s2 h x h.idxBytes
      needAt (leNat ib < other) 0x2C x
      let (c, s4) ← readValue s3 h k
      let v := tupleValue h c
      return (.element (if h.type = 1 then tupleBytes h p (leNat ib) v else tupleBytes h (leNat ib) p v), s4)

/-- k segments of R100 from address x on: their expanded bytes (R101, R138). -/
def readSegments (h : Handle) (w : Nat) : Nat → State → Nat → Except Stop (List Byte × State)
  | 0, s, _ => .ok ([], s)
  | k + 1, s, x => do
    let (hd, s1) ← readExact s h x 16
    let map := leNat (hd.take 8)
    let len := (byteAt hd 8).toNat
    needAt (onesBelow 64 map = len) 0x54 (BitVec.ofNat 64 x)
    let n := alignUp ((len * w + 7) / 8) 16
    let (vs, s2) ← if n = 0 then .ok ([], s1) else readExact s1 h (x + 16) n
    let cs := expandBits map 64 0 ((List.range len).map (containerAt w vs))
    let (rest, s3) ← readSegments h w k s2 (x + 16 + n)
    return (packCodes w cs ++ rest, s3)

/-- One step of the walk of a bitmap-tiled tensor: the buffered bytes of the tile, or its expansion
(R100, R101, R138). R100 has containers of 4 and 8 bits alone: a wider type's elements are made of 8-bit ones (log 85). -/
def tileWalk (s : State) (h : Handle) (es e : Nat) (buf : List Byte) : Except Stop (Walk × State) := do
  if es ≤ buf.length then return (.element (buf.take es), s)
  else
    let t := e * es / tileBytes
    let w := if h.elem = 16 then containerBits h.format else 8
    let (ob, s1) ← readExact s h ((le64 h.hdr 16).toNat + 4 * t) 4
    let (bs, s2) ← readSegments h w (1024 / (8 * w)) s1 ((le64 h.hdr 8).toNat + leNat ob)
    return (.buffer (bs.drop (e * es % tileBytes)), s2)

/-- One container of a codebook tensor (R102, R138). -/
def codebookWalk (s : State) (h : Handle) (e : Nat) : Except Stop (Walk × State) := do
  let base := (le64 h.hdr 8).toNat + 2064 * (e / 4096)
  let (ib, s1) ← readExact s h (base + 16 + e % 4096 / 2) 1
  let i := leNat ib
  let (v, s2) ← readExact s1 h (base + (if e % 2 = 0 then i % 16 else i / 16)) 1
  return (.element v, s2)

/-! ### STREAM_FETCH (R120, R134) -/

/-- Where a ring's next landed byte goes, and whether room for es bytes can be claimed there. -/
def claimNext (s : State) (n : SReg) (es : Nat) : Option State :=
  let r := s.stream n
  s.claim n ((r.landed + es - r.claimedBytes + 63) / 64)

/-- A fetched element lands behind those that have landed; a whole aligned granule keeps its check value
(R114, R453). -/
def landElement (s : State) (n : SReg) (src : List Nat) (bs : List Byte) : State :=
  let r := s.stream n
  let s1 := s.writeTail n r.landed bs
  let at_ := r.tail.1 + BitVec.ofNat 24 ((r.tail.2 + r.landed) / 64)
  let ks := (List.range (src.length / 64)).map fun i =>
    carriedCheck s (src.getD (64 * i) 0) ((bs.drop (64 * i)).take 64)
  ({ s1 with mem := carryChecks s1.mem s1.entry r at_ ks }.updSt n fun r => { r with cursor := r.cursor + 1, pin := none }).move

/-- A register without the addresses that this core cycle has supplied: S.ADDR takes effect at its end (R254). -/
def State.withStartAddrs (s : State) (n : SReg) : StreamReg :=
  { s.stream n with addrs := (s.stream n).addrs.take (s.streamStart n).addrs.length }

/-- Fetch element e of a side whose elements have addresses. The bounds of a handle (0x37) are tested after the address's
form and alignment and before its translation (log 27). -/
def fetchAt (s : State) (n : SReg) (h : Option Handle) (e : Nat) : Except Stop State := do
  let r := s.withStartAddrs n
  match ← r.elemAddr h r.kind e with
  | none => .error .block
  | some x =>
    let es := r.esize
    elemCheck s x es
    match h with
    | some h => needAt (h.base.toNat ≤ x.toNat && x.toNat + es ≤ h.base.toNat + h.len.toNat) 0x37 x
    | none => pure ()
    let (ks, s1) ← sideRead s x es
    return landElement s1.draw.2 n (if 64 ≤ es then ks else []) (s1.readKeys ks)

/-- A register whose side has nothing more to fetch. -/
def State.exhaust (s : State) (n : SReg) : State := s.updSt n fun r => { r with exhausted := true }

/-- One step of the fetch side of a handle source (R138). -/
def fetchHandle (s : State) (n : SReg) (h : Handle) (e : Nat) : Except Stop State := do
  let r := s.stream n
  if h.type = 0 || h.type = 3 then fetchAt s n (some h) e
  else
    let (w, s1) ←
      if h.type = 1 || h.type = 2 then sparseWalk s h (r.src[1]).toNat e
      else if h.type = 4 then tileWalk s h r.esize e r.dec.output
      else codebookWalk s h e
    match w with
    | .done => return s1.exhaust n
    | .position p => return s1.updSt n fun r => { r with src := r.src.set 1 (BitVec.ofNat 64 p) }
    | .buffer bs => return (s1.updSt n fun r => { r with dec := { r.dec with output := bs } }).move
    | .element bs =>
      return (landElement s1 n [] bs).updSt n fun r => { r with dec := { r.dec with output := r.dec.output.drop bs.length } }

/-- The element that the fetch side of a register comes to next. The cursor holds it modulo 2^32; a side that has no end
of its own, and a handle of more elements, ends where the cursor wraps (log 83). -/
def fetchStep (s : State) (n : SReg) : Except Stop State := do
  let r := s.stream n
  let h := if r.kind = 2 then s.r.h[r.handleNo] else none
  let e := r.cursor.toNat
  let past : Bool := match r.elements h r.kind with
    | some t => !(h.any fun h => h.type == 1 || h.type == 2) && decide (t ≤ e)
    | none => false
  if past then return s.exhaust n
  else
    match claimNext s n r.esize with
    | none => .error .block
    | some s1 =>
      let s2 ← match h with
        | some h => fetchHandle s1 n h e
        | none => fetchAt s1 n none e
      return if (s2.stream n).cursor = 0 && r.cursor ≠ 0 then s2.exhaust n else s2

/-- Whether nothing stops the fetch or decompressor side of a register: no hold, and no fault of its own. Behind a fault of
the drain side it goes on until the ring is full (R134, R257, R424). -/
def StreamReg.sourceRuns (r : StreamReg) : Bool := r.isOpen && !(r.fpend && (r.fcause = 0 || !r.fsink))

/-- Whether the fetch side of a register may fetch. -/
def StreamReg.fetches (r : StreamReg) : Bool := 1 ≤ r.kind && r.kind ≤ 3 && r.sourceRuns && !r.exhausted

/-- Whether the source side of a register was open and not stopped at the start of the core cycle (R26, R34, R256,
R257). -/
def State.sideRuns (s : State) (n : SReg) : Bool := (s.streamStart n).sourceRuns

/-- What a step of a fetch or decompressor side leads to; while a fault of the drain side is pending, it waits instead of
raising a second one (R424). -/
def sourceStep (s : State) (n : SReg) (unit e : Nat) (x : Except Stop State) : Host.Outcome State Fault Refusal :=
  match x, (s.stream n).fpend with
  | .ok s1, _ => .next s1
  | x, false => sideStep s n unit e x
  | _, true => .next s

/-- STREAM_FETCH: the fetch side fetches its next element, or stops at it with a fault (R120, R134). -/
def execStreamFetch (n : SReg) (s : State) : Host.Outcome State Fault Refusal :=
  let r := s.stream n
  if r.fetches && s.sideRuns n then sourceStep s n 8 r.cursor.toNat (fetchStep s n) else .next s

/-! ### GRANULE_LAND (R123, R134) -/

/-- Bytes that have landed and can be committed: whole granules, and a part of one where the side has
nothing further under way. What is under way is judged by the addresses and the holds of the start of the core cycle (R26,
R254, R257). -/
def State.committable (s : State) (n : SReg) : Nat :=
  let r := s.withStartAddrs n
  let rest := r.exhausted || !s.sideRuns n || (r.kind = 3 && r.addrs.length * r.esize ≤ r.landed)
  if r.code = 6 then r.landed / 256 * 256
  else if rest then r.landed
  else (r.tail.2 + r.landed) / 64 * 64 - r.tail.2

/-- Commit what has landed; check values that came with whole granules stay (R114), and the addresses of
committed elements leave the queue (R135). -/
def landCommit (s : State) (n : SReg) : State :=
  let r := s.stream n
  let k := s.committable n
  let ks := if 5 ≤ r.code then (List.range (k / 64)).map fun i => s.mem.chkOf (r.granuleNo s.entry (r.committed + BitVec.ofNat 24 i))
    else []
  let s1 := s.commit n k
  let s2 := { s1 with mem := carryChecks s1.mem s1.entry r r.committed ks }
  s2.updSt n fun r => { r with
    addrs := if r.kind = 3 then r.addrs.drop (k / r.esize) else r.addrs
    ended := r.ended || (r.exhausted && r.landed = 0) }

/-- GRANULE_LAND: data that has landed is committed in claim order; after the last element the stream has
ended (R120, R123). -/
def execGranuleLand (n : SReg) (s : State) : Host.Outcome State Fault Refusal :=
  let r := s.stream n
  if 1 ≤ r.kind && r.kind ≤ 3 && (0 < s.committable n || (r.exhausted && !r.ended)) then .next (landCommit s n).move
  else .next s

/-! ### STREAM_DRAIN_WRITE (R119, R424) -/

/-- The handle that a drain side names. -/
def drainHandle (s : State) (r : StreamReg) : Option Handle := if r.sink = 3 then s.r.h[r.handleNo] else none

/-- The way a drain sink finds its addresses: pattern, handle or address queue. -/
def StreamReg.drainWay (r : StreamReg) : Nat := r.sink - 1

/-- Whether a granule that a drain side sends to the host disagrees with its check value (R453, R454). -/
def outboundBad (s : State) (src dst : List Nat) : Bool :=
  dst.any (fun k => storeOf k == .host) && !((granulesOf src).all s.mem.checked)

/-- The cause that writing an element meets: peer memory, a mismatch on the way to the host, or in a
granule written in part (R114, R453, R454). -/
def drainCause (s : State) (src dst : List Nat) : Option Cause :=
  if dst.any fun k => storeOf k == .peer then some 0x44
  else if outboundBad s src dst then some 0x42
  else s.mem.readCause (partialOf (checkable dst))

/-- Write an element's bytes: a whole granule with the check value it has in the ring. -/
def drainPut (s : State) (src dst : List Nat) (bs : List Byte) : State :=
  let m := s.mem.write dst bs
  let gs := (List.range (dst.length / 64)).map fun i => (dst.getD (64 * i) 0 / 64, s.mem.chkOf (src.getD (64 * i) 0 / 64))
  { s with mem := gs.foldl (fun m p => m.setChk p.1 p.2) m }

/-- The addresses of a drain side; the first address of a queue belongs to its next element. -/
def drainAddr (r : StreamReg) (h : Option Handle) (e : Nat) : Except Stop (Option W64) :=
  if r.sink = 4 then .ok (r.addrs.head?.map r.basePlus) else r.elemAddr h r.drainWay e

/-- Write the next element of a drain side and advance its head (R119, R125). The bounds of a handle (0x37) are tested after
the address's form and alignment and before its translation (log 27). After 2^32 elements its 32-bit cursor wraps, and a drain
that has not ended goes on at element 0: no rule says what it does (log 83). -/
def drainElement (s : State) (n : SReg) : Except Stop State := do
  let r := s.stream n
  let p := s.r.portOf n
  let x := s.streamStart p.1
  let es := x.esize
  let h := drainHandle s r
  let e := r.cursor.toNat
  await (match r.elements h r.drainWay with | some t => decide (e < t) | none => true)
  await (es ≤ availBytes x (s.headNow p))
  match ← drainAddr (s.withStartAddrs n) h e with
  | none => .error .block
  | some a =>
    elemCheck s a es
    match h with
    | some h => needAt (h.base.toNat ≤ a.toNat && a.toNat + es ≤ h.base.toNat + h.len.toNat) 0x37 a
    | none => pure ()
    let src := x.byteKeys s.entry (s.headNow p).count ((s.headNow p).pos.toNat * es) es
    let (bs, s1) ← takeBytes s p es false
    let (dst, s2) ← resolve s1 a es false true
    match drainCause s2 src dst with
    | some c => .error (.trap ⟨c, if outboundBad s2 src dst then ownAddress s.entry (src.headD 0) else a, 0⟩)
    | none =>
      return ((drainPut s2 src dst bs).updSt n fun r =>
        { r with cursor := r.cursor + 1, pin := none, addrs := if r.sink = 4 then r.addrs.drop 1 else r.addrs }).move

/-- Whether nothing stops the drain or remote side of a register: no hold, and no fault of its own. A fault of the fetch
side leaves what is committed below it to be taken (R134, R257, R424). -/
def StreamReg.sinkRuns (r : StreamReg) : Bool := r.isOpen && !(r.fpend && (r.fcause = 0 || r.fsink))

/-- What a step of a drain or remote side leads to; while a fault of the fetch side is pending, it waits instead of
raising a second one (R424). -/
def sinkStep (s : State) (n : SReg) (e : Nat) (x : Except Stop State) : Host.Outcome State Fault Refusal :=
  match x, (s.stream n).fpend with
  | .ok s1, _ => .next s1
  | x, false => sideStep s n 10 e x
  | _, true => .next s

/-- Whether the drain side of a register may write. -/
def StreamReg.drains (r : StreamReg) : Bool := r.sinkRuns && 2 ≤ r.sink && r.sink ≤ 4

/-- The element at which a fault of a drain side is recorded: its next one, or, where a granule of the ring is bad, the
first of that granule (R115, R420, R424). -/
def drainFaultAt (s : State) (n : SReg) (x : Except Stop State) : Nat :=
  let p := s.r.portOf n
  let st := s.streamStart p.1
  let h := s.headNow p
  let e := (s.stream n).cursor.toNat
  match x with
  | .error (.trap t) =>
    if t.addr = ownAddress s.entry (st.byteKey s.entry h.count (h.pos.toNat * st.esize)) then e - h.pos.toNat else e
  | _ => e

/-- STREAM_DRAIN_WRITE: the drain writes its next committed element and retires it (R119), or stops with a
fault (R424). -/
def execStreamDrainWrite (n : SReg) (s : State) : Host.Outcome State Fault Refusal :=
  let r := s.stream n
  if r.drains && (s.streamStart n).sinkRuns then
    match sinkStep s n (drainFaultAt s n (drainElement s n)) (drainElement s n) with
    | .next t => .next t.settle
    | o => o
  else .next s

/-! ### REMOTE_GRANULE_SEND (R267) -/

/-- The cores that a remote sink sends to. -/
def remoteCores (s : State) (r : StreamReg) : List Nat :=
  if r.multicast then (match s.group r.group with | some g => g.members.map fun m => m.core | none => []) else [r.peerCore]

/-- Whether a register is open for what stream n of core c sends (R267). -/
def StreamReg.takes (x : StreamReg) (c : Nat) (n : SReg) : Bool :=
  x.kind = 4 && x.peerCore = c && x.peerSt == n && !x.ended

/-- Whether stream register k of a residency is open for what stream n of core c sends, and was so at the start of the
core cycle (R254, R267). -/
def takesFrom (x : Residency) (k : SReg) (c : Nat) (n : SReg) : Bool :=
  (x.st[k]).takes c n && (x.start.st[k]).takes c n

/-- Append bytes to the ring of a consumer and commit them, of 256-byte elements the whole ones (R124); none without
room. -/
def remotePut (s : State) (e : Nat) (k : SReg) (bs : List Byte) (ks : List Check) (last : Bool) : Option State :=
  let t := s.focusOn e
  let r := t.stream k
  match t.claim k (r.claimFor bs.length) with
  | none => none
  | some t1 =>
    let t2 := (t1.writeTail k 0 bs).commit k (if r.code = 6 then bs.length / 256 * 256 else bs.length)
    let t3 := if r.tail.2 = 0 then { t2 with mem := carryChecks t2.mem t2.entry r r.tail.1 ks } else t2
    some ((t3.updSt k fun r => { r with ended := r.ended || last }).focusOn s.r.bind.e)

/-- Deliver to each of some cores, or to none: a granule of a multicast reaches its members in one step, once all of them
are open and have room (log 115). -/
def remoteAll (s : State) (n k : SReg) (bs : List Byte) (ks : List Check) (last : Bool) : List Nat → Option State
  | [] => some s
  | c :: cs =>
    match s.peer c with
    | none => none
    | some x =>
      if takesFrom x k s.r.bind.lcore n then
        match remotePut s x.bind.e k bs ks last with
        | none => none
        | some s1 => remoteAll s1 n k bs ks last cs
      else none

/-- Count the bytes of a multicast towards its barrier at each member; then its phase may end (R164, R267). -/
def castBytes (s : State) (g n : Nat) (cs : List Nat) : State :=
  (cs.foldl (fun s c => s.barrierBytes g c n) s).barrierCheck g

/-- Whether a consumer of a remote sink takes elements of four granules, which it commits together (R124). -/
def takesWhole (s : State) (k : SReg) (cs : List Nat) : Bool :=
  cs.any fun c => (s.peer c).any fun x => (x.st[k]).code == 6

/-- What a remote sink sends of what is committed at its head: at most the bytes to the end of the granule; four granules
where the sink or a consumer has elements of that size, and at the end of the stream what is left (R124, R267). -/
def sendBytes (x : StreamReg) (h : Head) (whole : Bool) : Nat :=
  let av := availBytes x h
  if x.code = 6 || whole then (if 256 ≤ av then 256 else if x.ended then av else 0)
  else min av (64 - h.pos.toNat * x.esize)

/-- Send the next granule of a remote sink to every consumer, and retire it (R267). -/
def sendGranule (s : State) (n : SReg) : Except Stop State := do
  let r := s.stream n
  let p := s.r.portOf n
  let x := s.streamStart p.1
  let hd := s.headNow p
  let cs := remoteCores s r
  let k := sendBytes x hd (takesWhole s r.peerSt cs)
  let last := x.ended && decide (availBytes x hd = k)
  await (0 < k || (last && !r.endSent))
  let keys := x.byteKeys s.entry hd.count (hd.pos.toNat * x.esize) k
  let ks := if hd.pos = 0 then (List.range (k / 64)).map fun i => s.mem.chkOf (keys.getD (64 * i) 0 / 64) else []
  needAt (!((granulesOf keys).any s.mem.isBad)) 0x41 (ownAddress s.entry (keys.headD 0))
  match remoteAll s n r.peerSt (s.mem.gather keys) ks last cs with
  | none => .error .block
  | some s1 =>
    let s2 := s1.passHead p k
    let s3 := (s2.updSt n fun r => { r with endSent := last }).move
    return if r.multicast then castBytes s3 r.group k cs else s3

/-- The element at which the granule begins that a remote sink comes to next, as its head's ring position counts it: at
this element a soft error of the granule is recorded (R115, R424). -/
def sentElement (s : State) (n : SReg) : Nat :=
  let p := s.r.portOf n
  let x := s.streamStart p.1
  let h := s.headNow p
  if x.code = 6 then h.count.toNat / 4 else h.count.toNat * x.epg

/-- REMOTE_GRANULE_SEND (R267). -/
def execRemoteGranuleSend (n : SReg) (s : State) : Host.Outcome State Fault Refusal :=
  let r := s.stream n
  if r.sinkRuns && r.sink = 5 && (s.streamStart n).sinkRuns then sinkStep s n (sentElement s n) (sendGranule s n) else .next s

end Sys2Proof.Machine
end

