-- ==== Sys2Proof/Machine/Decompress.lean ====
section
/-! DEFINITION. The side of a stream that a decompressor fills (R118): the ends of R462 and the faults of R134. -/

namespace Sys2Proof.Machine

/-! ### The side (R118, R134, R462) -/

/-- Change the decoder of a stream. -/
def State.updDec (s : State) (n : SReg) (f : Decoder → Decoder) : State :=
  s.updSt n fun r => { r with dec := f r.dec }

/-- Deliver k bytes of whole elements (R123, R124). -/
def deliverOut (s : State) (n : SReg) (k : Nat) : Except Stop State :=
  let r := s.stream n
  match s.claim n (r.claimFor k) with
  | none => .error .block
  | some s1 =>
    let s2 := ((s1.writeTail n 0 (r.dec.output.take k)).commit n k).updDec n fun d =>
      { d with output := d.output.drop k, given := d.given + k / r.esize }
    .ok (s2.updSt n fun r => { r with cursor := BitVec.ofNat 32 r.dec.given }).move

/-- Bytes of whole elements that can be delivered at once: to the end of the last granule, or one element. -/
def StreamReg.deliverable (r : StreamReg) : Nat :=
  let whole := r.dec.output.length / r.esize * r.esize
  let lim := match r.count with | some n => min whole ((n - r.dec.given) * r.esize) | none => whole
  min lim (max r.esize (64 - r.tail.2))

/-- The head through which a decompressor source takes its input (R118). -/
def inputHead (s : State) (n : SReg) : Except Stop (SReg × Fin 4) := do
  let q := (s.stream n).peerSt
  await ((s.streamStart q).isOpen && (s.streamStart q).sink = 6)
  return s.r.portOf q

/-- The most input that one tile or block takes: 32 bitmap-sparse segments of 48 bytes, or a codebook-16 block
(R100, R102). -/
def unitBytes : Nat := 2064

/-- Of k bytes at a head, those up to the end of the granule, or of the larger element, that holds byte m. -/
def granuleEnd (x : StreamReg) (h : Head) (k m : Nat) : Nat :=
  let o := h.pos.toNat * x.esize
  min k (if 64 < x.esize then m + x.esize else (o + m) / 64 * 64 + 64 - o)

/-- The longest run of the first k bytes at a head, granule by granule from m on, that raises no integrity cause (R115,
R424, R454); at most `fuel` granules. -/
def soundBytes (s : State) (x : StreamReg) (h : Head) (k : Nat) : Nat → Nat → Nat
  | 0, m => m
  | fuel + 1, m =>
    let next := granuleEnd x h k m
    if next ≤ m || (takenCause s x h next).isSome then m else soundBytes s x h k fuel next

/-- The input not yet expanded, as a decompressor finds it. -/
structure Input where
  /-- what the decoder holds and the whole elements at its head, up to the first granule that raises a cause -/
  bytes : List Byte
  /-- those of them that are still in their ring -/
  queued : Nat
  /-- nothing follows them -/
  last : Bool
  /-- the cause of the granule that follows them -/
  bad : Option Cause

/-- The input not yet expanded; what the head gives stays in its ring (R118). -/
def inputSeen (s : State) (n : SReg) (p : SReg × Fin 4) : Input :=
  let x := s.streamStart p.1
  let h := s.headNow p
  let av := availBytes x h / x.esize * x.esize
  let k := min av (alignUp unitBytes x.esize)
  let m := soundBytes s x h k k 0
  ⟨(s.stream n).dec.input ++ s.mem.gather (x.byteKeys s.entry h.count (h.pos.toNat * x.esize) m), m, x.ended && m = av,
    if m < k then takenCause s x h (granuleEnd x h k m) else none⟩

/-- The address of the byte m bytes into the input of a decompressor that its decoder does not hold (R424). -/
def inputAddress (s : State) (p : SReg × Fin 4) (m : Nat) : W64 :=
  let x := s.streamStart p.1
  ownAddress s.entry (x.byteKey s.entry (s.headNow p).count ((s.headNow p).pos.toNat * x.esize + m))

/-- The first m bytes of the input seen have been expanded: the elements that held them are retired, and the
decoder keeps what is left of the last of them. -/
def consumeInput (s : State) (n : SReg) (p : SReg × Fin 4) (bs : List Byte) (m : Nat) : State :=
  let held := (s.stream n).dec.input.length
  let k := alignUp (m - held) (s.streamStart p.1).esize
  (s.passHead p k).updDec n fun d => { d with input := (bs.take (held + k)).drop m }

/-- Input that is not yet a whole tile or block stays in its ring, where a repair can still reach it; only a ring
that is full of it is taken into the decoder, which could never go on otherwise (R101, R134, log 45). -/
def holdInput (s : State) (n : SReg) (p : SReg × Fin 4) (bs : List Byte) (k : Nat) : Except Stop State := do
  let x := s.streamStart p.1
  await ((x.committed - (s.headNow p).count).toNat = x.size && k ≠ 0)
  return ((s.passHead p k).updDec n fun d => { d with input := bs }).move

/-- The stream has ended; its last partial element is padded with zero bytes where N is 0 (R462). -/
def endExpansion (s : State) (n : SReg) : Except Stop State := do
  let r := s.stream n
  if r.count.isNone && !r.dec.output.isEmpty then
    deliverOut (s.updDec n fun d => { d with output := d.output ++ List.replicate (r.esize - d.output.length) 0 }) n r.esize
  else return s.updSt n fun r => { r with ended := true, exhausted := true, dec := { r.dec with output := [] } }

/-- After N elements the rest of the input is retired and discarded (R462). -/
def discardInput (s : State) (n : SReg) : Except Stop State := do
  let p ← inputHead s n
  let k := availBytes (s.streamStart p.1) (s.headNow p)
  await ((s.stream n).count.isSome && k ≠ 0)
  return ((s.passHead p k).updDec n fun d => { d with input := [] }).move

/-- Expand one tile or block. A granule that raises a cause is met only by the tile or block that needs it (R424, R454). -/
def expandInput (s : State) (n : SReg) : Except Stop State := do
  let p ← inputHead s n
  let i := inputSeen s n p
  match (s.stream n).expand i.last i.bytes, i.bad with
  | .more, some c => .error (.trap ⟨c, inputAddress s p i.queued, 0⟩)
  | .more, none => holdInput s n p i.bytes i.queued
  | .out out m, _ => return ((consumeInput s n p i.bytes m).updDec n fun d => { d with output := d.output ++ out }).move
  | .fail c, _ => .error (.trap ⟨c, inputAddress s p 0, 0⟩)
  | .stop, _ => endExpansion (consumeInput s n p i.bytes i.bytes.length) n

/-- One step of a decompressor source: deliver, end, or expand. -/
def decompressStep (s : State) (n : SReg) : Except Stop State := do
  let r := s.stream n
  if r.ended then discardInput s n
  else if r.count == some r.dec.given then endExpansion s n
  else if r.deliverable ≠ 0 then deliverOut s n r.deliverable
  else expandInput s n

/-- DECOMPRESS: the decompressor moves a stream of kind 5 one step on, or stops at its next element with a
fault (R101, R134, R424). -/
def execDecompress (n : SReg) (s : State) : Host.Outcome State Fault Refusal :=
  let r := s.stream n
  if r.kind = 5 && r.sourceRuns && s.sideRuns n then
    match sourceStep s n 9 r.dec.given (decompressStep s n) with
    | .next t => .next t.settle
    | o => o
  else .next s

end Sys2Proof.Machine
end

