-- ==== Sys2Proof/Machine/Engines.lean ====
section
/-! DEFINITION. The copy and index engines and the transfer-record chains: CP.ASYNC, GX.ROWS, SX.ROWS,
CP.CHAIN, CP.FENCE and the events of their commands (R269 to R281). -/

namespace Sys2Proof.Machine

/-! ### Command blocks (R269) -/

/-- Rows of a block: the count field holds them minus 1. -/
def blkRows (f : List Byte) : Nat := le16 f 28 + 1
/-- Bytes per row. -/
def blkRowBytes (f : List Byte) : Nat := (le32 f 24).toNat
/-- A flag of a block. -/
def blkFlag (f : List Byte) (i : Nat) : Bool := bit (byteAt f 30) i
/-- A signed stride of a block, as a 64-bit word. -/
def blkStride (f : List Byte) (o : Nat) : W64 := (le32 f o).signExtend 64

/-- Whether a block's fields are valid (R270, check 2). -/
def blkOk (k : CmdKind) (f : List Byte) : Bool :=
  blkRowBytes f ≠ 0 && bits (byteAt f 30) 7 4 = 0 &&
  (match k with
   | .copy => le64 f 16 == 0 && !blkFlag f 3 && le32 f 40 == 0
   | _ => le32 f 40 != 0) &&
  (blkFlag f 2 || byteAt f 31 == 0) &&
  (blkFlag f 0 || (le16 f 44 == 0 && le64 f 48 == 0)) &&
  (blkFlag f 1 || (le16 f 46 == 0 && le64 f 56 == 0))

/-- Whether a copy may reach a peer: it acquires and releases at system scope (R149, R271). -/
def blkSystem (f : List Byte) : Bool :=
  blkFlag f 0 && blkFlag f 1 && le16 f 44 % 8 = 5 && le16 f 46 % 8 = 5

/-- Whether a command carries an acquire or a release below system scope. -/
def blkBelow (f : List Byte) : Bool :=
  (blkFlag f 0 && le16 f 44 % 8 ≠ 5) || (blkFlag f 1 && le16 f 46 % 8 ≠ 5)

/-- What a command meets at peer memory: any with an acquire or a release below system scope 0x68; else gathers and
scatters cannot reach it, and copies only at system scope (R149, R170, R451). R149 names a source and a destination: that
an index list and a sync word in peer memory meet the same is the model's choice (log 27). One that an address met after
issue raises becomes the command's fault (log 81). -/
def peerCause (k : CmdKind) (f : List Byte) : Option Cause :=
  match k with
  | .copy => if blkSystem f then none else some 0x68
  | _ => some (if blkBelow f then 0x68 else 0x44)

/-- Translate the first byte of one of A, B and X (R270, check 5). -/
def checkFirst (s : State) (x : W64) (rd : Bool) (peer : Option Cause) : Except Stop State := do
  let (ks, s1) ← resolve s x 1 rd (!rd)
  if ks.any fun k => storeOf k == .peer then
    match peer with
    | some c => .error (.trap ⟨c, x, 0⟩)
    | none => return s1
  else return s1

/-- The checks of R270 in order: the block's bytes, and the state with its TLBs. -/
def checkBlock (s : State) (k : CmdKind) (x : W64) : Except Stop (List Byte × State) := do
  match localOffset s x 64 with
  | none => raise 0x55
  | some o =>
    need (o % 64 = 0) 0x55
    let g := spadKey s.entry o / 64
    need (!s.mem.isBad g) 0x41
    let f := s.mem.granule g
    need (blkOk k f) 0x55
    if blkFlag f 0 then checkScope s (le16 f 44)
    if blkFlag f 1 then checkScope s (le16 f 46)
    let s1 ← if blkFlag f 0 then checkSyncIssue s (le64 f 48) (le16 f 44 % 8) false (peerCause k f) else pure s
    let s2 ← if blkFlag f 1 then checkSyncIssue s1 (le64 f 56) (le16 f 46 % 8) true (peerCause k f) else pure s1
    need (!blkFlag f 2 || s.r.member (byteAt f 31).toNat) 0x61
    let s3 ← checkFirst s2 (le64 f 0) true (peerCause k f)
    let s4 ← checkFirst s3 (le64 f 8) false (peerCause k f)
    let s5 ← if k == .copy then pure s4 else checkFirst s4 (le64 f 16) true (peerCause k f)
    return (f, s5)

/-! ### Slots (R275) -/

/-- Slots of a pool. -/
def poolSize (p : Fin 2) : Nat := if p = 0 then 1024 else 256

/-- Slots of a pool that a residency holds as the core's other residency finds them: those of the start of the core cycle,
and what it has taken since (R26). -/
def Residency.slotsTaken (r : Residency) (p : Fin 2) : Nat :=
  r.start.held[p] + (r.cmds.filter fun c => c.kind.pool == p && decide (r.start.nextId ≤ c.id)).length

/-- Whether a residency waits for a slot: it has tried within the last eight cycles, the longest that a
context waits for its next slot (R40). -/
def Residency.waitsSlot (r : Residency) (p : Fin 2) (cycle : Nat) : Bool :=
  (r.slotWait[p]).2 ≠ 0 && cycle + 1 ≤ (r.slotWait[p]).2 + 8

/-- Whether the sibling, unless it is frozen, comes first for a free slot: it has waited longer, or as long and is H. -/
def siblingFirst (s : State) (p : Fin 2) : Bool :=
  match s.sibling with
  | none => false
  | some o =>
    !s.frozen o.bind.part && o.waitsSlot p (s.clockOf o.bind.part) &&
      (!s.r.waitsSlot p s.now || decide ((o.slotWait[p]).1 < (s.r.slotWait[p]).1) ||
        ((o.slotWait[p]).1 == (s.r.slotWait[p]).1 && resOf o.bind.e = 0))

/-- Take a slot, or wait for one (R275). -/
def takeSlot (s : State) (p : Fin 2) : Except Stop State :=
  let others :=
    match s.sibling, s.r.start.beside with
    | some o, _ => o.slotsTaken p
    | none, some b => b.held[p]
    | none, none => 0
  if s.r.slotsHeld p + others < poolSize p && !siblingFirst s p then
    .ok (s.updR fun r => { r with slotWait := r.slotWait.set p (0, 0) })
  else
    .error (.blockAt (s.updR fun r => { r with
      slotWait := r.slotWait.set p
        (if r.waitsSlot p s.now then ((r.slotWait[p]).1, s.now + 1) else (s.now + 1, s.now + 1)) }))

/-! ### Issue (R271, R272) -/

/-- Copies in flight with a follow-on tag that they have not released (R277). -/
def Residency.inFlightTag (r : Residency) (t : Nat) : Nat :=
  (r.cmds.filter fun c => c.tag == t && decide (c.row < blkRows c.fields) &&
    (match c.status with | .waiting | .faulted _ => true | _ => false)).length

/-- The counter of a follow-on tag. -/
def Residency.followOf (r : Residency) (t : Nat) : Nat := r.follow[Fin.ofNat 128 t]

/-- A granule of the completion ring is claimed (R274). -/
def claimRecord (s : State) (st : Option SReg) : Except Stop (State × BitVec 24) := do
  match st with
  | none => return (s, 0)
  | some n =>
    need ((s.stream n).kind = 9 && (s.stream n).code = 5) 0x20
    let at_ := (s.stream n).claimed
    match s.claim n 1 with
    | none => .error .block
    | some s1 => return (s1.updSt n fun r => { r with holds := r.holds + 1 }, at_)

/-- The bases of a block that are virtual addresses, those of the list X too where the command reads one (R269): what its
issue translates, and pins (R414). -/
def basePins (k : CmdKind) (f : List Byte) : List BasePin :=
  let offsets : List Nat := match k with | .copy => [0, 8] | .gather | .scatter => [0, 8, 16]
  (offsets.map fun o => (⟨le64 f o, false⟩ : BasePin)).filter fun p => bits p.base 63 56 = 0

/-- Issue an engine command (R270, R271, R272, R275, R277). The follow-on counter (0x55) is looked at after the checks of
R270 and before the completion stream (0x20): the rules give it no place (log 27). -/
def issueCommand (s : State) (k : CmdKind) (block target : W64) (tag : Nat) (zero : Bool)
    (st : Option SReg) : Except Stop State := do
  let (f, s1) ← checkBlock s k block
  need (tag = 0 || s1.r.followOf tag + s1.r.inFlightTag tag + 1 ≤ 255) 0x55
  let (s2, at_) ← claimRecord s1 st
  let s3 ← match takeSlot s2 k.pool with
    | .ok t => pure t
    | .error (.blockAt t) => .error (.blockAt (s.updR fun r => { r with slotWait := t.r.slotWait }))
    | .error e => .error e
  let c : Cmd := {
    id := s3.r.nextId, kind := k, issuer := s3.ap, pc := (s3.ctx s3.ap).pc, block := block, fields := f
    target := target, tag := tag, zero := zero, stream := st, claim := at_, status := .waiting
    row := 0, off := 0, bytes := 0, oor := 0, begun := false, pins := basePins k f }
  return s3.updR fun r => { r with cmds := r.cmds ++ [c], nextId := r.nextId + 1 }

/-- CP.ASYNC (R271): d the completion stream, a the block, b the acquire target. -/
def execCpAsync (f : RRR) (t : Fin 128) (c : Bool) (s : State) : Host.Outcome State Fault Refusal :=
  apIssue (.cpAsync f t c) f.g s fun s => do
    let s1 ← issueCommand s .copy (s.areg f.a) (s.areg f.b) t.val false (if c then some f.d else none)
    return (s1, .next)

/-- GX.ROWS (R272). -/
def execGxRows (f : SAB) (z c : Bool) (s : State) : Host.Outcome State Fault Refusal :=
  apIssue (.gxRows f z c) f.g s fun s => do
    let s1 ← issueCommand s .gather (s.areg f.a) (s.areg f.b) 0 z (if c then some f.st else none)
    return (s1, .next)
/-- SX.ROWS (R272). -/
def execSxRows (f : SAB) (z c : Bool) (s : State) : Host.Outcome State Fault Refusal :=
  apIssue (.sxRows f z c) f.g s fun s => do
    let s1 ← issueCommand s .scatter (s.areg f.a) (s.areg f.b) 0 z (if c then some f.st else none)
    return (s1, .next)

/-- Whether every command of the issuing context has finished or been cancelled (R278). -/
def commandsDone (s : State) : Bool :=
  s.r.cmds.all fun c => c.issuer != s.ap ||
    (match c.status with | .filled | .cancelled _ => true | _ => false)

/-- CP.FENCE (R278). -/
def execCpFence (g : Guard) (s : State) : Host.Outcome State Fault Refusal :=
  apIssue (.cpFence g) g s fun s => do
    await (commandsDone s)
    return (s, .next)
/-- CP.FENCE.ALL (R278). -/
def execCpFenceAll (g : Guard) (s : State) : Host.Outcome State Fault Refusal :=
  apIssue (.cpFenceAll g) g s fun s => do
    await (commandsDone s && s.r.chains.toList.all fun c => !c.busy)
    return (s, .next)

/-! ### Running a command -/

/-- Change one command. -/
def State.updCmd (s : State) (id : Nat) (f : Cmd → Cmd) : State :=
  s.updR fun r => { r with cmds := r.cmds.map fun c => if c.id = id then f c else c }

/-- COMMAND_FAULT: the command stops where it is, and its record goes to the fault queue (R276, R418). -/
def State.cmdFault (s : State) (c : Cmd) (t : Trap) : State :=
  (((s.updCmd c.id fun x => { x with status := .faulted t.cause }).record 1
    (if c.kind == .copy then 3 else 4) 0xFF c.pc c.bytes ⟨t.cause, c.block, t.aux⟩ (.engine c.id)).softError
      t.cause)

/-- The group that a command's writes are tagged with (R164, R269). R164 lists copies, scatters and multicast streams, and
R269 gives the tag to gathers too: that the bytes of a gather, its rows of zeros among them, count towards the barrier is
the model's choice (log 99). -/
def Cmd.group (c : Cmd) : Option Nat := if blkFlag c.fields 2 then some (byteAt c.fields 31).toNat else none

/-- Bytes of an index of the list X (R269). -/
def Cmd.indexBytes (c : Cmd) : Nat := if blkFlag c.fields 3 then 8 else 4

/-- The index of row i (R272): the value, or what stops its read (log 81). -/
def Cmd.readIndex (c : Cmd) (s : State) : Except Stop (Nat × State) := do
  let x ← exactAddr ((le64 c.fields 16).toNat + c.row * c.indexBytes)
  let (ks, s1) ← resolve s x c.indexBytes true false
  unlessCause (peerMeets s1 (peerCause c.kind c.fields) ks)
  need (!((granulesOf ks).any s1.mem.isBad)) 0x41
  return (leNat (s1.mem.gather ks), s1)

/-- The address of row i of the list at a base with a stride, from where the command stands in its row: exact, so that
one outside the 64-bit values is no address (R12, R272, cause 0x34). R269 calls the strides signed for CP.ASYNC, and the
model takes those of a gather and a scatter so too (log 135). -/
def Cmd.rowFrom (c : Cmd) (base stride i : Nat) : Except Stop W64 :=
  exactAddr ((le64 c.fields base).toNat + i * (le32 c.fields stride).toInt + c.off)

/-- Where the row that a command stands at is read, from index `idx` (R271, R272). -/
def Cmd.rowSource (c : Cmd) (idx : Nat) : Except Stop W64 := c.rowFrom 0 32 (if c.kind == .gather then idx else c.row)
/-- Where the row that a command stands at is written. -/
def Cmd.rowTarget (c : Cmd) (idx : Nat) : Except Stop W64 := c.rowFrom 8 36 (if c.kind == .scatter then idx else c.row)

/-- Whether n bytes at an address lie on the page of a base, or overlap it: the page of the TLB entry that holds the base,
else one of 64 KiB. -/
def onPage (s : State) (base a : W64) (n : Nat) : Bool :=
  let pages := (s.pkg.tlb.filter fun t => t.part == s.r.bind.part && decide (t.base ≤ base.toNat) && decide (base.toNat < t.base + t.size) &&
    t.place == (if t.second then dieOf s.entry else coreOf s.entry)).map fun t => (t.base, t.size)
  (pages ++ [(base.toNat / 65536 * 65536, 65536)]).any fun p => decide (a.toNat < p.1 + p.2) && decide (p.1 < a.toNat + n)

/-- The command once it has accessed n bytes at an address: it has begun, and gives up its pins of that page (R414, R415). -/
def Cmd.touch (c : Cmd) (s : State) (a : W64) (n : Nat) : Cmd :=
  { c with begun := c.begun || n != 0, pins := c.pins.filter fun p => n = 0 || !onPage s p.base a n }

/-- The command once it has read the index of its row. -/
def Cmd.touchIndex (c : Cmd) (s : State) : Cmd := c.touch s (le64 c.fields 16 + BitVec.ofNat 64 (c.row * c.indexBytes)) c.indexBytes

/-- One row of a command from where it stands: the state, the command with its progress, and what
stopped it. -/
def Cmd.runRow (c : Cmd) (s : State) : State × Cmd × Option Stop :=
  let n := blkRowBytes c.fields
  let peer := peerCause c.kind c.fields
  let ended (c : Cmd) (p : State × Nat × Option Stop) (oor : Nat) : State × Cmd × Option Stop :=
    let bytes := c.bytes + BitVec.ofNat 64 p.2.1
    match p.2.2 with
    | none => (p.1, { c with row := c.row + 1, off := 0, bytes := bytes, oor := c.oor + BitVec.ofNat 32 oor }, none)
    | some e => (p.1, { c with off := c.off + p.2.1, bytes := bytes }, some e)
  let move (c : Cmd) (s : State) (idx : Nat) : State × Cmd × Option Stop :=
    match c.rowSource idx, c.rowTarget idx with
    | .ok a, .ok b =>
      let p := copyRun peer c.group (n - c.off) s a b (n - c.off)
      ended ((c.touch p.1 a p.2.1).touch p.1 b p.2.1) p 0
    | .error e, _ | _, .error e => (s, c, some e)
  if c.kind == .copy then move c s 0
  else
    match c.readIndex s with
    | .error e => (s, c, some e)
    | .ok (idx, s1) =>
      let c := c.touchIndex s1
      if idx < (le32 c.fields 40).toNat then move c s1 idx
      else if !c.zero then (s1, c, some (.trap ⟨0x57, 0, 0⟩))
      else if c.kind == .gather then
        match c.rowTarget idx with
        | .ok b =>
          let p := zeroRun peer c.group (n - c.off) s1 b (n - c.off)
          ended (c.touch p.1 b p.2.1) p 1
        | .error e => (s1, c, some e)
      else ended c (s1, 0, none) 1

/-- The next j bytes of the row that a command stands at, where it is one that is copied and nothing stops them. -/
def Cmd.runBytes (c : Cmd) (j : Nat) (s : State) : Option (State × Cmd) :=
  if j = 0 then some (s, c)
  else
    match if c.kind == .copy then .ok (0, s) else c.readIndex s with
    | .error _ => none
    | .ok (idx, s1) =>
      match c.rowSource idx, c.rowTarget idx with
      | .ok a, .ok b =>
        (match copyRun (peerCause c.kind c.fields) c.group j s1 a b j with
         | (s2, k, none) => some (s2, { (c.touch s2 a k).touch s2 b k with off := c.off + k, bytes := c.bytes + BitVec.ofNat 64 k })
         | _ => none)
      | _, _ => none

/-- The rows of a command until it is done or stops: at most `fuel` rows. Later rows of a scatter are
written after earlier ones (R273). -/
def Cmd.runRows : Nat → Cmd → State → State × Cmd × Option Stop
  | 0, c, s => (s, c, none)
  | k + 1, c, s =>
    match c.runRow s with
    | (s1, c1, none) => c1.runRows k s1
    | r => r

/-- The rows of a command until it is done or stops, and then the end of a phase that its bytes complete (R164, log 113). -/
def Cmd.run (c : Cmd) (s : State) : State × Cmd × Option Stop :=
  match c.runRows (blkRows c.fields - c.row) s with
  | (s1, r) => (s1.endPhase c.group, r)

/-- The acquire of a command before its first read: false while the count has not reached the target
(R159, R271). -/
def Cmd.acquired (c : Cmd) (s : State) : Except Stop (Bool × State) := do
  if !blkFlag c.fields 0 || c.row ≠ 0 || c.off ≠ 0 then return (true, s)
  else
    let (ks, s1) ← checkSync s (le64 c.fields 48) (le16 c.fields 44 % 8) false (peerCause c.kind c.fields)
    match s1.syncCause ks with
    | some k => raise k
    | none => return (reached (BitVec.ofNat 64 (leNat (s1.readKeys ks))) c.target, s1.draw.2)

/-- A follow-on counter rises by one (R277). -/
def State.releaseTag (s : State) (t : Nat) : State :=
  if t = 0 then s
  else s.updR fun r => { r with follow := r.follow.set (Fin.ofNat 128 t) (min 255 (r.followOf t + 1)) }

/-- ENGINE_COMMAND_START: the command acquires, then moves its rows; it is written when the last is, which releases its
follow-on tag, or stands where a row waits or faults (R271, R272, R276, R277). -/
def execEngineCommandStart (id : Nat) (s : State) : Host.Outcome State Fault Refusal :=
  match s.r.cmds.find? fun c => c.id == id && c.status == .waiting with
  | none => .next s
  | some c =>
    match c.acquired s with
    | .error (.trap t) => .next (s.cmdFault c t)
    | .error _ => .next s
    | .ok (false, s1) => .next s1
    | .ok (true, s1) =>
      match c.run s1 with
      | (s2, c2, none) =>
        .next (((s2.updCmd id fun _ => { c2 with status := .written }).releaseTag c.tag).moveIf (c2.bytes ≠ c.bytes))
      | (s2, c2, some (.trap t)) => .next (((s2.updCmd id fun _ => c2).cmdFault c2 t).moveIf (c2.bytes ≠ c.bytes))
      | (s2, c2, some _) => .next ((s2.updCmd id fun _ => c2).moveIf (c2.bytes ≠ c.bytes))

/-! ### Finishing a command -/

/-- The operation code of a completion record (R274). -/
def CmdKind.op (k : CmdKind) : Nat := match k with | .copy => 0x30 | .gather => 0x34 | .scatter => 0x35

/-- The 64 bytes of a completion record (R274). -/
def Cmd.record (c : Cmd) (status : Cause) : List Byte :=
  leBytes 8 c.block.toNat ++ leBytes 8 c.bytes.toNat ++ leBytes 4 c.row ++ leBytes 4 c.oor.toNat ++
    [status, BitVec.ofNat 8 c.kind.op, BitVec.ofNat 8 c.tag] ++ List.replicate 37 0

/-- Commit the filled records of a completion ring that stand next in claim order; their commands are
over (R274, R275). -/
def commitRecords (n : SReg) : Nat → State → State
  | 0, s => s
  | k + 1, s =>
    match s.r.cmds.find? fun c => c.stream == some n && c.claim == (s.stream n).committed && c.status == .filled with
    | none => s
    | some c =>
      let s1 := s.updR fun r => { r with cmds := r.cmds.filter fun x => x.id != c.id }
      let s2 := (s1.commit n 64).updSt n fun r => { r with holds := r.holds - 1 }
      commitRecords n k s2

/-- The end of a command: its completion record is filled in, or, without a stream, it is over. -/
def State.fillRecord (s : State) (c : Cmd) (status : Cause) : State :=
  match c.stream with
  | none => s.updR fun r => { r with cmds := r.cmds.filter fun x => x.id != c.id }
  | some n =>
    let r := s.stream n
    let s1 := { s with mem := s.mem.fill (r.byteKey s.entry c.claim 0) (c.record status) }
    let s2 := s1.updCmd c.id fun x => { x with status := .filled }
    commitRecords n s2.r.cmds.length s2

/-- The release of a command's sync word (R159): the state after it, or what stops it. -/
def Cmd.release (c : Cmd) (s : State) : Except Stop State := do
  if !blkFlag c.fields 1 then return s
  else
    let (ks, s1) ← checkSync s (le64 c.fields 56) (le16 c.fields 46 % 8) true (peerCause c.kind c.fields)
    match s1.syncCause ks with
    | some k => raise k
    | none => return (s1.releaseAt ks).draw.2

/-- ENGINE_COMMAND_FINISH: the sync word is released, and the completion record filled in (R271, R274); a cancelled
command releases nothing (R276). -/
def execEngineCommandFinish (id : Nat) (s : State) : Host.Outcome State Fault Refusal :=
  match s.r.cmds.find? fun c => c.id == id with
  | none => .next s
  | some c =>
    match c.status with
    | .cancelled k => .next ((s.fillRecord c k).move).settle
    | .written =>
      match c.release s with
      | .error (.trap t) => .next (s.cmdFault c t)
      | .error _ => .next s
      | .ok s1 => .next (((s1.fillRecord c 0).move).settle)
    | _ => .next s

/-! ### Transfer-record chains (R279 to R281) -/

/-- Change one chain channel. -/
def State.updChain (s : State) (ch : Fin 8) (f : Chain → Chain) : State :=
  s.updR fun r => { r with chains := r.chains.set ch (f r.chains[ch]) }

/-- CP.CHAIN (R279). -/
def execCpChain (f : RR) (ch : Fin 8) (s : State) : Host.Outcome State Fault Refusal :=
  apIssue (.cpChain f ch) f.g s fun s => do
    let c := s.r.chains[ch]
    let x := s.areg f.a
    let state := c.ptr ||| BitVec.ofNat 64 c.busy.toNat
    let start (p : W64) : State := s.updChain ch fun _ => ⟨p, true, [], none, 0, false⟩
    if x ≠ 0 then
      need (!c.busy && x.toNat % 64 = 0) 0x56
      return ((start x).setA f.d state, .next)
    else if c.ptr ≠ 0 && !c.busy then return ((start c.ptr).setA f.d state, .next)
    else return (s.setA f.d state, .next)

/-- A command fault of a chain channel (R276, R281). -/
def State.chainFault (s : State) (ch : Fin 8) (t : Trap) : State :=
  let c := s.r.chains[ch]
  ((s.updChain ch fun c => { c with faulted := some t.cause }).record 1 7 ch.val 0 (BitVec.ofNat 64 c.offset)
    ⟨t.cause, c.ptr, t.aux⟩ (.chain ch)).softError t.cause

/-- The class of storage that a virtual address lies in; the scratchpad counts as on-chip. -/
def storeAt (s : State) (x : W64) (rd : Bool) : Except Stop (Store × State) := do
  let (ks, s1) ← resolve s x 1 rd (!rd)
  return (storeOf (ks.headD 0), s1)

/-- Whether a sync word is one that a record may name (R151). -/
def syncOk (s : State) (x : W64) : Bool :=
  x.toNat % 64 = 0 && (match formCheck s x 8 with | .ok _ => true | .error e => e == .block)

/-- Check 2 of R281 on a record's bytes. A source or a destination that does not translate is no failed check: it is a
command fault, as one that the copy of step 3 meets is (log 29). -/
def recordOk (s : State) (f : List Byte) : Except Stop (Bool × State) := do
  let ctl := byteAt f 28
  if le32 f 24 == 0 || bits ctl 7 3 ≠ 0 || !zeroIn f 30 2 || !zeroIn f 40 24 ||
      (bit ctl 1 && !syncOk s (le64 f 32)) then return (false, s)
  else
    let (a, s1) ← storeAt s (le64 f 8) true
    let (b, s2) ← storeAt s1 (le64 f 16) false
    return ((a == .host && b == .hbm) || (a == .hbm && b == .host), s2)

/-- Write bytes into the record at a channel's pointer from byte 28 on; each granule written in part is
verified first (R114, R281). -/
def writeStatus (s : State) (p : W64) (bs : List Byte) : Except Stop State := do
  let (ks, s1) ← resolve s (p + 28) bs.length false true
  match s1.mem.readCause (partialOf (checkable ks)) with
  | some c => raise c
  | none => return { s1 with mem := s1.mem.write ks bs }

/-- The channel becomes idle at its record. -/
def State.chainIdle (s : State) (ch : Fin 8) : State :=
  s.updChain ch fun c => { c with busy := false, record := [], faulted := none, offset := 0, stamped := false }

/-- A record ends with a status: own is cleared, and the channel is idle at it (R281). -/
def chainEnd (s : State) (ch : Fin 8) (f : List Byte) (status : Cause) : Except Stop State := do
  let s1 ← writeStatus s (s.r.chains[ch]).ptr [byteAt f 28 &&& 0xFE, status]
  return (s1.chainIdle ch).settle

/-- The record that a channel stands at, where its bytes can be reached: kept since its check, or read again. -/
def standingRecord (s : State) (ch : Fin 8) : Option (List Byte) :=
  let c := s.r.chains[ch]
  if c.record.isEmpty then
    match resolve s c.ptr 64 true false with
    | .ok (ks, s1) => some (s1.mem.gather ks)
    | .error _ => none
  else some c.record

/-- The read of the record at a channel's pointer, and what it leads to (R281, steps 1 and 2). -/
def fetchRecord (s : State) (ch : Fin 8) : Except Stop State := do
  let p := (s.r.chains[ch]).ptr
  let (ks, s1) ← resolve s p 64 true false
  need (!(ks.any fun k => storeOf k == .peer)) 0x44
  need (!((granulesOf ks).any s1.mem.isBad)) 0x41
  let f := s1.mem.gather ks
  if !bit (byteAt f 28) 0 then return (s1.chainIdle ch).settle
  else if p.toNat % 64 ≠ 0 || ks.any (fun k => storeOf k == .chip) then chainEnd s1 ch f 0x56
  else
    let (ok, s2) ← recordOk s1 f
    if ok then return s2.updChain ch fun c => { c with record := f, offset := 0 }
    else chainEnd s2 ch f 0x56

/-- What a step of a chain channel leads to; one that stops after a part of its effect keeps that part. -/
def chainStep (s : State) (ch : Fin 8) (r : Except Stop State) : Host.Outcome State Fault Refusal :=
  match r with
  | .ok s1 => .next s1.move
  | .error (.trap t) => .next (s.chainFault ch t)
  | .error (.trapAt t s1) => .next ((s1.chainFault ch t).move)
  | .error (.blockAt s1) => .next s1
  | .error _ => .next s

/-- Whether a channel runs and stands before a record (`fresh`) or within one. -/
def Chain.runs (c : Chain) (fresh : Bool) : Bool := c.busy && c.faulted.isNone && (c.record.isEmpty == fresh)

/-- CHAIN_RECORD_FETCH: a running channel reads and checks the record at its pointer (R281). -/
def execChainRecordFetch (ch : Fin 8) (s : State) : Host.Outcome State Fault Refusal :=
  if (s.r.chains[ch]).runs true then chainStep s ch (fetchRecord s ch) else .next s

/-- The release of the sync word that a record names, at `sys` (R281, step 5); a chain does not reach peer memory
(R170). -/
def chainRelease (s : State) (x : W64) : Except Stop State := do
  let (ks, t) ← checkSync s x 5 true (some 0x44)
  unlessCause (t.mem.readCause (partialOf (checkable ks)))
  return t.releaseAt ks

/-- What has been done stands when the rest stops. -/
def keeping (s : State) : Except Stop State → Except Stop State
  | .error (.trap t) => .error (.trapAt t s)
  | .error .block => .error (.blockAt s)
  | r => r

/-- The end of a record whose copy is done (R281, steps 4 to 6). The status is written once. -/
def finishRecord (s : State) (ch : Fin 8) : Except Stop State := do
  let c := s.r.chains[ch]
  let ctl := byteAt c.record 28
  let s1 ← if c.stamped then pure s else writeStatus s c.ptr [ctl &&& 0xFE, 0, 0, 0]
  let t := s1.updChain ch fun c => { c with stamped := true }
  let s2 ← if bit ctl 1 then keeping t (chainRelease t (le64 c.record 32)) else pure t
  let s3 := if bit ctl 2 then s2.event 7 3 c.ptr else s2
  let next := le64 c.record 0
  return (s3.updChain ch fun _ => ⟨next, next != 0, [], none, 0, false⟩).settle

/-- CHAIN_RECORD_DONE: the record's bytes are copied, and the record is finished (R281). -/
def execChainRecordDone (ch : Fin 8) (s : State) : Host.Outcome State Fault Refusal :=
  let c := s.r.chains[ch]
  if c.runs false then
    let n := (le32 c.record 24).toNat - c.offset
    let o := BitVec.ofNat 64 c.offset
    match copyRun (some 0x44) none n s (le64 c.record 8 + o) (le64 c.record 16 + o) n with
    | (s1, k, e) =>
      let s2 := (s1.updChain ch fun c => { c with offset := c.offset + k }).moveIf (k ≠ 0)
      match e with
      | none => chainStep s2 ch (finishRecord s2 ch)
      | some (.trap t) => .next (s2.chainFault ch t)
      | some _ => .next s2
  else .next s

end Sys2Proof.Machine
end

