-- ==== Sys2Proof/Machine/EpMatrix.lean ====
section
/-! DEFINITION. The instructions of the matrix unit and of Damask at their issue: their checks and the
queue entry that each makes (R335 to R366, R461). -/

namespace Sys2Proof.Machine

/-- The stream register that a selector field names. -/
def selStream (c : BitVec 8) : SReg := Fin.ofNat 32 c.toNat

/-! ### WLOAD (R342, R461) -/

/-- Mark a descriptor as named by a WLOAD that has issued (R346). -/
def State.markLoad (s : State) (w : Fin 8) : State :=
  s.updR fun r => { r with mx := { r.mx with wdesc := r.mx.wdesc.set w { r.mx.wdesc[w] with loading := true } } }

/-- WLOAD (R342). -/
def execWload (f : EF) (s : State) : Host.Outcome State Fault Refusal :=
  eAct (.wload f) s fun s => do
    let _ ← unitPort s (selStream f.a)
    let (o, s1) ← readS s f.b
    let (g, s2) ← readS s1 f.c
    let enc := f.fn.toNat % 4
    let ks := bits g 15 0
    let nb := bits g 23 16
    need (ks ≠ 0 && nb ≠ 0 && bits g 31 24 = 0) 0x5F
    need (o.toNat % 64 = 0 && (enc = 1 || o.toNat + weightBytes enc ks nb ≤ s2.r.bind.wbuf)) 0x5C
    let w : Fin 8 := Fin.ofNat 8 f.x.toNat
    let s3 ← enqueueCmd s2 (.wload w (selStream f.a) o.toNat enc f.ty.toNat ks nb)
    return s3.markLoad w

/-- WLOAD.SC (R461). -/
def execWloadSc (f : EF) (s : State) : Host.Outcome State Fault Refusal :=
  eAct (.wloadSc f) s fun s => do
    let _ ← unitPort s (selStream f.a)
    let (o, s1) ← readS s f.b
    let (n, s2) ← readS s1 f.c
    need (o.toNat % 64 = 0 && n ≠ 0 && o.toNat + n.toNat ≤ s2.r.bind.smem) 0x5C
    enqueueCmd s2 (.wloadSc (selStream f.a) o.toNat n.toNat)

/-! ### Tile commands (R345, R346) -/

/-- The column blocks of descriptor w as of issue: of the last WLOAD queued for it, or as it stands. -/
def Residency.issuedNb (r : Residency) (w : Fin 8) : Nat :=
  match r.mx.queue.reverse.findSome? fun q =>
      match q.op with
      | .wload v _ _ _ _ _ nb => if v = w then some nb else none
      | _ => none with
  | some nb => nb
  | none => (r.mx.wdesc[w]).nb

/-- Checks 3 to 6 of R346. -/
def tileChecks (s : State) (w : Fin 8) (mt base : W32) : Except Stop Unit := do
  let d := s.r.mx.wdesc[w]
  need (d.valid || d.loading) 0x5C
  need (mt.toNat ≤ 65535) 0x5F
  match s.r.dm.issued with
  | none => raise 0x5A
  | some c =>
    need c.tile 0x5A
    need (c.hash || (bits base 31 11 = 0 &&
      base.toNat + mt.toNat * s.r.issuedNb w ≤ c.entries s.r.bind.jsh)) 0x5B

/-- MX.DOT (R345). -/
def execMxDot (f : EF) (s : State) : Host.Outcome State Fault Refusal :=
  eAct (.mxDot f) s fun s => do
    let _ ← unitPort s (selStream f.a)
    let (mt, s1) ← readS s f.b
    let (base, s2) ← readS s1 f.c
    let w : Fin 8 := Fin.ofNat 8 f.fn.toNat
    tileChecks s2 w mt base
    enqueueCmd s2 (.dot w (selStream f.a) f.ty.toNat mt.toNat base f.x.toNat)

/-- MX.DOTS: five consecutive s-registers (R345). -/
def execMxDots (f : EF) (s : State) : Host.Outcome State Fault Refusal :=
  eAct (.mxDots f) s fun s => do
    let _ ← unitPort s (selStream f.a)
    let (mt, s1) ← readS s f.b
    let k := f.c.toNat
    let reg (i : Nat) : W32 := s1.r.ep.s[Fin.ofNat 32 (k + i)]
    let w : Fin 8 := Fin.ofNat 8 f.fn.toNat
    tileChecks s1 w mt (reg 0)
    enqueueCmd s1 (.dots w (selStream f.a) f.ty.toNat mt.toNat (reg 0) (reg 1) (reg 2) (reg 3) (reg 4) f.x.toNat)

/-- RND.SET (R352). -/
def execRndSet (f : EF) (s : State) : Host.Outcome State Fault Refusal :=
  eAct (.rndSet f) s fun s => enqueueCmd s (.rnd (Fin.ofNat 8 f.fn.toNat))

/-- MX.WAIT n: at most n commands of the queue are unfinished (R339). -/
def execMxWait (f : EF) (s : State) : Host.Outcome State Fault Refusal :=
  eAct (.mxWait f) s fun s => do
    await (s.r.mx.queue.length ≤ f.x.toNat)
    return s

/-! ### Damask (R358 to R366) -/

/-- Whether a queue entry is a J.* command (R339); a vector result to 0xC3 is a J.ACC (R360). -/
def QEntry.isJoin (q : QEntry) : Bool :=
  match q.op with
  | .jcfg _ | .jclear | .jacc _ _ | .jvec _ _ | .jmerge _ _ | .jdrain _ _ _ | .jdraino _ _ _ => true
  | _ => false

/-- J.WAIT (R339). -/
def execJWait (f : EF) (s : State) : Host.Outcome State Fault Refusal :=
  eAct (.jWait f) s fun s => do
    await (!(s.r.mx.queue.any QEntry.isJoin))
    return s

/-- The configuration as of issue; cause 0x5A before the first J.CFG (R337, R358). -/
def issuedCfg (s : State) : Except Stop JCfg :=
  match s.r.dm.issued with
  | some c => .ok c
  | none => raise 0x5A

/-- J.CFG (R358). -/
def execJCfg (f : EF) (s : State) : Host.Outcome State Fault Refusal :=
  eAct (.jCfg f) s fun s => do
    let c : JCfg := {
      mode := Fin.ofNat 4 f.fn.toNat, i32 := f.ty == 4, sat := f.fn.getLsbD 2
      probes := f.x.toNat % 16 + 1
      spill := if f.d = 0xFF then none else some (selStream f.d) }
    need (!(c.hash && s.pkg.boot.reduced)) 0x5A
    need (!(c.sat && !c.i32)) 0x5A
    need (c.hash || f.x = 0) 0x5A
    need (match c.spill with | none => true | some n => ringTakes s c n) 0x5A
    let s1 ← enqueueCmd s (.jcfg c)
    return s1.updDm fun d => { d with issued := some c }

/-- J.CLEAR (R359). -/
def execJClear (f : EF) (s : State) : Host.Outcome State Fault Refusal :=
  eAct (.jClear f) s fun s => do
    let _ ← issuedCfg s
    enqueueCmd s .jclear

/-- The element-size code of an operand stream. -/
def State.unitCode (s : State) (n : SReg) : Nat := (s.streamStart (s.r.portOf n).1).code

/-- J.ACC: the count 0xC0 takes items until the stream ends (R360). -/
def execJAcc (f : EF) (s : State) : Host.Outcome State Fault Refusal :=
  eAct (.jAcc f) s fun s => do
    let n := selStream f.a
    let c ← issuedCfg s
    let _ ← unitPort s n
    need (s.unitCode n = c.recordCode) 0x5A
    if f.b = 0xC0 then enqueueCmd s (.jacc n none)
    else
      let (k, s1) ← readS s f.b
      enqueueCmd s1 (.jacc n (some k.toNat))

/-- J.MERGE (R361). -/
def execJMerge (f : EF) (s : State) : Host.Outcome State Fault Refusal :=
  eAct (.jMerge f) s fun s => do
    let a := selStream f.a
    let b := selStream f.b
    let c ← issuedCfg s
    let _ ← unitPort s a
    let _ ← unitPort s b
    need (!c.tile && s.unitCode a = 4 && s.unitCode b = 4) 0x5A
    enqueueCmd s (.jmerge a b)

/-- The output of a drain, checked at issue (R362): none for the drain queue. -/
def drainOut (s : State) (c : JCfg) (d : BitVec 8) : Except Stop (Option SReg) := do
  if d = 0xC3 then return none
  else
    let n := selStream d
    need ((s.streamStart n).kind = 7) 0x20
    need ((s.streamStart n).code = c.recordCode) 0x5A
    return some n

/-- J.DRAIN in its two forms (R362). -/
def execJDrain (f : EF) (s : State) : Host.Outcome State Fault Refusal :=
  eAct (.jDrain f) s fun s => do
    let c ← issuedCfg s
    if f.b = 0xFF then
      need c.hash 0x5A
      let out ← drainOut s c f.d
      enqueueCmd s (.jdrain out 0 0)
    else
      need (!c.hash) 0x5A
      let (a, s1) ← readS s f.b
      let (n, s2) ← readS s1 f.c
      need (a.toNat + n.toNat ≤ c.entries s.r.bind.jsh) 0x5B
      let out ← drainOut s2 c f.d
      enqueueCmd s2 (.jdrain out a.toNat n.toNat)

/-- J.DRAINO (R363). -/
def execJDraino (f : EF) (s : State) : Host.Outcome State Fault Refusal :=
  eAct (.jDraino f) s fun s => do
    let c ← issuedCfg s
    need c.hash 0x5A
    let out ← drainOut s c f.d
    let (o, s1) ← readS s f.b
    let (n, s2) ← readS s1 f.c
    enqueueCmd s2 (.jdraino out o.toNat n.toNat)

/-- Whether a queue entry writes Damask (R365). -/
def QEntry.writesDamask (q : QEntry) : Bool := q.isJoin || q.tile.isSome

/-- The reading half of J.LOOK (R365). -/
def look (f : EF) (s : State) : Except Stop (Option W32 × State) := do
  let _ ← issuedCfg s
  let (c0, s1) ← readS s f.a
  let (c1, s2) ← readS s1 f.b
  await (!(s2.r.mx.queue.any QEntry.writesDamask))
  match s2.r.dm.cfg with
  | none => raise 0x5A
  | some c =>
    let v ← lookUp s2 c c0.toNat c1.toNat
    return (v, s2)

/-- J.LOOK: the value, or 0 (R365). -/
def execJLook (f : EF) (s : State) : Host.Outcome State Fault Refusal :=
  eRead (.jLook f) f 6 7 (fun s => do
    let (v, s1) ← look f s
    return (v.getD 0, s1)) s
/-- J.LOOK.P: presence (R365). -/
def execJLookP (f : EF) (s : State) : Host.Outcome State Fault Refusal :=
  eRead (.jLookP f) f 6 7 (fun s => do
    let (v, s1) ← look f s
    return (if v.isSome then 1 else 0, s1)) s

/-- J.STAT (R366). -/
def execJStat (f : EF) (s : State) : Host.Outcome State Fault Refusal :=
  eRead (.jStat f) f 2 7 (fun s => .ok (jstat s (f.fn.toNat % 8))) s

end Sys2Proof.Machine
end

