-- ==== Sys2Proof/Machine/EpGauze.lean ====
section
/-! DEFINITION. Gauze: signatures, decisions, kept tiles and the map (R368 to R375). -/

namespace Sys2Proof.Machine

/-- The block that field x names. -/
def gauzeBlk (f : EF) : Fin 64 := Fin.ofNat 64 f.x.toNat

/-- The block as of issue; cause 0x58 where it is not configured (R370, R372, R373). -/
def issuedBlock (s : State) (k : Fin 64) : Except Stop GBlock :=
  match s.r.gz.issued[k] with
  | some b => .ok b
  | none => raise 0x58

/-- A tile below T; cause 0x59. -/
def tileBelow (b : GBlock) (t : Nat) : Except Stop Unit := need (t < b.tiles) 0x59

/-- An operation is queued, or the instruction does not issue (R375). -/
def gauzeQueue (s : State) (o : GOp) : Except Stop State :=
  match s.gauzePut o with
  | some s1 => .ok s1
  | none => .error .block

/-! ### G.CFG (R369) -/

/-- A threshold that is neither NaN nor below zero; −0 is accepted. -/
def thresholdOk (w : W32) : Bool := !(fp w).isNan && !(fp w).lt (.zero false)

/-- The block that five registers describe. -/
def blockOf (r : Nat → W32) : GBlock where
  tabs := r 0
  trel := r 1
  tiles := bits (r 2) 15 0 + 1
  limit := bits (r 3) 15 0
  v := bits (r 3) 19 16 + 1
  offset := (r 4).toNat
  step := 0

/-- Whether the registers of a G.CFG are valid (R369). -/
def blockOk (r : Nat → W32) (share : Nat) : Bool :=
  let b := blockOf r
  thresholdOk b.tabs && thresholdOk b.trel && bits (r 2) 31 16 = 0 && b.limit ≠ 0 && bits (r 3) 31 20 = 0 &&
    b.offset % 64 = 0 && b.offset + b.size ≤ share

/-- The tiles of a block are undecided as of issue. -/
def Gauze.undecide (g : Gauze) (k : Fin 64) : Gauze := { g with decided := g.decided.filter fun p => p.1 != k.val }

/-- G.CFG (R369). -/
def execGCfg (f : EF) (s : State) : Host.Outcome State Fault Refusal :=
  eAct (.gCfg f) s fun s => do
    let r (i : Nat) : W32 := s.r.ep.s[Fin.ofNat 32 (f.c.toNat + i)]
    need (blockOk r (s.r.bind.banks * 131072)) 0x5E
    let k := gauzeBlk f
    let s1 ← gauzeQueue s (.cfg k (blockOf r))
    return s1.updGz fun g => { g.undecide k with issued := g.issued.set k (some (blockOf r)) }

/-! ### G.SIG (R370) -/

/-- c_q of R370 is +1. -/
def plusAt (q : Nat) : Bool := Nat.testBit 0x6A09E667 (q % 32)

/-- The three sums of one row from element index q0 on (R370). -/
def rowSums (q0 : Nat) (xs : List W32) : W32 × W32 × W32 :=
  let k := Nat.log2 xs.length
  let signed := xs.mapIdx fun i x => if plusAt (q0 + i) then x else fNeg x
  (treeOf fAdd k xs, treeOf fAdd k (xs.map fAbs), treeOf fAdd k signed)

/-- The sums of each of k rows. -/
def sumRows (e : Nat) : Nat → Nat → List W32 → List (W32 × W32 × W32)
  | 0, _, _ => []
  | k + 1, i, xs => rowSums (e * i) (xs.take e) :: sumRows e k (i + 1) (xs.drop e)

/-- The sum of a list from its first value on, rounded at every step. -/
def chain (xs : List W32) : W32 := xs.tail.foldl fAdd (xs.headD 0)

/-- Every second value from index i on. -/
def every2 (xs : List W32) (i : Nat) : List W32 := (List.range 8).map fun j => xs.getD (2 * j + i) 0

/-- The four signatures of a tile of elements (R370). -/
def signatures (e : Nat) (xs : List W32) : W32 × W32 × W32 × W32 :=
  let rows := sumRows e 16 0 xs
  let t0 := rows.map fun r => r.1
  (chain t0, chain (rows.map fun r => r.2.1), chain (rows.map fun r => r.2.2),
    fSub (chain (every2 t0 1)) (chain (every2 t0 0)))

/-- The container width of a G.SIG type. -/
def sigBits (code : Nat) (w : W32) : Nat :=
  if code = 0 || code = 4 || code = 5 then 32 else if code = 2 || code = 3 then 16
  else if code = 8 || code = 9 then 8 else containerBits w

/-- G.SIG (R370). -/
def execGSig (f : EF) (s : State) : Host.Outcome State Fault Refusal :=
  eAct (.gSig f) s fun s => do
    let ty ← s.typeAt f.ty.toNat
    let (bs, s1) ← popAll s (selStream f.a) 1024 (decide (0xA0 ≤ f.a.toNat))
    let (t, s2) ← readS s1 f.b
    let k := gauzeBlk f
    let b ← issuedBlock s2 k
    tileBelow b t.toNat
    need (!s2.r.gz.decided.contains (k.val, t.toNat)) 0x5E
    let w := sigBits f.ty.toNat (s.fmtOf f.ty.toNat)
    let xs := (List.range (8192 / w)).map fun i => rneF32 (ty.decode (containerAt w bs i))
    let (a0, a1, a2, a3) := signatures (512 / w) xs
    let s3 ← gauzeQueue s2 (.sig k t.toNat a0 a1 a2 a3)
    return s3.updGz fun g => { g with decided := (k.val, t.toNat) :: g.decided }

/-! ### G.STEP, G.KEEP, G.REUSE, G.MAP (R372 to R374) -/

/-- G.STEP (R372). -/
def execGStep (f : EF) (s : State) : Host.Outcome State Fault Refusal :=
  eAct (.gStep f) s fun s => do
    let k := gauzeBlk f
    let _ ← issuedBlock s k
    let s1 ← gauzeQueue s (.step k)
    return s1.updGz fun g => g.undecide k

/-- G.KEEP (R373). -/
def execGKeep (f : EF) (s : State) : Host.Outcome State Fault Refusal :=
  eAct (.gKeep f) s fun s => do
    let k := gauzeBlk f
    let b ← issuedBlock s k
    let (bs, s1) ← popAll s (selStream f.a) b.ob false
    let (t, s2) ← readS s1 f.b
    tileBelow b t.toNat
    gauzeQueue s2 (.keep k t.toNat bs)

/-- A reading form issues when every earlier Gauze operation has completed (R373, R374). -/
def gauzeIdle (s : State) : Except Stop Unit := await s.r.gz.ops.isEmpty

/-- What a reading form reads at issue, n bytes from a key, holds no uncorrectable error (R115, R376). -/
def gauzeSound (s : State) (k n : Nat) : Except Stop Unit := need (!((granulesOf (keysFrom k n)).any s.mem.isBad)) 0x41

/-- G.REUSE: the cached bytes and their check values go in flight (R373). -/
def execGReuse (f : EF) (s : State) : Host.Outcome State Fault Refusal :=
  eAct (.gReuse f) s fun s => do
    let k := gauzeBlk f
    let n := selStream f.d
    let b ← issuedBlock s k
    let (t, s1) ← readS s f.b
    tileBelow b t.toNat
    gauzeIdle s1
    gauzeSound s1 (b.recKey s1.entry t.toNat 0) 64
    need (bit (s1.mem.byte (b.recKey s1.entry t.toNat 18)) 1) 0x5E
    ePush s1 n
    let key := b.outKey s1.entry t.toNat 0
    gauzeSound s1 key b.ob
    let bs := s1.mem.bytes key b.ob
    let ks := (List.range (b.ob / 64)).map fun i => s1.mem.chkOf (key / 64 + i)
    match s1.reserve n b.ob with
    | none => .error (.blockClaim n ((s1.stream n).claimFor b.ob))
    | some s2 =>
      let s3 ← gauzeQueue s2 (.reuse k t.toNat)
      return s3.updE fun e => { e with
        inflight := e.inflight ++ [⟨8 + 2 * b.v, .push n, .bytes bs ks, BitVec.allOnes 64, none⟩] }

/-- G.MAP.W (R374). Of a tile that is already decided in the step it raises nothing (log 138). -/
def execGMapW (f : EF) (s : State) : Host.Outcome State Fault Refusal :=
  eAct (.gMapW f) s fun s => do
    let k := gauzeBlk f
    let b ← issuedBlock s k
    let (v, s1) ← readS s f.a
    let (w, s2) ← readS s1 f.b
    need (32 * w.toNat < b.tiles) 0x59
    let s3 ← gauzeQueue s2 (.mapW k w.toNat v)
    return s3.updGz fun g => { g with
      decided := ((List.range 32).map fun i => (k.val, 32 * w.toNat + i)) ++ g.decided }

/-- A read of a block's state (R374). -/
def gauzeRead (i : Instr) (f : EF) (s : State) (op : State → GBlock → Except Stop (W32 × State)) :
    Host.Outcome State Fault Refusal :=
  eRead i f 2 7 (fun s => do
    let b ← issuedBlock s (gauzeBlk f)
    let r ← op s b
    gauzeIdle s
    return r) s

/-- 32 map bits from word w on. -/
def mapWord (m : Memory) (b : GBlock) (e w : Nat) : W32 := le32 (m.bytes (b.mapKey e (4 * w)) 4) 0

/-- G.MAP.R (R374). -/
def execGMapR (f : EF) (s : State) : Host.Outcome State Fault Refusal :=
  gauzeRead (.gMapR f) f s fun s b => do
    let (w, s1) ← readS s f.b
    need (32 * w.toNat < b.tiles) 0x59
    gauzeIdle s1
    gauzeSound s1 (b.mapKey s1.entry (4 * w.toNat)) 4
    return (mapWord s1.mem b s1.entry w.toNat, s1)

/-- G.MAP.STEP (R374). -/
def execGMapStep (f : EF) (s : State) : Host.Outcome State Fault Refusal :=
  gauzeRead (.gMapStep f) f s fun s b =>
    .ok (match s.r.gz.blocks[gauzeBlk f] with | some x => x.step | none => b.step, s)

/-- G.MAP.TILE: skips, ref valid, output valid, decided (R374). -/
def execGMapTile (f : EF) (s : State) : Host.Outcome State Fault Refusal :=
  gauzeRead (.gMapTile f) f s fun s b => do
    let (t, s1) ← readS s f.b
    tileBelow b t.toNat
    gauzeIdle s1
    gauzeSound s1 (b.recKey s1.entry t.toNat 0) 64
    let rec_ := s1.mem.bytes (b.recKey s1.entry t.toNat 0) 20
    return (BitVec.ofNat 32 (le16 rec_ 16 + (byteAt rec_ 18).toNat % 8 * 65536), s1)

/-! ### Completion (R371, R375) -/

/-- A tile record (R368). -/
structure TileRec where
  r0 : W32
  r1 : W32
  r2 : W32
  r3 : W32
  skips : Nat
  refValid : Bool
  outValid : Bool
  decided : Bool
  deriving DecidableEq, Repr

/-- The record of tile t of a block. -/
def readRec (m : Memory) (b : GBlock) (e t : Nat) : TileRec :=
  let f := m.bytes (b.recKey e t 0) 20
  let fl := byteAt f 18
  ⟨le32 f 0, le32 f 4, le32 f 8, le32 f 12, le16 f 16, bit fl 0, bit fl 1, bit fl 2⟩

/-- The 64 bytes of a tile record. -/
def TileRec.bytes (x : TileRec) : List Byte :=
  leBytes 4 x.r0.toNat ++ leBytes 4 x.r1.toNat ++ leBytes 4 x.r2.toNat ++ leBytes 4 x.r3.toNat ++
    leBytes 2 x.skips ++ leBytes 1 (x.refValid.toNat + 2 * x.outValid.toNat + 4 * x.decided.toNat) ++
    List.replicate 45 0

/-- Write a record whole (R368). -/
def writeRec (m : Memory) (b : GBlock) (e t : Nat) (x : TileRec) : Memory :=
  m.writeGranules (b.recKey e t 0 / 64) x.bytes

/-- Set map bit t. -/
def setMap (m : Memory) (b : GBlock) (e t : Nat) (v : Bool) : Memory :=
  let k := b.mapKey e (t / 8)
  let old := (m.byte k).toNat
  let cleared := old - (if old.testBit (t % 8) then 2 ^ (t % 8) else 0)
  m.write [k] [BitVec.ofNat 8 (cleared + if v then 2 ^ (t % 8) else 0)]

/-- near(j) of R371. -/
def near (b : GBlock) (sig ref : W32) : Bool :=
  fCondition 6 (fAbs (fSub sig ref)) (fAdd b.tabs (fMul b.trel (fAbs ref)))

/-- Whether a decision skips (R371). -/
def skips (b : GBlock) (x : TileRec) (s0 s1 s2 s3 : W32) : Bool :=
  b.step != 0 && x.refValid && x.skips < b.limit &&
    [s0, s1, s2, s3, x.r0, x.r1, x.r2, x.r3].all (fun w => !(fp w).isNan) &&
    near b s0 x.r0 && near b s1 x.r1 && near b s2 x.r2 && near b s3 x.r3

/-- The decision of a tile (R371). -/
def decideTile (m : Memory) (b : GBlock) (e t : Nat) (s0 s1 s2 s3 : W32) : Memory :=
  let x := readRec m b e t
  if skips b x s0 s1 s2 s3 then
    writeRec (setMap m b e t true) b e t { x with skips := x.skips + 1, decided := true }
  else
    writeRec (setMap m b e t false) b e t
      { x with r0 := s0, r1 := s1, r2 := s2, r3 := s3, skips := 0, refValid := true, decided := true }

/-- Change the record of one tile. -/
def mapRec (b : GBlock) (e : Nat) (f : TileRec → TileRec) (m : Memory) (t : Nat) : Memory :=
  writeRec m b e t (f (readRec m b e t))

/-- Change the records of some tiles. -/
def mapRecs (b : GBlock) (e : Nat) (f : TileRec → TileRec) (ts : List Nat) (m : Memory) : Memory :=
  ts.foldl (mapRec b e f) m

/-- Write some map bits. -/
def writeMapBits (b : GBlock) (e : Nat) (v : W32) (w : Nat) (ts : List Nat) (m : Memory) : Memory :=
  ts.foldl (fun m t => setMap m b e t (bit v (t - 32 * w))) m

/-- The tiles of map word w of a block. -/
def GBlock.tilesOf (b : GBlock) (w : Nat) : List Nat := ((List.range 32).map (32 * w + ·)).filter fun t => decide (t < b.tiles)

/-- The granules of a block that an operation reads: those of the map and of the records that it rewrites. -/
def GOp.reads (o : GOp) (b : GBlock) (e : Nat) : List Nat :=
  match o with
  | .sig _ t _ _ _ _ => [b.mapKey e (t / 8) / 64, b.recKey e t 0 / 64]
  | .mapW _ w _ => (b.mapKey e (4 * w) / 64) :: (b.tilesOf w).map fun t => b.recKey e t 0 / 64
  | .step _ => (List.range b.tiles).map fun t => b.recKey e t 0 / 64
  | .keep _ t _ => [b.recKey e t 0 / 64]
  | _ => []

/-- What an operation on a configured block does to memory and to the block. -/
def GOp.apply (o : GOp) (b : GBlock) (e : Nat) (m : Memory) : Memory × GBlock :=
  match o with
  | .sig _ t s0 s1 s2 s3 => (decideTile m b e t s0 s1 s2 s3, b)
  | .mapW _ w v =>
    let ts := b.tilesOf w
    (mapRecs b e (fun x => { x with decided := true }) ts (writeMapBits b e v w ts m), b)
  | .step _ =>
    (mapRecs b e (fun x => { x with decided := false }) (List.range b.tiles) m,
      { b with step := if b.step = BitVec.allOnes 32 then b.step else b.step + 1 })
  | .keep _ t data =>
    (mapRecs b e (fun x => { x with outValid := true }) [t] (m.writeGranules (b.outKey e t 0 / 64) data), b)
  | .cfg _ b2 =>
    (m.writeGranules (b2.mapKey e 0 / 64) (List.replicate (64 * (mapGranules b2.tiles + b2.tiles)) 0), b2)
  | .reuse _ _ => (m, b)

/-- The block of an operation. -/
def GOp.blk (o : GOp) : Fin 64 :=
  match o with
  | .sig k _ _ _ _ _ => k
  | .mapW k _ _ => k
  | .step k => k
  | .keep k _ _ => k
  | .cfg k _ => k
  | .reuse k _ => k

/-- The block that an operation finds: the configured one, or the one it configures. -/
def GOp.target (o : GOp) (g : Gauze) : Option GBlock :=
  match o with
  | .cfg _ b => some b
  | _ => g.blocks[o.blk]

/-- A command fault of Gauze: an integrity cause in the granules that it reads (R115, R418). That it verifies their check
values is the model's choice (log 139). -/
def State.gauzeFault (s : State) (c : Cause) : State :=
  ((s.updGz fun g => { g with ops := match g.ops with
    | x :: xs => { x with fault := some c } :: xs
    | [] => [] }).record 1 6 0xFF 0 0 ⟨c, 0, 0⟩ .gauze).softError c

/-- GAUZE_OP_COMPLETE: the oldest operation takes effect in the cycle in which it completes (R375). -/
def execGauzeOpComplete (s : State) : Host.Outcome State Fault Refusal :=
  match s.r.gz.ops with
  | [] => .next s
  | g :: _ =>
    if g.op.isReuse || g.fault.isSome || g.due = 0 || s.now < g.due then .next s
    else
      match g.op.target s.r.gz with
      | none => .next s.gauzeNext
      | some b =>
        match s.mem.readCause (g.op.reads b s.entry) with
        | some c => .next (s.gauzeFault c)
        | none =>
          let r := g.op.apply b s.entry s.mem
          .next (({ s with mem := r.1 }.updGz fun x => { x with
            blocks := x.blocks.set g.op.blk (some r.2) }).gauzeNext.move)

end Sys2Proof.Machine
end

