-- ==== Sys2Proof/Machine/QueueRun.lean ====
section
/-! DEFINITION. The command queue at work: starts, k-steps, stream copies, accumulations, drains and
finishes (R336 to R338, R342 to R364, R461). -/

namespace Sys2Proof.Machine

/-- Change one entry of the command queue. -/
def State.updQ (s : State) (id : Nat) (f : QEntry → QEntry) : State :=
  s.updR fun r => { r with mx := { r.mx with queue := r.mx.queue.map fun q => if q.id = id then f q else q } }

/-- Change the matrix unit's state. -/
def State.updMx (s : State) (f : Matrix → Matrix) : State := s.updR fun r => { r with mx := f r.mx }

/-- A command fault of the queue: the command stops at its boundary, and its record goes to the fault
queue (R338, R418). -/
def State.queueFault (s : State) (id : Nat) (t : Trap) : State :=
  match s.r.mx.queue.find? fun q => q.id == id with
  | none => s
  | some q =>
    let (n, s1) := s.draw
    (((s1.updQ id fun q => { q with fault := some t.cause }).record 1 5 0xFF q.pc (q.microPc (Config.openWord n))
      ⟨t.cause, 0, 0⟩ (.queue id)).softError t.cause)

/-- What a step of a queue command leads to. -/
def queueStep (s : State) (id : Nat) (r : Except Stop State) : Host.Outcome State Fault Refusal :=
  match r with
  | .ok s1 => .next s1.move
  | .error (.trap t) => .next (s.queueFault id t)
  | .error (.trapAt t s1) => .next (s1.queueFault id t)
  | .error (.blockClaim n g) => .next (s.dropFor n g)
  | .error _ => .next s

/-- The running command that a unit serves, if no fault stops it. -/
def runningQ (s : State) (p : QEntry → Bool) : Option QEntry :=
  s.r.mx.queue.find? fun q => q.started && !q.ran && q.fault.isNone && p q

/-! ### Starts (R336, R342, R347, R353) -/

/-- Weight-buffer bytes that a WLOAD writes: offset and length; to the end of the share where the
directory gives it. -/
def loadRange (share : Nat) (op : QOp) : Option (Fin 8 × SReg × Nat × Nat) :=
  match op with
  | .wload w st o enc _ ks nb => some (w, st, o, if enc = 1 then share - o else weightBytes enc ks nb)
  | _ => none

/-- The streams that a queue entry takes. -/
def QEntry.streams (q : QEntry) : List SReg :=
  match q.op with
  | .wload _ st _ _ _ _ _ => [st]
  | .wloadSc st _ _ => [st]
  | .dot _ st _ _ _ _ => [st]
  | .dots _ st _ _ _ _ _ _ _ _ => [st]
  | .jacc st _ => [st]
  | .jmerge a b => [a, b]
  | _ => []

/-- Whether an earlier command reads or writes what a WLOAD writes, or takes its stream (R336). -/
def loadMeets (r : Residency) (w : Fin 8) (st : SReg) (o n : Nat) (e : QEntry) : Bool :=
  let meets (o2 n2 : Nat) : Bool := decide (o < o2 + n2) && decide (o2 < o + n)
  e.streams.contains st ||
  (match e.tile, loadRange r.bind.wbuf e.op with
   | some t, _ => t.w == w || meets (r.mx.wdesc[t.w]).offset (r.mx.wdesc[t.w]).length
   | _, some (w2, _, o2, n2) => w2 == w || meets o2 n2
   | _, _ => false)

/-- The command that may start now: the next in order once those before it have finished; a WLOAD of
weights once those before it that it meets have (R336). None while a command fault is pending (R338), nor in the core
cycle in which it was issued (R26). -/
def nextStart (r : Residency) : Option QEntry :=
  if r.mx.queue.any fun q => q.fault.isSome then none
  else
    let before := r.mx.queue.takeWhile fun q => q.started
    match r.mx.queue.drop before.length with
    | [] => none
    | q :: _ =>
      if r.start.nextQ ≤ q.id then none
      else if before.isEmpty then some q
      else
        match loadRange r.bind.wbuf q.op with
        | some (w, st, o, n) => if before.any (loadMeets r w st o n) then none else some q
        | none => none

/-- Pop one word of the format queue; cause 0x50 while it is empty (R347). -/
def popFormat (s : State) : Except Stop (W32 × State) :=
  match s.r.fq with
  | w :: ws => if s.r.start.fq = 0 then raise 0x50 else .ok (w, s.updR fun r => { r with fq := ws })
  | [] => raise 0x50

/-- A command that has done all it does in the cycle it starts. -/
def State.ranQ (s : State) (id : Nat) : State := s.updQ id fun q => { q with started := true, ran := true }
/-- A command has started. -/
def State.startQ (s : State) (id : Nat) : State := s.updQ id fun q => { q with started := true }

/-- The operation without its hold tag, which the start has taken. -/
def QOp.untag : QOp → QOp
  | .dot w st ty mt b _ => .dot w st ty mt b 0
  | .dots w st ty mt b ta tb sa sb _ => .dots w st ty mt b ta tb sa sb 0
  | o => o

/-- The hold tag is taken and the stream's hold cleared (R353); the command waits while its counter was
zero at the start of the core cycle. -/
def takeTag (s : State) (q : QEntry) (t : TileCmd) : Except Stop State := do
  if t.tag = 0 then return s
  else
    let k : Fin 128 := Fin.ofNat 128 t.tag
    await (0 < s.r.start.follow[k])
    let s1 := (s.updR fun r => { r with
      follow := r.follow.set k (r.follow[k] - 1)
      start := { r.start with follow := r.start.follow.set k (r.start.follow[k] - 1) } }).updQ q.id
        fun q => { q with op := q.op.untag }
    return s1.updSt (s1.r.portOf t.st).1 fun r => if r.held then { r with fpend := false } else r

/-- The checks of a tile command's start: its A stream's element size, then R347's. -/
def startTile (s : State) (t : TileCmd) (fa : W32) : Except Stop Unit := do
  match tileCause s t fa with
  | some c => raise c
  | none => need (aSizeOk s t.st) 0x5F

/-- A trap of a computation is raised at a state that keeps its effects. -/
def trapIn {α : Type} (s : State) (r : Except Stop α) : Except Stop α :=
  match r with
  | .error (.trap t) => .error (.trapAt t s)
  | r => r

/-- A tile command starts (R347, R353). -/
def beginTile (s : State) (q : QEntry) (t : TileCmd) : Except Stop State := do
  let s1 ← takeTag s q t
  let (fa, s2) ← trapIn s1 (popFormat s1)
  let s3 := s2.updQ q.id fun q => { q with started := true, word := fa }
  if t.mt = 0 then return s3.ranQ q.id
  else
    trapIn s3 (startTile s3 t fa)
    return s3

/-- Records that the store of Damask holds. -/
def Damask.held (d : Damask) : Nat := d.store.length

/-- The scratch area of a J.DRAINO (R363). -/
def scratchOk (s : State) (c : JCfg) (o n : Nat) : Except Stop Unit := do
  need (o % 64 = 0 && o + n ≤ s.r.bind.banks * 131072) 0x35
  need ((if c.tile then 576 else 16) * s.r.dm.held ≤ n) 0x5C

/-- The sort passes leave the scratch area with bytes that the spec does not give (R363, log 6). -/
def scribble (s : State) (o n : Nat) : State :=
  let (k, s1) := s.draw
  { s1 with mem := s1.mem.write (keysFrom (spadKey s.entry o) n) ((List.range n).map fun i => Config.openByte k i) }

/-- A queue command starts. -/
def beginQ (s : State) (q : QEntry) : Except Stop State := do
  match q.op with
  | .wload w _ _ _ _ _ _ =>
    let (fw, s1) ← popFormat s
    return (s1.updMx fun m => { m with wdesc := m.wdesc.set w { m.wdesc[w] with valid := false } }).updQ q.id
      fun q => { q with started := true, word := fw }
  | .rnd md => return (s.updMx fun m => { m with mode := md }).ranQ q.id
  | .lfsr hi v => return (s.updMx fun m => { m with lfsr := if hi then m.lfsr else if v = 0 then 1 else v }).ranQ q.id
  | .jcfg c => return (s.updDm fun d => { d.cleared with cfg := some c }).ranQ q.id
  | .jclear => return (s.updDm Damask.cleared).ranQ q.id
  | .jdraino _ o n =>
    match s.r.dm.cfg with
    | none => raise 0x5A
    | some c =>
      scratchOk s c o n
      return (scribble s o n).updQ q.id fun q => { q with started := true, keys := [some s.free] }
  | _ =>
    match q.tile with
    | some t => beginTile s q t
    | none => return s.startQ q.id

/-! ### K-steps (R348, R351, R67) -/

/-- On to the next M-tile, or done. -/
def QEntry.nextTile (q : QEntry) (t : TileCmd) : QEntry :=
  if q.mt + 1 < t.mt then { q with mt := q.mt + 1, ks := 0, nb := 0, place := 0, atile := none, targets := [] }
  else { q with ran := true, atile := none, targets := [] }

/-- The micro-PC after a k-step: the next column block, the next tile of A, or the end of the M-tile with
its staging tiles to emit (R348). -/
def QEntry.advance (q : QEntry) (t : TileCmd) (d : WDesc) (a : List Byte) : QEntry :=
  if q.nb + 1 < d.nb then { q with nb := q.nb + 1, atile := some a }
  else if q.ks + 1 < d.ks then { q with ks := q.ks + 1, nb := 0, atile := none }
  else if q.targets.any fun x => x.place.isNone then { q with nb := 0, place := 1, atile := none }
  else q.nextTile t

/-- Emit the next staging tile of an M-tile (R348, R357). -/
def emitStaged (s : State) (q : QEntry) (t : TileCmd) (c : JCfg) : Except Stop State := do
  let rest := q.targets.drop q.nb
  let skip := (rest.takeWhile fun x => x.place.isSome).length
  match rest.drop skip with
  | [] => return s.updQ q.id fun q => q.nextTile t
  | x :: xs =>
    let s1 ← spill s c x.key x.vals
    return s1.updQ q.id fun q =>
      if xs.any fun y => y.place.isNone then { q with nb := q.nb + skip + 1 } else q.nextTile t

/-- The tile of A that a k-step uses: the held one, or the next of the operand stream (R349). -/
def nextA (s : State) (q : QEntry) (t : TileCmd) : Except Stop (List Byte × State) := do
  match q.atile with
  | some a => return (a, s)
  | none =>
    if q.mt = 0 ∧ q.ks = 0 then startTile s t q.word
    unitTake s t.st 1024 false

/-- The target of a k-step: found at the first k-step of its M-tile, and kept (R348, R351). -/
def stepTarget (s : State) (q : QEntry) (t : TileCmd) (c : JCfg) : Except Stop (Target × State) :=
  match q.targets[q.nb]? with
  | some x => .ok (x, s)
  | none => findTarget s c (t.key c q.mt q.nb (s.r.mx.wdesc[t.w]).nb)

/-- One k-step of a tile command (R348). -/
def kStep (s : State) (q : QEntry) (t : TileCmd) : Except Stop State := do
  match s.r.dm.cfg with
  | none => raise 0x5A
  | some c =>
    let d := s.r.mx.wdesc[t.w]
    let (a, s1) ← nextA s q t
    let held := s1.updQ q.id fun q => { q with atile := some a }
    match fetchPanel s1 d q.ks q.nb with
    | .error k => .error (.trapAt ⟨k, 0, 0⟩ held)
    | .ok b =>
      let (x, s2) ← trapIn held (stepTarget s1 q t c)
      let r := (stepIn s2 t q c a b).run (x.read s2 c) 0 s2.r.mx.lfsr
      let s3 := s2.updMx fun m => { m with lfsr := r.2 }
      let s4 := match x.place with
        | some p => s3.updDm fun dm => { dm with store := storeWrite c dm.store p x.key r.1 }
        | none => s3
      let y : Target := { x with vals := if x.place.isSome then [] else r.1 }
      return s4.updQ q.id fun q =>
        { q with targets := q.targets.take q.nb ++ y :: q.targets.drop (q.nb + 1) }.advance t d a

/-- The tile command that the residency in focus is at, where its staging tiles are due (`staged`) or a k-step is. -/
def tileAt (s : State) (staged : Bool) : Option (QEntry × TileCmd) :=
  match runningQ s fun q => q.tile.isSome with
  | none => none
  | some q =>
    match q.tile with
    | none => none
    | some t => if (q.place == 1) == staged then some (q, t) else none

/-- The tile command that the matrix unit is at work on in the residency in focus, and its next k-step. -/
def tileStep (s : State) : Option (QEntry × Except Stop State) :=
  (tileAt s false).map fun x => (x.1, kStep s x.1 x.2)

/-- The tile command whose staging tiles go to the spill stream, and the emission of the next: it is no k-step (R348). -/
def stagedStep (s : State) : Option (QEntry × Except Stop State) :=
  (tileAt s true).map fun x => (x.1, match s.r.dm.cfg with | none => raise 0x5A | some c => emitStaged s x.1 x.2 c)

/-- Whether a step of the queue waits. -/
def waits : Except Stop State → Bool
  | .error .block | .error (.blockAt _) | .error (.blockClaim _ _) => true
  | _ => false

/-- Whether the next command of the queue is a tile command whose hold tag has been released (R347, R353). -/
def tileStarts (s : State) : Bool :=
  match nextStart s.r with
  | none => false
  | some q => match q.tile with
    | some t => t.tag = 0 || decide (0 < s.r.start.follow[Fin.ofNat 128 t.tag])
    | none => false

/-- Whether the residency in focus has a ready tile command: one that can start, or take its next k-step (R67). -/
def tileReady (s : State) : Bool :=
  match tileStep s with
  | none => tileStarts s
  | some (_, r) => !waits r

/-- Whether a residency has a ready tile command: one that is saved, held or frozen takes no k-step (R67, R340, R434). -/
def tileWaits (s : State) (o : Residency) : Bool :=
  o.stage.installed && !s.frozen o.bind.part && tileReady (s.focusOn o.bind.e)

/-- A residency as the next core cycle finds it, with what the other of its core has for the matrix unit (R26, R67). -/
def besideTile (s : State) (r : Residency) : Residency :=
  match r.start.beside, s.all.find? fun o => coreOf o.bind.e == coreOf r.bind.e && o.bind.e != r.bind.e && o.stage != .free with
  | some b, some o => { r with start := { r.start with beside := some { b with tile := tileWaits s o } } }
  | _, _ => r

/-- The core's other residency, and what it had at the start of the core cycle (R26). -/
def State.besides (s : State) : Option (Residency × Beside) :=
  match s.sibling, s.r.start.beside with
  | some o, some b => some (o, b)
  | _, _ => none

/-- Whether the matrix unit would serve the residency in focus before the core's other one: of two that have ready commands
at the start of the core cycle it serves H, until L's age has reached the limit (R26, R67). -/
def arrayPrefers (s : State) : Bool :=
  match s.besides with
  | none => true
  | some (o, b) =>
    !b.tile || (if resOf s.entry = 0 then decide (b.age < o.bind.age) else decide (s.r.bind.age ≤ s.r.start.age))

/-- Whether the array can take a k-step in this core cycle: one at most, and after one of a command with a single
block of columns none in the next (R32, R67). -/
def arrayFree (s : State) : Bool :=
  decide (s.r.mx.freeAt ≤ s.now) &&
    (match s.sibling with | some o => s.frozen o.bind.part || decide (o.mx.freeAt ≤ s.clockOf o.bind.part) | none => true)

/-- The age of the residency L of a core is set (R67). -/
def setAge (s : State) (e n : Nat) : State := s.updAt e fun r => { r with mx := { r.mx with age := n } }

/-- L's age as the serving of the residency in focus leaves it: 0 where L itself is served, alone on its core or not (R67). -/
def agedBy (s : State) : State :=
  if resOf s.entry = 0 then
    match s.besides with
    | none => s
    | some (o, b) => setAge s o.bind.e (if b.tile then b.age + 1 else 0)
  else setAge s s.entry 0

/-- Core cycles that a k-step of the running tile command takes (R32). -/
def stepCycles (s : State) : Nat :=
  match tileStep s with
  | some (q, _) => match q.tile with
    | some t => if (s.r.mx.wdesc[t.w]).nb ≤ 1 then 2 else 1
    | none => 1
  | none => 1

/-- Whether the matrix unit serves the residency in focus, and the state with L's age and the array taken (R67). -/
def arrayServes (s : State) : Bool × State :=
  if arrayFree s && arrayPrefers s then
    (true, (agedBy s).updMx fun m => { m with freeAt := s.now + stepCycles s })
  else (false, s)

/-- COMMAND_START: the next command of the queue starts (R336); a tile command once the matrix unit serves the
residency (R347). -/
def execCommandStart (s : State) : Host.Outcome State Fault Refusal :=
  match nextStart s.r with
  | none => .next s
  | some q => if q.tile.isSome && !arrayPrefers s then .next s else queueStep s q.id (beginQ s q)

/-- What waits in the residency in focus: a spill under DROP_OLDEST frees what it may (R131), and L's age is 0 while it
has no ready command (R67). -/
def arrayIdles (s : State) : State :=
  (match tileStep s with
   | some (_, .error (.blockClaim n g)) => s.dropFor n g
   | _ => s).updMx fun m => { m with age := 0 }

/-- MATRIX_K_STEP: one k-step of the running tile command, when the unit serves the residency; or the emission of a
staging tile, which leaves the array to the other residency (R348, R67). -/
def execMatrixKStep (s : State) : Host.Outcome State Fault Refusal :=
  match stagedStep (arrayIdles s) with
  | some (q, r) => queueStep (arrayIdles s) q.id r
  | none =>
    if !tileReady s then .next (arrayIdles s)
    else
      match tileStep s, arrayServes s with
      | some _, (true, s1) =>
        (match tileStep s1 with
         | none => .next s1
         | some (q, r) => queueStep s1 q.id r)
      | _, _ => .next s

/-! ### Stream copies (R342, R343, R461) -/

/-- The length of a copy of the queue, where it is known: a bitmap-sparse region gives it in its
directory, which is checked as soon as it is whole (R343). -/
def copyLength (s : State) (q : QEntry) : Except Stop (Option Nat) := do
  match q.op with
  | .wloadSc _ _ len => return some len
  | .wload _ _ o enc _ ks nb =>
    if enc ≠ 1 then return some (weightBytes enc ks nb)
    else
      need (o + dirBytes ks nb ≤ s.r.bind.wbuf) 0x5C
      if q.done < dirBytes ks nb then return none
      else
        need (dirOk s o ks nb s.r.bind.wbuf) 0x5C
        return some (s.dirEntry o (ks * nb))
  | _ => return some 0

/-- Where byte 0 of a copy goes, its stream, and the bytes it surely takes. -/
def copyPlace (s : State) (q : QEntry) : Nat × SReg × Nat :=
  match q.op with
  | .wloadSc st o len => (smemKey s.entry o, st, len)
  | .wload _ st o enc _ ks nb =>
    (wbufKey s.entry o, st, if enc = 1 then dirBytes ks nb else weightBytes enc ks nb)
  | _ => (0, 0, 0)

/-- The directory whose last byte has just come bounds the bytes that are kept. -/
def keptBytes (s : State) (q : QEntry) (base : Nat) (bs : List Byte) : State × Nat :=
  match q.op with
  | .wload _ _ o enc _ ks nb =>
    if enc = 1 && q.done < dirBytes ks nb && dirBytes ks nb ≤ q.done + bs.length then
      let s1 := { s with mem := s.mem.fill (base + q.done) (bs.take (dirBytes ks nb - q.done)) }
      let len := max (dirBytes ks nb) (s1.dirEntry o (ks * nb))
      let n := min bs.length (min len (s.r.bind.wbuf - o) - q.done)
      ({ s with mem := s.mem.fill (base + q.done) (bs.take n) }, n)
    else ({ s with mem := s.mem.fill (base + q.done) bs }, bs.length)
  | _ => ({ s with mem := s.mem.fill (base + q.done) bs }, bs.length)

/-- One granule of WLOAD or WLOAD.SC: whole elements are taken, and the bytes of the last that follow the
copy are discarded (R342). -/
def copyStep (s : State) (q : QEntry) : Except Stop State := do
  let len ← copyLength s q
  let (base, st, sure) := copyPlace s q
  match len with
  | some n =>
    if n ≤ q.done then return s.ranQ q.id
    else
      let es := (s.streamStart (s.r.portOf st).1).esize
      let want := min (max 64 es) (alignUp (n - q.done) es)
      let (bs, s1) ← unitTake s st want false
      let k := min want (n - q.done)
      let s2 := { s1 with mem := s1.mem.fill (base + q.done) (bs.take k) }
      return s2.updQ q.id fun q => { q with done := q.done + k, ran := decide (n ≤ q.done + k) }
  | none =>
    let es := (s.streamStart (s.r.portOf st).1).esize
    let (bs, s1) ← unitTake s st (alignUp (min 64 (sure - q.done)) es) false
    let (s2, k) := keptBytes s1 q base bs
    return s2.updQ q.id fun q => { q with done := q.done + k }

/-- Whether an entry is a WLOAD or a WLOAD.SC. -/
def QEntry.isLoad (q : QEntry) : Bool :=
  match q.op with
  | .wload _ _ _ _ _ _ _ | .wloadSc _ _ _ => true
  | _ => false

/-- QUEUE_STREAM_COPY (R342, R461). -/
def execQueueStreamCopy (s : State) : Host.Outcome State Fault Refusal :=
  match runningQ s QEntry.isLoad with
  | none => .next s
  | some q => queueStep s q.id (copyStep s q)

/-! ### Accumulation (R360, R361) -/

/-- One item of J.ACC (R360). A stream that ends inside a tile record raises 0x25, also where the count is 0xC0, for which the
spec gives no cause (log 122). -/
def accStep (s : State) (q : QEntry) (c : JCfg) (st : SReg) (count : Option Nat) : Except Stop State := do
  let take : Except Stop State := do
    let (bs, s1) ← unitTake s st c.itemBytes false
    let (key, vals) ← itemOf c bs
    let s2 ← accValues s1 c key vals
    return s2.updQ q.id fun q => { q with done := q.done + 1, ran := count == some (q.done + 1) }
  match count with
  | some n => if n ≤ q.done then return s.ranQ q.id else take
  | none =>
    let over_ ← unitDone s st
    if over_ then return s.ranQ q.id else take

/-- One tuple of a vector result to 0xC3 (R360): entry q.done of 16. -/
def vecStep (s : State) (q : QEntry) (c : JCfg) (v : Lanes) (g : W64) : Except Stop State := do
  let t := q.done
  let s1 ← if t < 16 && laneOn g (4 * t + 2) then do
      let key ← tupleKey (lane v (4 * t)).toNat (lane v (4 * t + 1)).toNat
      accValues s c key [lane v (4 * t + 2)]
    else pure s
  return s1.updQ q.id fun q => { q with done := t + 1, ran := decide (16 ≤ t + 1) }

/-- The next tuple of an operand stream without taking it; none at the end of the stream. -/
def peekTuple (s : State) (st : SReg) : Except Stop (Option (List Byte)) := do
  let over_ ← unitDone s st
  if over_ then return none
  else
    let (bs, _) ← unitTake s st 16 true
    return some bs

/-- Take a tuple that has been looked at. -/
def dropTuple (s : State) (st : SReg) : Except Stop State := do
  let (_, s1) ← unitTake s st 16 false
  return s1

/-- The c0, c1 and value of a tuple. -/
def tuple (bs : List Byte) (i : Nat) : W32 := le32 bs (4 * i)

/-- Whether a key is below the last one of its stream (R361, cause 0x51). -/
def falls (last : Option Nat) (k : Nat) : Bool := match last with | some l => decide (k < l) | none => false

/-- Set or release the mark of B's head (R361). -/
def markB (s : State) (b : SReg) (on : Bool) : State :=
  let p := s.r.portOf b
  let at_ := s.headNow p
  s.release p.1 fun r => r.updHead p.2 fun h =>
    if on then { h with markValid := h.enabled, markCount := at_.count, markPos := at_.pos }
    else { h with markValid := false }

/-- The keys that a merge keeps: the last of A, the last of B, the current one (R361). -/
def QEntry.key3 (q : QEntry) : Option Nat × Option Nat × Option Nat :=
  (q.keys.getD 0 none, q.keys.getD 1 none, q.keys.getD 2 none)

/-- Outside a group: pop the lower side, or enter the group of an equal key; after one stream ends, pop and
check the rest of the other (R361). -/
def mergeOuter (s : State) (q : QEntry) (a b : SReg) : Except Stop State := do
  let (la, lb, _) := q.key3
  let set (s : State) (ks : List (Option Nat)) : State := s.updQ q.id fun q => { q with keys := ks, group := [], place := 0 }
  let ta ← peekTuple s a
  let tb ← peekTuple s b
  match ta, tb with
  | none, none => return s.ranQ q.id
  | some x, none =>
    let k := (tuple x 1).toNat
    need (!falls la k) 0x51
    return set (← dropTuple s a) [some k, lb, none]
  | none, some y =>
    let k := (tuple y 0).toNat
    need (!falls lb k) 0x51
    return set (← dropTuple s b) [la, some k, none]
  | some x, some y =>
    let ka := (tuple x 1).toNat
    let kb := (tuple y 0).toNat
    need (!falls la ka && !falls lb kb) 0x51
    if ka < kb then return set (← dropTuple s a) [some ka, lb, none]
    else if kb < ka then return set (← dropTuple s b) [la, some kb, none]
    else return (set (markB s b true) [la, lb, some ka])

/-- Inside a group whose B tuples are not all gathered: take the next one of the key; false when the group
is whole (R361). A B tuple behind the group that has a lower key raises 0x51 here, before the group's products are
accumulated: the spec does not say which comes first (log 123). -/
def mergeGather (s : State) (q : QEntry) (b : SReg) (k : Nat) : Except Stop (Option State) := do
  if q.done = 1 then return none
  else
    match ← peekTuple s b with
    | some y =>
      let kb := (tuple y 0).toNat
      need (!falls (q.key3).2.1 kb) 0x51
      if kb = k then
        let s1 ← dropTuple s b
        return some (s1.updQ q.id fun q =>
          { q with group := q.group ++ [y], keys := [(q.key3).1, some k, some k] })
      else return some (s.updQ q.id fun q => { q with done := 1 })
    | none => return some (s.updQ q.id fun q => { q with done := 1 })

/-- Inside a gathered group: one product of the A tuple with the next tuple of the group; then the A tuple
is popped; at an A tuple of another key the group ends (R361). The coordinates that make the accumulated key are checked,
and those that are only compared are not (log 137). -/
def mergeProduct (s : State) (q : QEntry) (c : JCfg) (a b : SReg) (k : Nat) : Except Stop State := do
  let leave (s : State) : State := (markB s b false).updQ q.id fun q =>
    { q with keys := [(q.key3).1, (q.key3).2.1, none], group := [], place := 0, done := 0 }
  match ← peekTuple s a with
  | none => return leave s
  | some x =>
    let ka := (tuple x 1).toNat
    need (!falls (q.key3).1 ka) 0x51
    if ka ≠ k then return leave s
    else
      match q.group[q.place]? with
      | some y =>
        let key ← tupleKey (tuple x 0).toNat (tuple y 1).toNat
        let s1 ← accProduct s c key (tuple x 2) (tuple y 2)
        return s1.updQ q.id fun q => { q with place := q.place + 1 }
      | none =>
        let s1 ← dropTuple s a
        return s1.updQ q.id fun q => { q with place := 0, keys := [some k, (q.key3).2.1, some k] }

/-- One step of J.MERGE (R361). -/
def mergeStep (s : State) (q : QEntry) (c : JCfg) (a b : SReg) : Except Stop State := do
  match (q.key3).2.2 with
  | none => mergeOuter s q a b
  | some k =>
    match ← mergeGather s q b k with
    | some s1 => return s1
    | none => mergeProduct s q c a b k

/-- One step of an accumulating command. A vector that E has brought in this core cycle waits for the next (R26). -/
def joinStep (s : State) (q : QEntry) : Except Stop State :=
  match s.r.dm.cfg, q.op with
  | some c, .jacc st n => accStep s q c st n
  | some c, .jvec (some v) g => do
    await (!s.r.start.arrived.contains q.id)
    vecStep s q c v g
  | some c, .jmerge a b => mergeStep s q c a b
  | none, _ => raise 0x5A
  | _, _ => .error .block

/-- Whether an entry accumulates. -/
def QEntry.isAcc (q : QEntry) : Bool :=
  match q.op with
  | .jacc _ _ | .jvec _ _ | .jmerge _ _ => true
  | _ => false

/-- DAMASK_ACCUMULATE (R356, R360, R361). -/
def execDamaskAccumulate (s : State) : Host.Outcome State Fault Refusal :=
  match runningQ s QEntry.isAcc with
  | none => .next s
  | some q => queueStep s q.id (joinStep s q)

/-! ### Drains (R362 to R364) -/

/-- Bytes of the drain queue (R364). -/
def drainSize : Nat := 1024

/-- A record goes to a drain's output; cause 0x20 where its stream has been closed (R362, R364). -/
def emit (s : State) (c : JCfg) (out : Option SReg) (bs : List Byte) : Except Stop State := do
  match out with
  | some n =>
    need (ringTakes s c n) 0x20
    unitPush s n bs
  | none =>
    await (max s.r.start.drainq s.r.dm.drainq.length + bs.length ≤ drainSize)
    return s.updDm fun d => { d with drainq := d.drainq ++ bs }

/-- The held entry of the least key. -/
def leastKey : List JEntry → Option JEntry
  | [] => none
  | e :: es =>
    match leastKey es with
    | none => some e
    | some x => if x.key < e.key then some x else some e

/-- The entry that a drain emits next: in index, bucket or key order (R362, R363). -/
def drainNext (s : State) (q : QEntry) (c : JCfg) : Option JEntry :=
  match q.op with
  | .jdrain _ start count =>
    if c.hash then s.r.dm.store.head?
    else if q.done < count then
      some ⟨start + q.done, start + q.done, storeRead c s.r.dm.store (start + q.done)⟩
    else none
  | .jdraino _ _ _ => leastKey s.r.dm.store
  | _ => none

/-- The output of a drain. -/
def QEntry.out (q : QEntry) : Option SReg :=
  match q.op with
  | .jdrain o _ _ => o
  | .jdraino o _ _ => o
  | _ => none

/-- Whether the scratch area of a J.DRAINO still holds what its passes left there. -/
def scratchHolds (s : State) (q : QEntry) (o n : Nat) : Bool :=
  match q.keys with
  | [some k] => s.mem.bytes (spadKey s.entry o) n == (List.range n).map fun i => Config.openByte k i
  | _ => false

/-- The record that a drain emits for an entry. A J.DRAINO reads its scratch area: a check value that disagrees is a
command fault; where another access has changed the area, key and values are well-formed ones that the spec leaves
open (R363, log 6). -/
def drainRecord (s : State) (q : QEntry) (c : JCfg) (e : JEntry) : Except Stop (List Byte × State) :=
  match q.op with
  | .jdraino _ o n =>
    match s.mem.readCause (granulesOf (keysFrom (spadKey s.entry o) n)) with
    | some k => raise k
    | none =>
      if scratchHolds s q o n then .ok (c.record e.key e.vals, s)
      else
        let (k, s1) := s.draw
        let vals := wordsOf ((List.range (4 * c.width)).map fun i => Config.openByte k i) c.width
        .ok (c.record ((Config.openWord k).toNat % (2 ^ 48 - 1)) vals, s1)
  | _ => .ok (c.record e.key e.vals, s)

/-- One entry of a drain: its record is emitted and the entry emptied. -/
def drainStep (s : State) (q : QEntry) : Except Stop State := do
  match s.r.dm.cfg with
  | none => raise 0x5A
  | some c =>
    match drainNext s q c with
    | none => return s.ranQ q.id
    | some e =>
      let (bs, s0) ← drainRecord s q c e
      let s1 ← emit s0 c q.out bs
      return (s1.updDm fun d => { d with store := storeDrop d.store e.place }).updQ q.id
        fun q => { q with done := q.done + 1 }

/-- Whether an entry is a drain. -/
def QEntry.isDrain (q : QEntry) : Bool :=
  match q.op with
  | .jdrain _ _ _ | .jdraino _ _ _ => true
  | _ => false

/-- DAMASK_DRAIN_ENTRY (R362, R363). -/
def execDamaskDrainEntry (s : State) : Host.Outcome State Fault Refusal :=
  match runningQ s QEntry.isDrain with
  | none => .next s
  | some q => queueStep s q.id (drainStep s q)

/-! ### Finishes (R336, R342) -/

/-- What the finish of a command makes: a WLOAD's descriptor becomes valid (R341, R342). -/
def finishQ (s : State) (q : QEntry) : State :=
  match q.op with
  | .wload w _ o enc ty ks nb =>
    let len := if enc = 1 then s.dirEntry o (ks * nb) else weightBytes enc ks nb
    s.updMx fun m => { m with wdesc := m.wdesc.set w ⟨true, true, o, len, enc, ty, q.word, ks, nb⟩ }
  | _ => s

/-- COMMAND_FINISH: a command that has done everything leaves the queue (R336); what completes with it
completes (R37). -/
def execCommandFinish (s : State) : Host.Outcome State Fault Refusal :=
  match s.r.mx.queue.find? fun q => q.ran && q.fault.isNone with
  | none => .next s
  | some q =>
    let s1 := finishQ s q
    .next ((s1.updMx fun m => { m with queue := m.queue.filter fun x => x.id != q.id }).move).settle

end Sys2Proof.Machine
end

