-- ==== Sys2Proof/Machine/ApSystem.lean ====
section
/-! DEFINITION. Control registers, queues, alarms and the system group of the access processor
(R219, R243 to R251). -/

namespace Sys2Proof.Machine

/-- CSR.R (R219). -/
def execCsrR (g : Guard) (d : AReg) (n : BitVec 11) (s : State) : Host.Outcome State Fault Refusal :=
  apIssue (.csrR g d n) g s fun s =>
    match apCsr s (s.ctx s.ap) n.toNat with
    | none => raise 0x09
    | some v => .ok (s.setA d v, .next)

/-- CSR.W (R219). -/
def execCsrW (g : Guard) (a : AReg) (n : BitVec 11) (s : State) : Host.Outcome State Fault Refusal :=
  apIssue (.csrW g a n) g s fun s =>
    match apCsr s (s.ctx s.ap) n.toNat with
    | none => raise 0x09
    | some _ => .ok (writeShared s n.toNat (s.areg a), .next)

/-- XQ.PUSH: blocks while xq was full at the start of the cycle (R243, R26). -/
def execXqPush (g : Guard) (a : AReg) (s : State) : Host.Outcome State Fault Refusal :=
  apIssue (.xqPush g a) g s fun s => do
    await (max s.r.start.xq s.r.xq.length < 32)
    return (s.updR fun r => { r with xq := r.xq ++ [s.areg a] }, .next)

/-- YQ.POP: blocks while yq was empty at the start of the cycle (R243, R26). -/
def execYqPop (g : Guard) (d : AReg) (s : State) : Host.Outcome State Fault Refusal :=
  apIssue (.yqPop g d) g s fun s =>
    match s.r.yq with
    | [] => .error .block
    | v :: vs =>
      if s.r.start.yq = 0 then .error .block
      else .ok ((s.updR fun r => { r with yq := vs }).setA d v, .next)

/-- HALT: the context issues nothing further; its PC is past the HALT and its loop stack as it stands
(R248, R233; log 17). What completes with it completes (R37, R38, R66, R169). -/
def execHalt (g : Guard) (s : State) : Host.Outcome State Fault Refusal :=
  match apIssue (.halt g) g s fun s =>
      .ok (s.updCtx s.ap fun c => { c with status := .halted, pc := c.pc + 4 }, .set) with
  | .next t => .next (if s.apred g && (t.ctx t.ap).status == .halted then t.settle.checkDeadlock else t)
  | o => o

/-- YIELD: the residency's yield flag (R249). -/
def execYield (g : Guard) (s : State) : Host.Outcome State Fault Refusal :=
  apPure (.yield g) g s fun s => s.updR fun r => { r with watch := { r.watch with yield := true } }

/-- TRAP n: cause 0x70 + n; the TRAP counts as completed (R250). -/
def execTrap (g : Guard) (n : Fin 8) (s : State) : Host.Outcome State Fault Refusal :=
  apIssue (.trap g n) g s fun s =>
    .error (.trapAt ⟨0x70 + BitVec.ofNat 8 n.val, 0, 0⟩ (s.updCtx s.ap fun c => { c with ainst := c.ainst + 1 }))

/-- TRACE.MARK (R251, R436). -/
def execTraceMark (g : Guard) (a : AReg) (t : BitVec 11) (s : State) : Host.Outcome State Fault Refusal :=
  apPure (.traceMark g a t) g s fun s =>
    if s.tracing 3 (ctxNo s.ap) then
      traceWrite s (traceRecord 4 (ctxNo s.ap) t.toNat s.apc (s.areg a))
    else s

/-! ### Alarms (R244 to R246) -/

/-- The 32 bytes of an alarm record (R245). -/
def alarmRecord (s : State) (tick code : W64) (pins : BitVec 8) (set : Bool) (seq : W32) : List Byte :=
  let fr := s.launch.frames
  leBytes 8 tick.toNat ++ leBytes 8 code.toNat ++
    leBytes 8 (if s.r.bind.frame && fr.begun then fr.num else 0) ++ leBytes 2 s.r.bind.lcore ++
    leBytes 1 pins.toNat ++ leBytes 1 (if set then 0 else 1) ++ leBytes 4 seq.toNat

/-- The key of record i of a ring of records of n bytes: base in bits [51:7], log of the size in [3:0]
(R396, R449). -/
def ringKey (base : W64) (n i : Nat) : Nat := bits base 51 7 * 128 + n * (i % 2 ^ bits base 3 0)

/-- Entries of a queue or ring: 2^k; 0 while it is disabled (R396, R449). A k of 13 to 15, which R396 does not list, counts as any
other (log 132). -/
def ringSize (base : W64) : Nat := if bits base 3 0 = 0 then 0 else 2 ^ bits base 3 0

/-- Entries of n bytes of a queue or ring of a partition: none where its base lies neither in HBM inside the partition's
ranges nor in host memory (R394, R396, R449, log 93). -/
def Partition.ring (p : Partition) (base : W64) (n : Nat) : Nat :=
  let k := bits base 51 7 * 128
  let fits := match storeOf k with
    | .hbm => inRanges p.ranges k (n * ringSize base)
    | .host => true
    | _ => false
  if fits then ringSize base else 0

/-- Whether the alarm ring of a partition is disabled, or full: tail − head equals 2^k (R449). -/
def Partition.alarmsFull (p : Partition) : Bool :=
  p.ring p.ar.base 32 = 0 || (p.ar.tail - p.ar.head).toNat = p.ring p.ar.base 32

/-- ALARM.SET and ALARM.CLR (R244 to R246): a partition owns 8 of the 64 pending changes (R395). The
record's granule is verified as every partial write is (R114). -/
def alarm (s : State) (f : RR) (pins : BitVec 8) (set : Bool) : Except Stop (State × Flow) := do
  let p := s.part
  need (pins &&& ~~~p.pins == 0) 0x6A
  let t := if (s.areg f.a).toNat ≤ s.tick.toNat then s.tick + 1 else s.areg f.a
  await (!p.alarmsFull)
  await ((s.pkg.pinQueue.filter fun c => c.part == s.r.bind.part).length < 8)
  let k := ringKey p.ar.base 32 p.ar.tail.toNat
  await (!regionWaits s k)
  let ks := keysFrom k 32
  match s.mem.readCause (partialOf (checkable ks)) with
  | some c => raise c
  | none =>
    let s1 := s.devWrite k (alarmRecord s t (s.areg f.d) pins set (p.alarmSeq + 1))
    let s2 := s1.updPart s1.r.bind.part fun p =>
      { p with alarmSeq := p.alarmSeq + 1, ar := { p.ar with tail := p.ar.tail + 1 } }
    return (if pins = 0 then s2
      else { s2 with pkg := { s2.pkg with pinQueue := s2.pkg.pinQueue ++ [⟨t, pins, set, s2.r.bind.part⟩] } },
      .next)

/-- ALARM.SET (R244): a the tick register, d the code register. -/
def execAlarmSet (f : RR) (p : BitVec 8) (s : State) : Host.Outcome State Fault Refusal :=
  apIssue (.alarmSet f p) f.g s fun s => alarm s f p true
/-- ALARM.CLR (R244). -/
def execAlarmClr (f : RR) (p : BitVec 8) (s : State) : Host.Outcome State Fault Refusal :=
  apIssue (.alarmClr f p) f.g s fun s => alarm s f p false

end Sys2Proof.Machine
end

