-- ==== Sys2Proof/Machine/ApTask.lean ====
section
/-! DEFINITION. Tasks, futures and the timetable (R51 to R66, R288 to R295). -/

namespace Sys2Proof.Machine

/-! ### Task records and their deques (R56, R59 to R62) -/

/-- A task record from its 64 bytes (R56). -/
def taskOfBytes (f : List Byte) : TaskRec :=
  ⟨le32 f 0, le16 f 4, le64 f 8,
    #v[le64 f 16, le64 f 24, le64 f 32, le64 f 40, le64 f 48, le64 f 56]⟩

/-- The 64 bytes of a task record (R56). -/
def TaskRec.bytes (t : TaskRec) : List Byte :=
  leBytes 4 t.entry.toNat ++ leBytes 2 t.dep ++ [0, 0] ++ leBytes 8 t.affinity.toNat ++
    t.args.toList.flatMap fun a => leBytes 8 a.toNat

/-- The logical core whose deque a record enters first; c is the spawning core (R59). -/
def placeOf (s : State) (x : W64) (c : Nat) : Nat :=
  let l := s.launch
  match bits x 63 56 with
  | 0x00 =>
    match translate s.mem s.pkg (coreOf s.entry) s.r.bind.part x true false with
    | .error _ => c
    | .ok (k, _) =>
      if storeOf k == .hbm then
        match channelOf s.pkg k with
        | some ch => l.affinity.getD ch c
        | none => c
      else c
  | 0xFD =>
    if bits x 55 48 ≠ 0 || bits x 31 22 ≠ 0 || l.n ≤ bits x 47 32 then c else bits x 47 32
  | _ => c

/-- The residencies of the launch in focus whose deques may be reached: a saved one's may not (R61). -/
def Residency.hasDeque (r : Residency) (launch : W32) : Bool :=
  r.bind.launch == launch && (r.stage == .loading || r.stage == .loaded || r.stage == .running || r.stage == .done)

/-- The residency of logical core c of the launch in focus, if its deque may be reached. -/
def State.dequeOf (s : State) (c : Nat) : Option Residency :=
  s.all.find? fun r => r.hasDeque s.r.bind.launch && r.bind.lcore == c

/-- Records a deque and an overflow queue hold (R59, R60). -/
def dequeSize : Nat := 256
/-- Records an overflow queue holds. -/
def ovfSize : Nat := 4096

/-- The overflow queue of a die of the launch in focus. -/
def Launch.ovf (l : Launch) (die : Nat) : Nat := (if die = 0 then l.ovf0 else l.ovf1).toNat

/-- Records an overflow queue holds now: added minus taken (R60). -/
def ovfCount (m : Memory) (k : Nat) : Nat := (m.word64 k - m.word64 (k + 8)).toNat

/-- The die that holds logical core c; die 0 while it is bound nowhere. -/
def dieOfCore (s : State) (c : Nat) : Nat :=
  match s.all.find? fun r => r.bind.launch == s.r.bind.launch && r.bind.lcore == c && r.stage != .free with
  | some r => dieOf r.bind.e
  | none => 0

/-- Records spawned in this core cycle for core c. -/
def Launch.spawnedTo (l : Launch) (c : Nat) : Nat := (l.spawned.filter fun p => p.core == c).length

/-- Held records of a die. -/
def Launch.held (l : Launch) (die : Nat) : List TaskRec := if die = 0 then l.held0 else l.held1

/-- Records of this core cycle that will overflow to a die's queue. -/
def pendingOverflow (s : State) (die : Nat) : Nat :=
  ((List.range s.launch.n).map fun c =>
    if dieOfCore s c = die then
      match s.dequeOf c with
      | some r => s.launch.spawnedTo c - (dequeSize - r.deque.length)
      | none => s.launch.spawnedTo c
    else 0).sum

/-- Whether a record for core c finds room in its deque or in the overflow queue of its die, whatever else the core
cycle takes from them; held records and the spawns of lower-numbered cores come before it (R59, R65). -/
def hasRoom (s : State) (c : Nat) : Bool :=
  let inDeque := match s.dequeOf c with
    | some r => decide (r.deque.length + s.launch.spawnedTo c < dequeSize)
    | none => false
  let die := dieOfCore s c
  inDeque || decide (ovfCount s.mem (s.launch.ovf die) + (s.launch.held die).length + pendingOverflow s die < ovfSize)

/-- Add a record at the tail of an overflow queue (R60). -/
def ovfAdd (s : State) (k : Nat) (t : TaskRec) : State :=
  let n := s.mem.word64 k
  (s.devWrite (k + 64 + 64 * (n.toNat % ovfSize)) t.bytes).devWrite k (leBytes 8 (n + 1).toNat)

/-- Take the oldest record of an overflow queue (R60). -/
def ovfTake (s : State) (k : Nat) : TaskRec × State :=
  let n := s.mem.word64 (k + 8)
  (taskOfBytes (s.mem.bytes (k + 64 + 64 * (n.toNat % ovfSize)) 64),
    s.devWrite (k + 8) (leBytes 8 (n + 1).toNat))

/-- A record enters a deque at its owner end. -/
def State.pushDeque (s : State) (e : Nat) (t : TaskRec) : State :=
  s.updAt e fun r => { r with deque := t :: r.deque }

/-- A record reaches the deque of core c or the overflow queue of its die; none where both are full (R59). The spec does not say
where a record goes whose core's residency is being saved, saved or held: it goes to the overflow queue (log 25). -/
def State.enqueue (s : State) (c : Nat) (t : TaskRec) : Option State :=
  let k := s.launch.ovf (dieOfCore s c)
  let past : Option State := if ovfCount s.mem k < ovfSize then some (ovfAdd s k t) else none
  match s.dequeOf c with
  | some r => if r.deque.length < dequeSize then some (s.pushDeque r.bind.e t) else past
  | none => past

/-- A record is held for the overflow queue of core c's die (R65). -/
def State.hold (s : State) (c : Nat) (t : TaskRec) : State :=
  let die := dieOfCore s c
  s.updMine fun l => if die = 0 then { l with held0 := l.held0 ++ [t] } else { l with held1 := l.held1 ++ [t] }

/-- The residencies of a die in the order in which core c steals: ascending from c + 1, wrapping (R61). -/
def victims (s : State) (die c : Nat) : List Residency :=
  let n := s.launch.n
  (List.range n).filterMap fun i =>
    let v := (c + 1 + i) % n
    if v = c then none
    else
      match s.dequeOf v with
      | some r => if dieOf r.bind.e = die then some r else none
      | none => none

/-- Steal the oldest record of the first non-empty deque among some residencies. -/
def stealFrom (s : State) : List Residency → Option (TaskRec × State)
  | [] => none
  | r :: rs =>
    match r.deque.getLast? with
    | none => stealFrom s rs
    | some t => some (t, s.updAt r.bind.e fun r => { r with deque := r.deque.dropLast })

/-- Steal from a die's deques, then from its overflow queue. -/
def stealDie (s : State) (die c : Nat) : Option (TaskRec × State) :=
  match stealFrom s (victims s die c) with
  | some p => some p
  | none =>
    let k := s.launch.ovf die
    if ovfCount s.mem k = 0 then none else some (ovfTake s k)

/-- What TASK.NEXT steals where its own deque is empty, by the first rule of R61 that applies. -/
def stealTask (s : State) : Option (TaskRec × State) :=
  let die := dieOf s.entry
  match stealDie s die s.r.bind.lcore with
  | some p => some p
  | none => stealDie s (1 - die) s.r.bind.lcore

/-! ### TASK (R289 to R291) -/

/-- A task instruction in the wrong mode or context (R57). -/
def taskMode (s : State) : Except Stop Unit := need (!s.r.bind.frame) 0x62

/-- TASK.SPAWN (R289, R59): placed at the end of the core cycle (R62), which alone can tell whether there is room where
the start of the cycle shows none. -/
def execTaskSpawn (g : Guard) (a : AReg) (s : State) : Host.Outcome State Fault Refusal :=
  apIssue (.taskSpawn g a) g s fun s => do
    taskMode s
    let x := s.areg a
    need (x.toNat % 64 = 0) 0x55
    let (ks, s1) ← resolve s x 64 true false
    need (!(ks.any fun k => storeOf k == .peer)) 0x44
    match s1.mem.readCause (granulesOf (checkable ks)) with
    | some c => raise c
    | none =>
      let t := { taskOfBytes (s1.mem.gather ks) with dep := 0 }
      let c := placeOf s1 t.affinity s1.r.bind.lcore
      if hasRoom s1 c then
        return (s1.updMine fun l =>
          { l with spawned := l.spawned ++ [⟨c, t, none⟩], outstanding := l.outstanding + 1 }, .next)
      else .error (.defer (s1.updMine fun l => { l with spawned := l.spawned ++ [⟨c, t, some (s1.entry, s1.ap)⟩] }))

/-- Set a1 to a7 from a record: its affinity and its arguments (R57). -/
def ApCtx.loadTask (c : ApCtx) (t : TaskRec) : ApCtx :=
  { c with
    loops := []
    a := ((((((c.a.set 1 t.affinity).set 2 t.args[0]).set 3 t.args[1]).set 4 t.args[2]).set 5
      t.args[3]).set 6 t.args[4]).set 7 t.args[5] }

/-- F takes a record: registers, task state and snapshot (R290). -/
def enterTask (s : State) (t : TaskRec) : State :=
  let pc := s.r.f.pc
  s.updR fun r =>
    let f := r.f.loadTask t
    { r with f := f, task := ⟨true, pc, false, t, ⟨f.a, f.q, f.loops⟩⟩ }

/-- TASK.NEXT goes on at a record it has taken; one whose entry is not valid is consumed and raises 0x62 (R57). -/
def takeRecord (s : State) (t : TaskRec) : Except Stop (State × Flow) :=
  let s1 := enterTask s t
  if t.entry.toNat % 4 ≠ 0 || s1.r.bind.fetchSize ≤ t.entry.toNat then
    .error (.trapAt ⟨0x62, 0, 0⟩ ((s1.updR fun r => { r with task := { r.task with inTask := false } }).updMine
      fun l => { l with outstanding := l.outstanding - 1 }))
  else .ok (s1, .call t.entry.toNat)

/-- TASK.NEXT: falls through when no task remains; pops its own deque; where that is empty it steals at the end of the
core cycle, or is blocked (R290, R57, R61, R62). -/
def execTaskNext (g : Guard) (s : State) : Host.Outcome State Fault Refusal :=
  apIssue (.taskNext g) g s fun s => do
    taskMode s
    need (s.ap == .f) 0x62
    if s.launch.outStart = 0 then return (s, .next)
    else
      match s.r.deque with
      | t :: ts => takeRecord (s.updR fun r => { r with deque := ts }) t
      | [] => .error (.defer (s.updMine fun l => { l with thieves := l.thieves ++ [s.entry] }))

/-- TASK.DONE (R291). -/
def execTaskDone (g : Guard) (s : State) : Host.Outcome State Fault Refusal :=
  apIssue (.taskDone g) g s fun s => do
    taskMode s
    need (s.ap == .f && s.r.task.inTask) 0x62
    return ((s.updR fun r => { r with task := { r.task with inTask := false } }).updMine
        fun l => { l with outstanding := l.outstanding - 1 },
      .call s.r.task.dispatch.toNat)

/-! ### FUT (R292 to R294) -/

/-- The future of a share offset of a logical core: the same wherever that core is bound (R18, R433). -/
def futureId (c o : Nat) : Nat := c * 2 ^ 22 + o

/-- A future address: scratchpad, local or remote, a multiple of 64 (R292), checked under R105. Its key in memory, and
the future it names. -/
def futureKey (s : State) (x : W64) : Except Stop (Nat × Nat) := do
  need ((bits x 63 56 = 0xFE || bits x 63 56 = 0xFD) && x.toNat % 64 = 0) 0x6B
  match formCheck s x 64 with
  | .error e => .error e
  | .ok (.spad e o) => return (spadKey e o, futureId (if e = s.entry then s.r.bind.lcore else bits x 47 32) o)
  | .ok (.virt _) => raise 0x6B

/-- Whether a future was full at the start of the core cycle (R26, R65). -/
def futureFull (s : State) (k id : Nat) : Bool :=
  s.mem.isFull (k / 64) && !(s.launch.filled.any fun p => p.1 == id)

/-- The task is squashed: registers and loop stack as at its entry, its record parked on the future with
its dep one higher (R65, R293). -/
def squash (s : State) (k : Nat) : State :=
  let t := s.r.task
  (s.updR fun r => { r with
    f := { r.f with a := t.snapshot.a, q := t.snapshot.q, loops := t.snapshot.loops }
    task := { t with inTask := false } }).updMine
    fun l => { l with parked := l.parked ++ [(k, { t.record with dep := t.record.dep + 1 })] }

/-- FUT.READ (R293). -/
def execFutRead (f : RR) (w : Fin 8) (s : State) : Host.Outcome State Fault Refusal :=
  apIssue (.futRead f w) f.g s fun s => do
    taskMode s
    let (k, id) ← futureKey s (s.areg f.a)
    let inTask := s.ap == .f && s.r.task.inTask
    need (!(inTask && s.r.task.sideEffect)) 0x64
    if futureFull s k id then
      match s.mem.readCause [k / 64] with
      | some c => raise c
      | none => return (s.setA f.d (s.mem.word64 (k + 8 * w.val)), .next)
    else if inTask then return (squash s id, .call s.r.task.dispatch.toNat)
    else .error .block

/-- A future has been filled in this core cycle: each record parked on it has its dep lowered, and those that reach
zero are to be re-enqueued, in parking order (R65, R294). -/
def unpark (s : State) (id : Nat) : List TaskRec × State :=
  let step (p : Nat × TaskRec) : Nat × TaskRec := if p.1 = id then (p.1, { p.2 with dep := p.2.dep - 1 }) else p
  let goes (p : Nat × TaskRec) : Bool := p.1 == id && p.2.dep == 0
  let ps := s.launch.parked.map step
  ((ps.filter goes).map fun p => p.2, s.updMine fun l => { l with parked := ps.filter fun p => !goes p })

/-- The core to which a re-enqueued record goes: the one that R59 chooses from its affinity, the core that executed the
FUT.FILL standing for the spawning core (R65, log 88). -/
def placeRefilled (s : State) (t : TaskRec) (filler : Nat) : Nat := placeOf s t.affinity filler

/-- FUT.FILL: d holds the source, a the future (R292, R294); what is parked on it goes at the end of the core cycle
(R62, R65). A source of the local form outside the share, or with bits [55:22] set, is no local scratchpad offset: this
model takes R292's 0x6B for it, not R105's causes (log 27). -/
def execFutFill (f : RR) (s : State) : Host.Outcome State Fault Refusal :=
  apIssue (.futFill f) f.g s fun s => do
    let (k, id) ← futureKey s (s.areg f.a)
    match localOffset s (s.areg f.d) 64 with
    | none => raise 0x6B
    | some o =>
      need (o % 64 = 0) 0x6B
      let src := spadKey s.entry o / 64
      need (!s.mem.isFull (k / 64)) 0x66
      need (!s.mem.isBad src) 0x41
      let m := (s.mem.writeGranule (k / 64) (s.mem.granule src) (s.mem.chkOf src)).setFull (k / 64) true
      return ({ s with mem := m }.updMine fun l => { l with filled := l.filled ++ [(id, s.r.bind.lcore)] }, .next)

/-! ### The timetable (R49 to R53, R295) -/

/-- The block of the launch's timetable that the issuing core runs; causes 0x62 and 0x63 (R51). -/
def ttBlock (s : State) (b : Nat) : Except Stop Block := do
  need s.r.bind.frame 0x62
  match s.launch.frames.blocks[b]? with
  | none => raise 0x63
  | some x =>
    need (x.core = s.r.bind.lcore) 0x63
    return x

/-- Change one block of the launch's timetable. -/
def State.updBlock (s : State) (b : Nat) (f : Block → Block) : State :=
  s.updMine fun l => { l with frames := { l.frames with
    blocks := l.frames.blocks.mapIdx fun i x => if i = b then f x else x } }

/-- TT.WAIT (R51, R295). -/
def execTtWait (g : Guard) (b : BitVec 10) (s : State) : Host.Outcome State Fault Refusal :=
  apIssue (.ttWait g b) g s fun s => do
    let x ← ttBlock s b.toNat
    need (!x.waited) 0x63
    await x.released
    return (s.updBlock b.toNat fun x => { x with waited := true }, .next)

/-- The 16 bytes of a slip record (R53). -/
def slipRecord (frame b core late : Nat) : List Byte :=
  leBytes 8 frame ++ leBytes 2 b ++ leBytes 2 core ++ leBytes 4 (min late 0xFFFFFFFF)

/-- A slip record is written from the core of entry e with a release of the completion object, or discarded where its
write meets a fault; none while a region table keeps it waiting (R53, R409). -/
def slipWrite (s : State) (e : Nat) (at_ : W64) (f : List Byte) : Option State :=
  let u := s.updR fun r => { r with bind := { r.bind with e := e } }
  match translateSpan u at_ 16 false true with
  | .error .block => none
  | .error _ => some s
  | .ok (ks, t) =>
    if (t.mem.readCause (partialOf (checkable ks))).isSome then some s
    else some ({ t with r := s.r, mem := t.mem.write ks f }.bump s.launch.compl.toNat)

/-- The slip records of the launch in focus that wait are written, oldest first, as far as they can be. -/
def writeSlips (s : State) : List SlipDue → State
  | [] => s.updMine fun l => { l with slipsDue := [] }
  | x :: l =>
    match slipWrite s x.entry x.addr x.bytes with
    | some s1 => writeSlips s1 l
    | none => s.updMine fun y => { y with slipsDue := x :: l }

/-- SLIP: the record is written, after those that wait; fslip rises; the event is posted (R52, R53, log 64). The spec does
not say whether a record that is discarded uses up an index: the index of this model is fslip, which rises for such a record
too, so that its place in the ring stays as it was (log 102). -/
def slip (s : State) (b : Nat) (x : Block) (deadline : Nat) : State :=
  let l := s.launch
  let at_ := l.slog + BitVec.ofNat 64 (16 * (l.frames.slips.toNat % 256))
  let s1 := writeSlips s (l.slipsDue ++ [⟨s.entry, x.core, at_, slipRecord x.frame b x.core (s.tick.toNat - deadline)⟩])
  (s1.updMine fun l => { l with frames := { l.frames with slips := l.frames.slips + 1 } }).event
    (match s.ap with | .f => 0 | .d => 1) 2 (BitVec.ofNat 64 x.frame)

/-- TT.DONE (R51, R52, R295). -/
def execTtDone (g : Guard) (b : BitVec 10) (s : State) : Host.Outcome State Fault Refusal :=
  apIssue (.ttDone g b) g s fun s => do
    let x ← ttBlock s b.toNat
    need x.waited 0x63
    let deadline := s.launch.frames.base + x.deadline
    let s1 := if deadline < s.tick.toNat then slip s b.toNat x deadline else s
    let s2 := s1.updBlock b.toNat fun x => { x with frame := x.frame + 1, waited := false, released := false }
    return (s2.updMine fun l => { l with frames := { l.frames with last := s.tick.toNat } }, .next)

end Sys2Proof.Machine
end

