-- ==== Sys2Proof/Machine/EpControl.lean ====
section
/-! DEFINITION. Allotment, spill, control and control registers of context E (R302, R303, R321 to R333). -/

namespace Sys2Proof.Machine

/-! ### Allotment and spill (R302, R303) -/

/-- A register count of VALLOT and VSHRINK (R302). -/
def allotOk (n : Nat) : Bool := n % 8 = 0 && 8 ≤ n && n ≤ 64

/-- Registers that no residency of the core holds (R302), and that none held at the start of the core cycle (R26). -/
def State.freeRegs (s : State) : Nat :=
  64 - s.r.ep.vregs -
    max (match s.sibling with | some o => o.ep.vregs | none => 0) (match s.r.start.beside with | some b => b.vregs | none => 0)

/-- The allotment shrinks to n: results in flight to the released registers are discarded (R302). -/
def EpCtx.shrink (e : EpCtx) (n : Nat) : EpCtx :=
  { e with
    vregs := n
    inflight := e.inflight.filter fun x => match x.dest with | .vreg k => decide (k.val < n) | _ => true }

/-- The allotment grows to n, the new registers zero (R302). -/
def EpCtx.grow (e : EpCtx) (n : Nat) : EpCtx :=
  { e with
    vregs := n
    v := Vector.ofFn fun i => if e.vregs ≤ i.val ∧ i.val < n then Lanes.fill 0 else e.v[i] }

/-- VALLOT (R302). -/
def execVallot (f : EF) (s : State) : Host.Outcome State Fault Refusal :=
  eAct (.vallot f) s fun s => do
    let n := f.x.toNat
    need (allotOk n) 0x15
    if n < s.r.ep.vregs then return s.updE fun e => e.shrink n
    else if n = s.r.ep.vregs then return s
    else
      await (n - s.r.ep.vregs ≤ s.freeRegs)
      return s.updE fun e => e.grow n

/-- VSHRINK (R302). -/
def execVshrink (f : EF) (s : State) : Host.Outcome State Fault Refusal :=
  eAct (.vshrink f) s fun s => do
    let n := f.x.toNat
    need (allotOk n && n ≤ s.r.ep.vregs) 0x15
    return s.updE fun e => e.shrink n

/-- Base of the spill region in the share (R109). -/
def State.spillBase (s : State) : Nat := s.r.bind.banks * 131072 - 16384

/-- First register and count of VPUSHM and VPOPM, within the allotment (R303). -/
def spillRange (s : State) (f : EF) : Except Stop (Nat × Nat) := do
  let n := f.fn.toNat + 1
  need (f.x.toNat + n ≤ s.r.ep.vregs) 0x11
  return (f.x.toNat, n)

/-- E occupies n slots, this one included (R303). -/
def State.occupy (s : State) (n : Nat) : State :=
  (s.updE fun e => { e with occupied := n - 1 }).tagE n

/-- VPUSHM (R303). -/
def execVpushm (f : EF) (s : State) : Host.Outcome State Fault Refusal :=
  eAct (.vpushm f) s fun s => do
    let (r0, n) ← spillRange s f
    let top := s.r.ep.vsp.toNat
    need (top + 256 * n ≤ s.spillBase + 16384) 0x14
    let bs := (List.range n).flatMap fun j => bytesOfLanes s.r.ep.v[Fin.ofNat 64 (r0 + j)]
    let s1 := { s with mem := s.mem.writeGranules (spadKey s.entry top / 64) bs }
    return (s1.updE fun e => { e with vsp := BitVec.ofNat 23 (top + 256 * n) }).occupy n

/-- VPOPM: highest register first, each readable four slots after its transfer (R303, R194). -/
def execVpopm (f : EF) (s : State) : Host.Outcome State Fault Refusal :=
  eAct (.vpopm f) s fun s => do
    let (r0, n) ← spillRange s f
    let top := s.r.ep.vsp.toNat
    need (s.spillBase + 256 * n ≤ top) 0x14
    let ks := keysFrom (spadKey s.entry (top - 256 * n)) (256 * n)
    need (!((granulesOf ks).any s.mem.isBad)) 0x41
    let one (j : Nat) : InFlight :=
      ⟨4 + j, .vreg (Fin.ofNat 64 (r0 + n - 1 - j)),
        .vec (lanesOfBytes (s.mem.bytes (spadKey s.entry (top - 256 * (j + 1))) 256)), BitVec.allOnes 64, none⟩
    return (s.updE fun e => { e with
      vsp := BitVec.ofNat 23 (top - 256 * n)
      inflight := e.inflight ++ (List.range n).map one }).occupy n

/-! ### Branches and loops (R321 to R326) -/

/-- The 16 bits of fields b and c (R321, R322). -/
def imm16 (f : EF) : BitVec 16 := f.b ++ f.c

/-- Whether an EB is taken (R321). -/
def ebTaken (s : State) (f : EF) : Bool :=
  let m := s.r.ep.mask (Fin.ofNat 16 f.x.toNat)
  match f.fn.toNat with
  | 0 => true
  | 1 => m != 0
  | 2 => m == BitVec.allOnes 64
  | _ => m == 0

/-- EB (R321). -/
def execEb (f : EF) (s : State) : Host.Outcome State Fault Refusal :=
  eIssue (.eb f) s fun s =>
    if ebTaken s f then
      let t := (((s.r.ep.pc.toNat : Int) + 8 * (imm16 f).toInt) % 2 ^ 32).toNat
      .ok (traceBranchE s t, .jump t)
    else .ok (s, .next)

/-- The n instructions from an offset on: the first word of each, all words, and the offset after the
last; none where they reach past the section (R322). -/
def scanBody (s : State) : Nat → Nat → Option (List W64 × List W64 × Nat)
  | 0, o => some ([], [], o)
  | k + 1, o =>
    let w := s.eWordAt o
    let len := wordLen w
    if s.r.bind.epSize < o + len then none
    else
      match scanBody s k (o + len) with
      | none => none
      | some (hs, ws, t) => some (w :: hs, (if len = 16 then [w, s.eWordAt (o + 8)] else [w]) ++ ws, t)

/-- A word that a pipelined body of S stages may not hold (R322). -/
def pipeForbids (stages : Nat) (w : W64) : Bool :=
  let op := bits w 63 56
  op = 0x50 || op = 0x51 || (op = 0x52 && stages ≤ bits w 2 0)

/-- Whether the innermost active level is pipelined. -/
def EpCtx.piped (e : EpCtx) : Bool :=
  match e.loops with
  | l :: _ => l.pipe.isSome
  | [] => false

/-- Push a level over a body, and enter it (R322, R324). -/
def EpCtx.enterLoop (e : EpCtx) (start stop count : Nat) (pipe : Option Nat) (ws : List W64) : EpCtx :=
  let p : Option Pipe := pipe.map fun st => ⟨st, 0, count, 0⟩
  { e with
    pc := BitVec.ofNat 32 start
    loops := ⟨start, stop, count, if pipe.isSome then min 1 count else 0, p⟩ :: e.loops
    m := match p with | some p => stageMasks p true e.m | none => e.m
    lbufStart := if e.loops = [] then start else e.lbufStart
    lbuf := if e.loops = [] then ws else e.lbuf }

/-- ELOOP and ELOOP.PIPE (R322, R324). -/
def openELoop (s : State) (f : EF) (pipe : Option Nat) : Except Stop (State × EFlow) := do
  let e := s.r.ep
  need (e.loops.length < 6) 0x06
  let start := e.pc.toNat + 8
  match scanBody s (f.x.toNat % 64 + 1) start with
  | none => raise 0x07
  | some (hs, ws, stop) =>
    need (match e.loops with | [] => true | l :: _ => decide (l.start ≤ start) && decide (stop ≤ l.stop)) 0x07
    need (!e.piped) 0x07
    need (match pipe with | none => true | some st => !(hs.any (pipeForbids st))) 0x07
    let (count, s1) ← if f.a = 0xFF then pure ((imm16 f).toNat, s)
      else match readS s f.a with
        | .ok (w, t) => pure (w.toNat, t)
        | .error x => .error x
    if count = 0 then return (s1, .skipTo stop)
    else return (s1.updE fun e => e.enterLoop start stop count pipe ws, .enter)

/-- ELOOP (R322). -/
def execEloop (f : EF) (s : State) : Host.Outcome State Fault Refusal :=
  eIssue (.eloop f) s fun s => openELoop s f none
/-- ELOOP.PIPE of S stages (R322, R324). -/
def execEloopPipe (f : EF) (s : State) : Host.Outcome State Fault Refusal :=
  eIssue (.eloopPipe f) s fun s => openELoop s f (some (f.fn.toNat % 8 + 1))

/-- ESTAGE: inside a pipelined body it occupies no slot; anywhere else cause 0x07 (R325). It is never withheld itself: one
with a bad field raises its cause in every stage (log 112). -/
def execEstage (f : EF) (s : State) : Host.Outcome State Fault Refusal :=
  let t := s.updE EpCtx.refill
  if t.r.ep.piped then
    match staticCause (.estage f) with
    | some c => .next (t.parkE ⟨c, 0, 0⟩)
    | none => .next (t.updE fun e => e.moveTo t.eRequest (e.pc.toNat + 8))
  else eIssue (.estage f) s fun _ => raise 0x07

/-- EHALT: what is in flight completes as the slots go on (R327); what completes with it completes (R37). -/
def execEhalt (f : EF) (s : State) : Host.Outcome State Fault Refusal :=
  match eIssue (.ehalt f) s fun s =>
      .ok (s.updE fun e => { e with status := .halted, pc := e.pc + 8 }, .set) with
  | .next t => .next (if t.r.ep.status == .halted then t.settle else t)
  | o => o

/-- ETRAP n: cause 0x70 + n; the ETRAP counts as issued (R328). -/
def execEtrap (f : EF) (s : State) : Host.Outcome State Fault Refusal :=
  eIssue (.etrap f) s fun s =>
    .error (.trapAt ⟨0x70 + f.x, 0, 0⟩ (s.updE fun e => { e with einst := e.einst + 1 }))

/-! ### Control registers (R329 to R333) -/

/-- elcK (R333). -/
def EpCtx.level (e : EpCtx) (k : Nat) : W64 :=
  match levelOf e.loops k with
  | some l => BitVec.ofNat 64 (l.count * 2 ^ 32 + l.index)
  | none => 0

/-- edepth (R333). -/
def EpCtx.depthWord (e : EpCtx) : W64 :=
  let p := match e.loops with
    | l :: _ => l.pipe
    | [] => none
  match p with
  | some p => BitVec.ofNat 64 (e.loops.length + (p.stages - 1) * 8 + 64)
  | none => BitVec.ofNat 64 e.loops.length

/-- A register that E reads, by its number (R330); none where it is not assigned or the AP's alone. -/
def eCsr (s : State) (n : Nat) : Option W64 :=
  let e := s.r.ep
  if 0x048 ≤ n ∧ n ≤ 0x04F then some ((e.f[Fin.ofNat 8 n]).setWidth 64)
  else if 0x070 ≤ n ∧ n ≤ 0x075 then some (e.level (n - 0x070))
  else
    match n with
    | 0x040 => some ((e.vsp.setWidth 22).setWidth 64)
    | 0x041 => some (BitVec.ofNat 64 e.vregs)
    | 0x050 => some (e.lfsrV.setWidth 64)
    | 0x051 => some (s.r.mx.lfsr.setWidth 64)
    | 0x060 => some e.ecyc
    | 0x061 => some e.einst
    | 0x062 => some e.eblk
    | 0x063 => some e.etag
    | 0x076 => some e.depthWord
    | n => sharedCsr s n

/-- The number and the half that an ECSR instruction names (R329). -/
def ecsrNo (f : EF) : Nat × Bool := (f.fn.toNat % 8 * 256 + f.x.toNat, f.fn.getLsbD 3)

/-- Whether a queue entry is a matrix command, and not one of Damask's (R90). -/
def QEntry.isMatrix (q : QEntry) : Bool :=
  match q.op with
  | .wload _ _ _ _ _ _ _ | .wloadSc _ _ _ | .dot _ _ _ _ _ _ | .dots _ _ _ _ _ _ _ _ _ _ | .rnd _ | .lfsr _ _ => true
  | _ => false

/-- ECSR.R (R329, R90). -/
def execEcsrR (f : EF) (s : State) : Host.Outcome State Fault Refusal :=
  eRead (.ecsrR f) f 2 7 (fun s => do
    let (n, hi) := ecsrNo f
    match eCsr s n with
    | none => raise 0x09
    | some v =>
      await (n ≠ 0x051 || !(s.r.mx.queue.any QEntry.isMatrix))
      return (if hi then (v >>> 32).setWidth 32 else v.setWidth 32, s)) s

/-- The share offset that a written word gives vsp: its bits 21:0, a multiple of 256 in the spill region or at its end,
which a region that ends with a 4 MiB share names by zero; none where the write raises 0x14 (R331, log 77). -/
def State.vspWritten (s : State) (w : W32) : Option Nat :=
  let v := bits w 21 0
  let top := s.spillBase + 16384
  if v % 256 ≠ 0 then none
  else if s.spillBase ≤ v ∧ v ≤ top then some v
  else if v + 2 ^ 22 = top then some top
  else none

/-- A write of 32 bits into half of a register (R9, R329, R331, R90). -/
def writeECsr (s : State) (n : Nat) (hi : Bool) (w : W32) : Except Stop State := do
  if n = 0x010 then return writeShared s n (if hi then (w.setWidth 64) <<< 32 else w.setWidth 64)
  else if n = 0x051 then enqueueCmd s (.lfsr hi w)
  else if hi then return s
  else if 0x048 ≤ n ∧ n ≤ 0x04F then return s.updE fun e => { e with f := e.f.set (Fin.ofNat 8 n) w }
  else if n = 0x050 then return s.updE fun e => { e with lfsrV := if w = 0 then 1 else w }
  else if n = 0x040 then
    match s.vspWritten w with
    | some v => return s.updE fun e => { e with vsp := BitVec.ofNat 23 v }
    | none => raise 0x14
  else return s

/-- ECSR.W (R329). -/
def execEcsrW (f : EF) (s : State) : Host.Outcome State Fault Refusal :=
  eAct (.ecsrW f) s fun s => do
    let (n, hi) := ecsrNo f
    match eCsr s n with
    | none => raise 0x09
    | some _ =>
      let (w, s1) ← readS s f.a
      writeECsr s1 n hi w

/-! ### RESULT_DELIVERY (R187, R194, R303, R327) -/

/-- Whether E stands where it can be saved: not running; forced, at an instruction boundary; or at a group switch that
it has made with no pipelined run under way (R196, R326, R430). -/
def Residency.eAtRest (r : Residency) : Bool :=
  r.ep.status != .running || (r.watch.forced && r.ep.occupied == 0) ||
    (r.ep.occupied == 0 && r.ep.atSwitch &&
      (match r.ep.loops with
       | l :: _ => (match l.pipe with | some p => p.over | none => true)
       | [] => true))

/-- Whether Gauze waits, in a residency that is being saved, for the push of a G.REUSE that is still in flight: the
save completes after every queued operation (R375, log 46). -/
def Residency.reuseDue (r : Residency) : Bool :=
  r.stage == .saving && r.eAtRest && (match r.gz.ops with | g :: _ => g.op.isReuse && g.fault.isNone | [] => false)

/-- RESULT_DELIVERY: an owned slot in which E issues nothing new, because a VPUSHM or VPOPM still takes it
or because E has halted: every result in flight comes one slot nearer, and those due are delivered. While a save waits
for the push of a G.REUSE, that push alone comes nearer: every other result is saved with its slots (R196). -/
def execResultDelivery (s : State) : Host.Outcome State Fault Refusal :=
  if s.r.ep.occupied ≠ 0 && s.r.ep.status == .running then
    .next ((s.tickE.updE fun e => { e with occupied := e.occupied - 1, einst := e.einst + 1 }).move)
  else if s.r.ep.status == .halted && !s.r.ep.inflight.isEmpty then .next (s.tickE.move).settle
  else if s.r.reuseDue then .next s.holdE.move
  else .next s

end Sys2Proof.Machine
end

