-- ==== Sys2Proof/Machine/Image.lean ====
section
/-! DEFINITION. The launch descriptor (R398) and the launch image (R208 to R211, R25): their fields, and
the checks that the firmware makes of them. -/

namespace Sys2Proof.Machine

/-! ### Sections (R208) -/

/-- Entries of the section table. -/
def imgCount (f : List Byte) : Nat := le16 f 6

/-- Entry i of the section table: kind, offset, length. -/
def imgEntry (f : List Byte) (i : Nat) : Nat × Nat × Nat :=
  ((byteAt f (64 + 16 * i)).toNat, (le32 f (68 + 16 * i)).toNat, (le32 f (72 + 16 * i)).toNat)

/-- The section table. -/
def imgTable (f : List Byte) : List (Nat × Nat × Nat) := (List.range (imgCount f)).map (imgEntry f)

/-- Offset and length of the section of a kind. -/
def imgFind (f : List Byte) (kind : Nat) : Option (Nat × Nat) := ((imgTable f).find? fun e => e.1 == kind).map fun e => e.2

/-- The bytes of the section of a kind; none where it is absent. -/
def imgSection (f : List Byte) (kind : Nat) : List Byte :=
  match imgFind f kind with
  | some (o, n) => (f.drop o).take n
  | none => []

/-- Whether an image has a section of a kind. -/
def imgHas (f : List Byte) (kind : Nat) : Bool := (imgFind f kind).isSome

/-- Magic, version, size, check, section table (R208); reserved fields are ignored (R11). -/
def imgHeaderOk (f : List Byte) (size : Nat) : Bool :=
  f.take 4 == [0x4B, 0x54, 0x52, 0x58] && le16 f 4 == 1 && 4 ≤ imgCount f && imgCount f ≤ 9 &&
    (le64 f 8).toNat == size && f.length == size && le16 f 16 == (crc16 (f.drop 64)).toNat &&
    (imgTable f).all (fun e => 1 ≤ e.1 && e.1 ≤ 9 && e.2.1 % 16 = 0 && e.2.1 + e.2.2 ≤ size) &&
    ((imgTable f).map fun e => e.1).eraseDups.length == imgCount f &&
    [1, 2, 3, 4].all (imgHas f) && (imgHas f 8 == imgHas f 9)

/-! ### The launch record (R209) -/

/-- Stream entries and handle entries of a launch record. -/
def recStreams (l : List Byte) : Nat := (byteAt l 13).toNat
/-- Handle entries of a launch record. -/
def recHandles (l : List Byte) : Nat := (byteAt l 14).toNat
/-- Cores of the launch. -/
def recCores (l : List Byte) : Nat := le16 l 116
/-- Whether the launch runs in frame mode. -/
def recFrame (l : List Byte) : Bool := byteAt l 112 == 1
/-- Stream entry i: the register and its 128-byte state. -/
def recStream (l : List Byte) (i : Nat) : Nat × List Byte :=
  ((byteAt l (128 + 136 * i)).toNat, (l.drop (136 + 136 * i)).take 128)
/-- Handle entry i: the register and the object-table index. -/
def recHandle (l : List Byte) (i : Nat) : Nat × W16 :=
  let o := 128 + 136 * recStreams l + 8 * i
  ((byteAt l o).toNat, BitVec.ofNat 16 (le16 l (o + 2)))

/-- The fixed part and the entries are well formed (R209); reserved fields are ignored (R11). R211 does not list what
becomes of an image whose record is not so: this model refuses it with status 0x01 (log 90). -/
def recordValid (l : List Byte) : Bool :=
  let e := 128 + 136 * recStreams l
  l.length = e + 8 * recHandles l && 1 ≤ byteAt l 12 && byteAt l 12 ≤ 8 && recStreams l ≤ 32 && recHandles l ≤ 16 &&
    byteAt l 112 ≤ 1 && 1 ≤ byteAt l 113 && byteAt l 113 ≤ 2 && 1 ≤ byteAt l 114 &&
    1 ≤ byteAt l 115 && byteAt l 115 ≤ 4 && 1 ≤ recCores l && recCores l ≤ 192 &&
    (List.range (recStreams l)).all (fun i => byteAt l (128 + 136 * i) < 32) &&
    (List.range (recHandles l)).all (fun i => byteAt l (e + 8 * i) < 16)

/-! ### Code (R25, R211) -/

/-- Bytes of AP and EP instruction memory that an image needs: ap_drain follows ap_fetch at a multiple
of 64 (R404). -/
def imgApBytes (f : List Byte) : Nat := alignUp (imgSection f 1).length 64 + (imgSection f 2).length

/-- Whole instructions in each code section, the entries at one of them, and the limits of R25. The spec does not say
what becomes of a section whose length is no multiple of its word size: this model refuses the image (log 90). -/
def codeOk (f : List Byte) : Bool :=
  let l := imgSection f 4
  let at_ (kind o w : Nat) : Bool :=
    let n := (imgSection f kind).length
    w ≤ n && n % w = 0 && (le32 l o).toNat % w = 0 && (le32 l o).toNat < n
  at_ 1 0 4 && at_ 2 4 4 && at_ 3 8 8 && imgApBytes f ≤ 65536 && (imgSection f 3).length ≤ 131072

/-- The index that relocation i has put into the field it patches: a handle entry's 16 bits, or bits [15:0] of an H.LOAD
word. -/
def relocIndex (f r : List Byte) (i : Nat) : Nat := le16 f (le32 r (8 * i)).toNat

/-- Every relocation patches bytes of the image and names a tensor, and those of one tensor hold one index: one that
differs from another of its ordinal is still unresolved (R210, R211, log 36). The spec does not say what becomes of a
relocation of a kind above 1, or of a section of names or relocations that is no whole number of entries: this model
refuses the image with status 0x01 (log 90). -/
def relocOk (f : List Byte) : Bool :=
  let r := imgSection f 9
  let names := (imgSection f 8).length
  r.length % 8 = 0 && names % 32 = 0 &&
    (List.range (r.length / 8)).all fun i =>
      (le32 r (8 * i)).toNat + (if byteAt r (8 * i + 4) = 0 then 2 else 4) ≤ f.length && byteAt r (8 * i + 4) ≤ 1 &&
        le16 r (8 * i + 6) < names / 32 &&
        (List.range i).all fun j => le16 r (8 * j + 6) ≠ le16 r (8 * i + 6) || relocIndex f r j = relocIndex f r i

/-! ### Groups, timetable and tasks (R44, R49, R58, R210) -/

/-- Declared group i: its number and members. -/
def imgGroup (g : List Byte) (i : Nat) : Nat × List Nat :=
  let e := (g.drop (32 * i)).take 32
  ((byteAt e 0).toNat, (List.range 192).filter fun c => bit (byteAt e (8 + c / 8)) (c % 8))

/-- The declared groups. -/
def imgGroups (f : List Byte) : List (Nat × List Nat) :=
  let g := imgSection f 5
  (List.range (g.length / 32)).map (imgGroup g)

/-- The groups of a launch of n cores: the launch group first (R44). -/
def launchGroups (f : List Byte) (n : Nat) : List (Nat × List Nat) := (0, List.range n) :: imgGroups f

/-- Groups are whole entries (log 90), non-empty, of cores of the launch, each declared once, at most four to a
core (R44, R205). -/
def groupsOk (f : List Byte) (n : Nat) : Bool :=
  let g := imgSection f 5
  let gs := imgGroups f
  g.length % 32 = 0 && gs.all (fun x => x.1 ≠ 0 && !x.2.isEmpty && x.2.all (· < n)) &&
    (gs.map fun x => x.1).eraseDups.length == gs.length &&
    (List.range n).all fun c => (gs.filter fun x => x.2.contains c).length ≤ 3

/-- Blocks of the timetable. -/
def imgBlocks (f : List Byte) : List Block :=
  let t := imgSection f 6
  (List.range (le32 t 4).toNat).map fun i =>
    let e := (t.drop (8 + 16 * i)).take 16
    ⟨le16 e 2, (le32 e 4).toNat, (le32 e 8).toNat, 0, false, false⟩

/-- The timetable of R49: 1 to 1024 blocks, a period, release before deadline, deadline within the
period, cores of the launch. -/
def timetableOk (f : List Byte) (n : Nat) : Bool :=
  let t := imgSection f 6
  let p := (le32 t 0).toNat
  let k := (le32 t 4).toNat
  1 ≤ k && k ≤ 1024 && p ≠ 0 && t.length == 8 + 16 * k &&
    (imgBlocks f).all (fun b => b.release < b.deadline && b.deadline ≤ p && b.core < n) &&
    (List.range k).all fun i => le16 t (8 + 16 * i) % 1024 == i

/-- The section of each mode: a timetable in frame mode, 1 to 256 task records in task mode (R49, R58). -/
def modeSectionOk (f : List Byte) : Bool :=
  let l := imgSection f 4
  if recFrame l then imgHas f 6 && !imgHas f 7 && timetableOk f (recCores l)
  else !imgHas f 6 && (imgSection f 7).length % 64 = 0 && 64 ≤ (imgSection f 7).length && (imgSection f 7).length ≤ 16384

/-- An image that the loader accepts, but for what its handles name. -/
def imageOk (f : List Byte) (size : Nat) : Bool :=
  imgHeaderOk f size && recordValid (imgSection f 4) && codeOk f && relocOk f &&
    groupsOk f (recCores (imgSection f 4)) && modeSectionOk f

/-- gmem of logical core c (R45): its groups in ascending number. -/
def gmemOf (gs : List (Nat × List Nat)) (c : Nat) : W64 :=
  let mine := (List.range 256).filter fun g => gs.any fun x => x.1 == g && x.2.contains c
  BitVec.ofNat 64 (((List.range 4).map fun j =>
    match mine[j]? with
    | some g => g * 2 ^ (8 * j) + 2 ^ (32 + j)
    | none => 0).sum)

/-! ### Reading through a partition's translation (R398) -/

/-- n bytes from a virtual address as the firmware reads them for partition p; none where an access
fails. The firmware fills no TLB of a core. -/
def readVirtual (s : State) (p : Fin 8) : Nat → W64 → Option (List Byte)
  | 0, _ => some []
  | n + 1, va =>
    match translate s.mem { s.pkg with tlb := [] } 0 p va true false with
    | .error _ => none
    | .ok (k, _) =>
      if storeOf k == .peer || (s.mem.readCause (granulesOf (checkable [k]))).isSome then none
      else (readVirtual s p n (va + 1)).map fun bs => s.mem.byte k :: bs

/-! ### Descriptors (R398) -/

/-- A descriptor's fields are valid, but for the predecessor and the tag; reserved fields are ignored (R11). -/
def descriptorOk (d : List Byte) : Bool := byteAt d 5 ≤ 2 && byteAt d 48 ≤ 3 && byteAt d 49 ≤ 4 && byteAt d 50 ≤ 3

end Sys2Proof.Machine
end

