-- ==== Sys2Proof/Machine/Launch.lean ====
section
/-! DEFINITION. The life of a launch: the firmware takes its descriptor (R396 to R399), the sequencers load
its code and apply its launch record (R403, R404, R34 to R36), and its removal (R393, R404). -/

namespace Sys2Proof.Machine

/-! ### The slot table -/

/-- Change an entry of the slot table. -/
def State.updSlot (s : State) (e : Fin 416) (f : Slot → Slot) : State :=
  { s with pkg := { s.pkg with slots := s.pkg.slots.set e (f s.pkg.slots[e]) } }

/-- Whether the package is in service (R455). -/
def State.inService (s : State) : Bool := s.pkg.boot.state == 6 || s.pkg.boot.state == 7

/-- The residency of a slot-table entry. -/
def State.resAt (s : State) (e : Nat) : Option Residency := s.all.find? fun r => r.stage != .free && r.bind.e == e

/-- Unbind an entry: the residency is gone, and an empty core forgets its slot plan (R39, R402). -/
def State.vacate (s : State) (e : Fin 416) : State :=
  let s1 := s.updSlot e fun x => { x with state := 0 }
  let s2 : State :=
    if s1.r.bind.e = e.val then { s1 with r := .absent }
    else { s1 with others := s1.others.filter fun r => r.bind.e != e.val }
  let h : Fin 416 := Fin.ofNat 416 (2 * coreOf e.val)
  if s2.all.any fun r => r.stage != .free && coreOf r.bind.e == coreOf e.val then s2
  else s2.updSlot h fun x => { x with plan := 0 }

/-- A launch that has ended and that no residency belongs to any more is forgotten. -/
def State.forgetLaunch (s : State) (id : W32) : State :=
  if s.all.any fun r => r.stage != .free && r.bind.launch == id then s
  else { s with launches := s.launches.filter fun l => !(l.id == id && l.finished) }

/-- Every residency of a launch is removed (R393): contexts stop, commands stop, and the entries are free. -/
def State.vacateLaunch (s : State) (id : W32) : State :=
  ((s.all.filter fun r => r.stage != .free && r.bind.launch == id).map fun r => Fin.ofNat 416 r.bind.e).foldl State.vacate s

/-- Remove a launch with a completion status; binds of it that wait are not carried out (R393, R404). -/
def State.removeLaunch (s : State) (id : W32) (status : Nat) : State :=
  let names (i : Instr) : Bool := match i with
    | .bind e => le32 s.pkg.slots[e].record 16 == id
    | _ => false
  let s1 := { s with inbox := s.inbox.filter fun i => !names i }.vacateLaunch id
  match s1.launches.find? fun l => l.id == id && !l.finished with
  | none => s1
  | some l => (s1.endLaunch l status).forgetLaunch id

/-! ### Bind records (R401, R402) -/

/-- What a bind record fixes (R401). -/
def bindOf (e : Fin 416) (f : List Byte) : Bind :=
  { Bind.none with
    e := e.val, launch := le32 f 16, part := Fin.ofNat 8 (byteAt f 3).toNat, lcore := le16 f 20, n := le16 f 22
    frame := bit (byteAt f 4) 1, strict := bit (byteAt f 4) 0, age := (byteAt f 6).toNat
    banks := 8 * (byteAt f 7).toNat, apim := 16384 * (byteAt f 8).toNat, epim := 32768 * (byteAt f 9).toNat
    wbuf := 65536 * 2 ^ (byteAt f 10).toNat, smem := 16384 * (byteAt f 11).toNat, jsh := 262144 * 2 ^ (byteAt f 12).toNat
    gmem := le64 f 24 &&& 0xFFFFFFFFF, mbox := le64 f 32, save := le64 f 40 }

/-- Whether a record names its entry and its reserved bytes are zero (R402, reject 0x01); the reserved bits of its
flags are ignored (R11). R402 gives no reason for a record that names a partition above 7: this model rejects it with
0x01 too (log 97). -/
def recordNames (e : Fin 416) (f : List Byte) : Bool :=
  (byteAt f 1).toNat == resOf e.val && (byteAt f 2).toNat == coreOf e.val % 104 + 128 * dieOf e.val &&
    byteAt f 3 < 8 && zeroIn f 14 2 && zeroIn f 48 16

/-- Whether a share code of a record is in its range. -/
def sharesInRange (f : List Byte) : Bool :=
  let within (i lo hi : Nat) : Bool := decide (lo ≤ (byteAt f i).toNat) && decide ((byteAt f i).toNat ≤ hi)
  within 7 1 4 && within 8 1 4 && within 9 1 4 && within 10 0 2 && within 11 1 4 && within 12 0 2 && within 13 1 8

/-- Whether the shares of a bind fit beside those of the core's other residency. -/
def sharesFit (b : Bind) (vregs : Nat) : Option Residency → Bool
  | none => true
  | some o =>
    b.banks + o.bind.banks ≤ 32 && b.apim + o.bind.apim ≤ 65536 && b.epim + o.bind.epim ≤ 131072 &&
      b.wbuf + o.bind.wbuf ≤ 262144 && b.smem + o.bind.smem ≤ 65536 && b.jsh + o.bind.jsh ≤ 1048576 &&
      vregs + o.ep.vregs ≤ 64

/-- The core's other entry. -/
def otherEntry (e : Fin 416) : Fin 416 := Fin.ofNat 416 (2 * coreOf e.val + (1 - resOf e.val))

/-- The first failure of a bind or a restore, in the order of the table: that the entry is not free is 0x03 of a bind, and
0x07 of a restore (R402, log 52). -/
def bindReject (s : State) (e : Fin 416) (f : List Byte) (restore : Bool) : Option Byte :=
  let other := s.resAt (otherEntry e).val
  let low := resOf e.val == 1
  let p := Fin.ofNat 8 (byteAt f 3).toNat
  if !recordNames e f then some 1
  else if s.pkg.slots[e].state == 4 then some 2
  else if (!restore && s.pkg.slots[e].state != 0) || (low && s.pkg.slots[(otherEntry e)].state == 0) then some 3
  else if !sharesInRange f || !sharesFit (bindOf e f) (8 * (byteAt f 13).toNat) other then some 4
  else if (if low then !(byteAt f 5 == 1 || byteAt f 5 == 2) || byteAt f 6 == 0 else byteAt f 5 != 0 || byteAt f 6 != 0) then some 5
  else if other.any fun o => o.bind.part != p && ((s.pkg.parts[p]).strict || (s.pkg.parts[o.bind.part]).strict) then some 6
  else if restore && s.pkg.slots[e].state != 0 then some 7
  else none

/-! ### LAUNCH_DESCRIPTOR_TAKE (R397, R398) -/

/-- A completion record for a descriptor that is refused, and its index consumed (R397, R399). -/
def refuse (s : State) (p : Fin 8) (q : Fin 4) (tag : W32) (n status : Nat) : State :=
  s.updPart p fun x => { x with
    lq := x.lq.set q { x.lq[q] with head := (x.lq[q]).head + 1 }
    completions := x.completions ++ [completionRecord { Launch.none with tag := tag, n := n } status] }

/-- Whether a predecessor's trigger has fired (R398, R38): none where its tag is unknown, otherwise whether
it has, and the object that the dependent launch acquires. -/
def predecessor (s : State) (p : Fin 8) (after : Nat) (tag : W32) : Option (Bool × W64) :=
  if after = 0 then some (true, 0)
  else
    match s.launches.find? fun l => l.part == p && l.tag == tag && !l.finished with
    | some l => some (if after = 1 then (l.earlyFired, l.link) else (false, l.compl))
    | none =>
      (s.pkg.parts[p].history.find? fun h => h.1 == tag).map fun h => (true, if after = 1 then h.2.1 else h.2.2)

/-- The object-table indices that an image names: those of its launch record's handles, and those that relocation has
put into its H.LOAD words (R204, R210). -/
def imageIndices (f : List Byte) : List Nat :=
  let l := imgSection f 4
  let r := imgSection f 9
  ((List.range (recHandles l)).map fun i => (recHandle l i).2.toNat) ++ (List.range (r.length / 8)).map (relocIndex f r)

/-- Whether the object-table entry and the tensor header of every handle ordinal of an image are valid (R398, R136,
R283). -/
def handlesOk (s : State) (p : Fin 8) (f : List Byte) : Bool :=
  (imageIndices f).all fun k =>
    let e := s.mem.bytes (s.pkg.parts[p].otab + 64 * k) 64
    k < s.pkg.parts[p].oents && !s.pkg.unmapped (s.pkg.parts[p].otab + 64 * k) && tensorEntry e &&
      (match readVirtual s p 64 (le64 e 24) with
       | some h => headerOk h
       | none => false)

/-- Blocks of the timetables in the package's store (R49). -/
def State.blocksHeld (s : State) : Nat := ((s.launches.filter fun l => !l.finished).map fun l => l.frames.blocks.length).sum

/-- Cores that the package offers to one launch (R30, R398). -/
def coresOffered (b : Boot) (onedie : Bool) : Nat := if onedie || b.state = 7 then 96 else 192

/-- The number of cores that the record of a refused descriptor names: that of its image; of one whose image
gives none the spec states no value (R399, log 43). -/
def refusedCores (s : State) (p : Fin 8) (d : List Byte) : Nat :=
  match readVirtual s p (le64 d 24).toNat (le64 d 16) with
  | some f =>
    if imageOk f (le64 d 24).toNat then recCores (imgSection f 4)
    else leNat [Config.openByte s.free 0, Config.openByte s.free 1]
  | none => leNat [Config.openByte s.free 0, Config.openByte s.free 1]

/-- The status with which the firmware refuses a descriptor and its image; none where it takes them
(R397 to R399). Where several apply, their order is the model's choice: 0x02, 0x05, 0x01, 0x03 (log 141). -/
def refusal (s : State) (p : Fin 8) (d : List Byte) : Option Nat :=
  if !descriptorOk d || s.launches.any fun l => l.part == p && l.tag == le32 d 0 && !l.finished then some 2
  else if (predecessor s p (byteAt d 5).toNat (le32 d 8)).isNone then some 5
  else
    match readVirtual s p (le64 d 24).toNat (le64 d 16) with
    | none => some 1
    | some f =>
      let l := imgSection f 4
      if !imageOk f (le64 d 24).toNat || !handlesOk s p f then some 1
      else if coresOffered s.pkg.boot (bit (byteAt d 4) 0) < recCores l then some 3
      else if 1024 < s.blocksHeld + (imgBlocks f).length then some 3
      else none

/-- Bytes that a launch needs in the privileged range: its objects, its two overflow queues and its image
(R60, R403). The order of the parts is the model's own (log 19). -/
def areaBytes (isize : Nat) : Nat := 0x84000 + alignUp isize 64

/-- The bind record of logical core c (R401). -/
def bindRecord (s : State) (p : Fin 8) (d f : List Byte) (id : W32) (area : W64) (e : Fin 416) (c : Nat) : List Byte :=
  let l := imgSection f 4
  let low := resOf e.val == 1
  let b (n : Nat) : List Byte := leBytes 1 n
  let share (o whole : Nat) : Nat := if byteAt d o = 0 then whole else (byteAt d o).toNat - 1
  b 1 ++ b (resOf e.val) ++ b (coreOf e.val % 104 + 128 * dieOf e.val) ++ b p.val ++
    b ((s.pkg.parts[p]).strict.toNat + 2 * (recFrame l).toNat + 4 * (bit (byteAt d 4) 0).toNat) ++
    b (if low then (byteAt l 113).toNat else 0) ++ b (if low then (byteAt l 114).toNat else 0) ++
    b (byteAt l 115).toNat ++ b ((imgApBytes f + 16383) / 16384) ++ b (((imgSection f 3).length + 32767) / 32768) ++
    b (share 48 2) ++ b (if byteAt d 49 = 0 then 4 else (byteAt d 49).toNat) ++ b (share 50 2) ++
    b (byteAt l 12).toNat ++ [0, 0] ++ leBytes 4 id.toNat ++ leBytes 2 c ++ leBytes 2 (recCores l) ++
    leBytes 8 (gmemOf (launchGroups f (recCores l)) c).toNat ++ leBytes 8 (area + 128).toNat ++ leBytes 8 0 ++
    leBytes 16 0

/-- Whether the firmware may place a launch on these entries, in this area: free entries of distinct
places that wait for no bind already (R397), L only beside a bound H and where the descriptor allows it, on a die in service, one die where it
asks for one (R39, R398, R457); its shares fit beside those of the core's other residency, and a strict partition
shares no core (R25, R395, R402). -/
def placeOk (s : State) (p : Fin 8) (d f : List Byte) (n : Nat) (place : List (Fin 416)) (area : W64) : Bool :=
  place.length == n && place.eraseDups.length == n &&
    place.all (fun e => s.pkg.slots[e].state == 0 && !s.inbox.contains (.bind e) &&
      (resOf e.val == 0 || (bit (byteAt d 4) 1 && (s.pkg.slots[(Fin.ofNat 416 (e.val - 1))]).state == 2))) &&
    place.all (fun e => s.pkg.boot.state != 7 || dieOf e.val == 0) &&
    (!bit (byteAt d 4) 0 || place.all fun e => dieOf e.val == dieOf (place.headD 0).val) &&
    place.zipIdx.all (fun x => (bindReject s x.1 (bindRecord s p d f 0 area x.1 x.2) false).isNone) &&
    area.toNat % 64 = 0 && inRanges [s.pkg.parts[p].priv] area.toNat (areaBytes (le64 d 24).toNat)

/-- The launch that a descriptor and its image make, `dies` being the die of each logical core (R44, R49, R58, R403,
R407). -/
def newLaunch (p : Fin 8) (d f : List Byte) (id : W32) (area pred : W64) (affinity : List (Fin 192)) (dies : Nat → Nat) :
    Launch :=
  let l := imgSection f 4
  let n := recCores l
  let blocks := if recFrame l then imgBlocks f else []
  { Launch.none with
    id := id, part := p, tag := le32 d 0, n := n, frameMode := recFrame l, onedie := bit (byteAt d 4) 0
    after := (byteAt d 5).toNat, pred := pred, image := area + 0x84000, isize := (le64 d 24).toNat
    link := area, compl := area + 64, slog := le64 d 40
    ovf0 := area + 0x1000, ovf1 := area + 0x42000
    affinity := (List.range 256).map fun i => (affinity.getD i 0).val % n
    groups := (launchGroups f n).map fun g => ⟨g.1, dies (g.2.headD 0), 0, 0, g.2.map fun c => ⟨c, 0, 0, 0, 0, 0, 0, 0⟩⟩
    frames := ⟨(le32 (imgSection f 6) 0).toNat, (le64 d 32).toNat, 0, (le64 d 32).toNat, false, false, false, 0, 0, 0, blocks⟩
    outstanding := if recFrame l then 0 else (imgSection f 7).length / 64
    outStart := if recFrame l then 0 else (imgSection f 7).length / 64 }

/-- The initial task records with their first deques; logical core 0 spawns them (R58). -/
def initialTasks (s : State) (p : Fin 8) (f : List Byte) (id : W32) (e : Fin 416) : List Spawn :=
  let t := imgSection f 7
  let at_ : State := { s with r := { Residency.absent with bind := { Bind.none with e := e.val, launch := id, part := p } } }
  (List.range (t.length / 64)).map fun i =>
    let r := taskOfBytes ((t.drop (64 * i)).take 64)
    ⟨placeOf at_ r.affinity 0, { r with dep := 0 }, none⟩

/-- The first n numbers below `size` that are not in use. -/
def freePlaces (used : List Nat) (size n : Nat) : List Nat := ((List.range size).filter fun i => !used.contains i).take n

/-- A launch with its table of the 32 of the group table store, and its entries of the 1024 of the timetable store: the
first that no other launch in flight uses (R49, R403, R407, log 19). -/
def placed (s : State) (l : Launch) : Launch :=
  let live := s.launches.filter fun x => !x.finished
  { l with
    groupPlace := (freePlaces (live.map fun x => x.groupPlace) 32 1).headD 0
    blockPlaces := freePlaces (live.flatMap fun x => x.blockPlaces) 1024 l.frames.blocks.length }

/-- The argument block of a launch: the addresses of its objects, slip log and overflow queues, its table in the group
table store, the length of its timetable, the affinity table, and its entries in the timetable store (R403; the order is
the model's own, log 19). -/
def argumentBlock (l : Launch) : List Byte :=
  leBytes 8 l.link.toNat ++ leBytes 8 l.compl.toNat ++ leBytes 8 l.slog.toNat ++ leBytes 8 l.ovf0.toNat ++
    leBytes 8 l.ovf1.toNat ++ leBytes 8 l.groupPlace ++ leBytes 8 l.blockPlaces.length ++
    leBytes 8 0 ++ l.affinity.flatMap (leBytes 2) ++ l.blockPlaces.flatMap (leBytes 2)

/-- What the firmware writes for a launch it takes: objects, argument block, mailbox, overflow queues and the image copy
in the privileged range, the launch's tables, and a bind record for every core, which dispatch then carries
out (R397, R400, R403, R407). -/
def startLaunch (s : State) (p : Fin 8) (q : Fin 4) (d f : List Byte) (place : List (Fin 416)) (id : W32)
    (area pred : W64) (affinity : List (Fin 192)) : State :=
  let k := area.toNat
  let mbox := leBytes 8 (k + 0x84000) ++ leBytes 8 f.length ++ leBytes 8 (k + 192) ++ List.replicate 40 0
  let s1 := (((s.devWrite k (List.replicate 128 0)).devWrite (k + 128) mbox).devWrite (k + 0x1000) (List.replicate 64 0)).devWrite
    (k + 0x42000) (List.replicate 64 0)
  let l := placed s (newLaunch p d f id area pred affinity fun c => dieOf (place.getD c 0).val)
  let s2 := (s1.devWrite (k + 192) (argumentBlock l)).devWrite (k + 0x84000) f
  let s3 : State := { s2 with launches := s2.launches ++ [l] }
  let s4 := s3.updLaunch id fun l => { l with
    spawned := if l.frameMode then [] else initialTasks s3 p f id (place.headD 0) }
  let write (s : State) (x : Fin 416 × Nat) : State :=
    s.updSlot x.1 fun t => { t with record := bindRecord s p d f id area x.1 x.2 }
  let s5 := place.zipIdx.foldl write s4
  let s6 : State := { s5 with inbox := s5.inbox ++ place.map .bind }
  s6.updPart p fun x => { x with lq := x.lq.set q { x.lq[q] with head := (x.lq[q]).head + 1 } }

/-- LAUNCH_DESCRIPTOR_TAKE: the firmware takes the oldest descriptor of a queue. One that it refuses
consumes its index and gets a completion record; one that cannot be bound yet holds its queue (R397). -/
def execLaunchDescriptorTake (p : Fin 8) (q : Fin 4) (place : List (Fin 416)) (launch : W32) (area : W64)
    (affinity : List (Fin 192)) (s : State) : Host.Outcome State Fault Refusal :=
  let x := s.pkg.parts[p]
  let lq := x.lq[q]
  if !s.inService || x.state != .active || x.ring lq.base 128 = 0 || lq.head == lq.tail ||
      regionWaits s (ringKey lq.base 128 lq.head.toNat) then .next s
  else
    let d := s.mem.bytes (ringKey lq.base 128 lq.head.toNat) 128
    let tag := le32 d 0
    match refusal s p d with
    | some status => .next (refuse s.draw.2 p q tag (refusedCores s p d) status)
    | none =>
      match readVirtual s p (le64 d 24).toNat (le64 d 16), predecessor s p (byteAt d 5).toNat (le32 d 8) with
      | some f, some (true, pred) =>
        if placeOk s p d f (recCores (imgSection f 4)) place area && (s.launches.filter fun l => !l.finished).length < 32 &&
            !(s.launches.any fun l => l.id == launch) then
          .next (startLaunch s p q d f place launch area pred affinity)
        else .next s
      | _, _ => .next s

/-! ### OVERLAY_LOAD (R404) -/

/-- The shares of the residency in focus are scrubbed (R404, R112). -/
def scrubShares (s : State) : State :=
  let b := s.r.bind
  let m := s.mem.scrub (spadKey b.e 0 / 64) (2048 * b.banks)
  let m1 := m.scrub (apimKey b.e 0 / 64) 1024
  let m2 := m1.scrub (epimKey b.e 0 / 64) 2048
  let m3 := m2.scrub (wbufKey b.e 0 / 64) (b.wbuf / 64)
  { s with mem := m3.scrub (smemKey b.e 0 / 64) (b.smem / 64) }

/-- The image copy that the mailbox of the residency in focus names: inside the partition's privileged range, where the
firmware has put it, and every granule of it agreeing with its check value (R394, R403, R404, log 106). -/
def imageCopy (s : State) : Option (List Byte) :=
  let mbox := s.r.bind.mbox.toNat
  let k := (s.mem.word64 mbox).toNat
  let n := (s.mem.word64 (mbox + 8)).toNat
  if !inRanges [s.part.priv] k n || (s.mem.readCause (granulesOf (keysFrom mbox 64 ++ keysFrom k n))).isSome then none
  else some (s.mem.bytes k n)

/-- Whether the reads of the mailbox and of the image copy that it names wait for region tables (R409). -/
def imageWaits (s : State) : Bool :=
  let mbox := s.r.bind.mbox.toNat
  rangeWaits s mbox 64 || rangeWaits s (s.mem.word64 mbox).toNat (s.mem.word64 (mbox + 8)).toNat

/-- Copy the code of an image into the instruction memories of the residency in focus (R404, R211). -/
def loadCode (s : State) (f : List Byte) : State :=
  let a := imgSection f 1
  let d := imgSection f 2
  let e := imgSection f 3
  let base := alignUp a.length 64
  let m := ((s.mem.fill (apimKey s.entry 0) a).fill (apimKey s.entry base) d).fill (epimKey s.entry 0) e
  { s with mem := m }.updR fun r => { r with
    bind := { r.bind with fetchSize := a.length, drainBase := base, drainSize := d.length, epSize := e.length } }

/-- Whether an image's code fits the shares of a bind record (R25). -/
def Bind.fits (b : Bind) (f : List Byte) : Bool :=
  decide (imgApBytes f ≤ b.apim) && decide ((imgSection f 3).length ≤ b.epim)

/-- Whether it fits those of the residency in focus. -/
def codeFits (s : State) (f : List Byte) : Bool := s.r.bind.fits f

/-- An overlay load failure: the firmware removes every core of the launch, with status 0x06 (R404). -/
def overlayFailed (s : State) : State := s.removeLaunch s.r.bind.launch 6

/-- OVERLAY_LOAD: the sequencer scrubs the shares and copies the code (R404, steps 1 and 2); its reads wait for region
tables (R409). -/
def execOverlayLoad (s : State) : Host.Outcome State Fault Refusal :=
  if s.r.stage != .loading || imageWaits s then .next s
  else
    match imageCopy s with
    | none => .next (overlayFailed s)
    | some f =>
      if codeFits s f then .next ((loadCode (scrubShares s) f).updR fun r => { r with stage := .loaded })
      else .next (overlayFailed s)

/-! ### LAUNCH_RECORD_APPLY (R34 to R36, R404) -/

/-- A head from its 64-bit field (R116). -/
def unpackHead (w : W64) : Head :=
  ⟨w.extractLsb' 0 24, w.extractLsb' 24 6, bit w 30, bit w 31, w.extractLsb' 32 24, w.extractLsb' 56 6⟩

/-- A stream register from its 128-byte state (R116). -/
def unpackStream (f : List Byte) : StreamReg :=
  let w (i : Nat) : W64 := le64 f (8 * i)
  { StreamReg.closed with
    control := controlWord (w 0)
    ring := (w 1).extractLsb' 0 32
    drops := (w 1).extractLsb' 32 32
    claimed := (w 2).extractLsb' 0 24
    committed := (w 2).extractLsb' 24 24
    tpos := (w 2).extractLsb' 48 7
    ended := bit (w 2) 55
    heads := #v[unpackHead (w 3), unpackHead (w 4), unpackHead (w 5), unpackHead (w 6)]
    awaits := #v[(w 7).extractLsb' 0 16, (w 7).extractLsb' 16 16, (w 7).extractLsb' 32 16, (w 7).extractLsb' 48 16]
    cursor := (w 8).extractLsb' 0 32
    fcause := (w 8).extractLsb' 32 7
    fpend := bit (w 8) 39
    faddr := (w 9).extractLsb' 0 56
    src := #v[w 10, w 11, w 12, w 13, w 14, w 15] }

/-- H.LOAD of the handles of a launch record (R404, R283). -/
def loadHandles (l : List Byte) : List Nat → State → Except Stop State
  | [], s => .ok s
  | i :: is, s => do
    let (h, k) := recHandle l i
    need (k.toNat < s.part.oents) 0x30
    let e ← readEntry s k.toNat
    need (tensorEntry e) 0x30
    let (ks, s1) ← resolve s (le64 e 24) 64 true false
    need (s1.mem.readCause (granulesOf (checkable ks))).isNone 0x42
    let hdr := s1.mem.gather ks
    need (headerOk hdr) 0x2B
    loadHandles l is (s1.updR fun r => { r with h := r.h.set (Fin.ofNat 16 h) (some { entryHandle e k with hdr := hdr, recorded := true }) })

/-- Open one stream of a launch record: the state it gives, head 0 enabled, under the checks of S.OPEN; a
fork alias under those of S.FORK and, since its control word names a peer or a group, those of S.OPEN for a remote sink
(R36, R46, R122, R256, R404). The spec does not say what read-only fields of the state that are not
zero (counts, heads, cursor, fault) do: this model installs them as given, unchecked (log 91). -/
def openRecorded (s : State) (n : SReg) (r0 : StreamReg) : Except Stop State := do
  let r1 := { r0 with heads := r0.heads.set 0 { r0.heads[0] with enabled := true } }
  if r1.kind = 10 then
    let src := s.stream r1.peerSt
    need (src.isOpen && src.kind ≠ 10 && r1.fork ≠ 0 && !(src.heads[r1.fork]).enabled && r1.sink ≤ 7) 0x24
    need (r0.sink ≠ 2 || r0.patOk) 0x27
    need (!(r0.sink = 5 && !r0.multicast && s.r.bind.n ≤ r0.peerCore)) 0x36
    need (!(r0.sink = 5 && r0.multicast) || s.r.member r0.group) 0x61
    let s1 ← sideChecks s r0 false (r0.sink = 3) false src.esize
    let s2 ← sideChecks s1 r0 (r0.sink = 2) false false src.esize
    let s3 := s2.updSt r1.peerSt fun x => x.updHead r1.fork fun _ =>
      { Head.off with enabled := true, count := (x.heads[(0 : Fin 4)]).count, pos := (x.heads[(0 : Fin 4)]).pos }
    return s3.updSt n fun _ => { r0 with pin := basePin r0 }
  else
    let s1 ← openChecks s n r1
    return s1.updSt n fun _ => { r1 with pin := basePin r1 }

/-- Open the streams of a launch record whose kinds satisfy a test, in its order. -/
def openStreams (l : List Byte) (late : Bool) : List Nat → State → Except Stop State
  | [], s => .ok s
  | i :: is, s =>
    let (n, f) := recStream l i
    let r := unpackStream f
    if (r.kind = 5 || r.kind = 10) == late then
      match openRecorded s (Fin.ofNat 32 n) r with
      | .error e => .error e
      | .ok s1 => openStreams l late is s1
    else openStreams l late is s

/-- The initial registers of the residency in focus (R36). -/
def initialRegs (s : State) (l : List Byte) : State :=
  let args : Vector W64 32 := Vector.ofFn fun i => if 1 ≤ i.val ∧ i.val ≤ 8 then le64 l (8 + 8 * i.val) else 0
  let eargs : Vector W32 32 := Vector.ofFn fun i => if 1 ≤ i.val ∧ i.val ≤ 8 then le32 l (76 + 4 * i.val) else 0
  let ctx (o : Nat) : ApCtx := { ApCtx.fresh with status := .running, pc := le32 l o, a := args }
  s.updR fun r => { r with
    f := ctx 0, d := ctx 4
    ep := { EpCtx.fresh (r.bind.banks * 131072 - 16384) r.ep.vregs with status := .running, pc := le32 l 8, s := eargs }
    stage := .running
    watch := { r.watch with idle := 0, armed := true } }

/-- The start tick of frame 0 once the last core has applied its record (R50). -/
def fixStart (tick : W64) (l : Launch) : Launch :=
  if l.applied.length = l.n && !l.frames.fixed then
    { l with frames := { l.frames with
        fixed := true, base := if tick.toNat ≤ l.frames.t0 then l.frames.t0 else tick.toNat + 1 } }
  else l

/-- Whether the residency in focus may apply its launch record: in task mode the initial tasks are placed
(R58); the predecessor's object has been released (R168, R404); and no read of either waits for a region table (R409). -/
def mayApply (s : State) : Bool :=
  let l := s.launch
  s.r.stage == .loaded && (l.spawned.isEmpty || !l.applied.isEmpty) && !imageWaits s &&
    (l.after = 0 || !regionWaits s l.pred.toNat && s.mem.word64 l.pred.toNat != 0)

/-- LAUNCH_RECORD_APPLY: handles, streams and registers are in place, and the contexts start (R34 to R36,
R404, steps 3 and 4); it waits for the shares of other cores and for region tables (R35, R409). -/
def execLaunchRecordApply (s : State) : Host.Outcome State Fault Refusal :=
  if !mayApply s then .next s
  else
    match imageCopy s with
    | none => .next (overlayFailed s)
    | some f =>
      let l := imgSection f 4
      let opened : Except Stop State := do
        let s1 ← loadHandles l (List.range (recHandles l)) s
        let s2 ← openStreams l false (List.range (recStreams l)) s1
        openStreams l true (List.range (recStreams l)) s2
      match opened with
      | .error (.trap _) | .error (.trapAt _ _) => .next (overlayFailed s)
      | .error _ => .next s
      | .ok s1 =>
        let s2 := (initialRegs s1 l).updMine fun x => fixStart s.tick { x with applied := s.r.bind.lcore :: x.applied }
        .next (s2.updSlot (Fin.ofNat 416 s.entry) fun x => { x with state := 2 })

/-! ### Spawned, held and overflowing records (R59, R62, R65) -/

/-- Do something with some residency of a launch in focus. -/
def State.asLaunch (s : State) (id : W32) (f : State → State) : State :=
  match s.all.find? fun r => r.stage != .free && r.bind.launch == id with
  | some r => s.within r.bind.e f
  | none => s

/-- Whether every core of the launch in focus is bound; before that its initial tasks wait (R58). -/
def allBound (s : State) : Bool := !s.launch.applied.isEmpty || (List.range s.launch.n).all fun c => (s.dequeOf c).isSome

/-- A thief of this core cycle takes a record, or is blocked (R61, R62); nothing where its F has been stopped since. -/
def giveTask (s : State) (e : Nat) : State :=
  s.within e fun s =>
    if s.r.f.status != .running || s.r.bind.e != e then s
    else
      let t : State := { s with ap := .f }
      match stealTask t with
      | none => t.blocked
      | some (x, t1) =>
        match takeRecord t1 x with
        | .ok (t2, fl) => t2.finish (.taskNext 0) fl
        | .error (.trapAt k t2) => t2.park .f k
        | .error _ => t1

/-- A TASK.SPAWN whose room was open completes where its record has found some, and raises 0x65 where not (R59). -/
def endSpawn (s : State) (w : Option (Nat × ApId)) (placed : Bool) : State :=
  match w with
  | none => s
  | some (e, c) =>
    s.within e fun s =>
      let t : State := { s with ap := c }
      if placed then (t.finish (.taskSpawn 0 0) .next).updMine fun l => { l with outstanding := l.outstanding + 1 }
      else t.park c ⟨0x65, 0, 0⟩

/-- A record of TASK.SPAWN is placed (R59, R62); an initial record that finds no room is held (R58). -/
def placeSpawn (s : State) (x : Spawn) : State :=
  match s.enqueue x.core x.task with
  | some s1 => endSpawn s1 x.waits true
  | none => if x.waits.isSome then endSpawn s x.waits false else s.hold x.core x.task

/-- Records spawned in this core cycle are placed, in order (R62). -/
def placeSpawned (s : State) : State :=
  if s.launch.spawned.isEmpty || !allBound s then s
  else s.launch.spawned.foldl placeSpawn (s.updMine fun l => { l with spawned := [] })

/-- A record that its future's fill re-enqueues: placed, or held (R65). -/
def placeAgain (filler : Nat) (s : State) (t : TaskRec) : State :=
  let c := placeRefilled s t filler
  match s.enqueue c t with
  | some s1 => s1
  | none => s.hold c t

/-- What the fills of this core cycle re-enqueue, fill by fill (R62, R65). -/
def refill (s : State) : State :=
  s.launch.filled.foldl (fun s p => let (ts, s1) := unpark s p.1; ts.foldl (placeAgain p.2) s1)
    (s.updMine fun l => { l with filled := [] })

/-- Held records of a die enter its overflow queue, oldest first: as many as the core cycle began with room for (R65). -/
def releaseHeld (die n : Nat) (s : State) : State :=
  let l := s.launch
  let xs := l.held die
  (xs.take n).foldl (fun s t => ovfAdd s (l.ovf die) t)
    (s.updMine fun l => if die = 0 then { l with held0 := xs.drop n } else { l with held1 := xs.drop n })

/-- Room in the overflow queue of a die. -/
def ovfRoom (s : State) (die : Nat) : Nat := ovfSize - ovfCount s.mem (s.launch.ovf die)

/-- The first deque of a die with room, in ascending logical order (R59). -/
def firstRoom (s : State) (die : Nat) : Option Residency :=
  (List.range s.launch.n).findSome? fun c =>
    match s.dequeOf c with
    | some r => if dieOf r.bind.e = die && r.deque.length < dequeSize then some r else none
    | none => none

/-- Records move from a die's overflow queue to its deques, oldest first (R59); at most `fuel` moves. -/
def drainOverflow (die : Nat) : Nat → State → State
  | 0, s => s
  | fuel + 1, s =>
    let k := s.launch.ovf die
    if ovfCount s.mem k = 0 then s
    else
      match firstRoom s die with
      | none => s
      | some r =>
        let (t, s1) := ovfTake s k
        drainOverflow die fuel (s1.pushDeque r.bind.e t)

/-- The end of a core cycle for a launch: slip records that waited for a region table (R53); for its tasks steals, held
records, spawns and re-enqueues, then moves from the overflow queues (R62, R65). A launch in which nothing can run any
more is deadlocked (R66). -/
def settleTasks (s : State) (id : W32) : State :=
  s.asLaunch id fun s =>
    if s.launch.frameMode || s.launch.finished then (writeSlips s s.launch.slipsDue).updMine fun l => { l with filled := [] }
    else
      let asked := s.launch.thieves
      let s1 := asked.foldl giveTask (s.updMine fun l => { l with thieves := [] })
      let s2 := refill (placeSpawned (releaseHeld 1 (ovfRoom s 1) (releaseHeld 0 (ovfRoom s 0) s1)))
      let s3 := drainOverflow 1 ovfSize (drainOverflow 0 ovfSize s2)
      if asked.isEmpty then s3 else s3.checkDeadlock

end Sys2Proof.Machine
end

