-- ==== Sys2Proof/Machine/Time.lean ====
section
/-! DEFINITION. Binds and unbinds (R400 to R402), and the events of time: frame ticks, frames and releases
(R48 to R51), pins (R246), completion and fault records (R396, R399, R418, R419), trace samples (R435,
R436) and the watchdog (R425). -/

namespace Sys2Proof.Machine

/-! ### Binds and unbinds (R402) -/

/-- Record why dispatch rejected an operation. -/
def State.reject (s : State) (e : Fin 416) (r : Byte) : State := s.updSlot e fun x => { x with reject := r }

/-- The core's slot plan after a bind (R39). -/
def planFor (s : State) (e : Fin 416) (f : List Byte) : State :=
  let h : Fin 416 := Fin.ofNat 416 (2 * coreOf e.val)
  if resOf e.val = 1 then s.updSlot h fun x => { x with plan := (byteAt f 5).toNat }
  else if s.pkg.slots[(otherEntry e)].state == 0 then s.updSlot h fun x => { x with plan := 0 }
  else s

/-- A residency takes its place in an entry. -/
def State.install (s : State) (r : Residency) : State :=
  if s.r.stage == .free then { s with r := r } else { s with others := s.others ++ [r] }

/-- BIND: dispatch carries out a SLOT_GO whose record is a bind: rejected under R402, or accepted, with the
residency's every register and queue cleared (R404) and the core's plan as R39 says. -/
def execBind (e : Fin 416) (s : State) : Host.Outcome State Fault Refusal :=
  let f := s.pkg.slots[e].record
  let op := byteAt f 0
  if 2 ≤ op && op ≤ 4 then .next s
  else if op != 1 then .next (s.reject e 1)
  else
    match bindReject s e f false with
    | some r => .next (s.reject e r)
    | none =>
      let s1 := (planFor s e f).updSlot e fun x => { x with state := 1 }
      .next (s1.install (Residency.fresh (bindOf e f) (8 * (byteAt f 13).toNat)))

/-- UNBIND: of a residency that is bound and done, held, or of a partition that is being destroyed (R402,
R433). -/
def execUnbind (e : Fin 416) (s : State) : Host.Outcome State Fault Refusal :=
  let f := s.pkg.slots[e].record
  if byteAt f 0 != 2 then .next s
  else if !recordNames e f then .next (s.reject e 1)
  else if s.pkg.slots[e].state == 4 then .next (s.reject e 2)
  else
    match s.resAt e.val with
    | none => .next (s.reject e 7)
    | some r =>
      if r.stage == .done || r.stage == .held || (s.pkg.parts[r.bind.part]).state == .destroying then
        .next ((s.vacate e).forgetLaunch r.bind.launch)
      else .next (s.reject e 7)

/-! ### The frame counter and frames (R48 to R51) -/

/-- Core cycles of a frame tick of 10 ns: 32 at 3.2 GHz and 12 at 1.2 GHz (R8, R455). DESIGN CHOICE (log 10): the spec
gives no count for the time before CLOCKS has set the core clock; this model takes 32 there too. -/
def cyclesPerTick (b : Boot) : Nat := if b.clock = 1200 then 12 else 32

/-- FRAME_TICK: the frame counter rises when 10 ns of core cycles have gone (R48). -/
def execFrameTick (s : State) : Host.Outcome State Fault Refusal :=
  if s.subtick < cyclesPerTick s.pkg.boot then .next s else .next { s with tick := s.tick + 1, subtick := 0 }

/-- Change the frame state of a launch. -/
def State.updFrames (s : State) (id : W32) (f : Frames → Frames) : State :=
  s.updLaunch id fun l => { l with frames := f l.frames }

/-- The start tick of the next frame, once every block of the current one is done (R50). -/
def Frames.next (f : Frames) : Option Nat :=
  if f.blocks.all fun b => f.num < b.frame then some (max (f.base + f.period) (f.last + 1)) else none

/-- FRAME_START: the start tick of frame 0, or of the frame after a complete one, has come (R50). -/
def execFrameStart (launch : Nat) (s : State) : Host.Outcome State Fault Refusal :=
  match s.launches.find? fun l => l.id.toNat == launch && l.frameMode && !l.finished with
  | none => .next s
  | some l =>
    let f := l.frames
    if !f.fixed then .next s
    else if !f.begun then
      (if f.base ≤ s.tick.toNat then .next (s.updFrames l.id fun f => { f with begun := true }) else .next s)
    else
      match f.next with
      | some t =>
        if t ≤ s.tick.toNat then .next (s.updFrames l.id fun f => { f with num := f.num + 1, base := t }) else .next s
      | none => .next s

/-- Whether block b of a launch is to be released now (R50). -/
def Frames.releases (f : Frames) (b : Block) (tick : Nat) : Bool :=
  f.begun && b.frame == f.num && !b.released && decide (f.base + b.release ≤ tick)

/-- BLOCK_RELEASE: the release tick of a block in its frame has come (R50, R51). -/
def execBlockRelease (launch : Nat) (b : BitVec 10) (s : State) : Host.Outcome State Fault Refusal :=
  match s.launches.find? fun l => l.id.toNat == launch && l.frameMode && !l.finished with
  | none => .next s
  | some l =>
    .next (s.updFrames l.id fun f => { f with
      blocks := f.blocks.mapIdx fun i x => if i = b.toNat && f.releases x s.tick.toNat then { x with released := true } else x })

/-! ### Pins (R246) -/

/-- The pins that some changes name. -/
def pinsOf (l : List PinChange) (set : Bool) : BitVec 8 :=
  (l.filter fun c => c.set == set).foldl (fun m c => m ||| c.pins) 0

/-- PIN_CHANGE: the changes whose tick has come take effect, SET before CLR (R246). -/
def execPinChange (s : State) : Host.Outcome State Fault Refusal :=
  let due := s.pkg.pinQueue.filter fun c => decide (c.tick.toNat ≤ s.tick.toNat)
  .next { s with pkg := { s.pkg with
    pinDriven := (s.pkg.pinDriven &&& ~~~(pinsOf due false)) ||| pinsOf due true
    pinQueue := s.pkg.pinQueue.filter fun c => !decide (c.tick.toNat ≤ s.tick.toNat) } }

/-! ### Completion and fault records (R396, R399, R417 to R419) -/

/-- A completion record with the tick of its writing (R399). -/
def stamped (rec_ : List Byte) (tick : W64) : List Byte := rec_.take 8 ++ leBytes 8 tick.toNat ++ rec_.drop 16

/-- COMPLETION_RECORD_WRITE: the oldest record that waits is written while the ring has room (R396). -/
def execCompletionRecordWrite (p : Fin 8) (s : State) : Host.Outcome State Fault Refusal :=
  let x := s.pkg.parts[p]
  match x.completions with
  | [] => .next s
  | c :: cs =>
    if (x.cr.tail - x.cr.head).toNat < x.ring x.cr.base 32 && !regionWaits s (ringKey x.cr.base 32 x.cr.tail.toNat) then
      .next ((s.devWrite (ringKey x.cr.base 32 x.cr.tail.toNat) (stamped c s.tick)).updPart p fun x =>
        { x with completions := cs, cr := { x.cr with tail := x.cr.tail + 1 } })
    else .next s

/-- The token of the item that a posted record stopped (R418): the partition in bits [31:29] and the record's sequence
number below (log 20). -/
def tokenOf (p : Fin 8) (seq : W64) : W32 := BitVec.ofNat 32 (p.val * 2 ^ 29 + seq.toNat % 2 ^ 29)

/-- The 64 bytes of a fault record (R418). -/
def faultBytes (p : Fin 8) (r : FaultRec) (seq : W64) : List Byte :=
  leBytes 8 seq.toNat ++ [r.cause] ++ leBytes 1 r.kind ++ leBytes 1 r.unit ++ leBytes 1 (resOf r.entry) ++
    leBytes 4 r.launch.toNat ++ leBytes 2 r.lcore ++ leBytes 1 p.val ++ leBytes 1 r.index ++ leBytes 4 r.pc.toNat ++
    leBytes 8 r.addr.toNat ++ leBytes 8 r.detail.toNat ++ leBytes 8 r.tick.toNat ++ leBytes 8 r.aux.toNat ++
    leBytes 4 (tokenOf p seq).toNat ++ leBytes 4 0

/-- Give the first record that waits its sequence number. -/
def numberFirst (seq : W64) : List FaultRec → List FaultRec
  | [] => []
  | r :: rs => if r.seq.isSome then r :: numberFirst seq rs else { r with seq := some seq } :: rs

/-- FAULT_RECORD_POST: the first record that waits is posted, while the queue has room (R419), and counts for its launch
(R399). -/
def execFaultRecordPost (p : Fin 8) (s : State) : Host.Outcome State Fault Refusal :=
  let x := s.pkg.parts[p]
  match x.faults.find? fun r => r.seq.isNone with
  | none => .next s
  | some r =>
    let k := x.fq
    let n := s.mem.word64 k
    if x.record.isEmpty || regionWaits s k then .next s
    else if (n - s.mem.word64 (k + 8)).toNat < 256 then
      let s1 := (s.devWrite (k + 4096 + 64 * (n.toNat % 256)) (faultBytes p r n)).devWrite k (leBytes 8 (n + 1).toNat)
      .next ((s1.updPart p fun x => { x with faults := numberFirst n x.faults }).updLaunch r.launch fun l =>
        { l with faults := l.faults + 1 })
    else .next s

/-! ### Trace samples (R435, R436) -/

/-- A context's PC and cycle counter. -/
def pcAndCycles (s : State) (c : Fin 3) : Nat × W64 :=
  if c = 0 then (s.r.f.pc.toNat, s.r.f.acyc)
  else if c = 1 then (s.r.d.pc.toNat, s.r.d.acyc)
  else (s.r.ep.pc.toNat, s.r.ep.ecyc)

/-- Whether the contexts of a residency may run: it is bound, or being saved (R429, R435). -/
def Residency.traced (r : Residency) : Bool := r.stage == .running || r.stage == .saving

/-- TRACE_PC_SAMPLE: every sample period the PC of a traced context is recorded (R435, R436). -/
def execTracePcSample (c : Fin 3) (s : State) : Host.Outcome State Fault Refusal :=
  let period := bits s.r.watch.trace.control 31 16
  if s.r.traced && s.tracing 0 c.val && period ≠ 0 && s.now % period = 0 then
    let (pc, n) := pcAndCycles s c
    .next (traceWrite s (traceRecord 1 c.val 0 pc n))
  else .next s

/-- The time stamp of one context. -/
def timeStamp (s : State) (c : Fin 3) : State :=
  if s.tracing 2 c.val then
    traceWrite s (traceRecord 3 c.val 0 ((pcAndCycles s c).2.toNat % 2 ^ 32) s.tick)
  else s

/-- TRACE_TIME_STAMP: every time-stamp period, in its first core cycle, each traced context gets a time
stamp (R435, R436). -/
def execTraceTimeStamp (s : State) : Host.Outcome State Fault Refusal :=
  let period := bits s.r.watch.trace.control 63 32
  if s.r.traced && period ≠ 0 && s.subtick = 0 && s.tick.toNat % period = 0 then
    .next ((List.finRange 3).foldl timeStamp s)
  else .next s

/-! ### The watchdog (R425) -/

/-- Whether an engine command that an AP context has issued, or a chain, stands at a fault (R276, R281). -/
def Residency.engineStopped (r : Residency) (x : ApId) : Bool :=
  r.cmds.any (fun c => c.issuer == x && match c.status with | .faulted _ => true | _ => false) || r.chains.toList.any (fun c => c.faulted.isSome)

/-- Whether a command of the queue or of Gauze stands at a fault (R338, R375): E issues them. -/
def Residency.queueStopped (r : Residency) : Bool :=
  r.mx.queue.any (fun q => q.fault.isSome) || r.gz.ops.any (fun g => g.fault.isSome)

/-- Whether a residency that does not move is stalled: some context is neither halted nor parked, and, where a command
fault stands, at least one that it does not stop (R425). Which contexts a command fault stops the spec does not say:
those that its own command serves, in this model (log 94). -/
def Residency.watched (r : Residency) : Bool :=
  (r.stage == .running || r.stage == .saving) &&
    ((r.f.status == .running && !r.engineStopped .f) || (r.d.status == .running && !r.engineStopped .d) ||
      (r.ep.status == .running && !r.queueStopped))

/-- Change what supervises the residency in focus. -/
def State.updWatch (s : State) (f : Watch → Watch) : State := s.updR fun r => { r with watch := f r.watch }

/-- WATCHDOG_EXPIRE: once a core cycle the device notes whether the residency has moved; one that has moved
nothing for W ticks, stalled without a break, gets one record with cause 0x7A (R425). -/
def execWatchdogExpire (s : State) : Host.Outcome State Fault Refusal :=
  let w := s.r.watch
  let limit := (s.pkg.fw.wdog[(Fin.ofNat 2 (dieOf s.entry))]).toNat
  if w.moved then .next (s.updWatch fun w => { w with moved := false, idle := 0, armed := true })
  else if !s.r.watched then .next (s.updWatch fun w => { w with idle := 0 })
  else
    let n := if s.subtick = 0 then w.idle + 1 else w.idle
    let s1 := s.updWatch fun w => { w with idle := n }
    if w.armed && limit ≠ 0 && limit ≤ n then
      .next ((s1.updWatch fun w => { w with armed := false }).record 3 0xFF 0xFF 0 0 ⟨0x7A, 0, 0⟩ .whole)
    else .next s1

end Sys2Proof.Machine
end

