-- ==== Sys2Proof/Machine/Save.lean ====
section
/-! DEFINITION. Pre-emption, the save area, restore and RUN (R429 to R433). -/

namespace Sys2Proof.Machine

/-! ### The save request (R429, R430) -/

/-- SAVE: dispatch accepts a save of a bound residency, which is pre-empted from now on (R402, R429). -/
def execSave (e : Fin 416) (s : State) : Host.Outcome State Fault Refusal :=
  let f := s.pkg.slots[e].record
  if byteAt f 0 != 3 then .next s
  else if !recordNames e f then .next (s.reject e 1)
  else if s.pkg.slots[e].state == 4 then .next (s.reject e 2)
  else if s.pkg.slots[e].state != 2 then .next (s.reject e 7)
  else
    .next ((s.updAt e.val fun r => { r with
      stage := .saving
      bind := { r.bind with save := le64 f 40 }
      watch := { r.watch with saveReq := some (s.clockOf r.bind.part) } }).updSlot e fun x => { x with state := 3 })

/-- FORCED_SAVE: the limit has run out before E reached a group switch. E is saved where it stands: its
latches are lost, and a record with cause 0x78 is posted (R430). -/
def execForcedSave (s : State) : Host.Outcome State Fault Refusal :=
  match s.r.watch.saveReq with
  | none => .next s
  | some t =>
    if s.r.stage == .saving && !s.r.eAtRest && !s.r.watch.forced && t + s.pkg.fw.saveLimit.toNat ≤ s.now then
      .next (((s.updWatch fun w => { w with forced := true }).updE fun e => { e with b := Vector.replicate 16 none }).record 4 2
        0xFF 0 0 ⟨0x78, 0, 0⟩ .whole)
    else .next s

/-- Whether a command of a residency that is being saved must still run to its end (R282). -/
def Cmd.mustEnd (c : Cmd) : Bool :=
  match c.status with
  | .waiting => c.row != 0 || c.off != 0
  | .written | .cancelled _ => true
  | _ => false

/-- Whether Gauze has completed every operation (R375). That a save does not wait for one that stands at a fault, nor for
those behind it, is the model's choice (log 140). -/
def Gauze.ended (g : Gauze) : Bool := match g.ops with | x :: _ => x.fault.isSome | [] => true

/-- Whether everything of the residency in focus stands where it can be saved (R282, R375, R429). -/
def Residency.saveReady (r : Residency) : Bool :=
  r.stage == .saving && r.f.pending.isNone && r.d.pending.isNone && r.eAtRest && !(r.cmds.any Cmd.mustEnd) &&
    r.gz.ended && r.chains.toList.all fun c => !c.busy || c.record.isEmpty || c.faulted.isSome

/-! ### The layout of a save area (R431, R432) -/

/-- Bytes of an AP loop stack: six entries, outermost first. -/
def loopBytes (l : List LoopEntry) : List Byte :=
  (l.reverse.flatMap fun e => leBytes 4 e.start ++ leBytes 4 e.stop ++ leBytes 4 e.count ++ leBytes 4 e.index) ++
    List.replicate (96 - 16 * l.length) 0

/-- An AP loop stack from its bytes. -/
def loopsOf (n : Nat) (f : List Byte) : List LoopEntry :=
  ((List.range n).map fun i =>
    let w (j : Nat) : Nat := (le32 f (16 * i + 4 * j)).toNat
    (⟨w 0, w 1, w 2, w 3⟩ : LoopEntry)).reverse

/-- Predicates as bits. -/
def predBits (q : Vector Bool 8) : Nat := ((List.range 8).map fun i => if i ≠ 0 && q[Fin.ofNat 8 i] then 2 ^ i else 0).sum + 1

/-- Predicates from bits. -/
def predsOf (b : Byte) : Vector Bool 8 := Vector.ofFn fun i => bit b i.val

/-- Registers as bytes. -/
def regBytes (a : Vector W64 32) : List Byte := a.toList.flatMap fun w => leBytes 8 w.toNat

/-- An AP context as the area holds it. -/
def ctxBytes (c : ApCtx) : List Byte :=
  regBytes c.a ++ leBytes 4 c.pc.toNat ++ leBytes 4 (predBits c.q) ++ leBytes 8 c.loops.length ++ loopBytes c.loops ++
    leBytes 8 c.acyc.toNat ++ leBytes 8 c.ainst.toNat ++ leBytes 8 c.ablk.toNat

/-- An AP context from the area; what the area does not hold comes from `c`. -/
def ctxOf (f : List Byte) (c : ApCtx) : ApCtx :=
  { c with
    a := Vector.ofFn fun i => le64 f (8 * i.val), pc := le32 f 0x100, q := predsOf (byteAt f 0x104)
    loops := loopsOf (byteAt f 0x108).toNat (f.drop 0x110)
    acyc := le64 f 0x170, ainst := le64 f 0x178, ablk := le64 f 0x180 }

/-- The task state of F (R288), from +0x188 on. -/
def taskBytes (t : TaskState) : List Byte :=
  leBytes 1 t.inTask.toNat ++ leBytes 3 t.sideEffect.toNat ++ leBytes 4 t.dispatch.toNat ++ t.record.bytes ++
    regBytes t.snapshot.a ++ leBytes 4 (predBits t.snapshot.q) ++ leBytes 4 t.snapshot.loops.length ++ loopBytes t.snapshot.loops

/-- The task state of F from the area. -/
def taskStateOf (f : List Byte) : TaskState :=
  ⟨byteAt f 0 == 1, le32 f 4, byteAt f 1 == 1, taskOfBytes ((f.drop 8).take 64),
    ⟨Vector.ofFn fun i => le64 f (72 + 8 * i.val), predsOf (byteAt f 328), loopsOf (byteAt f 332).toNat (f.drop 336)⟩⟩

/-- One level of E's loop stack: start, stop, count, index, then S, base, stop and executions of its
pipelined run. -/
def eloopBytes (l : ELoop) : List Byte :=
  let p := l.pipe.getD ⟨0, 0, 0, 0⟩
  [l.start, l.stop, l.count, l.index, p.stages, p.base, p.stop, p.exec].flatMap (leBytes 4)

/-- One level of E's loop stack from its bytes. -/
def eloopOf (f : List Byte) : ELoop :=
  let w (j : Nat) : Nat := (le32 f (4 * j)).toNat
  ⟨w 0, w 1, w 2, w 3, if w 4 = 0 then none else some ⟨w 4, w 5, w 6, w 7⟩⟩

/-- The registers of E as the area holds them. -/
def epBytes (e : EpCtx) (lfsrM : W32) : List Byte :=
  leBytes 8 e.pc.toNat ++ (e.s.toList.flatMap fun w => leBytes 4 w.toNat) ++
    ((e.m.toList.drop 1).flatMap fun w => leBytes 8 w.toNat) ++ (e.f.toList.flatMap fun w => leBytes 4 w.toNat) ++
    leBytes 8 e.loops.length ++ (e.loops.reverse.flatMap eloopBytes) ++ List.replicate (192 - 32 * e.loops.length) 0 ++
    leBytes 4 e.vsp.toNat ++ leBytes 4 e.vregs ++ leBytes 4 e.lfsrV.toNat ++ leBytes 4 lfsrM.toNat ++
    leBytes 8 e.ecyc.toNat ++ leBytes 8 e.einst.toNat ++ leBytes 8 e.eblk.toNat ++ leBytes 8 e.etag.toNat

/-- The registers of E from the area; what the area does not hold comes from `e`. -/
def epOf (f : List Byte) (e : EpCtx) : EpCtx :=
  { e with
    pc := le32 f 0
    s := Vector.ofFn fun i => le32 f (8 + 4 * i.val)
    m := Vector.ofFn fun i => if i.val = 0 then 0 else le64 f (136 + 8 * (i.val - 1))
    f := Vector.ofFn fun i => le32 f (256 + 4 * i.val)
    loops := ((List.range (byteAt f 288).toNat).map fun i => eloopOf (f.drop (296 + 32 * i))).reverse
    vsp := (le32 f 488).setWidth 23, vregs := (le32 f 492).toNat, lfsrV := le32 f 496
    ecyc := le64 f 504, einst := le64 f 512, eblk := le64 f 520, etag := le64 f 528 }

/-- A handle register: its header, then whether it is valid, its rights and index, its bounds. -/
def handleBytes : Option Handle → List Byte
  | none => List.replicate 96 0
  | some h => h.hdr.take 64 ++ leBytes 1 1 ++ leBytes 1 (h.read.toNat + 2 * h.write.toNat) ++ leBytes 2 h.index.toNat ++
      leBytes 4 h.recorded.toNat ++ leBytes 8 h.base.toNat ++ leBytes 8 h.len.toNat ++ leBytes 8 0

/-- A handle register from its bytes. -/
def handleOf (f : List Byte) : Option Handle :=
  if byteAt f 64 = 1 then
    some ⟨f.take 64, BitVec.ofNat 16 (le16 f 66), bit (byteAt f 65) 0, bit (byteAt f 65) 1, le64 f 72, le64 f 80, byteAt f 68 == 1⟩
  else none

/-- A queue of words of k bytes with its length. -/
def queueBytes (k size : Nat) (q : List Nat) : List Byte :=
  leBytes 8 q.length ++ q.flatMap (leBytes k) ++ List.replicate (k * (size - q.length)) 0

/-- A queue of words of k bytes. -/
def queueOf (k : Nat) (f : List Byte) : List Nat :=
  (List.range (byteAt f 0).toNat).map fun i => leNat ((f.drop (8 + k * i)).take k)

/-- Handles, queues, follow-on table, bovr, gmem, chains and the yield flag. -/
def miscBytes (r : Residency) : List Byte :=
  (r.h.toList.flatMap handleBytes) ++ queueBytes 8 32 (r.xq.map (·.toNat)) ++ queueBytes 8 32 (r.yq.map (·.toNat)) ++
    queueBytes 4 16 (r.fq.map (·.toNat)) ++ (r.follow.toList.flatMap (leBytes 1)) ++ leBytes 8 r.bovr.toNat ++
    leBytes 8 r.bind.gmem.toNat ++ (r.chains.toList.flatMap fun c => leBytes 8 c.ptr.toNat ++ leBytes 8 c.busy.toNat) ++
    leBytes 8 r.watch.yield.toNat

/-- What `miscBytes` holds, put back. -/
def miscOf (f : List Byte) (r : Residency) : Residency :=
  let o := 1536
  let c := o + 264 + 264 + 72
  { r with
    h := Vector.ofFn fun i => handleOf ((f.drop (96 * i.val)).take 96)
    xq := (queueOf 8 (f.drop o)).map (BitVec.ofNat 64)
    yq := (queueOf 8 (f.drop (o + 264))).map (BitVec.ofNat 64)
    fq := (queueOf 4 (f.drop (o + 528))).map (BitVec.ofNat 32)
    follow := Vector.ofFn fun i => (byteAt f (c + i.val)).toNat
    bovr := le64 f (c + 128)
    chains := Vector.ofFn fun i => { r.chains[i] with
      ptr := le64 f (c + 144 + 16 * i.val), busy := byteAt f (c + 152 + 16 * i.val) == 1 } }

/-- The committed granules that a save keeps: whole elements of 256 bytes (R124). -/
def StreamReg.keptCommits (r : StreamReg) : BitVec 24 :=
  if r.code = 6 then BitVec.ofNat 24 (r.committed.toNat / 4 * 4) else r.committed

/-- A stream register as a save leaves it (R124, R135, R429): what is claimed and not committed is discarded; on a side
that fetches, the cursor goes back to the first element not committed; an ingest frame under way is dropped. -/
def savedStream (r : StreamReg) : StreamReg :=
  let s := { r with claimed := r.keptCommits, committed := r.keptCommits, landed := 0, pin := none }
  if 1 ≤ r.kind && r.kind ≤ 3 then
    { s with
      cursor := r.cursor - BitVec.ofNat 32 (r.landed / r.esize)
      exhausted := false, dec := .idle
      src := if r.kind = 2 then r.src.set 1 0 else r.src }
  else if r.kind = 6 && r.ing.admitted then
    { s with
      drops := r.drops + 1
      ing := { r.ing with admitted := false, eof := none, gap := r.ing.gap + 1 } }
  else s

/-- A register as a restore finds it: room is claimed again for what was saved with a claim of its own, the results of E
in flight and the completion granules of commands that have not started (R135, R282, R431, log 95). -/
def StreamReg.reclaimed (r : StreamReg) : StreamReg :=
  if r.kind = 7 then { r with claimed := r.claimed + BitVec.ofNat 24 (r.claimFor 0) }
  else if r.kind = 9 then { r with claimed := r.claimed + BitVec.ofNat 24 r.holds }
  else r

/-- The residency in focus as it is saved. -/
def savedForm (r : Residency) : Residency :=
  { r with
    st := r.st.map savedStream
    chains := r.chains.map fun c => { c with record := [], offset := 0, stamped := false }
    cmds := r.cmds.map fun c => { c with pins := [] }
    ep := { r.ep with b := Vector.replicate 16 none, atSwitch := false, occupied := 0 }
    watch := { r.watch with yield := false, saveReq := none, forced := false } }

/-- The shares of a residency as the codes of its bind record: banks, apim, epim, wbuf, smem, jsh (R401). -/
def Bind.shares (b : Bind) : List Byte :=
  ([b.banks / 8, b.apim / 16384, b.epim / 32768, Nat.log2 (b.wbuf / 65536), b.smem / 16384, Nat.log2 (b.jsh / 262144)]).flatMap
    (leBytes 1)

/-- The save header (R432). -/
def saveHeader (s : State) (r : Residency) (faults : Bool) : List Byte :=
  let b := r.bind
  [0x4B, 0x53, 0x56, 0x31] ++ leBytes 2 1 ++ leBytes 1 (b.frame.toNat + 2 * s.r.watch.forced.toNat + 4 * faults.toNat) ++
    leBytes 1 (resOf b.e) ++ leBytes 4 b.launch.toNat ++ leBytes 2 b.lcore ++ leBytes 2 b.n ++
    b.shares ++ [0, 0] ++ leBytes 8 b.gmem.toNat ++ leBytes 8 s.launch.image.toNat ++ leBytes 8 s.tick.toNat

/-- Bytes of the share behind one entry of a direct mode (R354). -/
def entryBytes (c : JCfg) : Nat := if c.tile then 512 else 16

/-- An entry of the share that holds some values: its words, and in the second half of one of hash-scalar its key with
bit 63 set (R354, log 18). -/
def JEntry.bytes (c : JCfg) (e : JEntry) : List Byte :=
  (e.vals.flatMap fun w => leBytes 4 w.toNat) ++ (if c.tile then [] else List.replicate 4 0 ++ leBytes 8 (if c.hash then e.key + 2 ^ 63 else 0))

/-- The Damask share: each entry or slot in order, zero where it is not listed (R354, R431). -/
def damaskBytes (r : Residency) : List Byte :=
  match r.dm.cfg with
  | some c =>
    (List.range (c.entries r.bind.jsh)).flatMap fun i =>
      match r.dm.store.find? fun e => e.place == i with
      | some e => e.bytes c
      | none => List.replicate (entryBytes c) 0
  | none => []

/-! ### Results in flight (R196, R431; the fields' order is the model's own, log 18) -/

/-- A destination as a number of eight bytes: its kind, then its register or queue entry. -/
def EDest.code : EDest → Nat
  | .none => 0
  | .vreg n => 1 + 256 * n.val
  | .sreg n => 2 + 256 * n.val
  | .mask n => 3 + 256 * n.val
  | .push n => 4 + 256 * n.val
  | .yq => 5
  | .jport id => 6 + 256 * id

/-- A destination from its number. -/
def destOf (v : Nat) : EDest :=
  match v % 256 with
  | 1 => .vreg (Fin.ofNat 64 (v / 256))
  | 2 => .sreg (Fin.ofNat 32 (v / 256))
  | 3 => .mask (Fin.ofNat 16 (v / 256))
  | 4 => .push (Fin.ofNat 32 (v / 256))
  | 5 => .yq
  | 6 => .jport (v / 256)
  | _ => .none

/-- A value: its kind, then 256 bytes. A G.REUSE ends before a save, so its granules are never in one (R429). -/
def EVal.encode : EVal → List Byte
  | .vec v => leBytes 8 0 ++ bytesOfLanes v
  | .sc w => leBytes 8 1 ++ leBytes 256 w.toNat
  | .mask w => leBytes 8 2 ++ leBytes 256 w.toNat
  | .bytes bs _ => leBytes 8 3 ++ bs.take 256 ++ List.replicate (256 - bs.length) 0

/-- A value from its bytes. -/
def valOf (f : List Byte) : EVal :=
  match (byteAt f 0).toNat with
  | 0 => .vec (lanesOfBytes ((f.drop 8).take 256))
  | 1 => .sc (le32 f 8)
  | 2 => .mask (le64 f 8)
  | _ => .bytes ((f.drop 8).take 256) []

/-- A result in flight: slots remaining, destination, guard, latch, value: 296 bytes. -/
def InFlight.encode (x : InFlight) : List Byte :=
  leBytes 8 x.left ++ leBytes 8 x.dest.code ++ leBytes 8 x.guard.toNat ++
    leBytes 8 (match x.latch with | some k => 1 + k.val | none => 0) ++ x.val.encode

/-- A result in flight from its bytes. -/
def inFlightOf (f : List Byte) : InFlight :=
  let l := (byteAt f 24).toNat
  ⟨leNat (f.take 8), destOf (leNat ((f.drop 8).take 8)), valOf (f.drop 32), le64 f 16,
    if l = 0 then none else some (Fin.ofNat 16 (l - 1))⟩

/-- What stands in a save area apart from the scratchpad, by offset (R431); `id` stands for the parts in
the device's own encoding. -/
def saveParts (s : State) (r : Residency) (id : Nat) (faults : Bool) : List (Nat × List Byte) :=
  [(0, saveHeader s r faults), (0x1000, ctxBytes r.f ++ taskBytes r.task), (0x1800, ctxBytes r.d),
    (0x2000, epBytes r.ep r.mx.lfsr ++ leBytes 8 r.ep.inflight.length ++ r.ep.inflight.flatMap InFlight.encode),
    (0x4000, (List.range 64).flatMap fun i =>
      if i < r.ep.vregs then bytesOfLanes r.ep.v[Fin.ofNat 64 i] else List.replicate 256 0),
    (0x8000, r.st.toList.flatMap fun x => (List.finRange 16).flatMap fun w => leBytes 8 (x.pack w).toNat),
    (0x9000, r.st.toList.flatMap fun x =>
      (x.addrs.flatMap fun a => leBytes 8 a.toNat) ++ List.replicate (512 - 8 * x.addrs.length) 0),
    (0xD000, miscBytes r),
    (0xE000, (r.cmds.filter fun c => c.status == .waiting).flatMap fun c => c.fields),
    (0x22000, leBytes 8 id ++ leBytes 8 r.deque.length),
    (0x46000, r.deque.flatMap TaskRec.bytes),
    (0x450000, damaskBytes r),
    (0x550000, s.mem.bytes (wbufKey r.bind.e 0) r.bind.wbuf),
    (0x590000, s.mem.bytes (smemKey r.bind.e 0) r.bind.smem)]

/-- Free: the word at an offset of the parts that are in the device's own encoding: the commands, the queues and the units'
state that it encodes are known, their places in it are not (R431, R434, log 18). -/
opaque ownWord : List Cmd → Matrix → Damask → Gauze → Nat → W64

/-- Whether a fault record is one of a residency that is still pending: one of a context, a command, a stream, or of the
residency itself (0x7A). A notice is serviced when it is consumed, and concerns nothing (R422). -/
def FaultRec.isOf (f : FaultRec) (b : Bind) : Bool :=
  f.entry == b.e && f.launch == b.launch && f.kind != 4 && f.item != .gone

/-- The fault records of the residency in focus that are pending. -/
def State.faultsHere (s : State) : List FaultRec := s.part.faults.filter fun f => f.isOf s.r.bind

/-- Whether a fault of the residency in focus is pending: one with a record, or that of a stream whose record has been
cancelled (R422, R432). -/
def State.faulted (s : State) : Bool :=
  !s.faultsHere.isEmpty || s.r.st.toList.any fun x => x.isOpen && x.fpend && !x.held

/-- The 8 bytes at an offset of the layout of the residency in focus; the scratchpad share stands in memory (R434). -/
def layoutWord (s : State) (r : Residency) (o : Nat) : W64 :=
  if 0xE000 ≤ o && o < 0x46000 then ownWord r.cmds r.mx r.dm r.gz o
  else if 0x50000 ≤ o && o < 0x50000 + 131072 * r.bind.banks then s.mem.word64 (spadKey r.bind.e (o - 0x50000))
  else
    match (saveParts s r 0 s.faulted).find? fun p => decide (p.1 ≤ o) && decide (o + 8 ≤ p.1 + p.2.length) with
    | some p => le64 p.2 (o - p.1)
    | none => 0

/-! ### SAVE_COMPLETE (R429, R431) -/

/-- A number that no saved residency has. -/
def State.vaultId (s : State) : Nat := s.vault.foldl (fun n v => max n (v.id + 1)) 0

/-- SAVE_COMPLETE: the residency stands at its boundaries; its state goes to the save area, its pending
faults travel with it, and its entry is free (R422, R429, R431). -/
def execSaveComplete (s : State) : Host.Outcome State Fault Refusal :=
  if !s.r.saveReady || s.now < s.r.f.wake || s.now < s.r.d.wake || rangeWaits s s.r.bind.save.toNat (98304 * 64) then .next s
  else
    let r := savedForm s.r
    let e := s.entry
    let k := s.r.bind.save.toNat
    let id := s.vaultId
    let fs := s.faultsHere
    let m := s.mem.scrub (k / 64) 98304
    let s1 := (saveParts s r id s.faulted).foldl (fun t p => t.devWrite (k + p.1) p.2) { s with mem := m }
    let m1 := s1.mem.moveGranules (spadKey e 0 / 64) ((k + 0x50000) / 64) (2048 * r.bind.banks)
    let keep (f : FaultRec) : Option FaultRec :=
      if f.isOf s.r.bind then (if f.seq.isNone then some { f with item := .gone } else none) else some f
    let s2 : State := { s1 with mem := m1, vault := ⟨id, r, fs⟩ :: s1.vault }
    let s3 := s2.updPart s2.r.bind.part fun p => { p with faults := p.faults.filterMap keep }
    .next (s3.vacate (Fin.ofNat 416 e))

/-- Whether a saved residency still waits for its restore: its launch goes on, its core is not bound, and nothing newer
has been saved of it. -/
def Saved.live (v : Saved) (s : State) : Bool :=
  let same (r : Residency) : Bool := r.bind.launch == v.res.bind.launch && r.bind.lcore == v.res.bind.lcore
  (s.launches.any fun l => l.id == v.res.bind.launch && !l.finished) && !(s.all.any fun r => r.stage != .free && same r) &&
    (s.vault.find? fun w => same w.res).any fun w => w.id == v.id

/-- The residencies that are saved. -/
def State.saved (s : State) : List Saved := s.vault.filter fun v => v.live s

/-! ### RESTORE and RUN (R433) -/

/-- Whether a save header agrees with the record of a restore (R433). -/
def headerAgrees (h f : List Byte) : Bool :=
  h.take 4 == [0x4B, 0x53, 0x56, 0x31] && le16 h 4 == 1 && le32 h 8 == le32 f 16 && le16 h 12 == le16 f 20 &&
    le16 h 14 == le16 f 22 && (h.drop 16).take 6 == (f.drop 7).take 6 && le64 h 24 == (le64 f 24 &&& 0xFFFFFFFFF)

/-- The encoded part that a save area at an address names, where it is of a save of this residency: of its partition,
launch and core, with its shares (R394, log 18, log 106). -/
def State.vaultAt (s : State) (b : Bind) (k : Nat) : Option Saved :=
  let same (v : Bind) : Bool := v.part == b.part && v.launch == b.launch && v.lcore == b.lcore && v.shares == b.shares
  s.vault.find? fun v => v.id == (s.mem.word64 (k + 0x22000)).toNat && same v.res.bind

/-- A register of a save area as a restore installs it: closed where its ring would leave the share, or where it takes an
ingest channel that the partition has no grant of (R394, log 106). -/
def StreamReg.confined (x : StreamReg) (banks : Nat) (ingest : W32) : StreamReg :=
  if (x.ringBase + x.size) * 64 ≤ banks * 131072 && (x.kind ≠ 6 || bit ingest x.channel) then x else StreamReg.closed

/-- A spill pointer of a save area as a restore installs it: the base of the spill region where it points outside that
(R394, log 106). -/
def confinedVsp (banks : Nat) (v : BitVec 23) : BitVec 23 :=
  let base := banks * 131072 - 16384
  if base ≤ v.toNat ∧ v.toNat ≤ base + 16384 then v else BitVec.ofNat 23 base

/-- The residency that a save area holds, for a new bind. What the controlling master may have written into the area
leads to no memory outside the residency's own shares (R394, log 106). Its commands hold slots of R275 at once, also
beside those of the core's other residency (log 110). -/
def restored (s : State) (b : Bind) (k vregs : Nat) : Residency :=
  let base := match s.vaultAt b k with
    | some v => v.res
    | none => Residency.fresh b vregs
  let at_ (o n : Nat) : List Byte := s.mem.bytes (k + o) n
  let ep := at_ 0x2000 0x2000
  let stream (n : Fin 32) : StreamReg :=
    let old := base.st[n]
    let new := unpackStream (at_ (0x8000 + 128 * n.val) 128)
    { old with
      control := new.control, ring := new.ring, src := new.src, claimed := new.claimed, committed := new.committed
      tpos := new.tpos, ended := new.ended, heads := new.heads, awaits := new.awaits, cursor := new.cursor
      fcause := new.fcause, fpend := new.fpend, faddr := new.faddr
      drops := if new.kind = 6 then old.drops else new.drops
      addrs := (List.range old.addrs.length).map fun i => le64 (at_ (0x9000 + 512 * n.val) 512) (8 * i) }
  let r1 := miscOf (at_ 0xD000 0x1000) { base with
    bind := b, stage := .held
    f := ctxOf (at_ 0x1000 0x800) base.f, d := ctxOf (at_ 0x1800 0x800) base.d
    task := taskStateOf (at_ 0x1188 0x800)
    ep := { epOf ep base.ep with
      vregs := vregs, vsp := confinedVsp b.banks (epOf ep base.ep).vsp
      inflight := (List.range (le64 ep 536).toNat).map fun i => inFlightOf (ep.drop (544 + 296 * i))
      v := Vector.ofFn fun i => lanesOfBytes (at_ (0x4000 + 256 * i.val) 256) }
    st := Vector.ofFn fun n => ((stream n).confined b.banks (s.pkg.parts[b.part]).ingest).reclaimed
    deque := (List.range (min (s.mem.word64 (k + 0x22008)).toNat dequeSize)).map fun i => taskOfBytes (at_ (0x46000 + 64 * i) 64)
    mx := { base.mx with lfsr := le32 ep 500 } }
  r1.latch

/-- The key of entry i of a share, where it holds one: that of a direct entry is its place, a slot of hash-scalar has it
beside its value, and a way of hash-tile, which its values fill, in the device's own part (log 18). -/
def restoredKey (r : Residency) (c : JCfg) (f : List Byte) (i : Nat) : Option Nat :=
  if !c.hash then some i
  else if c.tile then (r.dm.store.find? fun e => e.place == i).map fun e => e.key
  else if bit (le64 f 8) 63 then some (bits (le64 f 8) 62 0)
  else none

/-- Entry i of a share as a save area has it; a direct entry whose words are all zero is not listed. -/
def restoredEntry (s : State) (k : Nat) (r : Residency) (c : JCfg) (i : Nat) : Option JEntry :=
  let f := s.mem.bytes (k + 0x450000 + entryBytes c * i) (entryBytes c)
  let vals := (List.range c.width).map fun j => le32 f (4 * j)
  if !c.hash && vals.all (fun w => w == 0) then none else (restoredKey r c f i).map fun key => ⟨i, key, vals⟩

/-- The Damask store of a restored residency (R431). -/
def restoredStore (s : State) (k : Nat) (r : Residency) : Damask :=
  match r.dm.cfg with
  | some c => { r.dm with store := (List.range (c.entries r.bind.jsh)).filterMap (restoredEntry s k r c) }
  | none => r.dm

/-- The handles that the launch record loaded take the bounds and rights of their object-table entries as those now
stand, where an entry is still valid (R405, log 89). -/
def refreshHandles (s : State) : State :=
  let fresh (h : Handle) : Handle :=
    let e := objectEntry s h.index.toNat
    if h.recorded && decide (h.index.toNat < s.part.oents) && tensorEntry e then
      { entryHandle e h.index with hdr := h.hdr, recorded := true }
    else h
  s.updR fun r => { r with h := r.h.map fun x => x.map fresh }

/-- Whether the reads of a restore wait for region tables: of the save area, of the image copy that its header names, and
of the object table (R409). -/
def restoreWaits (s : State) (e : Fin 416) : Bool :=
  let f := s.pkg.slots[e].record
  let b := bindOf e f
  let k := (le64 f 40).toNat
  let img := (s.mem.word64 (k + 32)).toNat
  let x := s.pkg.parts[b.part]
  rangeWaits s k (98304 * 64) || rangeWaits s img (s.mem.word64 (img + 8)).toNat ||
    rangeWaits s x.otab (64 * x.oents)

/-- RESTORE: dispatch checks the record, the sequencer the header; then the core is scrubbed, the code
reloaded and the saved state installed, held until RUN (R433). An image copy that fails its check, that would lie
outside the partition's privileged range, or whose code does not fit the shares, is an overlay load failure (R25, R394,
R404, log 106). -/
def execRestore (e : Fin 416) (s : State) : Host.Outcome State Fault Refusal :=
  let f := s.pkg.slots[e].record
  if byteAt f 0 != 4 then .next s
  else
    match bindReject s e f true with
    | some r => .next (s.reject e r)
    | none =>
      let k := (le64 f 40).toNat
      let h := s.mem.bytes k 256
      if !headerAgrees h f then .next (s.reject e 8)
      else
        let b := bindOf e f
        let r := restored s b k (8 * (byteAt f 13).toNat)
        let img := (le64 h 32).toNat
        let s1 := (planFor s e f).updSlot e fun x => { x with state := 1 }
        let s2 := s1.install { r with dm := restoredStore s k r }
        let size := (s.mem.word64 (img + 8)).toNat
        if !inRanges [(s.pkg.parts[b.part]).priv] img size || (s.mem.readCause (granulesOf (keysFrom img size))).isSome ||
            !b.fits (s.mem.bytes img size) then .next (s2.removeLaunch b.launch 6)
        else .next (s2.within e.val fun t =>
          let t1 := scrubShares t
          let m := t1.mem.moveGranules ((k + 0x50000) / 64) (spadKey e.val 0 / 64) (2048 * b.banks)
          let m1 := (m.fill (wbufKey e.val 0) (m.bytes (k + 0x550000) b.wbuf)).fill (smemKey e.val 0)
            (m.bytes (k + 0x590000) b.smem)
          refreshHandles (loadCode { t1 with mem := m1 } (m1.bytes img size)))

/-- The faults of a restored residency are filed again under its new entry (R433). -/
def refile (s : State) (r : Residency) : State :=
  match s.vaultAt r.bind r.bind.save.toNat with
  | none => s
  | some v =>
    s.updPart r.bind.part fun p => { p with
      faults := (v.faults.map fun f => { f with entry := r.bind.e, seq := none, cycle := s.cycle }).foldl
        (fun l f => fileRecord f l) p.faults }

/-- RUN: the held residencies of a launch start when all of them are held (R433). -/
def execRun (launch : W32) (s : State) : Host.Outcome State Fault Refusal :=
  let rs := s.all.filter fun r => r.stage == .held && r.bind.launch == launch
  let n := match rs with | r :: _ => r.bind.n | [] => 0
  let go := rs.length ≠ 0 && rs.length == n
  let s1 : State := { s with pkg := { s.pkg with fw := { s.pkg.fw with
    runLaunch := launch, runStarted := go } } }
  if !go then .next s1
  else
    let start (t : State) (r : Residency) : State :=
      (refile ((t.updAt r.bind.e fun x => { x with stage := .running }).updSlot (Fin.ofNat 416 r.bind.e)
        fun x => { x with state := 2 }) r).within r.bind.e fun t => t.payOverruns.settle
    .next (rs.foldl start s1)

end Sys2Proof.Machine
end

