-- ==== Sys2Proof/Machine/Service.lean ====
section
/-! DEFINITION. Service of faults (R421 to R424), shootdowns (R415, R423), stop requests and freeze (R426,
R434), trace requests (R435) and host accesses that are never answered (R420). -/

namespace Sys2Proof.Machine

/-! ### Actions on a record (R422) -/

/-- The residency that a record concerns, while it is bound and not saved: one whose save is still under way counts. -/
def recordHome (s : State) (r : FaultRec) : Option Residency :=
  s.all.find? fun x => x.bind.e == r.entry && x.bind.launch == r.launch &&
    (x.stage == .running || x.stage == .saving || x.stage == .done)

/-- Whether a posted record of partition p is still pending (R422): its residency is bound, and its stream has not been
closed nor its residency saved since; a notice until it is consumed. -/
def recordPending (s : State) (p : Fin 8) (r : FaultRec) : Bool :=
  match r.seq with
  | none => false
  | some n =>
    if r.kind = 4 then decide ((n - s.mem.word64 ((s.pkg.parts[p]).fq + 8)).toNat < 256)
    else (recordHome s r).isSome && r.item != .gone

/-- A record is serviced: the device forgets it. -/
def State.dropRecord (s : State) (p : Fin 8) (r : FaultRec) : State :=
  s.updPart p fun x => { x with faults := x.faults.filter fun f => !(f.seq == r.seq && f.entry == r.entry) }

/-- RESUME of an AP context (R422, R250, R165). -/
def resumeAp (s : State) (c : ApId) (r : FaultRec) : State :=
  let trap := 0x70 ≤ r.cause && r.cause ≤ 0x77
  let s1 := s.updCtx c fun x => { (if trap then x.flow .next else x) with status := .running }
  if r.cause ≠ 0x60 then s1
  else
    match decodeABytes (leBytes 4 r.detail.toNat) with
    | .ok (.barWait _ n) =>
      match s1.r.groupSlot n.toNat with
      | some j =>
        let mask := ~~~(BitVec.ofNat 64 (0xFFFF * 2 ^ (16 * j)))
        s1.updR fun x => { x with bovr := x.bovr &&& mask, start := { x.start with bovr := x.start.bovr &&& mask } }
      | none => s1
    | _ => s1

/-- RESUME of context E (R422, R328). The advance that an ETRAP at the end of a body then makes is no group switch at which a
save is accepted: the spec does not say that it is one (log 119). -/
def resumeEp (s : State) (r : FaultRec) : State :=
  let trap := 0x70 ≤ r.cause && r.cause ≤ 0x77
  s.updE fun e =>
    let e1 := { e with status := .running }
    if trap then { e1.moveTo s.eRequest (e1.pc.toNat + 8) with atSwitch := false } else e1

/-- RESUME (R422); none where the action does not fit the record. -/
def actResume (s : State) (r : FaultRec) : Option State :=
  match r.kind, r.item with
  | 0, .ap c => some (resumeAp s c r)
  | 0, .ep => some (resumeEp s r)
  | 1, .engine id => some (s.updCmd id fun c => { c with status := if c.row = blkRows c.fields then .written else .waiting })
  | 1, .chain ch => some (s.updChain ch fun c => { c with faulted := none })
  | 1, .queue id => some (s.updQ id fun q => { q with fault := none })
  | 1, .gauze => some (s.updGz fun g => { g with ops := g.ops.map fun x => { x with fault := none } })
  | 2, .stream n => some (s.updSt n fun x => { x with fpend := false })
  | 3, _ => some (s.updWatch fun w => { w with idle := 0, armed := true })
  | 4, _ => some s
  | _, _ => none

/-- REDIRECT (R422): the new PC lies in the section, at an instruction's multiple. -/
def actRedirect (s : State) (r : FaultRec) (arg : W64) : Option State :=
  match r.kind, r.item with
  | 0, .ap c =>
    if arg.toNat < (s.r.section c).2 && arg.toNat % 4 = 0 then
      some (s.updCtx c fun x => { x with status := .running, pc := arg.setWidth 32 })
    else none
  | 0, .ep =>
    if arg.toNat < s.r.bind.epSize && arg.toNat % 8 = 0 then
      some (s.updE fun e => { e with status := .running, pc := arg.setWidth 32 })
    else none
  | _, _ => none

/-- A queue command is removed (R338). A WLOAD that had started leaves its descriptor invalid; as of issue it still counts
as loaded, and a command that names it faults at its start (R346, R347). The mark that a J.MERGE has set on head 0 of its B
stays: the spec does not say that a cancelled one releases it (log 124). -/
def cancelQueue (s : State) (id : Nat) : State := s.updMx fun m => { m with queue := m.queue.filter fun x => x.id != id }

/-- CANCEL (R422, R276, R281, R338). A chain record whose status write itself meets a fault stays without it, and its channel
is idle: the spec does not say what happens there (log 128). -/
def actCancel (s : State) (r : FaultRec) (status : Cause) : Option State :=
  match r.kind, r.item with
  | 1, .engine id => some (s.updCmd id fun c => { c with status := .cancelled status })
  | 1, .chain ch =>
    some (match standingRecord s ch with
      | some f => (match chainEnd s ch f status with
        | .ok s1 => s1
        | .error _ => (s.chainIdle ch).settle)
      | none => (s.chainIdle ch).settle)
  | 1, .queue id => some (cancelQueue s id).settle
  | 1, .gauze => some s.gauzeNext
  | 2, .stream _ => some s
  | _, _ => none

/-- Whether the CANCEL of a pending record of a chain channel waits: its write in the transfer record, or the read of that
record, meets a region table whose installation is pending (R281, R409). -/
def cancelWaits (s : State) (p : Fin 8) (r : Option FaultRec) (status : Cause) : Bool :=
  let held {α : Type} (x : Except Stop α) : Bool := match x with | .error .block => true | _ => false
  match r with
  | none => false
  | some r =>
    recordPending s p r && (match r.kind, r.item with
      | 1, .chain ch =>
        let t := s.focusOn r.entry
        let c := t.r.chains[ch]
        (c.record.isEmpty && held (resolve t c.ptr 64 true false)) ||
          (match standingRecord t ch with | some f => held (chainEnd t ch f status) | none => false)
      | _, _ => false)

/-- Do an action on a pending record: the state and the result of R421. A notice is serviced when it is consumed, by no
action (R422). -/
def serviceRecord (s : State) (p : Fin 8) (r : Option FaultRec) (act : State → FaultRec → Option State) : State × Byte :=
  match r with
  | none => (s, 1)
  | some r =>
    if !recordPending s p r then (s, 1)
    else
      let t := s.focusOn r.entry
      match act t r with
      | none => (s, 2)
      | some t1 => (if r.kind = 4 then s else (t1.focusOn s.r.bind.e).dropRecord p r, 0)

/-! ### FAULT_ACT (R423) -/

/-- The record that a token names, with its partition. -/
def recordByToken (s : State) (token : W32) : Fin 8 × Option FaultRec :=
  let p := Fin.ofNat 8 (bits token 31 29)
  (p, (s.pkg.parts[p]).faults.find? fun r => r.seq.any fun n => tokenOf p n == token)

/-- Write FAULT_RES. -/
def setResult (x : State × Byte) : State :=
  { x.1 with pkg := { x.1.pkg with fw := { x.1.pkg.fw with faultRes := x.2 } } }

/-- A write of FAULT_ACT: the action on the record that a token names, and its result (R422, R423). -/
def faultAct (s : State) (token : W32) (act : State → FaultRec → Option State) : State :=
  let (p, r) := recordByToken s token
  setResult (serviceRecord s p r act)

/-- FAULT_ACT with RESUME (R423). -/
def execFaultActResume (token : W32) (s : State) : Host.Outcome State Fault Refusal :=
  .next (faultAct s token actResume)
/-- FAULT_ACT with REDIRECT, to FAULT_ARG (R423). -/
def execFaultActRedirect (token : W32) (s : State) : Host.Outcome State Fault Refusal :=
  .next (faultAct s token fun t r => actRedirect t r s.pkg.fw.faultArg)
/-- Whether FAULT_ACT with CANCEL waits for a region table (R409). -/
def faultActWaits (s : State) (token : W32) : Bool :=
  let (p, r) := recordByToken s token
  cancelWaits s p r (s.pkg.fw.faultArg.setWidth 8)

/-- FAULT_ACT with CANCEL, with the status in FAULT_ARG (R423). -/
def execFaultActCancel (token : W32) (s : State) : Host.Outcome State Fault Refusal :=
  .next (if faultActWaits s token then s else faultAct s token fun t r => actCancel t r (s.pkg.fw.faultArg.setWidth 8))

/-! ### Service requests (R421) -/

/-- The key of the oldest request of a partition that has not been taken, and its bytes (R417, R421). -/
def nextRequest (s : State) (p : Fin 8) : Option (Nat × List Byte) :=
  let x := s.pkg.parts[p]
  let tail := s.mem.word64 (x.fq + 16)
  let head := s.mem.word64 (x.fq + 24)
  if x.record.isEmpty || tail == head || regionWaits s x.fq then none
  else
    let k := x.fq + 20480 + 64 * (head.toNat % 256)
    some (k, s.mem.bytes k 64)

/-- The firmware is done with a request: result, release of the sync word, and shead (R421). -/
def answer (s : State) (p : Fin 8) (k : Nat) (f : List Byte) (result : Byte) : State :=
  let s1 := s.devWrite (k + 1) [result]
  let sync := le64 f 32
  let s2 := if sync = 0 then s1
    else
      match translate s1.mem { s1.pkg with tlb := [] } 0 p sync true true with
      | .ok (x, _) => if storeOf x == .peer || sync.toNat % 64 ≠ 0 then s1 else s1.bump x
      | .error _ => s1
  let h := (s2.pkg.parts[p]).fq + 24
  s2.devWrite h (leBytes 8 (s2.mem.word64 h + 1).toNat)

/-- A request of one of the ops 1 to 3 acts on the record that it names, once that need not wait (R409); its reserved bytes
are ignored (R11). -/
def serveRecord (s : State) (p : Fin 8) (op : Byte) (other : Bool) (waits : W64 → Option FaultRec → Bool)
    (act : W64 → State → FaultRec → Option State) : Host.Outcome State Fault Refusal :=
  match nextRequest s p with
  | none => .next s
  | some (k, f) =>
    let o := byteAt f 0
    if o == op then
      if le64 f 24 != 0 then .next (answer s p k f 2)
      else
        let r := (s.pkg.parts[p]).faults.find? fun r => r.seq == some (le64 f 8)
        if waits (le64 f 16) r then .next s
        else
          let (t, result) := serviceRecord s p r (act (le64 f 16))
          .next (answer t p k f result)
    else if other && (o == 0 || 5 < o) then .next (answer s p k f 2)
    else .next s

/-- RESUME: the firmware takes a service request of op 1, or one whose op is not assigned (R421, R422). -/
def execResume (p : Fin 8) (s : State) : Host.Outcome State Fault Refusal := 
  serveRecord s p 1 true (fun _ _ => false) fun _ => actResume
/-- REDIRECT: a service request of op 2 (R421, R422). -/
def execRedirect (p : Fin 8) (s : State) : Host.Outcome State Fault Refusal :=
  serveRecord s p 2 false (fun _ _ => false) fun arg t r => actRedirect t r arg
/-- CANCEL: a service request of op 3 (R421, R422). -/
def execCancel (p : Fin 8) (s : State) : Host.Outcome State Fault Refusal :=
  serveRecord s p 3 false (fun arg r => cancelWaits s p r (arg.setWidth 8)) fun arg t r => actCancel t r (arg.setWidth 8)

/-! ### Shootdowns (R415, R423) -/

/-- Whether a range of a shootdown is valid (R423); a length of all ones names the whole partition. -/
def rangeOk (va len : W64) : Bool := len == BitVec.allOnes 64 || (len != 0 && va.toNat % 65536 = 0 && len.toNat % 65536 = 0)

/-- Whether some bytes overlap the range of a shootdown. -/
def inShootdown (va len : W64) (base size : Nat) : Bool :=
  len == BitVec.allOnes 64 || (decide (base < va.toNat + len.toNat) && decide (va.toNat < base + size))

/-- Whether one of some virtual addresses is translated by a stale entry of a residency's core or die. -/
def onStale (ts : List TlbEntry) (r : Residency) (xs : List Nat) : Bool :=
  ts.any fun t => t.stale && t.part == r.bind.part && t.place == (if t.second then dieOf r.bind.e else coreOf r.bind.e) &&
    xs.any fun x => decide (t.base ≤ x) && decide (x < t.base + t.size)

/-- An access under way that holds a pin on a stale entry (R414, R415). -/
def MemReq.staled (ts : List TlbEntry) (r : Residency) (q : MemReq) : MemReq :=
  if bits q.addr 63 56 = 0 && onStale ts r [q.addr.toNat, q.addr.toNat + (q.keys.length - 1)] then { q with stale := true } else q

/-- The pins of a command as a shootdown makes entries stale: one that has not begun its accesses gives those up (R415,
log 56). -/
def Cmd.staled (ts : List TlbEntry) (r : Residency) (c : Cmd) : Cmd :=
  { c with pins :=
      if !c.begun then c.pins.filter fun p => !onStale ts r [p.base.toNat]
      else c.pins.map fun p => { p with stale := p.stale || onStale ts r [p.base.toNat] } }

/-- What a shootdown does to a residency: its accesses under way keep their pins, and so do commands that have begun; a
stream or a command that has not gives up those of its bases (R415). -/
def Residency.shot (ts : List TlbEntry) (p : Fin 8) (r : Residency) : Residency :=
  if r.bind.part ≠ p then r
  else
    { r with
      f := { r.f with pending := r.f.pending.map (MemReq.staled ts r) }
      d := { r.d with pending := r.d.pending.map (MemReq.staled ts r) }
      cmds := r.cmds.map (Cmd.staled ts r)
      st := r.st.map fun x => if x.pin.any fun a => onStale ts r [a.toNat] then { x with pin := none } else x }

/-- A shootdown starts: entries of the partition that overlap the range are stale (R415). -/
def startShootdown (s : State) (p : Fin 8) (va len : W64) (serves : Bool) : State :=
  let ts := s.pkg.tlb.map fun t => if t.part = p ∧ inShootdown va len t.base t.size then { t with stale := true } else t
  { s with
    r := s.r.shot ts p, others := s.others.map (Residency.shot ts p)
    pkg := { s.pkg with
      tlb := ts, fw := { s.pkg.fw with sdVa := va, sdLen := len, sdPart := some p, sdServes := serves } } }

/-- SD_CMD with go: a shootdown of the range in SD_VA and SD_LEN, ignored while one runs (R423). -/
def execSdCmd (p : Fin 8) (s : State) : Host.Outcome State Fault Refusal :=
  if s.pkg.fw.sdPart.isSome || !rangeOk s.pkg.fw.sdVa s.pkg.fw.sdLen then .next s
  else .next (startShootdown s p s.pkg.fw.sdVa s.pkg.fw.sdLen false)

/-- SHOOTDOWN: a service request of op 4; it is done when the shootdown is (R421, R423). -/
def execShootdown (p : Fin 8) (s : State) : Host.Outcome State Fault Refusal :=
  match nextRequest s p with
  | none => .next s
  | some (k, f) =>
    if byteAt f 0 != 4 || s.pkg.fw.sdPart.isSome then .next s
    else if le64 f 8 != 0 || !rangeOk (le64 f 16) (le64 f 24) then .next (answer s p k f 2)
    else .next (startShootdown s p (le64 f 16) (le64 f 24) true)

/-- The pins of partition p still held on stale entries: of accesses that are under way through one, and of the bases of
commands that have begun and have not accessed that page (R414, R423). -/
def pinsHeld (s : State) (p : Fin 8) : Nat :=
  let held (q : Option MemReq) : Bool := q.any fun q => q.stale
  let bases (r : Residency) : Nat := ((r.cmds.filter Cmd.runs).flatMap fun c => c.pins.filter BasePin.stale).length
  ((s.all.filter fun r => r.bind.part == p).map fun r => (held r.f.pending).toNat + (held r.d.pending).toNat + bases r).sum

/-- SHOOTDOWN_COMPLETE: no pin is held on a stale entry any more; the stale entries go (R415). -/
def execShootdownComplete (s : State) : Host.Outcome State Fault Refusal :=
  match s.pkg.fw.sdPart with
  | none => .next s
  | some p =>
    if pinsHeld s p ≠ 0 then .next s
    else
      let s1 : State := { s with pkg := { s.pkg with
        tlb := s.pkg.tlb.filter fun t => !(t.stale && t.part == p)
        fw := { s.pkg.fw with sdPart := none, sdServes := false } } }
      match s.pkg.fw.sdServes, nextRequest s1 p with
      | true, some (k, f) => .next (answer s1 p k f 0)
      | _, _ => .next s1

/-! ### Trace requests (R421, R435) -/

/-- Whether a ring word and a control word are valid for partition p (R435). A period whose record kind is off, and a control
word beside k = 0, are not judged (log 54). -/
def traceOk (s : State) (p : Fin 8) (ring control : W64) (mask : Byte) : Bool :=
  let k := bits ring 4 0
  mask < 8 && bits ring 63 52 = 0 && bits ring 11 5 = 0 &&
    (k = 0 || (8 ≤ k && k ≤ 20 && bits control 15 4 = 0 && (!bit control 0 || bits control 31 16 ≠ 0) &&
      (!bit control 2 || bits control 63 32 ≠ 0) &&
      inRanges (s.pkg.parts[p]).ranges (bits ring 51 12 * 4096) (16 * 2 ^ k)))

/-- TRACE: a service request of op 5 configures the trace stream of a residency (R421, R435). -/
def execTrace (p : Fin 8) (s : State) : Host.Outcome State Fault Refusal :=
  match nextRequest s p with
  | none => .next s
  | some (k, f) =>
    if byteAt f 0 != 5 then .next s
    else
      let mask := byteAt f 14
      match s.all.find? fun r => r.stage != .free && r.bind.part == p && r.bind.launch == le32 f 8 && r.bind.lcore == le16 f 12 with
      | none => .next (answer s p k f 2)
      | some r =>
        if !traceOk s p (le64 f 16) (le64 f 24) mask then .next (answer s p k f 2)
        else
          let t : Trace := ⟨BitVec.ofNat 64 (bits (le64 f 16) 51 12 * 4096), bits (le64 f 16) 4 0, le64 f 24, mask, 0⟩
          .next (answer (s.updAt r.bind.e fun x => { x with watch := { x.watch with trace := t } }) p k f 0)

/-! ### Stops and freeze (R426, R434) -/

/-- STOP: the firmware asks a context of a bound entry to stop; it is parked with cause 0x79 at its next
boundary (R426). A context that is parked already stops as soon as it is resumed; one that has halted is left alone. -/
def execStop (e : Fin 416) (c : Fin 4) (s : State) : Host.Outcome State Fault Refusal :=
  if s.pkg.slots[e].state != 2 then .next s
  else
    .next (s.updAt e.val fun r =>
      if c = 0 ∧ r.f.status ≠ .halted then { r with f := { r.f with stopReq := true } }
      else if c = 1 ∧ r.d.status ≠ .halted then { r with d := { r.d with stopReq := true } }
      else if c = 2 ∧ r.ep.status ≠ .halted then { r with ep := { r.ep with stopReq := true } }
      else r)

/-- FREEZE: the partitions named stand still from the next core cycle (R434). -/
def execFreeze (mask : BitVec 8) (s : State) : Host.Outcome State Fault Refusal :=
  .next { s with pkg := { s.pkg with fw := { s.pkg.fw with freeze := mask } } }

/-! ### HOST_COMPLETION_TIMEOUT (R420) -/

/-- Whether an address of the residency in focus lies in host memory. -/
def inHost (s : State) (x : W64) (rd : Bool) : Bool :=
  match resolve s x 1 rd (!rd) with
  | .ok (ks, _) => ks.any fun k => storeOf k == .host
  | .error _ => false

/-- The address that the instruction an AP context stands at reads or changes as it issues, where it is one that waits
for a completion: a sync word or a task record. -/
def issueAddress (s : State) (c : ApId) : Option W64 :=
  if !s.inSection c then none
  else match decodeABytes (leBytes 4 (s.apWord c)) with
  | .ok (.syncAcq g _ a _ _) | .ok (.syncRel g a _ _) | .ok (.taskSpawn g a) =>
    if (s.ctx c).status == .running && (s.ctx c).pred g then some ((s.ctx c).get a) else none
  | _ => none

/-- The word of a SYNC.REL that an AP context stands at: a host atomic where it lies in host memory (R153). -/
def releaseAddress (s : State) (c : ApId) : Option W64 :=
  match issueAddress s c, decodeABytes (leBytes 4 (s.apWord c)) with
  | some x, .ok (.syncRel _ _ _ _) => some x
  | _, _ => none

/-- A read: its address, where it has one, and its bytes. -/
abbrev Span := Except Stop W64 × Nat

/-- A read at an exact address. -/
def spanAt (x n : Nat) : Span := (exactAddr x, n)

/-- The address of one of some reads that reach host memory with their first or last byte; which of them is free (log 100). -/
def hostAmong (s : State) (l : List Span) : Option W64 :=
  let hosts := l.filterMap fun x => match x.1 with
    | .ok a => if inHost s a true || inHost s (a + BitVec.ofNat 64 (x.2 - 1)) true then some a else none
    | .error _ => none
  hosts[Config.failsAfter s.free % hosts.length]?

/-- The accesses of a command that wait for a completion where it stands: the acquired word before its first
row, the index of its next row, the byte of the row's source that it comes to next, the released word after its last. A
row whose index is out of range has no source (R272). -/
def Cmd.awaits (c : Cmd) (s : State) : List Span :=
  if c.status == .written then (if blkFlag c.fields 1 then [(.ok (le64 c.fields 56), 8)] else [])
  else
    let source : List Span :=
      if c.kind == .copy then [(c.rowSource 0, 1)]
      else match c.readIndex s with
        | .ok (i, _) => if i < (le32 c.fields 40).toNat then [(c.rowSource i, 1)] else []
        | .error _ => []
    (if blkFlag c.fields 0 && c.row = 0 && c.off = 0 then [(.ok (le64 c.fields 48), 8)] else []) ++
      (if c.kind == .copy || c.off ≠ 0 then [] else [spanAt ((le64 c.fields 16).toNat + c.row * c.indexBytes) c.indexBytes]) ++ source

/-- How far an engine command that runs comes before a host access of its fails: some of its rows, and some bytes of the
next, with the end of a phase that they complete (R164, R276, R420, log 100); none where something else stops it before. -/
def engineReaches (s : State) (c : Cmd) : Option (State × Cmd) :=
  let n := Config.failsAfter s.free
  let rows := blkRows c.fields - c.row
  match c.runRows (n % rows) s with
  | (s1, c1, none) =>
    (c1.runBytes (n / rows % (blkRowBytes c.fields - c1.off)) s1).map fun p => (p.1.endPhase c.group, p.2)
  | _ => none

/-- A host access of an engine command fails: one of those that the command waits for where it stands, or, of one that
runs, one that it comes to, what stands before it being moved (R276, R420). -/
def engineTimeout (s : State) (c : Cmd) : State :=
  let (s1, c1) : State × Cmd :=
    match c.status, c.acquired s with
    | .waiting, .ok (true, s1) =>
      (match engineReaches s1 c with
       | some (s2, c2) => ((s2.updCmd c.id fun _ => c2).draw.2, c2)
       | none => (s, c))
    | _, _ => (s, c)
  match hostAmong s1 (c1.awaits s1) with
  | some _ => s1.cmdFault c1 ⟨0x40, 0, 0⟩
  | none => s

/-- A host access of a chain channel fails: the read of its record, a read of its source, the bytes before it being moved,
or, once it is copied and its status written, the increment of its sync word (R281, R420). -/
def chainTimeout (s : State) (ch : Fin 8) : State :=
  let c := s.r.chains[ch]
  let n := (le32 c.record 24).toNat - c.offset
  let k := Config.failsAfter s.free % (n + 1)
  let moved (m : Nat) : State × Bool :=
    let o := BitVec.ofNat 64 c.offset
    match copyRun (some 0x44) none m s (le64 c.record 8 + o) (le64 c.record 16 + o) m with
    | (s1, b, e) => ((s1.updChain ch fun c => { c with offset := c.offset + b }).draw.2, e.isNone)
  if c.runs true then (if inHost s c.ptr true then s.chainFault ch ⟨0x40, 0, 0⟩ else s)
  else if !c.runs false then s
  else if k < n && (moved k).2 && inHost (moved k).1 (le64 c.record 8 + BitVec.ofNat 64 (c.offset + k)) true then
    (moved k).1.chainFault ch ⟨0x40, 0, 0⟩
  else if bit (byteAt c.record 28) 1 && inHost s (le64 c.record 32) true then
    let s1 := (moved n).1
    if !(moved n).2 then s
    else
      match if c.stamped then .ok s1 else writeStatus s1 c.ptr [byteAt c.record 28 &&& 0xFE, 0, 0, 0] with
      | .ok s2 => (s2.updChain ch fun c => { c with stamped := true }).chainFault ch ⟨0x40, 0, 0⟩
      | .error _ => s
  else s

/-- The reads of k segments of a tile from address x on, as `readSegments` makes them. -/
def segmentReads (h : Handle) (w : Nat) : Nat → State → Nat → List Span
  | 0, _, _ => []
  | k + 1, s, x =>
    spanAt x 16 :: (match readExact s h x 16 with
      | .error _ => []
      | .ok (hd, s1) =>
        let n := alignUp (((byteAt hd 8).toNat * w + 7) / 8) 16
        (if n = 0 then [] else [spanAt (x + 16) n]) ++ segmentReads h w k s1 (x + 16 + n))

/-- What the fetch side of a handle source reads for element e: a dense or COO element; the pointers, the index and the
value of a CSR or CSC walk; a tile's offset and its segments; or a codebook index and its container (R138). -/
def handleReads (s : State) (r : StreamReg) (h : Handle) (e : Nat) : List Span :=
  let p := (r.src[1]).toNat
  if h.type = 0 || h.type = 3 then [(h.address e, r.esize)]
  else if h.type = 1 || h.type = 2 then
    ([0, p, p + 1].map fun i => spanAt ((le64 h.hdr 8).toNat + h.ptrBytes * i) h.ptrBytes) ++
      (match readPtr s h 0 with
       | .ok (p0, _) => [spanAt ((le64 h.hdr 16).toNat + (p0 + e) * h.idxBytes) h.idxBytes,
           spanAt ((le64 h.hdr 24).toNat + (p0 + e) * h.elemBits / 8) ((h.elemBits + 7) / 8)]
       | .error _ => [])
  else if h.type = 4 then
    let x := (le64 h.hdr 16).toNat + 4 * (e * r.esize / tileBytes)
    let w := if h.elem = 16 then containerBits h.format else 8
    if r.esize ≤ r.dec.output.length then []
    else spanAt x 4 :: (match readExact s h x 4 with
      | .ok (ob, s1) => segmentReads h w (1024 / (8 * w)) s1 ((le64 h.hdr 8).toNat + leNat ob)
      | .error _ => [])
  else
    let base := (le64 h.hdr 8).toNat + 2064 * (e / 4096)
    spanAt (base + 16 + e % 4096 / 2) 1 :: (match readExact s h (base + 16 + e % 4096 / 2) 1 with
      | .ok (ib, _) => [spanAt (base + (if e % 2 = 0 then leNat ib % 16 else leNat ib / 16)) 1]
      | .error _ => [])

/-- A host read of a stream's fetch side fails: it stops at the element (R134, R420). -/
def streamTimeout (s : State) (n : SReg) : State :=
  let r := s.stream n
  let e := r.cursor.toNat
  let reads : List Span :=
    match if r.kind = 2 then s.r.h[r.handleNo] else none with
    | some h => handleReads s r h e
    | none => match r.elemAddr none r.kind e with
      | .ok (some x) => [(.ok x, r.esize)]
      | _ => []
  match if r.fetches then hostAmong s reads else none with
  | some x => s.streamFault n 8 e ⟨0x40, x, 0⟩
  | none => s

/-- A host access of an AP context fails: the one that it waits for, or that of the instruction it stands at; with cause
0x44 where it is an atomic whose completer does not support AtomicOps, its memory unchanged (R242, R420). A posted store
raises nothing. -/
def apTimeout (s : State) (c : ApId) (atomic : Bool) : State :=
  let k : Cause := if atomic then 0x44 else 0x40
  match (s.ctx c).pending with
  | some q =>
    let meets := match q.op with | .store _ => false | .amo _ _ _ | .cas _ _ _ => true | _ => !atomic
    if meets && q.keys.any fun k => storeOf k == .host then (s.updCtx c ApCtx.undone).park c ⟨k, q.addr, 0⟩ else s
  | none =>
    match if atomic then releaseAddress s c else issueAddress s c with
    | some x => if inHost s x true then s.park c ⟨k, x, 0⟩ else s
    | none => s

/-- A host access of an item of the residency in focus fails. -/
def itemTimeout (s : State) : Item → State
  | .ap c => apTimeout s c false
  | .atomic c => apTimeout s c true
  | .engine id =>
    match s.r.cmds.find? fun c => c.id == id && (c.status == .waiting || c.status == .written) with
    | some c => engineTimeout s c
    | none => s
  | .chain ch => chainTimeout s ch
  | .stream n => streamTimeout s n
  | _ => s

/-- HOST_COMPLETION_TIMEOUT: a host access of an item of a bound residency gets no completion, or one that refuses it:
cause 0x40; a host atomic whose completer does not support AtomicOps gets cause 0x44 (R242, R420). -/
def execHostCompletionTimeout (x : HostAccess) (s : State) : Host.Outcome State Fault Refusal :=
  if s.all.any fun r => r.stage != .free && r.bind.e == x.entry.val then .next (s.within x.entry.val fun t => itemTimeout t x.item)
  else .next s

end Sys2Proof.Machine
end

