-- ==== Sys2Proof/Machine/Partitions.lean ====
section
/-! DEFINITION. Owner and partitions (R386 to R393), the registers of their queues (R396, R449) and the
region tables (R408, R409, R443). -/

namespace Sys2Proof.Machine

/-! ### Masters (R386, R387, R440) -/

/-- Whether the master of port k, or the baseboard controller, is one that has an up link (R388, R389). -/
def linkedMaster (s : State) (m : Master) : Bool :=
  match m with
  | 1 => s.pkg.links.pcieUp[(0 : Fin 2)]
  | 2 => s.pkg.links.pcieUp[(1 : Fin 2)]
  | 3 => true
  | _ => false

/-- Whether the privileged registers respond: in service, and after the loss of the bridge (R440, R455). The
die that holds a register's state is stated for the region tables alone; the others respond at both ports
(log 38). -/
def State.responds (s : State) : Bool := s.inService || s.pkg.boot.state == 10

/-- A write of the owner to a register that responds. -/
def State.byOwner (s : State) (m : Master) : Bool := s.responds && m != 0 && m == s.pkg.owner

/-- A write of the owner or of the controlling master of partition p (R387). -/
def State.byMaster (s : State) (m : Master) (p : Fin 8) : Bool :=
  s.byOwner m || (s.responds && m != 0 && (s.pkg.parts[p]).master == m.val)

/-- Set the owner. -/
def State.setOwner (s : State) (m : Master) : State := { s with pkg := { s.pkg with owner := m } }

/-- OWNER_CLAIM with claim: the writer becomes owner while there is none (R388). -/
def execOwnerClaim (m : Master) (s : State) : Host.Outcome State Fault Refusal :=
  if s.responds && m != 0 && s.pkg.owner == 0 then .next (s.setOwner m) else .next s

/-- OWNER_CLAIM with force: the baseboard controller takes over from a host whose link is not up (R388). -/
def execOwnerForceClaim (m : Master) (s : State) : Host.Outcome State Fault Refusal :=
  if s.responds && m == 3 && (s.pkg.owner == 1 || s.pkg.owner == 2) && !linkedMaster s s.pkg.owner then .next (s.setOwner 3)
  else .next s

/-- OWNER_HANDOVER (R389). -/
def execOwnerHandover (m succ : Master) (s : State) : Host.Outcome State Fault Refusal :=
  if s.byOwner m && succ != m && (succ == 0 || linkedMaster s succ) then .next (s.setOwner succ) else .next s

/-! ### Partition commands (R391 to R393) -/

/-- The result of a partition command. -/
def State.partDone (s : State) (result : Byte) : State := { s with pkg := { s.pkg with partResult := result } }

/-- The record at PART_ADDR. -/
def partRecord (s : State) : List Byte := s.mem.bytes s.pkg.partAddr.toNat 256

/-- The two words of a range aligned to 64 KiB. -/
def aligned64K (k n : Nat) : Bool := k % 65536 = 0 && n % 65536 = 0

/-- A partition whose record is `f`. -/
def Partition.withRecord (x : Partition) (f : List Byte) : Partition := { x with record := f }

/-- Whether an area of n bytes lies in a record's HBM ranges. -/
def recordHolds (f : List Byte) (k n : Nat) : Bool := inRanges ({ Partition.free with record := f }).ranges k n

/-- A partition record's values are in their ranges and its reserved fields zero (R391, R417, R427). The spec does not say what
a record outside HBM gives, nor one whose granules fail their check, nor whether a misaligned root is refused: the model reads
the record where it stands, answers 0x02 for such a granule, and does not look at root (log 131). -/
def partRecordOk (s : State) (p : Fin 8) (f : List Byte) : Bool :=
  let x : Partition := { Partition.free with record := f }
  let strict := x.strict
  byteAt f 0 == BitVec.ofNat 8 p.val && byteAt f 1 < 2 && 1 ≤ byteAt f 2 && byteAt f 2 ≤ 3 && zeroIn f 3 5 &&
    x.otab % 64 = 0 && 1 ≤ x.oents && x.oents ≤ 65536 && zeroIn f 28 4 && zeroIn f 37 3 &&
    aligned64K x.priv.1 x.priv.2 && 0x1000000 ≤ x.priv.2 && zeroIn f 72 8 &&
    (List.range 8).all (fun i =>
      aligned64K (le64 f (80 + 16 * i)).toNat (le64 f (88 + 16 * i)).toNat &&
        ((le64 f (88 + 16 * i)) == 0 ||
          ((le64 f (80 + 16 * i)).toNat + (le64 f (88 + 16 * i)).toNat ≤ 2 ^ 39))) &&
    recordHolds f x.priv.1 x.priv.2 && x.fq % 4096 = 0 && recordHolds f x.fq 36864 && x.evr % 64 = 0 &&
    recordHolds f x.evr 32832 &&
    (if strict then 1 ≤ byteAt f 208 && byteAt f 208 ≤ 32 && !bit (byteAt f 209) 0 && le16 f 210 % 256 = 0 &&
        le16 f 210 ≤ 4096 && 1 ≤ byteAt f 212 && byteAt f 212 ≤ 16
      else zeroIn f 208 2) && zeroIn f 213 43 &&
    (s.mem.readCause (granulesOf (keysFrom s.pkg.partAddr.toNat 256))).isNone

/-- The other partitions that are active. -/
def activeParts (s : State) (p : Fin 8) : List Partition :=
  ((List.finRange 8).filter fun q => q != p && (s.pkg.parts[q]).state == .active).map fun q => s.pkg.parts[q]

/-- The other partitions that are not free. -/
def otherParts (s : State) (p : Fin 8) : List Partition :=
  ((List.finRange 8).filter fun q => q != p && (s.pkg.parts[q]).state != .free).map fun q => s.pkg.parts[q]

/-- Whether two records overlap in their HBM ranges. -/
def rangesClash (a b : Partition) : Bool :=
  (a.priv :: a.ranges).any fun r => (b.priv :: b.ranges).any fun q => r.2 ≠ 0 && q.2 ≠ 0 && overlaps r q.1 q.2

/-- Whether two records share a grant. -/
def grantsClash (a b : Partition) : Bool := a.ingest &&& b.ingest != 0 || a.pins &&& b.pins != 0

/-- Whether the strict reservations of some partitions exceed the package (R392). -/
def reservesClash (ps : List Partition) : Bool :=
  let xs := ps.filter fun x => x.strict
  let sum (f : Partition → Nat) : Nat := (xs.map f).sum
  let phases := xs.map fun x => byteAt x.record 209
  48 < sum (fun x => (byteAt x.record 208).toNat) || 6144 < sum (fun x => le16 x.record 210) ||
    48 < sum (fun x => (byteAt x.record 212).toNat) ||
    (List.range 8).any fun i => 1 < (phases.filter fun m => bit m i).length

/-- The result of CREATE (R392). -/
def createResult (s : State) (p : Fin 8) (f : List Byte) : Byte :=
  let x : Partition := { Partition.free with record := f }
  let os := activeParts s p
  if (s.pkg.parts[p]).state != .free then 1
  else if !partRecordOk s p f then 2
  else if os.any (rangesClash x) then 3
  else if os.any (grantsClash x) then 4
  else if reservesClash (x :: otherParts s p) then 5
  else 0

/-- CREATE: the record is copied and the partition active; the headers of its fault and event areas are
zero (R392, R417). -/
def execCreate (m : Master) (p : Fin 8) (s : State) : Host.Outcome State Fault Refusal :=
  if !s.byOwner m then .next s
  else
    let f := partRecord s
    let r := createResult s p f
    if r ≠ 0 then .next (s.partDone r)
    else
      let x : Partition := { s.pkg.parts[p] with state := .active, record := f }
      let s1 := s.devWrite x.fq (List.replicate 4096 0)
      .next ((s1.updPart p fun _ => x).partDone 0)

/-- The launches of a partition end with status 0x04, and its residencies are removed (R393). -/
def State.removeAll (s : State) (p : Fin 8) : State :=
  let ids := (s.launches.filter fun l => l.part == p && !l.finished).map fun l => l.id
  let s1 := ids.foldl (fun t id => t.removeLaunch id 4) s
  let rest := (s1.all.filter fun r => r.stage != .free && r.bind.part == p).map fun r => Fin.ofNat 416 r.bind.e
  rest.foldl State.vacate s1

/-- DESTROY: the partition's residencies are removed, its launches end with status 0x04, and its TLB
entries are shot down (R393). -/
def execDestroy (m : Master) (p : Fin 8) (s : State) : Host.Outcome State Fault Refusal :=
  if !s.byOwner m then .next s
  else if (s.pkg.parts[p]).state != .active then .next (s.partDone 1)
  else
    let s1 := (s.removeAll p).updPart p fun x => { x with state := .destroying }
    .next ({ s1 with pkg := { s1.pkg with tlb := s1.pkg.tlb.filter fun t => t.part != p } }.partDone 0)

/-- A partition that is free again: its record, records, events and history are gone; the registers of its queues and
rings stay (R387, R396). -/
def Partition.freed (x : Partition) : Partition := { Partition.free with lq := x.lq, cr := x.cr, ar := x.ar }

/-- PARTITION_FREED: every completion record of a partition that is being destroyed is written; what the device has kept
of its saves is gone (R393, R394). -/
def execPartitionFreed (p : Fin 8) (s : State) : Host.Outcome State Fault Refusal :=
  let x := s.pkg.parts[p]
  if x.state == .destroying && x.completions.isEmpty then
    .next ({ s with
      launches := s.launches.filter fun l => l.part != p
      vault := s.vault.filter fun v => v.res.bind.part != p }.updPart p Partition.freed)
  else .next s

/-- A record with its grants set aside. -/
def withoutGrants (f : List Byte) : List Byte := f.take 32 ++ f.drop 37

/-- Whether a grant that a record takes away is in use (R392, result 0x07). -/
def grantInUse (s : State) (p : Fin 8) (f : List Byte) : Bool :=
  let x := s.pkg.parts[p]
  let gone := x.ingest &&& ~~~(le32 f 32)
  let pinsGone := x.pins &&& ~~~(byteAt f 36)
  let uses (r : Residency) : Bool := r.bind.part == p && r.st.toList.any fun t => t.kind = 6 && bit gone t.channel
  (s.all.any fun r => r.stage != .free && uses r) || (s.saved.any fun v => uses v.res) ||
    s.pkg.pinQueue.any fun c => c.part == p && c.pins &&& pinsGone != 0

/-- REGRANT: only the grants change (R392). -/
def execRegrant (m : Master) (p : Fin 8) (s : State) : Host.Outcome State Fault Refusal :=
  if !s.byOwner m then .next s
  else
    let f := partRecord s
    let x := s.pkg.parts[p]
    let y : Partition := { x with record := f }
    if x.state != .active then .next (s.partDone 1)
    else if !partRecordOk s p f || withoutGrants f != withoutGrants x.record then .next (s.partDone 2)
    else if (activeParts s p).any (grantsClash y) then .next (s.partDone 4)
    else if grantInUse s p f then .next (s.partDone 7)
    else .next ((s.updPart p fun x => { x with record := f }).partDone 0)

/-! ### Registers of queues and rings (R396, R449) -/

/-- The bits that LQ_BASE, CR_BASE and AR_BASE hold. -/
def baseBits (v : W64) : W64 := v &&& 0x000FFFFFFFFFFF8F

/-- LQ_BASE: head and tail become zero (R396). -/
def execLqBase (m : Master) (p : Fin 8) (q : Fin 4) (v : W64) (s : State) : Host.Outcome State Fault Refusal :=
  if !s.byMaster m p then .next s
  else .next (s.updPart p fun x => { x with lq := x.lq.set q ⟨baseBits v, 0, 0⟩ })

/-- A tail more than 2^k ahead of the head is taken modulo the ring: what it passed is lost (R396). -/
def LaunchQueue.setTail (q : LaunchQueue) (t : W16) : LaunchQueue :=
  let n := ringSize q.base
  let d := (t - q.head).toNat
  { q with tail := t, head := if n ≠ 0 && n < d then t - BitVec.ofNat 16 (d % n) else q.head }

/-- LQ_TAIL: descriptors up to the tail wait to be taken (R396). -/
def execLqTail (m : Master) (p : Fin 8) (q : Fin 4) (v : W64) (s : State) : Host.Outcome State Fault Refusal :=
  if !s.byMaster m p then .next s
  else .next (s.updPart p fun x => { x with lq := x.lq.set q ((x.lq[q]).setTail (v.setWidth 16)) })

/-- CR_BASE: head and tail become zero (R396). -/
def execCrBase (m : Master) (p : Fin 8) (v : W64) (s : State) : Host.Outcome State Fault Refusal :=
  if !s.byMaster m p then .next s else .next (s.updPart p fun x => { x with cr := ⟨baseBits v, 0, 0⟩ })

/-- CR_HEAD (R396). -/
def execCrHead (m : Master) (p : Fin 8) (v : W64) (s : State) : Host.Outcome State Fault Refusal :=
  if !s.byMaster m p then .next s else .next (s.updPart p fun x => { x with cr := { x.cr with head := v.setWidth 16 } })

/-- AR_BASE: head and tail become zero (R449). -/
def execArBase (m : Master) (p : Fin 8) (v : W64) (s : State) : Host.Outcome State Fault Refusal :=
  if !s.byMaster m p then .next s else .next (s.updPart p fun x => { x with ar := ⟨baseBits v, 0, 0⟩ })

/-- AR_HEAD (R449). -/
def execArHead (m : Master) (p : Fin 8) (v : W64) (s : State) : Host.Outcome State Fault Refusal :=
  if !s.byMaster m p then .next s else .next (s.updPart p fun x => { x with ar := { x.ar with head := v.setWidth 32 } })

/-! ### Region tables (R408, R409, R443) -/

/-- Whether a stack is in service, or was before the bridge was lost: reduced service has M0 alone (R455,
R457). -/
def stackServed (b : Boot) (s : Fin 8) : Bool :=
  if b.die1 then (b.state = 6 || b.state = 10) && bit b.trained s.val else (b.state = 7 || b.state = 10) && s = 0

/-- Whether the port of a master reaches what is held on a die: after the loss of the bridge, its own die alone (R440,
R455). The die of the baseboard controller's path is not stated; it is taken to reach both (log 38). -/
def dieReached (s : State) (m : Master) (die : Nat) : Bool := s.pkg.boot.state != 10 || m == 3 || m.val == die + 1

/-- Whether the port of a master reaches the registers of a stack (R440, R442). -/
def stackReached (s : State) (m : Master) (k : Fin 8) : Bool := dieReached s m (k.val / 4)

/-- A used entry's fields are valid, and it stays within 48 GiB (R408, R409). -/
def RegionEntry.valid (e : RegionEntry) : Bool :=
  bits e.b 34 32 ≤ 3 && e.chans.length ≠ 0 && (bits e.b 34 32 ≠ 0 || e.chans.length = 1) && e.base + e.length ≤ 48 * 2 ^ 30

/-- Whether no two of some entries overlap. -/
def apart : List RegionEntry → Bool
  | [] => true
  | e :: es => es.all (fun x => !overlaps (e.base, e.length) x.base x.length) && apart es

/-- Bytes that an entry places in channel c: whole granules in turn (R408). -/
def RegionEntry.share (e : RegionEntry) (c : Nat) : Nat :=
  if !e.chans.contains c then 0
  else if e.gran = 0 then e.length
  else
    let k := e.chans.idxOf c
    let m := e.chans.length
    let full := e.length / e.gran
    (full / m + (if k < full % m then 1 else 0)) * e.gran

/-- Whether a shadow table may be installed: entries apart and valid, at most 1.5 GiB in a channel (R409). -/
def shadowOk (t : RegionTable) : Bool :=
  let es := t.shadow.toList.filter fun e => e.length ≠ 0
  es.all RegionEntry.valid && apart es && (List.range 32).all fun c => (es.map fun e => e.share c).sum ≤ 3 * 2 ^ 29

/-- Change a region table. -/
def State.updRegion (s : State) (k : Fin 8) (f : RegionTable → RegionTable) : State :=
  { s with pkg := { s.pkg with regions := s.pkg.regions.set k (f s.pkg.regions[k]) } }

/-- REGION_COMMIT: accepted, new requests to the stack wait until the shadow is installed (R409). -/
def execRegionCommit (m : Master) (k : Fin 8) (v : W64) (s : State) : Host.Outcome State Fault Refusal :=
  let t := s.pkg.regions[k]
  let gen : W16 := v.setWidth 16
  let result (r : Byte) : State := s.updRegion k fun t => { t with result := r }
  if !s.byOwner m || !stackReached s m k then .next s
  else if t.pending then .next (result 1)
  else if !stackServed s.pkg.boot k then .next (result 3)
  else if gen != t.gen + 1 then .next (result 2)
  else if !shadowOk t then .next (result 3)
  else .next (s.updRegion k fun t => { t with pending := true, newGen := gen, result := 0 })

/-- Whether an access issued under the old generation of a stack is still under way (R409). -/
def oldGeneration (s : State) (k : Fin 8) : Bool :=
  let uses (q : Option MemReq) : Bool := match q with
    | some q => q.keys.any fun x => storeOf x == .hbm && stackOf x == k
    | none => false
  s.all.any fun r => uses r.f.pending || uses r.d.pending

/-- REGION_INSTALL: the last request of the old generation has completed; the shadow becomes active (R409). -/
def execRegionInstall (k : Fin 8) (s : State) : Host.Outcome State Fault Refusal :=
  let t := s.pkg.regions[k]
  if t.pending && !oldGeneration s k then
    .next (({ s with mem := s.mem.remap ⟨k, t.active, t.shadow, s.free⟩ }.updRegion k fun t =>
      { t with active := t.shadow, gen := t.newGen, pending := false }).draw.2)
  else .next s

end Sys2Proof.Machine
end

