-- ==== Sys2Proof/Machine/Ingest.lean ====
section
/-! DEFINITION. Ingest channels: frames that arrive at a PCIe port (R130 to R132, R257, R429, R447). -/

namespace Sys2Proof.Machine

/-! ### Whole frames of an ingest ring (R130, R131) -/

/-- What one drop of an ingest ring frees: a whole frame, where the oldest granule is its header (R131). -/
def StreamReg.frameUnit (x : StreamReg) (o : BitVec 24) : DropUnit :=
  ⟨if x.frameLen ≠ 0 && (x.claimed - o).toNat % x.frameLen = 0 then x.frameLen else 0, 1⟩

/-- The header granule of a frame whose EOF carried `len` (R130, R447). -/
def StreamReg.header (r : StreamReg) (len : W64) : List Byte :=
  leBytes 8 r.ing.seq.toNat ++ leBytes 8 r.ing.tick.toNat ++ leBytes 4 (min len.toNat ((r.frameLen - 1) * 64)) ++
    leBytes 4 r.ing.gap.toNat ++ leBytes 1 r.channel ++ List.replicate 39 0

/-- Change the ingest side of a stream. -/
def State.updIng (s : State) (n : SReg) (f : Ingest → Ingest) : State := s.updSt n fun r => { r with ing := f r.ing }

/-- Every write of an admitted frame has landed: its L granules are committed together (R447), also where elements are of
four granules and L is no multiple of 4 (log 108). -/
def commitFrame (s : State) (n : SReg) : State :=
  let r := s.stream n
  match r.ing.eof with
  | none => s
  | some len =>
    let m := s.mem.pokes ((r.byteKeys s.entry r.committed 0 64).zip (r.header len))
    ({ s with mem := m }.commit n (64 * r.frameLen)).updIng n fun g => { g with eof := none, admitted := false, gap := 0 }

/-- A frame is discarded whole: it is counted (R130). The gap of the next header counts such frames alone, and not the older
ones that DROP_OLDEST frees (log 126). -/
def discardFrame (s : State) (n : SReg) : State :=
  s.updSt n fun r => { r with drops := r.drops + 1, ing := { r.ing with admitted := false, gap := r.ing.gap + 1 } }

/-- The claim of a frame's L granules; the payload that nothing writes reads zero (R130, R447). -/
def admitFrame (s : State) (n : SReg) (clean : Bool) : State :=
  let r := s.stream n
  let m := s.mem.pokes ((r.byteKeys s.entry r.committed 0 (64 * r.frameLen)).map fun k => (k, 0))
  { s with mem := m }.updSt n fun r => { r with
    claimed := r.claimed + BitVec.ofNat 24 r.frameLen
    dropping := r.dropping && !clean
    ing := { r.ing with admitted := true } }

/-- Whether the channel of a stream discards what arrives: a hold stands on it, or its residency is saved or not yet
run again (R257, R429). A true fault of the drain or the remote side behind it is no hold: the ring fills, and then its full
policy acts (R129, R424). -/
def ingestHeld (s : State) (n : SReg) : Bool := (s.stream n).held || (s.r.stage != .running && s.r.stage != .done)

/-- The first write of a frame has arrived at the channel of stream n of the residency in focus (R130, R447). -/
def beginFrame (s0 : State) (n : SReg) : State :=
  if (s0.stream n).ing.inFrame then s0
  else
    let s := (commitFrame s0 n).updIng n fun g => { g with inFrame := true, seq := g.seq + 1, tick := s0.tick }
    let r := s.stream n
    if ingestHeld s n then discardFrame s n
    else if r.frameLen ≤ s.roomStart n then admitFrame s n true
    else
      let s1 := s.dropBy n (s.streamStart n).frameUnit r.frameLen
      if r.frameLen ≤ s1.roomStart n then admitFrame s1 n false else (discardFrame s1 n).noteDrop n

/-- The bytes of a payload write that land: those below byte 0xF_FFF0 of the window and within the frame, each
with its place in the payload (R447). -/
def payloadBytes (r : StreamReg) (off : Nat) (data : List Byte) : List (Nat × Byte) :=
  (data.zipIdx.map fun x => (off + x.2, x.1)).filter fun x => decide (x.1 < 0xFFFF0) && decide (x.1 < (r.frameLen - 1) * 64)

/-- A payload write to the channel of stream n of the residency in focus. -/
def payloadWrite (n : SReg) (off : Nat) (data : List Byte) (s0 : State) : State :=
  if data.isEmpty || 0xFFFF0 ≤ off then s0
  else
    let s := beginFrame s0 n
    let r := s.stream n
    if !r.ing.admitted then s
    else
      let at_ (x : Nat × Byte) : Nat × Byte := (r.byteKey s.entry r.committed (64 + x.1), x.2)
      { s with mem := s.mem.pokes ((payloadBytes r off data).map at_) }

/-- An EOF write to the channel of stream n of the residency in focus. -/
def frameEof (n : SReg) (len : W64) (s0 : State) : State :=
  (beginFrame s0 n).updIng n fun g => { g with inFrame := false, eof := if g.admitted then some len else none }

/-! ### The stream behind a channel -/

/-- The register of a residency in which ingest channel c is open. -/
def Residency.ingestOf (r : Residency) (c : Fin 32) : Option SReg :=
  if r.stage = .free then none else (List.finRange 32).find? fun n => (r.st[n]).kind = 6 && (r.st[n]).channel = c.val

/-- The residency and register in which ingest channel c is open: one of the partition that it is granted to
(R391, R447). -/
def ingestAt (s : State) (c : Fin 32) : Option (Nat × SReg) :=
  s.all.findSome? fun r =>
    if bit (s.pkg.parts[r.bind.part]).ingest c.val then (r.ingestOf c).map fun n => (r.bind.e, n) else none

/-- The frames that arrive at the channel of a saved stream are counted with what was saved (R429). -/
def countSaved (s : State) (c : Fin 32) : List Saved → List Saved
  | [] => []
  | v :: vs =>
    let open_ : Option SReg :=
      if v.live s && bit (s.pkg.parts[v.res.bind.part]).ingest c.val then { v.res with stage := .held }.ingestOf c else none
    match open_ with
    | none => v :: countSaved s c vs
    | some n =>
      let f (r : StreamReg) : StreamReg := { r with
        drops := r.drops + 1
        ing := { r.ing with seq := r.ing.seq + 1, gap := r.ing.gap + 1 } }
      { v with res := { v.res with st := v.res.st.set n (f v.res.st[n]) } } :: vs

/-- Do something for the open stream of channel c; with none open, what arrives is discarded (R447). -/
def atChannel (s : State) (c : Fin 32) (f : SReg → State → State) : State :=
  match ingestAt s c with
  | some (e, n) => s.within e (f n)
  | none => s

/-! ### The events (R447) -/

/-- INGEST_FRAME_START: the first write of a frame arrives, which is then admitted or dropped. A saved stream
counts it and discards it (R429). -/
def execIngestFrameStart (c : Fin 32) (s : State) : Host.Outcome State Fault Refusal :=
  match ingestAt s c with
  | some (e, n) => .next (s.within e fun t => beginFrame t n)
  | none => .next { s with vault := countSaved s c s.vault }

/-- INGEST_PAYLOAD_WRITE: bytes of an admitted frame land; the first write of a frame begins it. -/
def execIngestPayloadWrite (c : Fin 32) (off : BitVec 20) (data : List Byte) (s : State) : Host.Outcome State Fault Refusal :=
  .next (atChannel s c fun n => payloadWrite n off.toNat data)

/-- INGEST_EOF: the frame ends with the payload length that the write carries. -/
def execIngestEof (c : Fin 32) (len : W64) (s : State) : Host.Outcome State Fault Refusal :=
  .next (atChannel s c fun n => frameEof n len)

/-- INGEST_FRAME_COMMIT: the frame's writes have landed. -/
def execIngestFrameCommit (c : Fin 32) (s : State) : Host.Outcome State Fault Refusal :=
  .next (atChannel s c fun n t => commitFrame t n)

end Sys2Proof.Machine
end

