-- ==== Sys2Proof/Machine/Window.lean ====
section
/-! DEFINITION. Accesses from outside the package: the HBM window of BAR 4 (R446, R448, R454) and the export
windows of the Slavamus ports (R451, R452). -/

namespace Sys2Proof.Machine

/-! ### The HBM window (R446) -/

/-- Whether the port of a master serves an address: in service, and after the loss of the bridge only what
lies on the port's own die (R446, R455). The die of the baseboard controller's path is not stated; it is taken
to reach both (log 38). -/
def windowServes (s : State) (m : Master) (k : Nat) : Bool :=
  let b := s.pkg.boot
  stackServed b (stackOf k) &&
    stackReached s m (stackOf k)

/-- Whether a master may access n bytes at a physical address through BAR 4 (R446). -/
def windowAllowed (s : State) (m : Master) (k n : Nat) : Bool :=
  m != 0 && windowServes s m k && decide (stackOff k + n ≤ 48 * 2 ^ 30) &&
    (granulesOf (keysFrom k n)).all (fun g => (regionOf s.pkg (64 * g)).isSome) &&
    (s.pkg.owner == m || (List.finRange 8).any fun p =>
      let x := s.pkg.parts[p]
      x.state == .active && x.master == m.val && inRanges (x.priv :: x.ranges) k n)

/-- Whether an access to a physical address waits for a region table (R409). -/
def windowWaits (s : State) (k : Nat) : Bool := regionWaits s k

/-- Write bytes at physical keys from outside: whole granules get a new check value, a granule written in part
is verified and merged, and one that fails is left as it was (R446, R453, R454). Whether one failed. -/
def inboundWrite (m : Memory) (k : Nat) (bs : List Byte) : Memory × Bool :=
  let ks := keysFrom k bs.length
  let failed := (partialOf ks).filter fun g => (m.readCause [g]).isSome
  let kept := (ks.zip bs).filter fun x => !failed.contains (x.1 / 64)
  (m.write (kept.map Prod.fst) (kept.map Prod.snd), !failed.isEmpty)

/-- What the PCIe port of a master could not report (R448); the baseboard controller has no port. -/
def State.countPcie (s : State) (m : Master) (aborted discarded : W32) : State :=
  let at_ (i : Fin 2) : State :=
    { s with pkg := { s.pkg with links := { s.pkg.links with
      aborted := s.pkg.links.aborted.set i (s.pkg.links.aborted[i] + aborted)
      discarded := s.pkg.links.discarded.set i (s.pkg.links.discarded[i] + discarded) } } }
  match m with
  | 1 => at_ 0
  | 2 => at_ 1
  | _ => s

/-- HBM_WINDOW_WRITE: a posted write through BAR 4 (R446). One to a stack whose table is being installed waits. -/
def execHbmWindowWrite (m : Master) (off : BitVec 39) (data : List Byte) (s : State) : Host.Outcome State Fault Refusal :=
  if !windowAllowed s m off.toNat data.length || windowWaits s off.toNat then .next s
  else
    let w := inboundWrite s.mem off.toNat data
    let s1 : State := { s with mem := w.1 }
    .next (if w.2 then s1.countPcie m 0 1 else s1)

/-- How an inbound read is answered. -/
inductive Answer where
  | data (bs : List Byte)
  /-- Unsupported Request -/
  | unsupported
  /-- Completer Abort -/
  | abort
  deriving DecidableEq, Repr

/-- The answer to a read of n bytes through BAR 4 (R446, R454). -/
def windowRead (s : State) (m : Master) (k n : Nat) : Answer :=
  if s.pkg.boot.state = 10 && !windowServes s m k && windowServes s 3 k then .abort
  else if !windowAllowed s m k n then .unsupported
  else if (s.mem.readCause (granulesOf (keysFrom k n))).isSome then .abort
  else .data (s.mem.bytes k n)

/-- HBM_WINDOW_READ: the answer leaves the part; what stays in it is the count of aborted reads whose check
value failed (R448, R454). -/
def execHbmWindowRead (m : Master) (off : BitVec 39) (len : BitVec 13) (s : State) : Host.Outcome State Fault Refusal :=
  if windowWaits s off.toNat then .next s
  else if windowAllowed s m off.toNat len.toNat && windowRead s m off.toNat len.toNat == .abort then .next (s.countPcie m 1 0)
  else .next s

/-! ### Slavamus ports (R451, R452) -/

/-- Change a Slavamus port. -/
def State.updSlv (s : State) (k : Fin 8) (f : SlvPort → SlvPort) : State :=
  { s with pkg := { s.pkg with links := { s.pkg.links with slv := s.pkg.links.slv.set k (f s.pkg.links.slv[k]) } } }

/-- SLAVAMUS_LINK_CHANGE: a link comes up, goes down or has retrained (R452). -/
def execSlavamusLinkChange (k : Fin 8) (up retrained : Bool) (lanes : BitVec 4) (pserial : W32) (pport : BitVec 3) (s : State) :
    Host.Outcome State Fault Refusal :=
  .next (s.updSlv k fun x => { x with
    up := up
    lanes := if lanes ≤ 8 then lanes else 8
    retrain := if retrained && x.retrain != 255 then x.retrain + 1 else x.retrain
    pserial := pserial
    pport := pport })

/-- The physical address of byte o of the export window of a port; none where the window does not hold that byte and the
n bytes from there (R452). -/
def exportKey (s : State) (k : Fin 8) (o n : Nat) : Option Nat :=
  let x := s.pkg.links.slv[k]
  let a := x.expBase.toNat + o
  if x.up && decide (o < x.expLen.toNat) && decide (o + n ≤ x.expLen.toNat) && (regionOf s.pkg a).isSome then some a else none

/-- The answer to a peer's read of n bytes of the export window, verified at the port (R452, R453). -/
def peerAnswer (s : State) (k : Fin 8) (o n : Nat) : Answer :=
  match exportKey s k o n with
  | none => .unsupported
  | some a => if (s.mem.readCause (granulesOf (keysFrom a n))).isSome then .abort else .data (s.mem.bytes a n)

/-- Write what a peer's copy sends: as any inbound write, but that a whole granule carries its own check value, which is
free; the copy leaves full/empty bits alone (R113, R451, R453, log 8). -/
def peerWrite (s : State) (a : Nat) (bs : List Byte) : Memory :=
  let ks := keysFrom a bs.length
  ((granulesOf ks).filter (coversWhole ks)).foldl (fun m g => m.setChk g (peerCheck s.free (64 * g))) (inboundWrite s.mem a bs).1

/-- PEER_ACCESS: a peer reads (0) or writes (1) bytes of the export window, or releases a sync word there by one
atomic access (2), which leaves a granule that fails its check as it was, as an inbound write does (R453); an access outside
the window is refused, and the peer's copy faults there (R451, R452). -/
def execPeerAccess (k : Fin 8) (off : BitVec 45) (data : List Byte) (kind : Fin 3) (s : State) : Host.Outcome State Fault Refusal :=
  match exportKey s k off.toNat data.length with
  | none => .next s
  | some a =>
    if windowWaits s a then .next s
    else
      match kind with
      | 0 => .next s
      | 1 => .next { s with mem := peerWrite s a data }.draw.2
      | _ => .next (if a % 64 = 0 && (s.mem.readCause [a / 64]).isNone then s.bump a else s)

/-! ### PCIe links (R388) -/

/-- PCIE_LINK_CHANGE: the link of a host port comes up or goes down. -/
def execPcieLinkChange (port : Fin 2) (up : Bool) (s : State) : Host.Outcome State Fault Refusal :=
  .next { s with pkg := { s.pkg with links := { s.pkg.links with pcieUp := s.pkg.links.pcieUp.set port up } } }

end Sys2Proof.Machine
end

