-- ==== Sys2Proof/Machine/BringUp.lean ====
section
/-! DEFINITION. Bring-up and the package as a whole: reset (R455), fuses, clocks, memory training, mesh and
bridge, firmware (R443, R455 to R458), bridge links (R438), pins (R450) and the thermal trip (R460). -/

namespace Sys2Proof.Machine

/-- Change the bring-up state. -/
def State.updBoot (s : State) (f : Boot → Boot) : State := { s with pkg := { s.pkg with boot := f s.pkg.boot } }

/-! ### Package reset (R455, R459) -/

/-- Package reset: no partition, no owner, no residency, the frame counter at zero, bring-up at state 0. What
is kept on standby power is kept; so are memory, the save areas' encoded parts, the firmware image in flash
and what the outside world has queued (log 39). -/
def State.resetPackage (s : State) : State :=
  { State.reset with
    mem := s.mem, inbox := s.inbox, vault := s.vault, free := s.free
    pkg := { Package.reset with boot := { Boot.reset with tripped := s.pkg.boot.tripped } } }

/-- PACKAGE_RESET: power-on, or the baseboard controller's reset message. -/
def execPackageReset (s : State) : Host.Outcome State Fault Refusal := .next s.resetPackage

/-- PKG_RESET: a write of 0x5253 by the owner or the baseboard controller; any other value is ignored. -/
def execPkgReset (m : Master) (v : W64) (s : State) : Host.Outcome State Fault Refusal :=
  if (m == 3 || s.byOwner m) && v == 0x5253 then .next s.resetPackage else .next s

/-! ### The stages (R455, R456) -/

/-- Disable both entries of every core that the fuses name as a spare (R400, R455). -/
def disableSpares (slots : Vector Slot 416) (spares : List (Fin 416)) : Vector Slot 416 :=
  Vector.ofFn fun e => if spares.any fun x => coreOf x.val == coreOf e.val then { slots[e] with state := 4 } else slots[e]

/-- FUSES: stage 1. -/
def execFuses (serial : W32) (stepping : Byte) (spares : List (Fin 416)) (s : State) : Host.Outcome State Fault Refusal :=
  if s.pkg.boot.state != 0 then .next s
  else
    let s1 := s.updBoot fun b => { b with state := 1, serial := serial, stepping := stepping, spares := spares }
    .next { s1 with pkg := { s1.pkg with slots := disableSpares s1.pkg.slots spares } }

/-- CLOCKS: stage 2. -/
def execClocks (locked3200 : Bool) (s : State) : Host.Outcome State Fault Refusal :=
  if s.pkg.boot.state != 1 then .next s
  else .next (s.updBoot fun b => { b with state := 2, clock := if locked3200 then 3200 else 1200 })

/-- MEMORY_TRAINING: stage 3. -/
def execMemoryTraining (passed : BitVec 8) (s : State) : Host.Outcome State Fault Refusal :=
  if s.pkg.boot.state != 2 then .next s else .next (s.updBoot fun b => { b with state := 3, trained := passed })

/-- MESH_AND_BRIDGE: stage 4; which dies passed, bit d for die d, and the bridge links that trained. -/
def execMeshAndBridge (dies : BitVec 2) (links : W16) (s : State) : Host.Outcome State Fault Refusal :=
  if s.pkg.boot.state != 3 then .next s
  else .next (s.updBoot fun b => { b with state := 4, die0 := bit dies 0, die1 := bit dies 1, bridge := links })

/-- The state that follows a good firmware image: 6 where all has passed, 7 where die 0 and M0 have, else 9 (R455); that
it is decided once the image is good is the model's choice (log 62). -/
def Boot.service (b : Boot) : Nat :=
  if !b.die0 then 9
  else if b.die1 && b.trained == BitVec.allOnes 8 && b.bridge == BitVec.allOnes 16 && b.clock == 3200 then 6
  else if bit b.trained 0 then 7
  else 9

/-- The reset region table: 48 GiB over all channels by 256 bytes (R443). -/
def RegionTable.reset : RegionTable :=
  let e : RegionEntry := ⟨0x00C0000000000000, 0x1FFFFFFFF⟩
  { RegionTable.empty with shadow := RegionTable.empty.shadow.set 0 e, active := RegionTable.empty.active.set 0 e }

/-- FIRMWARE: stage 5 begins after stage 4 with the reading of the image, and ends at its check: a bad image leads to recovery; a good one to service,
with the region tables of the stacks in service installed and no owner (R443, R455, R457). -/
def execFirmware (crcOk : Bool) (s : State) : Host.Outcome State Fault Refusal :=
  let b := s.pkg.boot
  if b.state == 4 then .next (s.updBoot fun b => { b with state := 5 })
  else if b.state != 5 then .next s
  else if !crcOk then .next (s.updBoot fun b => { b with state := 8 })
  else
    let n := b.service
    let b1 : Boot := { b with state := n, die1 := n = 6, clock := if n = 7 then 1200 else b.clock }
    .next { s with pkg := { s.pkg with
      boot := b1
      owner := 0
      regions := Vector.ofFn fun k => if stackServed b1 k then .reset else .empty } }

/-- BACKGROUND_TRAINING: in reduced service, everything that full service needs has since passed (R456, R457). -/
def execBackgroundTraining (s : State) : Host.Outcome State Fault Refusal :=
  if s.pkg.boot.state != 7 then .next s else .next (s.updBoot fun b => { b with ready := true })

/-! ### Firmware images (R458) -/

/-- Who may write the firmware registers: any master in recovery, the owner in service (R440). -/
def fwWriter (s : State) (m : Master) : Bool :=
  (s.pkg.boot.state == 8 && m != 0) || (s.inService && s.byOwner m)

/-- Whether the image named is in host memory, aligned, and of a valid length (R458). That an address of another class gets
result 0x01 too is the model's choice (log 142). -/
def fwImageOk (b : Boot) : Bool :=
  (b.fwAddr.toNat / 2 ^ 48 = 1 || b.fwAddr.toNat / 2 ^ 48 = 2) && b.fwAddr.toNat % 4096 = 0 &&
    decide (65536 ≤ b.fwLen.toNat) && decide (b.fwLen.toNat ≤ 2 ^ 26)

/-- A write of FW_CMD with go: ignored while busy; a bad length or alignment ends at once with result 0x01. -/
def startImage (s : State) (m : Master) (flash : Bool) : State :=
  if !fwWriter s m || s.pkg.boot.fwBusy then s
  else if !fwImageOk s.pkg.boot then s.updBoot fun b => { b with fwResult := 1 }
  else s.updBoot fun b => { b with fwBusy := true, fwFlash := flash }

/-- FW_GO: read and verify an image. -/
def execFwGo (m : Master) (s : State) : Host.Outcome State Fault Refusal := .next (startImage s m false)

/-- FW_FLASH: read and verify an image, and write it to module flash. -/
def execFwFlash (m : Master) (s : State) : Host.Outcome State Fault Refusal := .next (startImage s m true)

/-- FW_VERIFY_DONE: the image read ends with a result; in recovery a good image runs stage 5 again (R458). -/
def execFwVerifyDone (result : BitVec 8) (s : State) : Host.Outcome State Fault Refusal :=
  let b := s.pkg.boot
  if !b.fwBusy || !(result == 0 || result == 2 || result == 3 || (result == 4 && b.fwFlash)) then .next s
  else
    .next (s.updBoot fun b => { b with
      fwBusy := false, fwResult := result, state := if b.state = 8 && result == 0 then 5 else b.state })

/-! ### Bridge links (R438) -/

/-- BRIDGE_LINK_RETIRE: a link in service is retired; with the last, every partition is frozen and the package
enters state 10 (R434, R438, R455). -/
def execBridgeLinkRetire (l : Fin 16) (s : State) : Host.Outcome State Fault Refusal :=
  let b := s.pkg.boot
  if !s.inService || !bit b.bridge l.val || bit b.retired l.val then .next s
  else
    let gone := b.retired ||| BitVec.ofNat 16 (2 ^ l.val)
    let s1 := s.updBoot fun b => { b with retired := gone }
    if gone != b.bridge then .next s1
    else
      let s2 := s1.updBoot fun b => { b with state := 10 }
      .next { s2 with pkg := { s2.pkg with fw := { s2.pkg.fw with freeze := 0xFF } } }

/-! ### Pins (R449, R450) -/

/-- The pending changes of the alarm pins without those of some pins. -/
def withoutPins (l : List PinChange) (pins : BitVec 8) : List PinChange :=
  (l.map fun c => { c with pins := c.pins &&& ~~~pins }).filter fun c => c.pins != 0

/-- PIN_RESET: the owner releases pins and discards their pending changes (R450). -/
def execPinReset (m : Master) (mask : BitVec 8) (s : State) : Host.Outcome State Fault Refusal :=
  if !s.byOwner m then .next s
  else
    .next { s with pkg := { s.pkg with
      pinDriven := s.pkg.pinDriven &&& ~~~mask, pinQueue := withoutPins s.pkg.pinQueue mask } }

/-! ### The thermal trip (R460) -/

/-- What host memory holds of a memory: the rest is lost with the power of the package. -/
def Memory.hostOnly (m : Memory) : Memory :=
  { m with
    cells := m.cells.filter fun p => storeOf p.1 == .host
    full := m.full.filter fun p => storeOf (64 * p.1) == .host
    chk := m.chk.filter fun p => storeOf (64 * p.1) == .host
    bad := m.bad.filter fun p => storeOf (64 * p.1) == .host
    remaps := [] }

/-- THERMAL_TRIP: power is removed, every pin released, every launch lost, and `tripped` set (R460). -/
def execThermalTrip (s : State) : Host.Outcome State Fault Refusal :=
  .next { State.reset with
    mem := s.mem.hostOnly, inbox := s.inbox, free := s.free
    pkg := { Package.reset with boot := { Boot.reset with tripped := true, powered := false } } }

end Sys2Proof.Machine
end

