-- ==== Sys2Proof/Machine/Registers.lean ====
section
/-! DEFINITION. Privileged, package and firmware registers without a behaviour of their own (R9, R10, R386 to
R390, R440): writes by their fields' access, and what every register reads. -/

namespace Sys2Proof.Machine

/-! ### Writes -/

/-- Change the firmware's registers. -/
def State.updFw (s : State) (f : Firmware → Firmware) : State := { s with pkg := { s.pkg with fw := f s.pkg.fw } }

/-- Replace the 8 bytes at offset o of a record. -/
def putWord (f : List Byte) (o : Nat) (v : W64) : List Byte := f.take o ++ leBytes 8 v.toNat ++ f.drop (o + 8)

/-- A write by the scheduling core of a die, in its own address space (R400, R423, R425, R428, R430, R434). Each die's WDOG
holds its limit (log 41). FAULT_ACT acts by its action field; one with an action that is none of R423 does nothing to the
record, and has a result. -/
def firmwareWrite (s : State) (die : Fin 2) (off : Nat) (v : W64) : State :=
  if off % 8 ≠ 0 then s
  else if 0x40000000 ≤ off ∧ off < 0x40000000 + 64 * 416 then
    s.updSlot (Fin.ofNat 416 ((off - 0x40000000) / 64)) fun x => { x with record := putWord x.record (off % 64) v }
  else if off = 0x40030000 then s.updFw fun f => { f with faultArg := v }
  else if off = 0x40030008 then
    faultAct s (v.setWidth 32) (match bits v 33 32 with
      | 1 => actResume
      | 2 => fun t r => actRedirect t r s.pkg.fw.faultArg
      | 3 => fun t r => actCancel t r (s.pkg.fw.faultArg.setWidth 8)
      | _ => fun _ _ => none)
  else if off = 0x40030100 then s.updFw fun f => { f with sdVa := v }
  else if off = 0x40030108 then s.updFw fun f => { f with sdLen := v }
  else if off = 0x40040008 then
    s.updFw fun f => { f with
      scanEntry := BitVec.ofNat 9 (bits v 31 23)
      scanOffset := BitVec.ofNat 23 (bits v 22 0) }
  else if off = 0x40040018 then s.updFw fun f => { f with wdog := f.wdog.set die (v.setWidth 32) }
  else if off = 0x40040020 then s.updFw fun f => { f with saveLimit := v.setWidth 32 }
  else if 0x40070000 ≤ off ∧ off < 0x40070000 + 8 * 208 then
    s.updSlot (Fin.ofNat 416 (2 * ((off - 0x40070000) / 8))) fun x => { x with
      corr := v.setWidth 32, uncorr := BitVec.ofNat 32 (bits v 63 32) }
  else s

/-- Write the shadow copy of a region entry (R408). -/
def shadowWrite (s : State) (k : Fin 8) (i : Fin 16) (b : Bool) (v : W64) : State :=
  s.updRegion k fun t =>
    let e := t.shadow[i]
    let e1 : RegionEntry := if b then { e with b := v &&& 0x7FFFFFFFF } else { e with a := v &&& 0x00FFFFFFFFFF0000 }
    { t with shadow := t.shadow.set i e1 }

/-- The die that holds the state of a register of BAR 0, where R440, R442, R445 and R451 say so: the region tables of a
stack, and the registers of a PCIe or a Slavamus port. Every other register responds at both ports (log 38). -/
def registerDie (off : Nat) : Option Nat :=
  if 0x2000 ≤ off ∧ off < 0x3000 then some ((off - 0x2000) / 512 / 4)
  else if off = 0x3070 ∨ off = 0x3078 then some ((off - 0x3070) / 8)
  else if 0x3100 ≤ off ∧ off < 0x3180 then some ((off - 0x3100) / 16 / 4)
  else if 0x3180 ≤ off ∧ off < 0x3200 then some ((off - 0x3180) / 16 / 4)
  else none

/-- Whether the port of a master reaches a register of BAR 0 (R440, R455). -/
def registerReached (s : State) (m : Master) (off : Nat) : Bool :=
  match registerDie off with
  | some d => dieReached s m d
  | none => true

/-- A write by a master to a register of BAR 0 (R387, R440). -/
def barWrite (s : State) (m : Master) (off : Nat) (v : W64) : State :=
  let k : Fin 8 := Fin.ofNat 8 ((off - 0x2000) / 512)
  let port : Fin 8 := Fin.ofNat 8 ((off - 0x3180) / 16)
  if off % 8 ≠ 0 || !registerReached s m off then s
  else if off = 0x3050 then (if fwWriter s m then s.updBoot fun b => { b with fwAddr := v } else s)
  else if off = 0x3058 then (if fwWriter s m then s.updBoot fun b => { b with fwLen := v } else s)
  else if !s.byOwner m then s
  else if off = 0x20 then { s with pkg := { s.pkg with partAddr := v &&& 0x000FFFFFFFFFFF00 } }
  else if off = 0x28 then (if bits v 5 4 = 3 then s.partDone 2 else s)
  else if 0x2000 ≤ off ∧ off < 0x3000 then
    (if off % 512 < 256 then
      shadowWrite s k (Fin.ofNat 16 (off % 512 / 16)) (off % 16 = 8) v else s)
  else if off = 0x3030 then (if bit v 24 then s.updBoot fun b => { b with tripped := false } else s)
  else if 0x3180 ≤ off ∧ off < 0x3200 then
    s.updSlv port fun x =>
      if off % 16 = 0 then { x with expBase := v &&& 0x000FFFFFFFFF0000 } else { x with expLen := v &&& 0x1FFFFFFF0000 }
  else s

/-- REGISTER_WRITE: an aligned write by a master in BAR 0, or by the scheduling core of a die in the
firmware's space, to a register that has no behaviour of its own (R9, R386). A write of another width is ignored, so it is
none of these events. -/
def execRegisterWrite (w : Writer) (off : BitVec 32) (v : W64) (s : State) : Host.Outcome State Fault Refusal :=
  .next (match w with
    | .core die => firmwareWrite s die off.toNat v
    | .master m => if m = 0 then s else barWrite s m off.toNat v)

/-! ### Reads -/

/-- A register of fields: each value with its lowest bit. -/
def fields (l : List (Nat × Nat)) : W64 := BitVec.ofNat 64 (l.map fun x => x.1 * 2 ^ x.2).sum

/-- ID, BOOT_STATUS and the package registers at 0x3000 to 0x3FFF (R439, R440, R448, R450, R452, R456, R458,
R459). -/
def packageRegister (s : State) (off : Nat) : W64 :=
  let b := s.pkg.boot
  let l := s.pkg.links
  let x := l.slv[(Fin.ofNat 8 ((off - 0x3100) / 16))]
  let y := l.slv[(Fin.ofNat 8 ((off - 0x3180) / 16))]
  let sense (k : Nat) : W64 := Config.sensor (8 * s.cycle + k)
  let i : Fin 2 := Fin.ofNat 2 ((off - 0x3070) / 8)
  if off = 0x3000 then fields [(0x7158, 0), (b.stepping.toNat, 16), (b.serial.toNat, 32)]
  else if off = 0x3008 then
    fields [(b.state, 0), (b.trained.toNat, 16), (b.bridge.toNat, 24), ((b.die1 && b.loaded).toNat, 40), (b.ready.toNat, 41)]
  else if off = 0x3010 then 0x08321000
  else if off = 0x3018 then 0x0845671F
  else if off = 0x3020 then fields [(b.clock.toNat, 0), (10, 16)]
  else if off = 0x3028 then fields [(bits (sense 0) 15 0, 0), (1400, 16), (bits (sense 1) 15 0, 32)]
  else if off = 0x3030 then fields [(bits (sense 2) 7 0, 0), (bits (sense 3) 7 0, 8), (105, 16), (b.tripped.toNat, 24)]
  else if off = 0x3040 then
    fields [(s.pkg.pinDriven.toNat, 0), (((sense 4).setWidth 8 ||| s.pkg.pinDriven).toNat, 8), (s.pkg.pinQueue.length, 16)]
  else if off = 0x3050 then b.fwAddr
  else if off = 0x3058 then b.fwLen
  else if off = 0x3068 then fields [(b.fwResult.toNat, 0), (b.fwBusy.toNat, 8)]
  else if off = 0x3070 ∨ off = 0x3078 then
    fields [((l.discarded[i]).toNat, 0), ((l.aborted[i]).toNat, 32)]
  else if 0x3100 ≤ off ∧ off < 0x3180 ∧ off % 16 = 0 then
    fields [(x.up.toNat, 0), (x.lanes.toNat, 1), (x.retrain.toNat, 8), (x.pserial.toNat, 16), (x.pport.toNat, 48)]
  else if 0x3180 ≤ off ∧ off < 0x3200 then (if off % 16 = 0 then y.expBase else y.expLen)
  else 0

/-- The registers of the queues and rings of a partition, at 0x1000 + 0x100·p (R396, R449). -/
def queueRegister (x : Partition) (off : Nat) : W64 :=
  let q := x.lq[(Fin.ofNat 4 (off / 32))]
  if off < 0x80 then
    (if off % 32 = 0 then q.base else if off % 32 = 8 then q.tail.setWidth 64 else if off % 32 = 16 then q.head.setWidth 64 else 0)
  else if off = 0x80 then x.cr.base
  else if off = 0x88 then x.cr.tail.setWidth 64
  else if off = 0x90 then x.cr.head.setWidth 64
  else if off = 0xA0 then x.ar.base
  else if off = 0xA8 then x.ar.tail.setWidth 64
  else if off = 0xB0 then x.ar.head.setWidth 64
  else 0

/-- REGION_A, REGION_B and REGION_STATUS of a stack (R408, R409): reads return the shadow. -/
def regionRegister (t : RegionTable) (off : Nat) : W64 :=
  let e := t.shadow[(Fin.ofNat 16 (off / 16))]
  if off < 256 then (if off % 16 = 0 then e.a else e.b)
  else if off = 256 then fields [(t.gen.toNat, 0), (t.pending.toNat, 16), (t.result.toNat, 17)]
  else 0

/-- The number of a partition's state (R392). -/
def PartState.code : PartState → Nat
  | .free => 0
  | .active => 1
  | .destroying => 2

/-- PART_STATUS (R392). -/
def partStatus (p : Package) : W64 :=
  fields ([(p.partBusy.toNat, 39), (p.partResult.toNat, 40)] ++
    (List.finRange 8).map fun i => ((p.parts[i]).state.code, 4 * i.val))

/-- Whether a register of BAR 0 responds: before service only ID, BOOT_STATUS and, but in state 9, the firmware
registers read (R440, R455). -/
def barResponds (s : State) (off : Nat) : Bool :=
  s.responds || off = 0x3000 || off = 0x3008 || (s.pkg.boot.state != 9 && 0x3050 ≤ off && off ≤ 0x3068)

/-- What a register of BAR 0 reads (R387, R440). -/
def barWord (s : State) (off : Nat) : W64 :=
  if !barResponds s off then 0
  else if off = 0 then (if s.pkg.owner = 0 then 0 else fields [(s.pkg.owner.val, 0), (1, 2)])
  else if off = 0x20 then s.pkg.partAddr
  else if off = 0x30 then partStatus s.pkg
  else if 0x1000 ≤ off ∧ off < 0x1800 then queueRegister (s.pkg.parts[(Fin.ofNat 8 ((off - 0x1000) / 256))]) (off % 256)
  else if 0x2000 ≤ off ∧ off < 0x3000 then regionRegister (s.pkg.regions[(Fin.ofNat 8 ((off - 0x2000) / 512))]) (off % 512)
  else if 0x3000 ≤ off ∧ off < 0x4000 then packageRegister s off
  else 0

/-- The answer to a read of n bytes of BAR 0 by a master: outside the BAR Unsupported Request (R445); all ones but for an
aligned 8-byte read (R386); Completer Abort where the access would need the lost bridge (R440, R455); else the register. -/
def barRead (s : State) (m : Master) (off n : Nat) : Answer :=
  if 0x100000 ≤ off then .unsupported
  else if off % 8 ≠ 0 || n ≠ 8 then .data (List.replicate n 0xFF)
  else if !registerReached s m off then .abort
  else .data (leBytes 8 (barWord s off).toNat)

/-- SLOT_STATE of an entry (R400). -/
def slotState (s : State) (e : Fin 416) : W64 :=
  let x := s.pkg.slots[e]
  let r := s.resAt e.val
  fields [(x.state, 0), ((r.any fun r => r.stage == .done).toNat, 6), ((r.any fun r => r.watch.yield).toNat, 7), (x.reject.toNat, 8)]

/-- SCAN_DATA: the selected 8 bytes of a frozen residency in the layout of a save area (R434), as the scheduling core of a
die reads it: of its own die's cores alone once the bridge is lost (R455). -/
def scanData (s : State) (die : Fin 2) : W64 :=
  let e := s.pkg.fw.scanEntry.toNat
  match s.resAt e with
  | some r =>
    if (s.pkg.boot.state != 10 || dieOf e == die.val) && bit s.pkg.fw.freeze r.bind.part.val && (s.pkg.slots[(Fin.ofNat 416 e)]).state == 2 then
      layoutWord (s.focusOn e) r s.pkg.fw.scanOffset.toNat
    else BitVec.allOnes 64
  | none => BitVec.allOnes 64

/-- Held residencies of a launch (R433). -/
def State.heldOf (s : State) (launch : W32) : Nat := (s.all.filter fun r => r.stage == .held && r.bind.launch == launch).length

/-- What the scheduling core of a die reads in its own address space (R400, R423, R425, R428, R430, R433, R434); the package
registers respond to it when they do in BAR 0 (R440). -/
def firmwareRead (s : State) (die : Fin 2) (off : Nat) : W64 :=
  let f := s.pkg.fw
  let core := s.pkg.slots[(Fin.ofNat 416 (2 * ((off - 0x40070000) / 8)))]
  if 0x40000000 ≤ off ∧ off < 0x40000000 + 64 * 416 then
    le64 (s.pkg.slots[(Fin.ofNat 416 ((off - 0x40000000) / 64))]).record (off % 64)
  else if 0x40020000 ≤ off ∧ off < 0x40020000 + 8 * 416 then slotState s (Fin.ofNat 416 ((off - 0x40020000) / 8))
  else if off = 0x40030000 then f.faultArg
  else if off = 0x40030010 then f.faultRes.setWidth 64
  else if off = 0x40030100 then f.sdVa
  else if off = 0x40030108 then f.sdLen
  else if off = 0x40030118 then
    (match f.sdPart with
     | some p => fields [(pinsHeld s p, 0), (1, 32)]
     | none => 0)
  else if off = 0x40040000 then f.freeze.setWidth 64
  else if off = 0x40040008 then fields [(f.scanOffset.toNat, 0), (f.scanEntry.toNat, 23)]
  else if off = 0x40040010 then scanData s die
  else if off = 0x40040018 then (f.wdog[die]).setWidth 64
  else if off = 0x40040020 then f.saveLimit.setWidth 64
  else if off = 0x40050000 then fields [(f.runLaunch.toNat, 0), (s.heldOf f.runLaunch, 32), (f.runStarted.toNat, 48)]
  else if 0x40070000 ≤ off ∧ off < 0x40070000 + 8 * 208 then fields [(core.corr.toNat, 0), (core.uncorr.toNat, 32)]
  else if 0x40103000 ≤ off ∧ off < 0x40104000 then barWord s (off - 0x40100000)
  else if 0x40101000 ≤ off ∧ off < 0x40101800 ∧ 0xA0 ≤ off % 256 ∧ off % 256 < 0xB8 then barWord s (off - 0x40100000)
  else 0

end Sys2Proof.Machine
end

