-- ==== Sys2Proof/Machine/Cycle.lean ====
section
/-! DEFINITION. One core cycle: who owns its slots (R39, R40), the fetch of the next instruction (R173), what the
units of a residency and of the package may do (R26), and the clock edge between two core cycles. -/

namespace Sys2Proof.Machine

/-- What a step does next: an instruction or an event in the state where it acts, or a move that is no
instruction. -/
inductive Turn where
  | run (i : Instr) (s : State)
  | go (s : State)
  | off
  deriving DecidableEq, Repr

/-! ### Slots (R39, R40) -/

/-- The AP context that owns the AP slot of this core cycle, when it is one of the residency in focus (R40). -/
def apOwner (s : State) : Option ApId :=
  let c := s.now % 4
  let h := resOf s.entry == 0
  if s.plan = 0 then (if h then some (if c % 2 = 0 then .f else .d) else none)
  else if (c < 2) == h then some (if c % 2 = 0 then .f else .d)
  else none

/-- Whether E of the residency in focus owns the EP slot of this core cycle (R40). -/
def epOwns (s : State) : Bool :=
  let c := s.now % 4
  let low := match s.plan with
    | 0 => false
    | 1 => c == 3
    | _ => c % 2 == 1
  low == (resOf s.entry == 1)

/-! ### The slot of an AP context (R173, R213, R237, R426) -/

/-- The turn of an AP context in its owned slot, the state being already past it: a context whose access has not
completed is blocked, in a residency that is being saved too (R213, R218, R237); a stop request comes first at an
instruction boundary; otherwise it fetches, and what it may not fetch or decode parks it. The slot passes in every case, so that
results come nearer (R214); an instruction that issues counts it itself. -/
def apTurn (s : State) (c : ApId) : Turn :=
  let x := s.ctx c
  let t := s.updCtx c ApCtx.slot
  if x.status == .running && s.r.traced && (x.pending.isSome || s.now < x.wake) then .go t.blocked
  else if x.status != .running || s.r.stage != .running then .go t
  else if x.stopReq then .go ((t.updCtx c fun x => { x with stopReq := false }).park c ⟨0x79, 0, 0⟩)
  else if (s.r.section c).2 < x.pc.toNat + 4 then .go (t.park c ⟨0x04, 0, 0⟩)
  else
    let k := apimKey s.entry ((s.r.section c).1 + x.pc.toNat)
    if s.mem.isBad (k / 64) then .go (t.park c ⟨0x0A, 0, 0⟩)
    else
      match decodeABytes (s.mem.bytes k 4) with
      | .ok i => .run i s
      | .error e => .go (t.park c ⟨e, 0, 0⟩)

/-! ### The slot of context E (R173, R191, R196, R303, R325 to R327) -/

/-- Whether the loop buffer holds the word at E's PC (R323). -/
def EpCtx.buffered (e : EpCtx) : Bool :=
  decide (e.lbufStart ≤ e.pc.toNat) && decide (e.pc.toNat < e.lbufStart + 8 * e.lbuf.length) && e.loops != []

/-- A withheld word that decodes to no instruction: its slot passes as any withheld one's (R325). -/
def State.eSkip (s : State) (len : Nat) : State :=
  s.tickE.ePassed len .next

/-- The fetch of E: the words at its PC. `s` is before the slot and `t` past it: an ESTAGE of a pipelined body
takes no slot, so that it leaves the slot to the next instruction (R325). -/
def eFetch (s t : State) : Turn :=
  let e := s.r.ep
  let pc := e.pc.toNat
  let w := s.eWord
  let len := wordLen w
  if s.r.bind.epSize < pc + 8 || s.r.bind.epSize < pc + len then .go (t.parkE ⟨0x04, 0, 0⟩)
  else if !e.buffered && (granulesOf (keysFrom (epimKey s.entry pc) len)).any s.mem.isBad then .go (t.parkE ⟨0x0A, 0, 0⟩)
  else
    match decodeE w.toNat (if len = 16 then (s.eWordAt (pc + 8)).toNat else 0) with
    | .ok i => .run i (if bits w 63 56 = 0x52 && (e.refill).piped then s else t)
    | .error c =>
      let u := t.updE EpCtx.refill
      if u.withheld then .go (u.eSkip len) else .go (t.parkE ⟨c, 0, 0⟩)

/-- The turn of context E in its owned slot: an occupied slot or results in flight; a stop or a save at a group
switch; otherwise it fetches. -/
def epTurn (s t : State) : Turn :=
  let e := s.r.ep
  if s.r.stage != .running && s.r.stage != .saving && s.r.stage != .done then .go t
  else if s.r.reuseDue then .run .resultDelivery t
  else if e.status == .halted then (if e.inflight.isEmpty then .go t else .run .resultDelivery t)
  else if e.status != .running then .go t
  else if e.occupied ≠ 0 then .run .resultDelivery t
  else if s.r.stage == .saving && s.r.eAtRest then .go t
  else if e.stopReq && s.r.eAtRest then .go ((t.updE fun e => { e with stopReq := false }).parkE ⟨0x79, 0, 0⟩)
  else if s.r.stage == .done then .go t
  else eFetch s t

/-! ### The units of a residency (R26, R429) -/

/-- What the sides of a stream may do. -/
def streamEvents (r : Residency) (n : SReg) : List Instr :=
  let x := r.st[n]
  if !x.isOpen then []
  else
    (if 1 ≤ x.kind && x.kind ≤ 3 then [.streamFetch n, .granuleLand n] else []) ++
      (if 2 ≤ x.sink && x.sink ≤ 4 then [.streamDrainWrite n] else []) ++
      (if x.sink = 5 then [.remoteGranuleSend n] else [])

/-- What its decompressor may do. -/
def expandEvents (r : Residency) (n : SReg) : List Instr := if r.st[n].kind = 5 then [.decompress n] else []

/-- What the chain channels may do; one that CP.CHAIN has started in this core cycle waits for the next (R26). While the
residency is saved, a channel only goes on to the end of its record (R281, R429). -/
def chainEvents (r : Residency) : List Instr :=
  (List.finRange 8).flatMap fun k =>
    if !(r.chains[k]).busy || !r.start.chains[k] then [] else if r.stage == .saving then [.chainRecordDone k] else [.chainRecordFetch k, .chainRecordDone k]

/-- What the engines may do: the stream sides by register, then the copy engine with its chains, the index engine, and the
decompressors: the order in which a bank serves them, and in which their updates take effect (R26, R111). A command issued
in this core cycle waits for the next. -/
def engineEvents (r : Residency) (cs : List Cmd) (rest : Bool) : List Instr :=
  let run (p : Fin 2) : List Instr :=
    (cs.filter fun c => c.kind.pool == p && decide (c.id < r.start.nextId)).flatMap fun c => [.engineCommandStart c.id, .engineCommandFinish c.id]
  (if rest then (List.finRange 32).flatMap (streamEvents r) else []) ++ run 0 ++ chainEvents r ++ run 1 ++
    (if rest then (List.finRange 32).flatMap (expandEvents r) else [])

/-- What the matrix unit and Damask may do; an age is cleared once no command is left (R67). -/
def queueEvents (r : Residency) : List Instr :=
  if r.mx.queue.isEmpty then (if r.mx.age = 0 then [] else [.matrixKStep])
  else [.commandStart, .matrixKStep, .queueStreamCopy, .damaskAccumulate, .damaskDrainEntry, .commandFinish]

/-- What may happen in the residency in focus in one core cycle, beside its slots: each at most once, in the order
of R26. While it is saved, only what must end goes on, and the stream sides until E is at rest (R282, R375,
R429). -/
def unitEvents (r : Residency) : List Instr :=
  let watch : List Instr := [.watchdogExpire, .tracePcSample 0, .tracePcSample 1, .tracePcSample 2, .traceTimeStamp]
  let access : List Instr := [.memoryRequestComplete .f, .memoryRequestComplete .d]
  let walks : List Instr := if r.walks.isEmpty then [] else [.pageWalkComplete]
  let gauze : List Instr := if r.gz.ops.isEmpty then [] else [.gauzeOpComplete]
  match r.start.stage with
  | .free => []
  | .loading => [.overlayLoad]
  | .loaded => [.launchRecordApply]
  | .held => []
  | .running | .done =>
    watch ++ access ++ walks ++ engineEvents r r.cmds true ++ queueEvents r ++ gauze
  | .saving =>
    watch ++ access ++ engineEvents r (r.cmds.filter Cmd.mustEnd) (!r.eAtRest) ++ gauze ++ [.forcedSave, .saveComplete]

/-! ### From one residency to the next -/

/-- The next residency whose turn it is: bound, and not frozen (R434). With none left, the core cycle is over. -/
def takeTurn (s : State) : List Nat → State
  | [] => { s with turns := [], phase := .inputs }
  | e :: es =>
    match s.resAt e with
    | some r => if s.frozen r.bind.part then takeTurn s es else { s.focusOn e with turns := es, phase := .ap }
    | none => takeTurn s es

/-- The turn of the residency in focus is over; a place that it has left is given up. -/
def State.nextTurn (s : State) : State :=
  takeTurn { s with others := s.others.filter fun r => r.stage != .free } s.turns

/-! ### The package (R26, R48, R419) -/

/-- A counter of core cycles that runs while a residency is bound and not saved (R218, R332): it counts the core cycle in
which the launch record is applied (log 111). -/
def Residency.count (r : Residency) : Residency :=
  if r.stage == .running || r.stage == .saving || r.stage == .done then
    { r with f := { r.f with acyc := r.f.acyc + 1 }, d := { r.d with acyc := r.d.acyc + 1 }
             ep := { r.ep with ecyc := r.ep.ecyc + 1 } }
  else r

/-- Whether residency a has its turn before residency b: by logical core, then by slot-table entry (R62). -/
def Residency.turnBefore (a b : Residency) : Bool :=
  decide (a.bind.lcore < b.bind.lcore) || (a.bind.lcore == b.bind.lcore && decide (a.bind.e ≤ b.bind.e))

/-- Put a residency at its place in the order of turns. -/
def insertTurn (r : Residency) : List Residency → List Residency
  | [] => [r]
  | x :: xs => if r.turnBefore x then r :: x :: xs else x :: insertTurn r xs

/-- The slot-table entries of every residency in the order of their turns. -/
def State.entries (s : State) : List Nat :=
  ((s.all.filter fun r => r.stage != .free).foldr insertTurn []).map fun r => r.bind.e

/-- What the residencies of a launch share, as the next core cycle reads it: the outstanding count, the phases of its
barriers, fslip, and whether S(0) is fixed (R26). -/
def Launch.latch (l : Launch) : Launch :=
  { l with
    outStart := l.outstanding, groups := l.groups.map fun g => { g with phaseStart := g.phase }
    frames := { l.frames with slipsStart := l.frames.slips, fixedStart := l.frames.fixed } }

/-- The soft errors that the reads of a core have corrected in a core cycle are counted: their number is free, since no
rule says when an error comes (R115, R428, log 34). A corrected error changes no datum, and its stored copy is right
again. -/
def correctErrors (s : State) : List Nat → State
  | [] => s
  | e :: es =>
    let k : Fin 416 := Fin.ofNat 416 (coreOf e * 2)
    let n := Config.corrected s.free e
    correctErrors { s with pkg := { s.pkg with slots := s.pkg.slots.set k { s.pkg.slots[k] with
      corr := BitVec.ofNat 32 (min 0xFFFFFFFF ((s.pkg.slots[k]).corr.toNat + n)) } } } es

/-- The clock of a partition that is frozen falls behind by a core cycle (R434). -/
def State.lagging (s : State) : Vector Partition 8 :=
  Vector.ofFn fun p => if s.frozen p then { s.pkg.parts[p] with lag := (s.pkg.parts[p]).lag + 1 } else s.pkg.parts[p]

/-- The clock edge: the task operations of the core cycle take effect (R62), its events are posted (R427), the counters
rise, and every residency's streams are as the next core cycle reads them (R26). -/
def clockEdge (s : State) : State :=
  let s0 := (s.launches.filter fun l => !s.frozen l.part).foldl (fun t l => settleTasks t l.id) s
  let s1 := (List.finRange 8).foldl State.postEvents s0
  let tickOf (r : Residency) : Residency := ((if s.frozen r.bind.part then r else r.count).latch).latchAmong s1.all
  let running := s1.entries.filter fun e => (s1.resAt e).any fun r => !s1.frozen r.bind.part
  let s2 : State := { correctErrors { s1 with pkg := { s1.pkg with parts := s1.lagging } } running with
    r := tickOf s1.r, others := s1.others.map tickOf, launches := s1.launches.map Launch.latch
    cycle := s1.cycle + 1, subtick := s1.subtick + 1, free := s1.free + 1
    turns := s1.entries, banks := [], phase := .package none }
  { s2 with r := besideTile s2 s2.r, others := s2.others.map (besideTile s2) }

/-- A block whose release has come and is not yet signalled (R50). -/
def dueBlock (s : State) : Option (Nat × BitVec 10) :=
  s.launches.findSome? fun l =>
    if l.frameMode && !l.finished then
      (match l.frames.blocks.findIdx? fun b => l.frames.releases b s.tick.toNat with
       | some i => if i < 1024 then some (l.id.toNat, BitVec.ofNat 10 i) else none
       | none => none)
    else none

/-- What the device does for a partition of its own accord: records, service requests, and its end. -/
def partEvents (s : State) (p : Fin 8) : List Instr :=
  match (s.pkg.parts[p]).state with
  | .free => []
  | .active =>
    [.completionRecordWrite p, .faultRecordPost p, .resume p, .redirect p, .cancel p, .shootdown p, .trace p]
  | .destroying => [.completionRecordWrite p, .faultRecordPost p, .partitionFreed p]

/-- What the package may do at the start of a core cycle, each once. -/
def packageEvents (s : State) : List Instr :=
  [.frameTick] ++ (s.launches.map fun l => .frameStart l.id.toNat) ++ (if s.pkg.pinQueue.isEmpty then [] else [.pinChange]) ++
    (if s.pkg.fw.sdPart.isSome then [.shootdownComplete] else []) ++ (List.finRange 8).flatMap (partEvents s) ++
    (List.finRange 8).filterMap fun k => if (s.pkg.regions[k]).pending then some (.regionInstall k) else none

/-- Whether what the outside world does can be taken now: ingest for a frozen partition waits, and so does an
access to a stack whose region table is being installed, and the taking of a launch, which reads its descriptor, its image
and its object table by address (R409, R434, R446). -/
def takable (s : State) : Instr → Bool
  | .ingestFrameStart c | .ingestPayloadWrite c _ _ | .ingestEof c _ | .ingestFrameCommit c =>
    (match ingestAt s c with
     | some (e, _) => !((s.resAt e).any fun r => s.frozen r.bind.part)
     | none => true)
  | .create _ _ | .regrant _ _ => !windowWaits s s.pkg.partAddr.toNat
  | .restore e => !restoreWaits s e
  | .hbmWindowWrite _ o _ | .hbmWindowRead _ o _ => !windowWaits s o.toNat
  | .peerAccess k o _ _ => !((exportKey s k o.toNat 0).any fun a => windowWaits s a)
  | .faultActCancel t => !faultActWaits s t
  | .registerWrite (.core _) o v => !(o.toNat == 0x40030008 && bits v 33 32 == 3 && faultActWaits s (v.setWidth 32))
  | .launchDescriptorTake _ _ _ _ _ _ => !(s.pkg.regions.toList.any fun t => t.pending)
  | _ => true

/-- What an input contends for, who writes it, and its rank among those that arrive with it: a handover before claims,
claims by master id, and writes of SLOT_GO by the die of the scheduling core (R388, R389, R400: a bind comes from die 0,
the rest from the entry's own die). -/
def contender : Instr → Option (Nat × Nat × Nat)
  | .ownerHandover m _ => some (0, m.val, 0)
  | .ownerClaim m | .ownerForceClaim m => some (0, m.val, m.val)
  | .bind _ => some (1, 0, 0)
  | .unbind e | .save e | .restore e => some (1, dieOf e.val, dieOf e.val)
  | _ => none

/-- Among the writes for the same thing that follow at once, by writers not yet seen, the one with the lowest rank below
`rank`, and the rest: they have arrived in the same core cycle (log 92). -/
def rival (what rank : Nat) (seen : List Nat) : List Instr → Option (Instr × List Instr)
  | [] => none
  | j :: js =>
    match contender j with
    | some (c, w, r) =>
      if c ≠ what || seen.contains w then none
      else
        match rival what (min r rank) (w :: seen) js with
        | some (x, xs) => some (x, j :: xs)
        | none => if r < rank then some (j, js) else none
    | none => none

/-- An input that can be taken, or the one that goes before it of those that arrived with it (R388, R389, R400). -/
def firstOf (i : Instr) (is : List Instr) : Instr × List Instr :=
  match contender i with
  | some (c, w, r) =>
    (match rival c r [w] is with
     | some (j, js) => (j, i :: js)
     | none => (i, is))
  | none => (i, is)

/-- The party whose access an input is: a PCIe master, a Slavamus port, or the scheduling core of a die. -/
def sourceOf : Instr → Option Nat
  | .hbmWindowWrite m _ _ | .hbmWindowRead m _ _ | .ownerClaim m | .ownerForceClaim m | .ownerHandover m _ | .create m _
  | .destroy m _ | .regrant m _ | .lqBase m _ _ _ | .lqTail m _ _ _ | .crBase m _ _ | .crHead m _ _ | .arBase m _ _
  | .arHead m _ _ | .regionCommit m _ _ | .pinReset m _ | .pkgReset m _ | .fwGo m | .fwFlash m | .registerWrite (.master m) _ _ =>
    some m.val
  | .peerAccess k _ _ _ => some (4 + k.val)
  | .registerWrite (.core d) _ _ => some (12 + d.val)
  | _ => none

/-- Whether input j comes from the same party as input i: the accesses of one keep their order (R170). -/
def sameSource (i j : Instr) : Bool := (sourceOf i).isSome && sourceOf i == sourceOf j

/-- The oldest input that can be taken, and the rest in order. Behind one that waits, the later ones of its party wait too,
so that a write of LQ_TAIL or of a sync word covers the writes before it (R170, R396, R409). -/
def takeReady (ok : Instr → Bool) : List Instr → Option (Instr × List Instr)
  | [] => none
  | i :: is =>
    if ok i then some (firstOf i is)
    else
      match takeReady (fun j => ok j && !sameSource i j) is with
      | some (j, js) => some (j, i :: js)
      | none => none

/-- The turn of the package at the start of a core cycle: what it does of its own accord, then the residencies. What it
may do is fixed as the core cycle starts, but that a block is released as soon as its frame has begun. -/
def packageTurn (s : State) (todo : Option (List Instr)) : Turn :=
  match todo, dueBlock s with
  | some _, some (l, b) => .run (.blockRelease l b) s
  | _, _ =>
    match todo.getD (packageEvents s) with
    | i :: is => .run i { s with phase := .package (some is) }
    | [] => .go s.nextTurn

/-- Whether an input stands for more than one step: the firmware image's, until stage 5 has begun (R455). -/
def stays (s : State) (i : Instr) : Bool :=
  match i with
  | .firmware _ => s.pkg.boot.state == 4
  | _ => false

/-- The inputs between two core cycles, oldest first, and then the clock edge. -/
def inputTurn (s : State) : Turn :=
  match takeReady (takable s) s.inbox with
  | some (i, is) => .run i (if stays s i then s else { s with inbox := is })
  | none => .go (clockEdge s)

/-! ### The whole -/

/-- Without power only a package reset does anything (R460). -/
def offTurn (s : State) : Turn :=
  match s.inbox with
  | [] => .off
  | .packageReset :: is => .run .packageReset { s with inbox := is }
  | _ :: is => .go { s with inbox := is }

/-- What the machine does next. -/
def turnOf (s : State) : Turn :=
  if !s.pkg.boot.powered then offTurn s
  else
    match s.phase with
    | .ep =>
      let t : State := { s with phase := .units none }
      if epOwns s then epTurn s t else .go t
    | .ap =>
      let t : State := { s with phase := .ep }
      match apOwner s with
      | some c => apTurn { t with ap := c } c
      | none => .go t
    | .units todo =>
      match todo.getD (unitEvents s.r) with
      | i :: is => .run i { s with phase := .units (some is) }
      | [] => .go s.settle.nextTurn
    | .inputs => inputTurn s
    | .package todo => packageTurn s todo

/-! ### Placing an instruction where it is fetched next -/

/-- A residency at the place of an absent one: bound in entry 0, with 8 banks, 64 vector registers and code. -/
def Residency.bare : Residency :=
  let r := Residency.fresh { Bind.none with e := 0, n := 1, banks := 8, wbuf := 65536, smem := 8192, jsh := 65536 } 64
  { r with stage := .running, start := { r.start with stage := .running } }

/-- The residency that fetches, made ready to issue in its next slot. -/
def readied (r : Residency) (size : Nat) (a : Bool) : Residency :=
  let b := r.bind
  let r1 : Residency := { r with stage := .running, watch := { r.watch with saveReq := none } }
  if a then
    { r1 with
      bind := { b with fetchSize := max b.fetchSize (r.f.pc.toNat + size) }
      f := { r.f with status := .running, pending := none, wake := 0, stopReq := false } }
  else
    { r1 with
      bind := { b with epSize := max b.epSize (r.ep.pc.toNat + size) }
      ep := { r.ep with status := .running, occupied := 0, stopReq := false, lbuf := [] } }

/-- Store an instruction at the PC of context F (`a`) or E of the residency in focus, and make that context's slot
the next thing that happens. -/
def placeWord (s : State) (bs : List Byte) (a : Bool) : State :=
  let r := readied (if s.r.stage = .free then Residency.bare else s.r) bs.length a
  let k := if a then apimKey r.bind.e r.f.pc.toNat else epimKey r.bind.e r.ep.pc.toNat
  let slot := if resOf r.bind.e = 0 then 0 else if a then 2 else 3
  let lag := (s.pkg.parts[r.bind.part]).lag
  { s with
    mem := (s.mem.fill k bs).mends (granulesOf (keysFrom k bs.length))
    r := r, cycle := lag + (s.cycle - lag - (s.cycle - lag) % 4) + slot, phase := if a then .ap else .ep
    pkg := { s.pkg with
      boot := { s.pkg.boot with powered := true }
      fw := { s.pkg.fw with freeze := s.pkg.fw.freeze &&& ~~~(BitVec.ofNat 8 (2 ^ r.bind.part.val)) } } }

end Sys2Proof.Machine
end

