-- ==== Sys2Proof/Machine/ApArith.lean ====
section
/-! DEFINITION. Integer arithmetic, immediates, bit fields, selection and predicates of the access
processor (R220 to R227). -/

namespace Sys2Proof.Machine

/-- The high half of the signed product (R220, MULH). -/
def mulHigh (x y : W64) : W64 := BitVec.ofInt 64 (x.toInt * y.toInt / 2 ^ 64)
/-- The high half of the unsigned product (R220, MULHU). -/
def mulHighU (x y : W64) : W64 := BitVec.ofNat 64 (x.toNat * y.toNat / 2 ^ 64)
/-- Unsigned division: all ones for a zero divisor (R220, DIVU). -/
def divU (x y : W64) : W64 := if y = 0 then BitVec.allOnes 64 else x / y
/-- Unsigned remainder: the dividend for a zero divisor (R220, REMU). -/
def remU (x y : W64) : W64 := if y = 0 then x else x % y

/-- An ALU instruction of two sources (R220). -/
def alu (i : Instr) (f : RRR) (op : W64 → W64 → W64) (s : State) : Host.Outcome State Fault Refusal :=
  apPure i f.g s fun s => s.setA f.d (op (s.areg f.a) (s.areg f.b))

/-- An ALU instruction of one source (R220). -/
def alu1 (i : Instr) (f : RR) (op : W64 → W64) (s : State) : Host.Outcome State Fault Refusal :=
  apPure i f.g s fun s => s.setA f.d (op (s.areg f.a))

/-- An immediate instruction: the immediate sign-extended (R221). -/
def aluImm (i : Instr) (f : RI) (op : W64 → W64 → W64) (s : State) : Host.Outcome State Fault Refusal :=
  apPure i f.g s fun s => s.setA f.d (op (s.areg f.a) (f.i.signExtend 64))

/-- An immediate shift (R221). -/
def aluSh (i : Instr) (f : RSh) (op : W64 → Nat → W64) (s : State) : Host.Outcome State Fault Refusal :=
  apPure i f.g s fun s => s.setA f.d (op (s.areg f.a) f.i.val)

/-- ADD (R220). -/
def execAdd (f : RRR) (s : State) : Host.Outcome State Fault Refusal :=
  alu (.add f) f (fun x y => x + y) s
/-- SUB (R220). -/
def execSub (f : RRR) (s : State) : Host.Outcome State Fault Refusal :=
  alu (.sub f) f (fun x y => x - y) s
/-- MUL (R220). -/
def execMul (f : RRR) (s : State) : Host.Outcome State Fault Refusal :=
  alu (.mul f) f (fun x y => x * y) s
/-- MULH (R220). -/
def execMulh (f : RRR) (s : State) : Host.Outcome State Fault Refusal :=
  alu (.mulh f) f (fun x y => mulHigh x y) s
/-- MULHU (R220). -/
def execMulhu (f : RRR) (s : State) : Host.Outcome State Fault Refusal :=
  alu (.mulhu f) f (fun x y => mulHighU x y) s
/-- DIVU (R220). -/
def execDivu (f : RRR) (s : State) : Host.Outcome State Fault Refusal :=
  alu (.divu f) f (fun x y => divU x y) s
/-- REMU (R220). -/
def execRemu (f : RRR) (s : State) : Host.Outcome State Fault Refusal :=
  alu (.remu f) f (fun x y => remU x y) s
/-- AND (R220). -/
def execAnd (f : RRR) (s : State) : Host.Outcome State Fault Refusal :=
  alu (.and f) f (fun x y => x &&& y) s
/-- OR (R220). -/
def execOr (f : RRR) (s : State) : Host.Outcome State Fault Refusal :=
  alu (.or f) f (fun x y => x ||| y) s
/-- XOR (R220). -/
def execXor (f : RRR) (s : State) : Host.Outcome State Fault Refusal :=
  alu (.xor f) f (fun x y => x ^^^ y) s
/-- SHL (R220). -/
def execShl (f : RRR) (s : State) : Host.Outcome State Fault Refusal :=
  alu (.shl f) f (fun x y => x <<< (y.toNat % 64)) s
/-- SHR (R220). -/
def execShr (f : RRR) (s : State) : Host.Outcome State Fault Refusal :=
  alu (.shr f) f (fun x y => x >>> (y.toNat % 64)) s
/-- SRA (R220). -/
def execSra (f : RRR) (s : State) : Host.Outcome State Fault Refusal :=
  alu (.sra f) f (fun x y => x.sshiftRight (y.toNat % 64)) s
/-- MIN (R220). -/
def execMin (f : RRR) (s : State) : Host.Outcome State Fault Refusal :=
  alu (.min f) f (fun x y => if x.toInt ≤ y.toInt then x else y) s
/-- MAX (R220). -/
def execMax (f : RRR) (s : State) : Host.Outcome State Fault Refusal :=
  alu (.max f) f (fun x y => if y.toInt ≤ x.toInt then x else y) s
/-- MINU (R220). -/
def execMinu (f : RRR) (s : State) : Host.Outcome State Fault Refusal :=
  alu (.minu f) f (fun x y => if x.toNat ≤ y.toNat then x else y) s
/-- MAXU (R220). -/
def execMaxu (f : RRR) (s : State) : Host.Outcome State Fault Refusal :=
  alu (.maxu f) f (fun x y => if y.toNat ≤ x.toNat then x else y) s
/-- CLZ (R220). -/
def execClz (f : RR) (s : State) : Host.Outcome State Fault Refusal :=
  alu1 (.clz f) f (fun x => BitVec.ofNat 64 (leadingZeros x)) s
/-- POPC (R220). -/
def execPopc (f : RR) (s : State) : Host.Outcome State Fault Refusal :=
  alu1 (.popc f) f (fun x => BitVec.ofNat 64 (popCount x)) s
/-- ADDI (R221). -/
def execAddi (f : RI) (s : State) : Host.Outcome State Fault Refusal :=
  aluImm (.addi f) f (fun x y => x + y) s
/-- ANDI (R221). -/
def execAndi (f : RI) (s : State) : Host.Outcome State Fault Refusal :=
  aluImm (.andi f) f (fun x y => x &&& y) s
/-- ORI (R221). -/
def execOri (f : RI) (s : State) : Host.Outcome State Fault Refusal :=
  aluImm (.ori f) f (fun x y => x ||| y) s
/-- XORI (R221). -/
def execXori (f : RI) (s : State) : Host.Outcome State Fault Refusal :=
  aluImm (.xori f) f (fun x y => x ^^^ y) s
/-- MULI (R221). -/
def execMuli (f : RI) (s : State) : Host.Outcome State Fault Refusal :=
  aluImm (.muli f) f (fun x y => x * y) s
/-- SHLI (R221). -/
def execShli (f : RSh) (s : State) : Host.Outcome State Fault Refusal :=
  aluSh (.shli f) f (fun x n => x <<< n) s
/-- SHRI (R221). -/
def execShri (f : RSh) (s : State) : Host.Outcome State Fault Refusal :=
  aluSh (.shri f) f (fun x n => x >>> n) s
/-- SRAI (R221). -/
def execSrai (f : RSh) (s : State) : Host.Outcome State Fault Refusal :=
  aluSh (.srai f) f (fun x n => x.sshiftRight n) s
/-- LUI (R222). -/
def execLui (g : Guard) (d : AReg) (i : BitVec 18) (s : State) : Host.Outcome State Fault Refusal :=
  apPure (.lui g d i) g s fun s => s.setA d (BitVec.ofNat 64 (i.toNat * 2 ^ 13))
/-- MADD: all three sources are read before the write (R223). -/
def execMadd (f : RRR) (c : AReg) (s : State) : Host.Outcome State Fault Refusal :=
  apPure (.madd f c) f.g s fun s => s.setA f.d (s.areg f.a * s.areg f.b + s.areg c)

/-- The bits p+l-1 down to p of a word, zero-extended (R224). -/
def extract (x : W64) (p l : Nat) : W64 := (x >>> p) &&& BitVec.ofNat 64 (2 ^ l - 1)
/-- The low l bits of a word, sign-extended from bit l-1 (R224). -/
def signFrom (x : W64) (l : Nat) : W64 := (x <<< (64 - l)).sshiftRight (64 - l)
/-- t with bits p+l-1 down to p replaced by the low l bits of x (R224). -/
def insert (t x : W64) (p l : Nat) : W64 :=
  (t &&& ~~~(BitVec.ofNat 64 (2 ^ l - 1) <<< p)) ||| ((x &&& BitVec.ofNat 64 (2 ^ l - 1)) <<< p)

/-- BFX, zero-extending (R224). -/
def execBfx (f : RBf) (s : State) : Host.Outcome State Fault Refusal :=
  apPure (.bfx f) f.g s fun s => s.setA f.d (extract (s.areg f.a) f.p.val (f.l.val + 1))
/-- BFX.S, sign-extending (R224). -/
def execBfxS (f : RBf) (s : State) : Host.Outcome State Fault Refusal :=
  apPure (.bfxS f) f.g s fun s =>
    s.setA f.d (signFrom (extract (s.areg f.a) f.p.val (f.l.val + 1)) (f.l.val + 1))
/-- BFI (R224). -/
def execBfi (f : RBf) (s : State) : Host.Outcome State Fault Refusal :=
  apPure (.bfi f) f.g s fun s => s.setA f.d (insert (s.areg f.d) (s.areg f.a) f.p.val (f.l.val + 1))
/-- SEL (R225). -/
def execSel (f : RRR) (n : Guard) (s : State) : Host.Outcome State Fault Refusal :=
  apPure (.sel f n) f.g s fun s => s.setA f.d (if s.apred n then s.areg f.a else s.areg f.b)

/-- Write a truth value to qt and its complement to qf, qf last (R226). -/
def setPair (t f : Guard) (c : Bool) (s : State) : State := (s.setQ t c).setQ f (!c)

/-- CMP (R226). -/
def execCmp (g t f : Guard) (c : Fin 16) (a b : AReg) (s : State) : Host.Outcome State Fault Refusal :=
  apPure (.cmp g t f c a b) g s fun s => setPair t f (condition c.val (s.areg a) (s.areg b)) s
/-- CMPI (R226). -/
def execCmpi (g t f : Guard) (c : Fin 16) (a : AReg) (i : BitVec 8) (s : State) :
    Host.Outcome State Fault Refusal :=
  apPure (.cmpi g t f c a i) g s fun s => setPair t f (condition c.val (s.areg a) (i.signExtend 64)) s
/-- PLOG: the table's bit 2*qa + qb (R227). -/
def execPlog (g t f : Guard) (n : Fin 16) (a b : Guard) (s : State) : Host.Outcome State Fault Refusal :=
  apPure (.plog g t f n a b) g s fun s => setPair t f (tableBit n.val (s.apred a) (s.apred b)) s

end Sys2Proof.Machine
end

