-- ==== Sys2Proof/Machine/ApControl.lean ====
section
/-! DEFINITION. Transfers of control and hardware loops of the access processor (R228 to R234). -/

namespace Sys2Proof.Machine

/-- The target of an AB-format transfer: PC + 4 times the signed offset, modulo 2^32 (R174). -/
def branchTarget (pc : Nat) (o : BitVec 23) : Nat := (((pc : Int) + 4 * o.toInt) % 2 ^ 32).toNat

/-- B (R228, R233). -/
def execB (g : Guard) (o : BitVec 23) (s : State) : Host.Outcome State Fault Refusal :=
  apIssue (.b g o) g s fun s =>
    let t := branchTarget s.apc o
    .ok (traceBranch s s.ap t, .jump t)

/-- CALL: the link in a31; the loop stack stays (R228, R233). -/
def execCall (g : Guard) (o : BitVec 23) (s : State) : Host.Outcome State Fault Refusal :=
  apIssue (.call g o) g s fun s =>
    let t := branchTarget s.apc o
    .ok (traceBranch (s.setA 31 (BitVec.ofNat 64 (s.apc + 4))) s.ap t, .call t)

/-- JR: with no link it pops loops, with a link it does not (R229, R233). -/
def execJr (f : RR) (s : State) : Host.Outcome State Fault Refusal :=
  apIssue (.jr f) f.g s fun s =>
    let t := (s.areg f.a).toNat
    if t % 4 ≠ 0 then raise 0x05
    else if 2 ^ 32 ≤ t then
      -- such an offset fits no PC: the context faults with 0x04 where it would issue from it (R173),
      -- and the PC it then shows is a free value beyond every section; its branch record holds the target's
      -- low 32 bits (R436, log 14)
      let (n, s1) := s.draw
      let far := 2 ^ 31 + 4 * (Config.farPc n % 2 ^ 29)
      .ok (traceBranch (s1.setA f.d (BitVec.ofNat 64 (s.apc + 4))) s.ap t, if f.d = 0 then .jump far else .call far)
    else
      let s1 := traceBranch (s.setA f.d (BitVec.ofNat 64 (s.apc + 4))) s.ap t
      .ok (s1, if f.d = 0 then .jump t else .call t)

/-- The size of the section of the issuing context. -/
def State.sectionSize (s : State) : Nat := (s.r.section s.ap).2

/-- LOOP and LOOPI of count n and body length l (R231). The spec does not say which rule holds for one that is itself the
last word of the innermost body, its own body lying beyond that end: this model goes on as R231 says and advances no level
by R232 (log 101). -/
def openLoop (s : State) (n l : Nat) : Except Stop (State × Flow) := do
  let c := s.ctx s.ap
  let start := s.apc + 4
  let stop := start + 4 * l
  need (n < 2 ^ 32) 0x08
  need (c.loops.length < 6) 0x06
  need (stop ≤ s.sectionSize) 0x07
  match c.loops with
  | [] => .ok ()
  | e :: _ =>
    need ((decide (e.start ≤ start) && decide (stop ≤ e.stop)) ||
      decide (stop ≤ e.start) || decide (e.stop ≤ start)) 0x07
  if n = 0 then .ok (s, .skipTo stop)
  else
    .ok (s.updCtx s.ap fun c => { c with loops := ⟨start, stop, n, 0⟩ :: c.loops, pc := BitVec.ofNat 32 start },
      .set)

/-- LOOP (R230, R231). -/
def execLoop (g : Guard) (c : AReg) (l : BitVec 12) (s : State) : Host.Outcome State Fault Refusal :=
  apIssue (.loop g c l) g s fun s => openLoop s (s.areg c).toNat l.toNat

/-- LOOPI (R230, R231). -/
def execLoopi (g : Guard) (n : BitVec 14) (l : BitVec 9) (s : State) : Host.Outcome State Fault Refusal :=
  apIssue (.loopi g n l) g s fun s => openLoop s n.toNat l.toNat

end Sys2Proof.Machine
end

