-- ==== Sys2Proof/Machine/ApSync.lean ====
section
/-! DEFINITION. SYNC and BAR of the access processor (R286, R287, R153, R154, R157, R163 to R165, R168).
An AP context issues one access at a time and goes on once it is performed (R237, R238), so what these
instructions wait for has been performed when they issue. -/

namespace Sys2Proof.Machine

/-- The scope word of a SYNC instruction (R286). -/
def scopeWord (k : Fin 8) (n : BitVec 8) : Nat := k.val + 256 * n.toNat

/-- A sync word that the access processor itself acquires or releases: peer memory is out of its reach
(R170, R242). -/
def apSync (s : State) (x : W64) (k : Fin 8) (w : Bool) : Except Stop (List Nat × State) := do
  let p ← checkSync s x k.val w (some 0x44)
  match p.2.mem.readCause (granulesOf (checkable p.1)) with
  | some c => raise c
  | none => return p

/-- SYNC.ACQ: waits until the count has reached the target; with a0 it reads once (R154). -/
def execSyncAcq (g : Guard) (d a : AReg) (k : Fin 8) (n : BitVec 8) (s : State) :
    Host.Outcome State Fault Refusal :=
  apIssue (.syncAcq g d a k n) g s fun s => do
    checkScope s (scopeWord k n)
    let (ks, s1) ← apSync s (s.areg a) k false
    let c := BitVec.ofNat 64 (leNat (s1.mem.gather ks))
    await (d = 0 || reached c (s1.areg d))
    return (s1.setA d c, .next)

/-- SYNC.REL (R153). -/
def execSyncRel (g : Guard) (a : AReg) (k : Fin 8) (n : BitVec 8) (s : State) :
    Host.Outcome State Fault Refusal :=
  apIssue (.syncRel g a k n) g s fun s => do
    checkScope s (scopeWord k n)
    let (ks, s1) ← apSync s (s.areg a) k true
    return (s1.releaseAt ks, .next)

/-- SYNC.FENCE (R157). -/
def execSyncFence (g : Guard) (k : Fin 8) (n : BitVec 8) (s : State) : Host.Outcome State Fault Refusal :=
  apIssue (.syncFence g k n) g s fun s => do
    checkScope s (scopeWord k n)
    return (s, .next)

/-- SYNC.LAUNCH.EARLY: the core counts towards its launch's early trigger (R168, R38). -/
def execSyncLaunchEarly (g : Guard) (s : State) : Host.Outcome State Fault Refusal :=
  apIssue (.syncLaunchEarly g) g s fun s =>
    let c := s.r.bind.lcore
    let s1 := s.updMine fun l => { l with early := if l.early.contains c then l.early else c :: l.early }
    .ok (s1.fireEarly, .next)

/-- A barrier instruction. -/
def apBar (i : Instr) (g : Guard) (s : State) (f : State → Except Stop State) :
    Host.Outcome State Fault Refusal :=
  apIssue i g s fun s => do
    let s1 ← f s
    return (s1, .next)

/-- BAR.ARRIVE (R287, R47, R163). -/
def execBarArrive (g : Guard) (n : BitVec 8) (s : State) : Host.Outcome State Fault Refusal :=
  apBar (.barArrive g n) g s fun s => barArrive s n.toNat
/-- BAR.WAIT (R287, R47, R163, R165). -/
def execBarWait (g : Guard) (n : BitVec 8) (s : State) : Host.Outcome State Fault Refusal :=
  apBar (.barWait g n) g s fun s => barWait s n.toNat
/-- BAR.EXPECT (R287, R164). -/
def execBarExpect (g : Guard) (a : AReg) (n : BitVec 8) (s : State) : Host.Outcome State Fault Refusal :=
  apBar (.barExpect g a n) g s fun s => barExpect s n.toNat (s.areg a)

end Sys2Proof.Machine
end

