-- ==== Sys2Proof/Machine/Dispatch.lean ====
section
/-! DEFINITION. The dispatch: every step of the part to its meaning. -/

namespace Sys2Proof.Machine

/-- The meaning of one step of the part. -/
def exec (i : Instr) (s : State) : Host.Outcome State Fault Refusal :=
  match i with
  | .add x0 => Sys2Proof.Machine.execAdd x0 s
  | .sub x0 => Sys2Proof.Machine.execSub x0 s
  | .mul x0 => Sys2Proof.Machine.execMul x0 s
  | .mulh x0 => Sys2Proof.Machine.execMulh x0 s
  | .mulhu x0 => Sys2Proof.Machine.execMulhu x0 s
  | .divu x0 => Sys2Proof.Machine.execDivu x0 s
  | .remu x0 => Sys2Proof.Machine.execRemu x0 s
  | .and x0 => Sys2Proof.Machine.execAnd x0 s
  | .or x0 => Sys2Proof.Machine.execOr x0 s
  | .xor x0 => Sys2Proof.Machine.execXor x0 s
  | .shl x0 => Sys2Proof.Machine.execShl x0 s
  | .shr x0 => Sys2Proof.Machine.execShr x0 s
  | .sra x0 => Sys2Proof.Machine.execSra x0 s
  | .min x0 => Sys2Proof.Machine.execMin x0 s
  | .max x0 => Sys2Proof.Machine.execMax x0 s
  | .minu x0 => Sys2Proof.Machine.execMinu x0 s
  | .maxu x0 => Sys2Proof.Machine.execMaxu x0 s
  | .clz x0 => Sys2Proof.Machine.execClz x0 s
  | .popc x0 => Sys2Proof.Machine.execPopc x0 s
  | .addi x0 => Sys2Proof.Machine.execAddi x0 s
  | .andi x0 => Sys2Proof.Machine.execAndi x0 s
  | .ori x0 => Sys2Proof.Machine.execOri x0 s
  | .xori x0 => Sys2Proof.Machine.execXori x0 s
  | .shli x0 => Sys2Proof.Machine.execShli x0 s
  | .shri x0 => Sys2Proof.Machine.execShri x0 s
  | .srai x0 => Sys2Proof.Machine.execSrai x0 s
  | .muli x0 => Sys2Proof.Machine.execMuli x0 s
  | .lui x0 x1 x2 => Sys2Proof.Machine.execLui x0 x1 x2 s
  | .madd x0 x1 => Sys2Proof.Machine.execMadd x0 x1 s
  | .bfx x0 => Sys2Proof.Machine.execBfx x0 s
  | .bfxS x0 => Sys2Proof.Machine.execBfxS x0 s
  | .bfi x0 => Sys2Proof.Machine.execBfi x0 s
  | .sel x0 x1 => Sys2Proof.Machine.execSel x0 x1 s
  | .cmp x0 x1 x2 x3 x4 x5 => Sys2Proof.Machine.execCmp x0 x1 x2 x3 x4 x5 s
  | .cmpi x0 x1 x2 x3 x4 x5 => Sys2Proof.Machine.execCmpi x0 x1 x2 x3 x4 x5 s
  | .plog x0 x1 x2 x3 x4 x5 => Sys2Proof.Machine.execPlog x0 x1 x2 x3 x4 x5 s
  | .b x0 x1 => Sys2Proof.Machine.execB x0 x1 s
  | .call x0 x1 => Sys2Proof.Machine.execCall x0 x1 s
  | .jr x0 => Sys2Proof.Machine.execJr x0 s
  | .loop x0 x1 x2 => Sys2Proof.Machine.execLoop x0 x1 x2 s
  | .loopi x0 x1 x2 => Sys2Proof.Machine.execLoopi x0 x1 x2 s
  | .ld x0 => Sys2Proof.Machine.execLd x0 s
  | .st x0 => Sys2Proof.Machine.execSt x0 s
  | .ldx x0 => Sys2Proof.Machine.execLdx x0 s
  | .stx x0 => Sys2Proof.Machine.execStx x0 s
  | .pref x0 x1 x2 => Sys2Proof.Machine.execPref x0 x1 x2 s
  | .amoAdd x0 => Sys2Proof.Machine.execAmoAdd x0 s
  | .amoAnd x0 => Sys2Proof.Machine.execAmoAnd x0 s
  | .amoOr x0 => Sys2Proof.Machine.execAmoOr x0 s
  | .amoXor x0 => Sys2Proof.Machine.execAmoXor x0 s
  | .amoMin x0 => Sys2Proof.Machine.execAmoMin x0 s
  | .amoMax x0 => Sys2Proof.Machine.execAmoMax x0 s
  | .amoMinu x0 => Sys2Proof.Machine.execAmoMinu x0 s
  | .amoMaxu x0 => Sys2Proof.Machine.execAmoMaxu x0 s
  | .amoSwap x0 => Sys2Proof.Machine.execAmoSwap x0 s
  | .cas x0 => Sys2Proof.Machine.execCas x0 s
  | .sOpen x0 => Sys2Proof.Machine.execSOpen x0 s
  | .sOpenH x0 => Sys2Proof.Machine.execSOpenH x0 s
  | .sPat x0 x1 => Sys2Proof.Machine.execSPat x0 x1 s
  | .sGo x0 => Sys2Proof.Machine.execSGo x0 s
  | .sAddr x0 x1 => Sys2Proof.Machine.execSAddr x0 x1 s
  | .sData x0 x1 => Sys2Proof.Machine.execSData x0 x1 s
  | .sClaim x0 => Sys2Proof.Machine.execSClaim x0 s
  | .sCommit x0 => Sys2Proof.Machine.execSCommit x0 s
  | .sCommitEl x0 => Sys2Proof.Machine.execSCommitEl x0 s
  | .sCommitEnd x0 => Sys2Proof.Machine.execSCommitEnd x0 s
  | .sCommitElEnd x0 => Sys2Proof.Machine.execSCommitElEnd x0 s
  | .sAwait x0 => Sys2Proof.Machine.execSAwait x0 s
  | .sRetire x0 => Sys2Proof.Machine.execSRetire x0 s
  | .sMark x0 => Sys2Proof.Machine.execSMark x0 s
  | .sMarkRel x0 => Sys2Proof.Machine.execSMarkRel x0 s
  | .sRewind x0 => Sys2Proof.Machine.execSRewind x0 s
  | .sFork x0 x1 x2 x3 => Sys2Proof.Machine.execSFork x0 x1 x2 x3 s
  | .sClose x0 => Sys2Proof.Machine.execSClose x0 s
  | .sCloseW x0 => Sys2Proof.Machine.execSCloseW x0 s
  | .sStat x0 x1 x2 => Sys2Proof.Machine.execSStat x0 x1 x2 s
  | .xqPush x0 x1 => Sys2Proof.Machine.execXqPush x0 x1 s
  | .yqPop x0 x1 => Sys2Proof.Machine.execYqPop x0 x1 s
  | .cpAsync x0 x1 x2 => Sys2Proof.Machine.execCpAsync x0 x1 x2 s
  | .cpChain x0 x1 => Sys2Proof.Machine.execCpChain x0 x1 s
  | .cpFence x0 => Sys2Proof.Machine.execCpFence x0 s
  | .cpFenceAll x0 => Sys2Proof.Machine.execCpFenceAll x0 s
  | .gxRows x0 x1 x2 => Sys2Proof.Machine.execGxRows x0 x1 x2 s
  | .sxRows x0 x1 x2 => Sys2Proof.Machine.execSxRows x0 x1 x2 s
  | .hLoad x0 x1 x2 => Sys2Proof.Machine.execHLoad x0 x1 x2 s
  | .hLoadNone x0 x1 x2 => Sys2Proof.Machine.execHLoadNone x0 x1 x2 s
  | .hGet x0 x1 x2 x3 => Sys2Proof.Machine.execHGet x0 x1 x2 x3 s
  | .fmtPush x0 x1 => Sys2Proof.Machine.execFmtPush x0 x1 s
  | .syncAcq x0 x1 x2 x3 x4 => Sys2Proof.Machine.execSyncAcq x0 x1 x2 x3 x4 s
  | .syncRel x0 x1 x2 x3 => Sys2Proof.Machine.execSyncRel x0 x1 x2 x3 s
  | .syncFence x0 x1 x2 => Sys2Proof.Machine.execSyncFence x0 x1 x2 s
  | .syncLaunchEarly x0 => Sys2Proof.Machine.execSyncLaunchEarly x0 s
  | .barArrive x0 x1 => Sys2Proof.Machine.execBarArrive x0 x1 s
  | .barWait x0 x1 => Sys2Proof.Machine.execBarWait x0 x1 s
  | .barExpect x0 x1 x2 => Sys2Proof.Machine.execBarExpect x0 x1 x2 s
  | .taskSpawn x0 x1 => Sys2Proof.Machine.execTaskSpawn x0 x1 s
  | .taskNext x0 => Sys2Proof.Machine.execTaskNext x0 s
  | .taskDone x0 => Sys2Proof.Machine.execTaskDone x0 s
  | .futRead x0 x1 => Sys2Proof.Machine.execFutRead x0 x1 s
  | .futFill x0 => Sys2Proof.Machine.execFutFill x0 s
  | .ttWait x0 x1 => Sys2Proof.Machine.execTtWait x0 x1 s
  | .ttDone x0 x1 => Sys2Proof.Machine.execTtDone x0 x1 s
  | .skipTest x0 x1 x2 x3 => Sys2Proof.Machine.execSkipTest x0 x1 x2 x3 s
  | .alarmSet x0 x1 => Sys2Proof.Machine.execAlarmSet x0 x1 s
  | .alarmClr x0 x1 => Sys2Proof.Machine.execAlarmClr x0 x1 s
  | .csrR x0 x1 x2 => Sys2Proof.Machine.execCsrR x0 x1 x2 s
  | .csrW x0 x1 x2 => Sys2Proof.Machine.execCsrW x0 x1 x2 s
  | .halt x0 => Sys2Proof.Machine.execHalt x0 s
  | .yield x0 => Sys2Proof.Machine.execYield x0 s
  | .trap x0 x1 => Sys2Proof.Machine.execTrap x0 x1 s
  | .traceMark x0 x1 x2 => Sys2Proof.Machine.execTraceMark x0 x1 x2 s
  | .vadd x0 => Sys2Proof.Machine.execVadd x0 s
  | .vsub x0 => Sys2Proof.Machine.execVsub x0 s
  | .vmul x0 => Sys2Proof.Machine.execVmul x0 s
  | .vfma x0 => Sys2Proof.Machine.execVfma x0 s
  | .vfms x0 => Sys2Proof.Machine.execVfms x0 s
  | .vmin x0 => Sys2Proof.Machine.execVmin x0 s
  | .vmax x0 => Sys2Proof.Machine.execVmax x0 s
  | .vabs x0 => Sys2Proof.Machine.execVabs x0 s
  | .vneg x0 => Sys2Proof.Machine.execVneg x0 s
  | .vsfu x0 => Sys2Proof.Machine.execVsfu x0 s
  | .viadd x0 => Sys2Proof.Machine.execViadd x0 s
  | .visub x0 => Sys2Proof.Machine.execVisub x0 s
  | .vimul x0 => Sys2Proof.Machine.execVimul x0 s
  | .vimad x0 => Sys2Proof.Machine.execVimad x0 s
  | .vand x0 => Sys2Proof.Machine.execVand x0 s
  | .vor x0 => Sys2Proof.Machine.execVor x0 s
  | .vxor x0 => Sys2Proof.Machine.execVxor x0 s
  | .vshl x0 => Sys2Proof.Machine.execVshl x0 s
  | .vshr x0 => Sys2Proof.Machine.execVshr x0 s
  | .vsra x0 => Sys2Proof.Machine.execVsra x0 s
  | .vimin x0 => Sys2Proof.Machine.execVimin x0 s
  | .vimax x0 => Sys2Proof.Machine.execVimax x0 s
  | .vcmp x0 => Sys2Proof.Machine.execVcmp x0 s
  | .scmp x0 => Sys2Proof.Machine.execScmp x0 s
  | .mlog x0 => Sys2Proof.Machine.execMlog x0 s
  | .mpop x0 => Sys2Proof.Machine.execMpop x0 s
  | .vcvt x0 => Sys2Proof.Machine.execVcvt x0 s
  | .vpack x0 => Sys2Proof.Machine.execVpack x0 s
  | .vunpack x0 => Sys2Proof.Machine.execVunpack x0 s
  | .scvt x0 => Sys2Proof.Machine.execScvt x0 s
  | .vshuf x0 => Sys2Proof.Machine.execVshuf x0 s
  | .vbcast x0 => Sys2Proof.Machine.execVbcast x0 s
  | .vslideDn x0 => Sys2Proof.Machine.execVslideDn x0 s
  | .vslideUp x0 => Sys2Proof.Machine.execVslideUp x0 s
  | .vsel x0 => Sys2Proof.Machine.execVsel x0 s
  | .vkeyPack x0 => Sys2Proof.Machine.execVkeyPack x0 s
  | .vkeyHash x0 => Sys2Proof.Machine.execVkeyHash x0 s
  | .vred x0 => Sys2Proof.Machine.execVred x0 s
  | .vscan x0 => Sys2Proof.Machine.execVscan x0 s
  | .sadd x0 => Sys2Proof.Machine.execSadd x0 s
  | .smul x0 => Sys2Proof.Machine.execSmul x0 s
  | .sfma x0 => Sys2Proof.Machine.execSfma x0 s
  | .smov x0 => Sys2Proof.Machine.execSmov x0 s
  | .vmov x0 => Sys2Proof.Machine.execVmov x0 s
  | .vli x0 x1 => Sys2Proof.Machine.execVli x0 x1 s
  | .sli x0 x1 => Sys2Proof.Machine.execSli x0 x1 s
  | .xqPop x0 => Sys2Proof.Machine.execXqPop x0 s
  | .yqPush x0 => Sys2Proof.Machine.execYqPush x0 s
  | .vallot x0 => Sys2Proof.Machine.execVallot x0 s
  | .vshrink x0 => Sys2Proof.Machine.execVshrink x0 s
  | .vpushm x0 => Sys2Proof.Machine.execVpushm x0 s
  | .vpopm x0 => Sys2Proof.Machine.execVpopm x0 s
  | .eb x0 => Sys2Proof.Machine.execEb x0 s
  | .eloop x0 => Sys2Proof.Machine.execEloop x0 s
  | .eloopPipe x0 => Sys2Proof.Machine.execEloopPipe x0 s
  | .estage x0 => Sys2Proof.Machine.execEstage x0 s
  | .ehalt x0 => Sys2Proof.Machine.execEhalt x0 s
  | .etrap x0 => Sys2Proof.Machine.execEtrap x0 s
  | .ecsrR x0 => Sys2Proof.Machine.execEcsrR x0 s
  | .ecsrW x0 => Sys2Proof.Machine.execEcsrW x0 s
  | .sDrop x0 => Sys2Proof.Machine.execSDrop x0 s
  | .wload x0 => Sys2Proof.Machine.execWload x0 s
  | .wloadSc x0 => Sys2Proof.Machine.execWloadSc x0 s
  | .mxDot x0 => Sys2Proof.Machine.execMxDot x0 s
  | .mxDots x0 => Sys2Proof.Machine.execMxDots x0 s
  | .rndSet x0 => Sys2Proof.Machine.execRndSet x0 s
  | .mxWait x0 => Sys2Proof.Machine.execMxWait x0 s
  | .jCfg x0 => Sys2Proof.Machine.execJCfg x0 s
  | .jClear x0 => Sys2Proof.Machine.execJClear x0 s
  | .jAcc x0 => Sys2Proof.Machine.execJAcc x0 s
  | .jMerge x0 => Sys2Proof.Machine.execJMerge x0 s
  | .jDrain x0 => Sys2Proof.Machine.execJDrain x0 s
  | .jDraino x0 => Sys2Proof.Machine.execJDraino x0 s
  | .jLook x0 => Sys2Proof.Machine.execJLook x0 s
  | .jLookP x0 => Sys2Proof.Machine.execJLookP x0 s
  | .jStat x0 => Sys2Proof.Machine.execJStat x0 s
  | .jWait x0 => Sys2Proof.Machine.execJWait x0 s
  | .gCfg x0 => Sys2Proof.Machine.execGCfg x0 s
  | .gSig x0 => Sys2Proof.Machine.execGSig x0 s
  | .gReuse x0 => Sys2Proof.Machine.execGReuse x0 s
  | .gKeep x0 => Sys2Proof.Machine.execGKeep x0 s
  | .gMapR x0 => Sys2Proof.Machine.execGMapR x0 s
  | .gMapW x0 => Sys2Proof.Machine.execGMapW x0 s
  | .gMapStep x0 => Sys2Proof.Machine.execGMapStep x0 s
  | .gMapTile x0 => Sys2Proof.Machine.execGMapTile x0 s
  | .gStep x0 => Sys2Proof.Machine.execGStep x0 s
  | .resultDelivery => Sys2Proof.Machine.execResultDelivery s
  | .memoryRequestComplete x0 => Sys2Proof.Machine.execMemoryRequestComplete x0 s
  | .pageWalkComplete => Sys2Proof.Machine.execPageWalkComplete s
  | .streamFetch x0 => Sys2Proof.Machine.execStreamFetch x0 s
  | .granuleLand x0 => Sys2Proof.Machine.execGranuleLand x0 s
  | .decompress x0 => Sys2Proof.Machine.execDecompress x0 s
  | .streamDrainWrite x0 => Sys2Proof.Machine.execStreamDrainWrite x0 s
  | .remoteGranuleSend x0 => Sys2Proof.Machine.execRemoteGranuleSend x0 s
  | .engineCommandStart x0 => Sys2Proof.Machine.execEngineCommandStart x0 s
  | .engineCommandFinish x0 => Sys2Proof.Machine.execEngineCommandFinish x0 s
  | .chainRecordFetch x0 => Sys2Proof.Machine.execChainRecordFetch x0 s
  | .chainRecordDone x0 => Sys2Proof.Machine.execChainRecordDone x0 s
  | .commandStart => Sys2Proof.Machine.execCommandStart s
  | .matrixKStep => Sys2Proof.Machine.execMatrixKStep s
  | .queueStreamCopy => Sys2Proof.Machine.execQueueStreamCopy s
  | .damaskAccumulate => Sys2Proof.Machine.execDamaskAccumulate s
  | .damaskDrainEntry => Sys2Proof.Machine.execDamaskDrainEntry s
  | .commandFinish => Sys2Proof.Machine.execCommandFinish s
  | .gauzeOpComplete => Sys2Proof.Machine.execGauzeOpComplete s
  | .frameTick => Sys2Proof.Machine.execFrameTick s
  | .frameStart x0 => Sys2Proof.Machine.execFrameStart x0 s
  | .blockRelease x0 x1 => Sys2Proof.Machine.execBlockRelease x0 x1 s
  | .pinChange => Sys2Proof.Machine.execPinChange s
  | .completionRecordWrite x0 => Sys2Proof.Machine.execCompletionRecordWrite x0 s
  | .faultRecordPost x0 => Sys2Proof.Machine.execFaultRecordPost x0 s
  | .tracePcSample x0 => Sys2Proof.Machine.execTracePcSample x0 s
  | .traceTimeStamp => Sys2Proof.Machine.execTraceTimeStamp s
  | .watchdogExpire => Sys2Proof.Machine.execWatchdogExpire s
  | .forcedSave => Sys2Proof.Machine.execForcedSave s
  | .saveComplete => Sys2Proof.Machine.execSaveComplete s
  | .shootdownComplete => Sys2Proof.Machine.execShootdownComplete s
  | .regionInstall x0 => Sys2Proof.Machine.execRegionInstall x0 s
  | .partitionFreed x0 => Sys2Proof.Machine.execPartitionFreed x0 s
  | .launchDescriptorTake x0 x1 x2 x3 x4 x5 => Sys2Proof.Machine.execLaunchDescriptorTake x0 x1 x2 x3 x4 x5 s
  | .overlayLoad => Sys2Proof.Machine.execOverlayLoad s
  | .launchRecordApply => Sys2Proof.Machine.execLaunchRecordApply s
  | .bind x0 => Sys2Proof.Machine.execBind x0 s
  | .resume x0 => Sys2Proof.Machine.execResume x0 s
  | .redirect x0 => Sys2Proof.Machine.execRedirect x0 s
  | .cancel x0 => Sys2Proof.Machine.execCancel x0 s
  | .shootdown x0 => Sys2Proof.Machine.execShootdown x0 s
  | .trace x0 => Sys2Proof.Machine.execTrace x0 s
  | .ingestFrameStart x0 => Sys2Proof.Machine.execIngestFrameStart x0 s
  | .ingestPayloadWrite x0 x1 x2 => Sys2Proof.Machine.execIngestPayloadWrite x0 x1 x2 s
  | .ingestEof x0 x1 => Sys2Proof.Machine.execIngestEof x0 x1 s
  | .ingestFrameCommit x0 => Sys2Proof.Machine.execIngestFrameCommit x0 s
  | .hbmWindowWrite x0 x1 x2 => Sys2Proof.Machine.execHbmWindowWrite x0 x1 x2 s
  | .hbmWindowRead x0 x1 x2 => Sys2Proof.Machine.execHbmWindowRead x0 x1 x2 s
  | .hostCompletionTimeout x0 => Sys2Proof.Machine.execHostCompletionTimeout x0 s
  | .ownerClaim x0 => Sys2Proof.Machine.execOwnerClaim x0 s
  | .ownerForceClaim x0 => Sys2Proof.Machine.execOwnerForceClaim x0 s
  | .ownerHandover x0 x1 => Sys2Proof.Machine.execOwnerHandover x0 x1 s
  | .create x0 x1 => Sys2Proof.Machine.execCreate x0 x1 s
  | .destroy x0 x1 => Sys2Proof.Machine.execDestroy x0 x1 s
  | .regrant x0 x1 => Sys2Proof.Machine.execRegrant x0 x1 s
  | .lqBase x0 x1 x2 x3 => Sys2Proof.Machine.execLqBase x0 x1 x2 x3 s
  | .lqTail x0 x1 x2 x3 => Sys2Proof.Machine.execLqTail x0 x1 x2 x3 s
  | .crBase x0 x1 x2 => Sys2Proof.Machine.execCrBase x0 x1 x2 s
  | .crHead x0 x1 x2 => Sys2Proof.Machine.execCrHead x0 x1 x2 s
  | .arBase x0 x1 x2 => Sys2Proof.Machine.execArBase x0 x1 x2 s
  | .arHead x0 x1 x2 => Sys2Proof.Machine.execArHead x0 x1 x2 s
  | .regionCommit x0 x1 x2 => Sys2Proof.Machine.execRegionCommit x0 x1 x2 s
  | .unbind x0 => Sys2Proof.Machine.execUnbind x0 s
  | .save x0 => Sys2Proof.Machine.execSave x0 s
  | .restore x0 => Sys2Proof.Machine.execRestore x0 s
  | .run x0 => Sys2Proof.Machine.execRun x0 s
  | .faultActResume x0 => Sys2Proof.Machine.execFaultActResume x0 s
  | .faultActRedirect x0 => Sys2Proof.Machine.execFaultActRedirect x0 s
  | .faultActCancel x0 => Sys2Proof.Machine.execFaultActCancel x0 s
  | .sdCmd x0 => Sys2Proof.Machine.execSdCmd x0 s
  | .stop x0 x1 => Sys2Proof.Machine.execStop x0 x1 s
  | .freeze x0 => Sys2Proof.Machine.execFreeze x0 s
  | .pinReset x0 x1 => Sys2Proof.Machine.execPinReset x0 x1 s
  | .pkgReset x0 x1 => Sys2Proof.Machine.execPkgReset x0 x1 s
  | .packageReset => Sys2Proof.Machine.execPackageReset s
  | .fuses x0 x1 x2 => Sys2Proof.Machine.execFuses x0 x1 x2 s
  | .clocks x0 => Sys2Proof.Machine.execClocks x0 s
  | .memoryTraining x0 => Sys2Proof.Machine.execMemoryTraining x0 s
  | .meshAndBridge x0 x1 => Sys2Proof.Machine.execMeshAndBridge x0 x1 s
  | .firmware x0 => Sys2Proof.Machine.execFirmware x0 s
  | .fwGo x0 => Sys2Proof.Machine.execFwGo x0 s
  | .fwFlash x0 => Sys2Proof.Machine.execFwFlash x0 s
  | .fwVerifyDone x0 => Sys2Proof.Machine.execFwVerifyDone x0 s
  | .bridgeLinkRetire x0 => Sys2Proof.Machine.execBridgeLinkRetire x0 s
  | .slavamusLinkChange x0 x1 x2 x3 x4 x5 => Sys2Proof.Machine.execSlavamusLinkChange x0 x1 x2 x3 x4 x5 s
  | .thermalTrip => Sys2Proof.Machine.execThermalTrip s
  | .registerWrite x0 x1 x2 => Sys2Proof.Machine.execRegisterWrite x0 x1 x2 s
  | .pcieLinkChange x0 x1 => Sys2Proof.Machine.execPcieLinkChange x0 x1 s
  | .peerAccess x0 x1 x2 x3 => Sys2Proof.Machine.execPeerAccess x0 x1 x2 x3 s
  | .backgroundTraining => Sys2Proof.Machine.execBackgroundTraining s

end Sys2Proof.Machine
end

