-- ==== Sys2Proof/Machine/Step.lean ====
section
/-! DEFINITION. One step of the machine. -/

namespace Sys2Proof.Machine

/-- One step: what the machine does next, carried out. -/
def step (s : State) : Host.Outcome State Fault Refusal :=
  match turnOf s with
  | .run i t => exec i t
  | .go t => .next t
  | .off => .fault .poweredOff

/-- The machine with an instruction placed where it is fetched next: an A-set word at the PC of context F, an
E-set word and what follows it at the PC of context E. -/
def State.withFetchWord (s : State) (nbits w : Nat) : State :=
  if nbits ≤ 32 then placeWord s (leBytes 4 w) true else placeWord s (leBytes 16 w) false

end Sys2Proof.Machine
end

