-- ==== Sys2Proof/Safety.lean ====
section
/-! DEFINITION. What counts as a legal state, when an instruction executes, and what it may change, in the terms
that claims use. -/

namespace Sys2Proof.Machine

/-! ### Invariants -/

/-- The memory is in its canonical form, so that equal memories are equal data (log 2). -/
def State.memOk (s : State) : Prop := s.mem.wf = true

/-- A run of steps that ends in a state. -/
inductive Reaches : State → State → Prop where
  | refl (s : State) : Reaches s s
  | step (s t u : State) : Reaches s t → step t = .next u → Reaches s u

/-- A state in which the machine goes on. -/
def State.goesOn (s : State) : Prop := ∃ t, step s = .next t

/-! ### When an A-set instruction executes (R189, R197, R213) -/

/-- The state in which the body of an A-set instruction works: the issuing context's owned slot has passed. -/
def State.slotted (s : State) : State := s.updCtx s.ap ApCtx.slot

/-- Where the issuing context stands past its instruction: the PC and the loop stack (R232). -/
def State.pastIt (s : State) : W32 × List LoopEntry :=
  let p := loopAdvance (s.apc + 4) (s.ctx s.ap).loops
  (BitVec.ofNat 32 p.1, p.2)

/-- Where the issuing context stands. -/
def State.place (s : State) : W32 × List LoopEntry := ((s.ctx s.ap).pc, (s.ctx s.ap).loops)

/-- The registers that an A-set instruction waits for have their results (R213). -/
def State.settled (s : State) (i : Instr) : Bool :=
  !((apRegs i).any fun n => n ≠ 0 && (s.slotted.ctx s.ap).busy.any fun p => p.1 == n)

/-- Nothing keeps an A-set instruction from executing: its fields are legal, its guard is true, and no result that
it waits for is still on its way. -/
def State.apReady (s : State) (i : Instr) (g : Guard) : Bool := staticCause i == none && s.apred g && s.settled i

/-! ### Frames -/

/-- s with what the issue of any A-set instruction may change taken from t: the issuing context, the note that the
residency has moved, and that of a task's first side effect (R64, R425). -/
def State.takeIssue (s t : State) : State :=
  (s.updCtx s.ap fun _ => t.ctx s.ap).updR fun r =>
    { r with watch := { r.watch with moved := true }, task := { r.task with sideEffect := t.r.task.sideEffect } }

/-- t is s but for what the issue of any A-set instruction may change. -/
def State.onlyCtx (s t : State) : Prop := t = s.takeIssue t

/-- t is s but for that, memory and stream registers. -/
def State.onlyStreams (s t : State) : Prop :=
  t = { (s.takeIssue t).updR fun r => { r with st := t.r.st } with mem := t.mem }

/-- Every register of the issuing context is as before but for d. -/
def State.aregsKept (s t : State) (d : AReg) : Prop := ∀ n, n ≠ d → t.areg n = s.areg n

/-- Every predicate of the issuing context is as before. -/
def State.predsKept (s t : State) : Prop := ∀ n, t.apred n = s.apred n

/-- Every register and predicate of the issuing context is as before, but for register d. -/
def State.regsKept (s t : State) (d : AReg) : Prop := s.aregsKept t d ∧ s.predsKept t

/-- Every register and predicate of the issuing context is as before. -/
def State.allRegsKept (s t : State) : Prop := (∀ n, t.areg n = s.areg n) ∧ s.predsKept t

/-- Every byte of memory reads as before but those at some keys. -/
def Memory.keptBut (m m' : Memory) (ks : List Nat) : Prop := ∀ k, k ∉ ks → m'.byte k = m.byte k

/-- The memory after a release of the device on the sync word at a key: its count has risen by one (R153). -/
def Memory.bumped (m : Memory) (k : Nat) : Memory := m.write (keysFrom k 8) (leBytes 8 (m.word64 k + 1).toNat)

/-- The memory after event n, of 32 bytes, has been put at its place in an event area and the tail has moved (R427). -/
def Memory.evented (m : Memory) (k n : Nat) (p : Fin 8) (kind lcore : Nat) (launch : W32) (tick detail : W64) : Memory :=
  (m.write (keysFrom (k + 64 + 32 * (n % 1024)) 32) (leBytes 8 n ++ leBytes 1 kind ++ leBytes 1 p.val ++ leBytes 2 lcore ++
    leBytes 4 launch.toNat ++ leBytes 8 tick.toNat ++ leBytes 8 detail.toNat)).write (keysFrom k 8)
      (leBytes 8 (BitVec.ofNat 64 n + 1).toNat)

/-! ### Trace records (R435, R436) -/

/-- The memory after a record of 16 bytes has been put at the tail of a trace ring of n records, and the tail has
moved (R435). -/
def Memory.traced (m : Memory) (base n : Nat) (r : List Byte) : Memory :=
  (m.write (keysFrom (base + 64 + 16 * ((m.word64 base).toNat % n)) 16) r).write (keysFrom base 8)
    (leBytes 8 (m.word64 base + 1).toNat)

/-- t's memory and count of lost records are those of s after the trace record r: it is in the ring where one fits; where
records were lost before and two fit, a loss record with their count stands before it; else one more is lost (R436). -/
def State.recorded (s t : State) (r : List Byte) : Prop :=
  let w := s.r.watch.trace
  let base := w.base.toNat
  let n := 2 ^ w.k - 4
  let used := (s.mem.word64 base - s.mem.word64 (base + 8)).toNat
  (w.lost = 0 → used < n → t.mem = s.mem.traced base n r ∧ t.r.watch.trace.lost = 0) ∧
  (w.lost = 0 → n ≤ used → t.mem = s.mem ∧ t.r.watch.trace.lost = 1) ∧
  (w.lost ≠ 0 → used + 2 ≤ n → t.r.watch.trace.lost = 0 ∧
    t.mem = (s.mem.traced base n (leBytes 1 5 ++ leBytes 1 0xFF ++ leBytes 6 0 ++ leBytes 8 w.lost.toNat)).traced base n r) ∧
  (w.lost ≠ 0 → n < used + 2 → t.mem = s.mem ∧ t.r.watch.trace.lost = w.lost + 1)

/-- The bytes of a branch record of a context: its number, the PC of the transfer, and the target (R436). -/
def branchRecord (ctx pc : Nat) (target : W32) : List Byte :=
  leBytes 1 2 ++ leBytes 1 ctx ++ leBytes 2 0 ++ leBytes 4 pc ++ leBytes 8 target.toNat

/-! ### Results of the access processor's arithmetic (R220 to R225) -/

/-- The count of one bits of a word. -/
def onesIn (x : W64) : Nat := (List.range 64).countP fun i => x.getLsbD i

/-- Guard, destination and result of an arithmetic instruction over the registers `x` and the predicates `q`, as the
tables of R220 to R225 give them. -/
def aluValue (x : AReg → W64) (q : Guard → Bool) : Instr → Option (Guard × AReg × W64)
  | .add f => some (f.g, f.d, x f.a + x f.b)
  | .sub f => some (f.g, f.d, x f.a - x f.b)
  | .mul f => some (f.g, f.d, x f.a * x f.b)
  | .mulh f => some (f.g, f.d, BitVec.ofInt 64 ((x f.a).toInt * (x f.b).toInt / 2 ^ 64))
  | .mulhu f => some (f.g, f.d, BitVec.ofNat 64 ((x f.a).toNat * (x f.b).toNat / 2 ^ 64))
  | .divu f => some (f.g, f.d, if x f.b = 0 then BitVec.allOnes 64 else BitVec.ofNat 64 ((x f.a).toNat / (x f.b).toNat))
  | .remu f => some (f.g, f.d, if x f.b = 0 then x f.a else BitVec.ofNat 64 ((x f.a).toNat % (x f.b).toNat))
  | .and f => some (f.g, f.d, x f.a &&& x f.b)
  | .or f => some (f.g, f.d, x f.a ||| x f.b)
  | .xor f => some (f.g, f.d, x f.a ^^^ x f.b)
  | .shl f => some (f.g, f.d, x f.a <<< bits (x f.b) 5 0)
  | .shr f => some (f.g, f.d, x f.a >>> bits (x f.b) 5 0)
  | .sra f => some (f.g, f.d, (x f.a).sshiftRight (bits (x f.b) 5 0))
  | .min f => some (f.g, f.d, if (x f.a).toInt < (x f.b).toInt then x f.a else x f.b)
  | .max f => some (f.g, f.d, if (x f.b).toInt < (x f.a).toInt then x f.a else x f.b)
  | .minu f => some (f.g, f.d, if (x f.a).toNat < (x f.b).toNat then x f.a else x f.b)
  | .maxu f => some (f.g, f.d, if (x f.b).toNat < (x f.a).toNat then x f.a else x f.b)
  | .clz f => some (f.g, f.d, BitVec.ofNat 64 (if x f.a = 0 then 64 else 63 - Nat.log2 (x f.a).toNat))
  | .popc f => some (f.g, f.d, BitVec.ofNat 64 (onesIn (x f.a)))
  | .addi f => some (f.g, f.d, x f.a + f.i.signExtend 64)
  | .andi f => some (f.g, f.d, x f.a &&& f.i.signExtend 64)
  | .ori f => some (f.g, f.d, x f.a ||| f.i.signExtend 64)
  | .xori f => some (f.g, f.d, x f.a ^^^ f.i.signExtend 64)
  | .muli f => some (f.g, f.d, x f.a * f.i.signExtend 64)
  | .shli f => some (f.g, f.d, x f.a <<< f.i.val)
  | .shri f => some (f.g, f.d, x f.a >>> f.i.val)
  | .srai f => some (f.g, f.d, (x f.a).sshiftRight f.i.val)
  | .lui g d i => some (g, d, i.setWidth 64 <<< 13)
  | .madd f c => some (f.g, f.d, x f.a * x f.b + x c)
  | .sel f n => some (f.g, f.d, if q n then x f.a else x f.b)
  | _ => none

/-- Owned slots after which the result of an arithmetic instruction is usable (R214). -/
def resultSlots : Instr → Nat
  | .mul _ | .mulh _ | .mulhu _ | .muli _ | .madd _ _ => 2
  | .divu _ | .remu _ => 16
  | _ => 1

/-- The results still due to the issuing context once its slot has passed: each one slot nearer, and those that have come
gone (R214). -/
def State.stillDue (s : State) : List (AReg × Nat) :=
  ((s.ctx s.ap).busy.map fun p => (p.1, p.2 - 1)).filter fun p => p.2 ≠ 0

/-- The predicate pair and the condition of a comparison or of PLOG (R226, R227). -/
def predValue (x : AReg → W64) (q : Guard → Bool) : Instr → Option (Guard × Guard × Guard × Bool)
  | .cmp g t f c a b => some (g, t, f, condition c.val (x a) (x b))
  | .cmpi g t f c a i => some (g, t, f, condition c.val (x a) (i.signExtend 64))
  | .plog g t f n a b => some (g, t, f, n.val.testBit (2 * (q a).toNat + (q b).toNat))
  | _ => none

/-! ### Transfers and loops (R228 to R234) -/

/-- The loop stack after a taken transfer to t: every innermost entry whose body does not hold t is popped (R233). -/
def loopsAt (t : Nat) (l : List LoopEntry) : List LoopEntry := l.dropWhile fun e => !(decide (e.start ≤ t) && decide (t < e.stop))

/-- Where a body of l instructions after the issuing context's PC begins and ends (R231). -/
def State.body (s : State) (l : Nat) : Nat × Nat := (s.apc + 4, s.apc + 4 + 4 * l)

/-- A loop of count n over l instructions may be opened: fewer than six are open, the body lies in the section, and
nests in the innermost open body or lies apart from it (R231). -/
def State.mayLoop (s : State) (n l : Nat) : Bool :=
  decide (n < 2 ^ 32) && decide ((s.ctx s.ap).loops.length < 6) && decide ((s.body l).2 ≤ (s.r.section s.ap).2) &&
    match (s.ctx s.ap).loops with
    | [] => true
    | e :: _ => (decide (e.start ≤ (s.body l).1) && decide ((s.body l).2 ≤ e.stop)) ||
        decide ((s.body l).2 ≤ e.start) || decide (e.stop ≤ (s.body l).1)

/-! ### The guard of an A-set instruction (R189) -/

/-- The guard of every A-set instruction. -/
def guardOf : Instr → Option Guard
  | .add f | .sub f | .mul f | .mulh f | .mulhu f | .divu f | .remu f | .and f | .or f | .xor f | .shl f | .shr f
  | .sra f | .min f | .max f | .minu f | .maxu f | .madd f _ | .sel f _ | .amoAdd f | .amoAnd f | .amoOr f | .amoXor f
  | .amoMin f | .amoMax f | .amoMinu f | .amoMaxu f | .amoSwap f | .cas f | .cpAsync f _ _ => some f.g
  | .clz f | .popc f | .jr f | .cpChain f _ | .futRead f _ | .futFill f | .alarmSet f _ | .alarmClr f _ => some f.g
  | .addi f | .andi f | .ori f | .xori f | .muli f => some f.g
  | .shli f | .shri f | .srai f => some f.g
  | .bfx f | .bfxS f | .bfi f => some f.g
  | .ld f | .st f => some f.g
  | .ldx f | .stx f => some f.g
  | .sOpen f | .sOpenH f | .sPat f _ | .sAddr f _ | .sData f _ | .gxRows f _ _ | .sxRows f _ _ => some f.g
  | .sClaim f | .sCommit f | .sCommitEl f | .sCommitEnd f | .sCommitElEnd f | .sAwait f | .sRetire f => some f.g
  | .sGo f | .sMark f | .sMarkRel f | .sRewind f | .sFork f _ _ _ | .sClose f | .sCloseW f | .sStat f _ _ => some f.g
  | .lui g _ _ | .cmp g _ _ _ _ _ | .cmpi g _ _ _ _ _ | .plog g _ _ _ _ _ | .b g _ | .call g _ | .loop g _ _
  | .loopi g _ _ | .pref g _ _ | .xqPush g _ | .yqPop g _ | .cpFence g | .cpFenceAll g | .hLoad g _ _ | .hLoadNone g _ _
  | .hGet g _ _ _ | .fmtPush g _ | .syncAcq g _ _ _ _ | .syncRel g _ _ _ | .syncFence g _ _ | .syncLaunchEarly g
  | .barArrive g _ | .barWait g _ | .barExpect g _ _ | .taskSpawn g _ | .taskNext g | .taskDone g | .ttWait g _
  | .ttDone g _ | .skipTest g _ _ _ | .csrR g _ _ | .csrW g _ _ | .halt g | .yield g | .trap g _ | .traceMark g _ _ =>
    some g
  | _ => none

/-! ### Memory accesses of the access processor (R235 to R242) -/

/-- A memory access: its guard, its address, its length, whether it reads and writes, and what it does when it is
served. -/
structure Access where
  g : Guard
  addr : W64
  len : Nat
  rd : Bool
  wr : Bool
  op : MemOp

/-- The access that an instruction makes in a state, as R235, R236, R240 and R241 give it. -/
def accessOf (s : State) : Instr → Option Access
  | .ld f => some ⟨f.g, s.areg f.a + f.o.signExtend 64 * BitVec.ofNat 64 (sizeBytes f.s.val), sizeBytes f.s.val, true, false,
      .load f.d f.s⟩
  | .st f => some ⟨f.g, s.areg f.a + f.o.signExtend 64 * BitVec.ofNat 64 (sizeBytes f.s.val), sizeBytes f.s.val, false, true,
      .store (leBytes (sizeBytes f.s.val) (s.areg f.d).toNat)⟩
  | .ldx f => some ⟨f.g, s.areg f.a + (s.areg f.b <<< f.k.val), sizeBytes f.s.val, true, false, .load f.d f.s⟩
  | .stx f => some ⟨f.g, s.areg f.a + (s.areg f.b <<< f.k.val), sizeBytes f.s.val, false, true,
      .store (leBytes (sizeBytes f.s.val) (s.areg f.d).toNat)⟩
  | .amoAdd f => some ⟨f.g, s.areg f.a, 8, true, true, .amo 0 f.d (s.areg f.b)⟩
  | .amoAnd f => some ⟨f.g, s.areg f.a, 8, true, true, .amo 1 f.d (s.areg f.b)⟩
  | .amoOr f => some ⟨f.g, s.areg f.a, 8, true, true, .amo 2 f.d (s.areg f.b)⟩
  | .amoXor f => some ⟨f.g, s.areg f.a, 8, true, true, .amo 3 f.d (s.areg f.b)⟩
  | .amoMin f => some ⟨f.g, s.areg f.a, 8, true, true, .amo 4 f.d (s.areg f.b)⟩
  | .amoMax f => some ⟨f.g, s.areg f.a, 8, true, true, .amo 5 f.d (s.areg f.b)⟩
  | .amoMinu f => some ⟨f.g, s.areg f.a, 8, true, true, .amo 6 f.d (s.areg f.b)⟩
  | .amoMaxu f => some ⟨f.g, s.areg f.a, 8, true, true, .amo 7 f.d (s.areg f.b)⟩
  | .amoSwap f => some ⟨f.g, s.areg f.a, 8, true, true, .amo 8 f.d (s.areg f.b)⟩
  | .cas f => some ⟨f.g, s.areg f.a, 8, true, true, .cas f.d (s.areg f.d) (s.areg f.b)⟩
  | _ => none

/-- Whether an access is an atomic one, whose address must be a multiple of 8 (R242). -/
def MemOp.atomic : MemOp → Bool
  | .amo _ _ _ | .cas _ _ _ => true
  | _ => false

/-- What an atomic operation stores: the function codes of R240. -/
def atomicResult (fn : Fin 9) (old y : W64) : W64 :=
  match fn with
  | 0 => old + y
  | 1 => old &&& y
  | 2 => old ||| y
  | 3 => old ^^^ y
  | 4 => if old.toInt < y.toInt then old else y
  | 5 => if y.toInt < old.toInt then old else y
  | 6 => if old.toNat < y.toNat then old else y
  | 7 => if y.toNat < old.toNat then old else y
  | 8 => y

/-- The 64-bit value at some keys of a memory (R3). -/
def Memory.wordAt (m : Memory) (ks : List Nat) : W64 := BitVec.ofNat 64 (leNat (m.gather ks))

/-- The bytes that an access whose bytes stand as `old` stores into memory when it is performed, or none. -/
def MemReq.stores (q : MemReq) (old : List Byte) : Option (List Byte) :=
  match q.op with
  | .store data => some data
  | .amo fn _ y => some (leBytes 8 (atomicResult fn (BitVec.ofNat 64 (leNat old)) y).toNat)
  | .cas _ e v => if BitVec.ofNat 64 (leNat old) = e then some (leBytes 8 v.toNat) else none
  | _ => none

/-- The register that an access whose bytes stand as `old` writes when it is performed, and the value. -/
def MemReq.loads (q : MemReq) (old : List Byte) : Option (AReg × W64) :=
  match q.op with
  | .load d z => some (d, extendLoad z old)
  | .amo _ d _ => some (d, BitVec.ofNat 64 (leNat old))
  | .cas d _ _ => some (d, BitVec.ofNat 64 (leNat old))
  | _ => none

/-! ### Translation (R410 to R412) -/

/-- The bytes that an entry of a table of level l maps (R410). -/
def pageSize (l : Nat) : Nat := match l with | 4 => 2 ^ 39 | 3 => 2 ^ 30 | 2 => 2 ^ 21 | _ => 2 ^ 16

/-- The entries of a table of level l, of 8 bytes each (R410). -/
def tableEntries (l : Nat) : Nat := match l with | 4 => 131072 | 3 => 512 | 2 => 512 | _ => 32

/-- Whether a valid entry of a table of level l is malformed (R411). -/
def entryBad (l : Nat) (e : W64) : Prop :=
  bits e 63 52 ≠ 0 ∨ bits e 7 4 ≠ 0 ∨
    (bit e 1 = true ∧ (l = 4 ∨ bits e 51 8 * 256 % pageSize l ≠ 0)) ∨
    (bit e 1 = false ∧ (l = 1 ∨ bits e 3 2 ≠ 0 ∨ bits e 51 8 * 256 % (8 * tableEntries (l - 1)) ≠ 0))

/-- What a translation walk does at level l of a table: it stops at an entry that fails, with the cause of the first rule
that it breaks and the entry's address and level, ends at a leaf, or goes on at the next table (R412). -/
def WalkStep (pkg : Package) (m : Memory) (ranges : List (Nat × Nat)) (va : W64) (l table : Nat) : Prop :=
  ∀ (k : Nat) (e aux : W64), k = table + 8 * (va.toNat / pageSize l % tableEntries l) → e = m.word64 k →
    aux = BitVec.ofNat 64 (k % 2 ^ 52 + l * 2 ^ 52) →
    (inRanges ranges table (8 * tableEntries l) = false → walk pkg m ranges va l table = .error ⟨0x3B, va, aux⟩) ∧
    (inRanges ranges table (8 * tableEntries l) = true →
      (pkg.unmapped k = true → walk pkg m ranges va l table = .error ⟨0x3A, va, aux⟩) ∧
      (pkg.unmapped k = false → m.readCause [k / 64] ≠ none → walk pkg m ranges va l table = .error ⟨0x3B, va, aux⟩) ∧
      (pkg.unmapped k = false → m.readCause [k / 64] = none →
        (bit e 0 = false → walk pkg m ranges va l table = .error ⟨0x31, va, aux⟩) ∧
        (bit e 0 = true → entryBad l e → walk pkg m ranges va l table = .error ⟨0x33, va, aux⟩) ∧
        (bit e 0 = true → ¬entryBad l e →
          (bit e 1 = true → walk pkg m ranges va l table =
            .ok ⟨bits e 51 8 * 256, va.toNat / pageSize l * pageSize l, pageSize l, bit e 2, bit e 3, aux⟩) ∧
          (bit e 1 = false → walk pkg m ranges va l table = walk pkg m ranges va (l - 1) (bits e 51 8 * 256)))))

/-- What a leaf gives an access: the cause of its rights, of its frame, or of an address that no region entry covers, in that
order; else the physical address, its frame with the bits below the page size (R410, R412). That the whole frame is judged is
the model's choice (log 13). -/
def LeafGives (pkg : Package) (p : Partition) (lf : Leaf) (va : W64) (r w : Bool) : Prop :=
  ∀ (k c : Nat), k = lf.frame + (va.toNat - lf.base) → c = lf.frame / 2 ^ 48 →
    ((r = true ∧ lf.read = false ∨ w = true ∧ lf.write = false) → leafCheck pkg p lf va r w = .error ⟨0x32, va, lf.aux⟩) ∧
    ((r = true → lf.read = true) → (w = true → lf.write = true) →
      (4 ≤ c ∨ c = 0 ∧ (lf.frame / 2 ^ 39 ≠ 0 ∨ inRanges p.ranges lf.frame lf.size = false ∨
          overlaps p.priv lf.frame lf.size = true) → leafCheck pkg p lf va r w = .error ⟨0x39, va, lf.aux⟩) ∧
      (c < 4 → (c = 0 → lf.frame / 2 ^ 39 = 0 ∧ inRanges p.ranges lf.frame lf.size = true ∧
          overlaps p.priv lf.frame lf.size = false) →
        (pkg.unmapped k = true → leafCheck pkg p lf va r w = .error ⟨0x3A, va, lf.aux⟩) ∧
        (pkg.unmapped k = false → leafCheck pkg p lf va r w = .ok k)))

/-- What an address names, and the cause of one that names nothing, in the order of R105: its form, its core, its share. -/
def AddressForm (s : State) (x : W64) (n : Nat) : Prop :=
  let inShare (e banks : Nat) : Prop :=
    (bits x 21 0 + n ≤ banks * 131072 → formCheck s x n = .ok (.spad e (bits x 21 0))) ∧
    (banks * 131072 < bits x 21 0 + n → formCheck s x n = .error (.trap ⟨0x35, x, 0⟩))
  (bits x 63 56 = 0 → x.toNat + n ≤ 2 ^ 56 → formCheck s x n = .ok (.virt x)) ∧
  (bits x 63 56 = 0xFE → bits x 55 22 = 0 → inShare s.entry s.r.bind.banks) ∧
  (bits x 63 56 = 0xFD → bits x 55 48 = 0 → bits x 31 22 = 0 →
    (s.r.bind.n ≤ bits x 47 32 → formCheck s x n = .error (.trap ⟨0x36, x, 0⟩)) ∧
    (bits x 47 32 < s.r.bind.n →
      (bits x 47 32 = s.r.bind.lcore → inShare s.entry s.r.bind.banks) ∧
      (bits x 47 32 ≠ s.r.bind.lcore →
        (∀ r, s.peer (bits x 47 32) = some r → inShare r.bind.e r.bind.banks) ∧
        (s.peer (bits x 47 32) = none → formCheck s x n = .error .block)))) ∧
  (bits x 63 56 ≠ 0 ∧ bits x 63 56 ≠ 0xFE ∧ bits x 63 56 ≠ 0xFD ∨ bits x 63 56 = 0 ∧ 2 ^ 56 < x.toNat + n ∨
      bits x 63 56 = 0xFE ∧ bits x 55 22 ≠ 0 ∨ bits x 63 56 = 0xFD ∧ (bits x 55 48 ≠ 0 ∨ bits x 31 22 ≠ 0) →
    formCheck s x n = .error (.trap ⟨0x34, x, 0⟩))

/-! ### Control registers (R216, R330) -/

/-- The word of a loop level: its count above its index; zero where no loop is active at the level (R217, R333). -/
def loopWord (l : Option (Nat × Nat)) : W64 :=
  match l with
  | some (count, index) => BitVec.ofNat 64 (2 ^ 32 * count + index)
  | none => 0

/-- The word of each control register that F, D and E share, by its number (R216). What bovr, fslip and fbase show in the
core cycle in which they change (log 3), and cap_core before the end of bring-up (log 10), is the model's choice. -/
def State.sharedWord (s : State) (n : Nat) : Option W64 :=
  let one (b : Bool) (k : Nat) : Nat := if b then 2 ^ k else 0
  let fr := s.launch.frames
  match n with
  | 0x000 => some (BitVec.ofNat 64 s.r.bind.lcore)
  | 0x001 => some (BitVec.ofNat 64 s.r.bind.n)
  | 0x002 => some (BitVec.ofNat 64 (s.entry % 2 + 2 * s.plan +
      one (s.r.start.beside.isSome || s.sibling.isSome) 3 + one s.r.bind.frame 4))
  | 0x003 => some (if s.pkg.boot.loaded then
        BitVec.ofNat 64 (s.pkg.boot.clock.toNat + 2 ^ 16 * (if s.pkg.boot.reduced then 96 else 192) +
          one s.pkg.boot.reduced 24 + one (!s.pkg.boot.reduced) 25 + one (!s.pkg.boot.reduced) 26)
      else 0)
  | 0x004 => some (BitVec.ofNat 64 (64 + 2 ^ 8 * 32 + 2 ^ 16 * 8))
  | 0x005 => some (BitVec.ofNat 64 (131072 * s.r.bind.banks))
  | 0x006 => some s.r.bind.gmem
  | 0x008 => some s.tick
  | 0x009 => some (if s.r.bind.frame = true ∧ fr.begun = true then BitVec.ofNat 64 fr.num else 0)
  | 0x00A => some (if s.r.bind.frame then BitVec.ofNat 64 (if fr.fixedStart then fr.base else fr.t0) else 0)
  | 0x00B => some (if s.r.bind.frame then fr.slipsStart.setWidth 64 else 0)
  | 0x010 => some s.r.start.bovr
  | _ => none

/-- The word of each control register that the issuing context of the access processor reads (R216 to R218). -/
def State.apRegister (s : State) (n : Nat) : Option W64 :=
  let c := s.ctx s.ap
  if 0x020 ≤ n ∧ n < 0x026 then some (loopWord (c.loops.reverse[n - 0x020]?.map fun e => (e.count, e.index)))
  else match n with
    | 0x026 => some (BitVec.ofNat 64 c.loops.length)
    | 0x030 => some c.acyc
    | 0x031 => some c.ainst
    | 0x032 => some c.ablk
    | n => s.sharedWord n

/-- The word of each control register that E reads (R330 to R333). -/
def State.eRegister (s : State) (n : Nat) : Option W64 :=
  let e := s.r.ep
  let stages := match e.loops.head?.bind ELoop.pipe with
    | some p => 2 ^ 6 + 2 ^ 3 * (p.stages - 1)
    | none => 0
  if h : 0x048 ≤ n ∧ n < 0x050 then some ((e.f[n - 0x048]'(by omega)).setWidth 64)
  else if 0x070 ≤ n ∧ n < 0x076 then some (loopWord (e.loops.reverse[n - 0x070]?.map fun l => (l.count, l.index)))
  else match n with
    | 0x040 => some (BitVec.ofNat 64 (e.vsp.toNat % 2 ^ 22))
    | 0x041 => some (BitVec.ofNat 64 e.vregs)
    | 0x050 => some (e.lfsrV.setWidth 64)
    | 0x051 => some (s.r.mx.lfsr.setWidth 64)
    | 0x060 => some e.ecyc
    | 0x061 => some e.einst
    | 0x062 => some e.eblk
    | 0x063 => some e.etag
    | 0x076 => some (BitVec.ofNat 64 (stages + e.loops.length))
    | n => s.sharedWord n

/-! ### Streams (R253 to R268) -/

/-- The stream registers are as before but for n, which holds r. -/
def State.streamsKept (s t : State) (n : SReg) (r : StreamReg) : Prop := ∀ k, t.stream k = if k = n then r else s.stream k

/-- What an instruction that changes one stream register leaves. -/
def State.oneStream (s t : State) (n : SReg) (r : StreamReg) : Prop :=
  s.streamsKept t n r ∧ s.allRegsKept t ∧ t.place = s.pastIt ∧ s.onlyStreams t

/-- The four forms of S.COMMIT: whether the count is of elements, and whether the stream ends (R261). -/
def commitForm : Instr → Option (SA × Bool × Bool)
  | .sCommit f => some (f, false, false)
  | .sCommitEl f => some (f, true, false)
  | .sCommitEnd f => some (f, false, true)
  | .sCommitElEnd f => some (f, true, true)
  | _ => none

/-- Bytes that a commit of n granules or elements makes available: a partial granule is the first of the granules
(R261). -/
def StreamReg.commitSize (r : StreamReg) (elements : Bool) (n : Nat) : Nat :=
  if elements then n * r.esize else if n = 0 then 0 else 64 * n - r.tail.2

/-- The head that an operation of the access processor on stream register n works on (R254). -/
def State.headAt (s : State) (n : SReg) : Head := (s.stream (s.r.headOf n).1).heads[(s.r.headOf n).2]

/-- Granules awaited at that head. -/
def State.awaitedAt (s : State) (n : SReg) : Nat := ((s.stream (s.r.headOf n).1).awaits[(s.r.headOf n).2]).toNat

/-- An AP consumer's head: open, with the access processor for its sink (R254). -/
def State.apConsumes (s : State) (n : SReg) : Bool :=
  (s.stream n).isOpen && (s.stream n).sink == 1 && (s.stream (s.r.headOf n).1).isOpen

/-- Both registers of a head are open (R254, R263). -/
def State.headOpen (s : State) (n : SReg) : Bool := (s.stream n).isOpen && (s.stream (s.r.headOf n).1).isOpen

/-- The register of an alias while S.FORK checks it (R264). -/
def forkAlias (s : State) (n src : SReg) (k : Fin 16) (j : Fin 4) : StreamReg :=
  { s.stream n with control := aliasControl k src j, cursor := 0, pin := none }

/-! ### Launch state -/

/-- t is s but for what any issue changes, memory, and the launches. -/
def State.onlyLaunches (s t : State) : Prop := t = { s.takeIssue t with mem := t.mem, launches := t.launches }

/-! ### When an E-set instruction issues (R42, R185, R188, R197, R325) -/

/-- The state in which the body of an E-set instruction works: a drained pipelined level has started its next run, and
the results that are due have been delivered (R326, R7). -/
def State.eSlot (s : State) : State := (s.updE EpCtx.refill).tickE

/-- Nothing keeps an E-set instruction from issuing but its operands and its destination: its stage does not withhold
it, its fields are legal, and it names no register outside the allotment and no empty latch. -/
def State.eReady (s : State) (i : Instr) : Bool :=
  !(s.updE EpCtx.refill).withheld && staticCause i == none && eLate (s.updE EpCtx.refill) i == none &&
    !outsideAllotment s.eSlot i && !namesEmptyLatch s.eSlot i

/-- Where E stands past an instruction of n bytes that it issues in a state: the PC and the loop stack (R323). -/
def State.ePast (s : State) (n : Nat) : W32 × List ELoop :=
  let m := eAdvance s.eRequest (s.r.ep.pc.toNat + n) s.r.ep.m s.r.ep.loops
  (BitVec.ofNat 32 m.pc, m.loops)

/-- Where E stands. -/
def State.ePlace (s : State) : W32 × List ELoop := (s.r.ep.pc, s.r.ep.loops)

/-- Mask n is no stage mask of a pipelined level (R301). -/
def State.plainMask (s : State) (n : Fin 16) : Prop :=
  ∀ l ∈ s.r.ep.loops, ∀ p, l.pipe = some p → ¬(8 ≤ n.val ∧ n.val < 8 + p.stages)

/-- t is u but for what the issue of any E-set instruction may change: its position, the latches, the masks, the results
in flight, its counters, and the note that the residency has moved (R188, R196, R324, R332). -/
def State.eFrame (u t : State) : Prop :=
  t = { (u.updE fun e => { e with
      inflight := t.r.ep.inflight, pc := t.r.ep.pc, loops := t.r.ep.loops, m := t.r.ep.m, b := t.r.ep.b
      atSwitch := t.r.ep.atSwitch, lbuf := t.r.ep.lbuf, einst := u.r.ep.einst + 1, etag := t.r.ep.etag }).move with
    free := t.free }

/-- What an E-set instruction leaves that changes only that: the latches are as before or all empty, and only stage masks
change. -/
def State.eOnly (u t : State) : Prop :=
  u.eFrame t ∧ (t.r.ep.b = u.r.ep.b ∨ t.r.ep.b = Vector.replicate 16 none) ∧
    ∀ n, u.plainMask n → t.r.ep.m[n] = u.r.ep.m[n]

/-- An instruction of n bytes has issued in u with one more result in flight. -/
def State.eIssued (u t : State) (n : Nat) (x : InFlight) : Prop :=
  t.r.ep.inflight = u.r.ep.inflight ++ [x] ∧ t.ePlace = u.ePast n ∧ u.eOnly t

/-- An instruction of n bytes that puts no result in flight has issued in u. -/
def State.eActed (u t : State) (n : Nat) : Prop :=
  t.r.ep.inflight = u.r.ep.inflight ∧ t.ePlace = u.ePast n ∧ u.eOnly t

/-- An instruction gives a scalar result in u: it goes in flight to any destination that its room can be reserved in. -/
def State.eGives (s : State) (i : Instr) (f : EF) (lat cls : Nat) (w : W32) (u : State) : Prop :=
  ∀ d v, reserveDest u f (.sc w) = .ok (d, v) →
    ∃ t, exec i s = .next t ∧ v.eIssued t 8 ⟨lat, d, .sc w, u.eguard f, some (Fin.ofNat 16 (2 * cls))⟩

/-- The vector operands that some selectors name, read in order. -/
def readAll : State → List (BitVec 8) → Except Stop (List Lanes × State)
  | s, [] => .ok ([], s)
  | s, c :: cs =>
    match readV s c with
    | .error e => .error e
    | .ok (x, s1) =>
      match readAll s1 cs with
      | .error e => .error e
      | .ok (xs, s2) => .ok (x :: xs, s2)

/-- The scalar operands that some selectors name, read in order. -/
def readScalars : State → List (BitVec 8) → Except Stop (List W32 × State)
  | s, [] => .ok ([], s)
  | s, c :: cs =>
    match readS s c with
    | .error e => .error e
    | .ok (x, s1) =>
      match readScalars s1 cs with
      | .error e => .error e
      | .ok (xs, s2) => .ok (x :: xs, s2)

/-- A vector or scalar result whole, with zero in its masked-off lanes, as a port, yq, the join store or a latch takes it
(R187, R190). -/
def InFlight.whole (x : InFlight) : Option Latch :=
  match x.val with
  | .vec v => some (.vec (Lanes.build fun i => if x.guard.getLsbD i.val then v[i] else 0))
  | .sc w => some (.sc (if x.guard.getLsbD 0 then w else 0))
  | _ => none

/-- The latches of t are those of s after a result has entered the latch of its class, if it has one, with the value l: what
that held is in the older one (R187). -/
def State.latchTakes (s t : State) (x : InFlight) (l : Latch) : Prop :=
  match x.latch with
  | some i => ∀ k : Fin 16, t.r.ep.b[k] =
      if k = i then some l else if k.val = (i.val + 1) % 16 then s.r.ep.b[i] else s.r.ep.b[k]
  | none => t.r.ep.b = s.r.ep.b

/-! ### F32 results in exact values (R74, R86, R304, R305) -/

/-- Whether an F32 word is finite: its exponent is not all ones. -/
def f32Finite (w : W32) : Bool := decide (bits w 30 23 ≠ 255)
/-- Whether an F32 word is a NaN. -/
def f32NaN (w : W32) : Bool := decide (bits w 30 23 = 255 ∧ bits w 22 0 ≠ 0)

/-- The exact value of a finite F32 word; a subnormal is not flushed (R74). -/
def f32Value (w : W32) : ℚ :=
  (if w.getLsbD 31 then -1 else 1) *
    (if bits w 30 23 = 0 then (bits w 22 0 : ℚ) * 2 ^ (-149 : ℤ)
      else (2 ^ 23 + (bits w 22 0 : ℚ)) * 2 ^ ((bits w 30 23 : ℤ) - 150))

/-- An F32 word of a magnitude with a sign. -/
def f32Signed (neg : Bool) (mag : W32) : W32 := if neg then mag ||| 0x80000000 else mag

/-- Whether an F32 word is a zero. -/
def f32Zero (w : W32) : Bool := decide (bits w 30 0 = 0)

/-- Whether an F32 word is an infinity. -/
def f32Inf (w : W32) : Bool := decide (bits w 30 0 = 0x7F800000)

/-- x is RoundToF32(v, RNE) of a value v that is not zero: no finite word is nearer, and of two that are equally near it is the
one whose code is even; a value that is nearer to 2^128 than to the greatest finite word, or as near, goes to infinity; and a
result that is zero keeps the sign of v (R85, R86). -/
def RoundsToF32 (v : ℝ) (x : W32) : Prop :=
  (|v| < (2 ^ 25 - 1) * 2 ^ 103 → f32Finite x = true ∧ ∀ y, f32Finite y = true →
    |v - f32Value x| ≤ |v - f32Value y| ∧
      (|v - f32Value x| = |v - f32Value y| → f32Value y = f32Value x ∨ x.getLsbD 0 = false)) ∧
  ((2 ^ 25 - 1) * 2 ^ 103 ≤ |v| → x &&& 0x7FFFFFFF = 0x7F800000) ∧
  (x.getLsbD 31 = true ↔ v < 0)

/-- The canonical quiet NaN of F32 (R74). -/
def canonicalNaN : W32 := 0x7FC00000

/-- The place of an F32 word that is no NaN in the order of values, with −0 below +0 (R304). -/
def f32Order (w : W32) : Int := if w.getLsbD 31 then -(bits w 30 0 : Int) - 1 else bits w 30 0

/-! ### Results of context E (R194, R304 to R318) -/

/-- An instruction with a result: its fields, its latency and its class (R194), the operands it reads, and the value. -/
structure EOp (α : Type) where
  f : EF
  lat : Nat
  cls : Nat
  ks : List (BitVec 8)
  op : List α → α

/-- A lanewise operation of one operand. -/
def lanes1 (op : W32 → W32) (xs : List Lanes) : Lanes := Lanes.build fun i => op (xs.getD 0 (Lanes.fill 0))[i]
/-- A lanewise operation of two operands. -/
def lanes2 (op : W32 → W32 → W32) (xs : List Lanes) : Lanes :=
  Lanes.build fun i => op (xs.getD 0 (Lanes.fill 0))[i] (xs.getD 1 (Lanes.fill 0))[i]
/-- A lanewise operation of three operands. -/
def lanes3 (op : W32 → W32 → W32 → W32) (xs : List Lanes) : Lanes :=
  Lanes.build fun i => op (xs.getD 0 (Lanes.fill 0))[i] (xs.getD 1 (Lanes.fill 0))[i] (xs.getD 2 (Lanes.fill 0))[i]

/-- A lane as an integer: signed for I32, unsigned for UI32 (R306). -/
def laneVal (f : EF) (w : W32) : Int := if f.ty = 4 then w.toInt else w.toNat

/-- An exact integer result: modulo 2^32, or the nearest value of the type where the instruction saturates (R306). -/
def fitLane (f : EF) (n : Int) : W32 :=
  if f.fn.getLsbD 0 then
    (if f.ty = 4 then BitVec.ofInt 32 (max (-2147483648) (min 2147483647 n)) else BitVec.ofInt 32 (max 0 (min 4294967295 n)))
  else BitVec.ofInt 32 n

/-- The vector result of an instruction in the state in which it works, as the tables of R304 to R306, R312 to R314, R317
and R318 give it. -/
def vecOp (s : State) : Instr → Option (EOp Lanes)
  | .vadd f => some ⟨f, 3, 0, [f.a, f.b], lanes2 fAdd⟩
  | .vsub f => some ⟨f, 3, 0, [f.a, f.b], lanes2 fSub⟩
  | .vmul f => some ⟨f, 4, 2, [f.a, f.b], lanes2 fMul⟩
  | .vfma f => some ⟨f, 5, 2, [f.a, f.b, f.c], lanes3 fFma⟩
  | .vfms f => some ⟨f, 5, 2, [f.a, f.b, f.c], lanes3 fFms⟩
  | .vmin f => some ⟨f, 3, 0, [f.a, f.b], lanes2 fMin⟩
  | .vmax f => some ⟨f, 3, 0, [f.a, f.b], lanes2 fMax⟩
  | .vabs f => some ⟨f, 3, 0, [f.a], lanes1 fAbs⟩
  | .vneg f => some ⟨f, 3, 0, [f.a], lanes1 fNeg⟩
  | .vsfu f => some ⟨f, 10, 3, [f.a], lanes1 (sfu f.fn.toNat)⟩
  | .viadd f => some ⟨f, 2, 1, [f.a, f.b], lanes2 fun a b => fitLane f (laneVal f a + laneVal f b)⟩
  | .visub f => some ⟨f, 2, 1, [f.a, f.b], lanes2 fun a b => fitLane f (laneVal f a - laneVal f b)⟩
  | .vimul f => some ⟨f, 4, 2, [f.a, f.b], lanes2 fun a b => fitLane f (laneVal f a * laneVal f b)⟩
  | .vimad f => some ⟨f, 4, 2, [f.a, f.b, f.c], lanes3 fun a b c => fitLane f (laneVal f a * laneVal f b + laneVal f c)⟩
  | .vand f => some ⟨f, 2, 1, [f.a, f.b], lanes2 fun a b => a &&& b⟩
  | .vor f => some ⟨f, 2, 1, [f.a, f.b], lanes2 fun a b => a ||| b⟩
  | .vxor f => some ⟨f, 2, 1, [f.a, f.b], lanes2 fun a b => a ^^^ b⟩
  | .vshl f => some (if f.b = 0xFF then ⟨f, 2, 1, [f.a], lanes1 fun a => a <<< bits f.x 4 0⟩
      else ⟨f, 2, 1, [f.a, f.b], lanes2 fun a b => a <<< bits b 4 0⟩)
  | .vshr f => some (if f.b = 0xFF then ⟨f, 2, 1, [f.a], lanes1 fun a => a >>> bits f.x 4 0⟩
      else ⟨f, 2, 1, [f.a, f.b], lanes2 fun a b => a >>> bits b 4 0⟩)
  | .vsra f => some (if f.b = 0xFF then ⟨f, 2, 1, [f.a], lanes1 fun a => a.sshiftRight (bits f.x 4 0)⟩
      else ⟨f, 2, 1, [f.a, f.b], lanes2 fun a b => a.sshiftRight (bits b 4 0)⟩)
  | .vimin f => some ⟨f, 2, 1, [f.a, f.b], lanes2 fun a b => if laneVal f b < laneVal f a then b else a⟩
  | .vimax f => some ⟨f, 2, 1, [f.a, f.b], lanes2 fun a b => if laneVal f a < laneVal f b then b else a⟩
  | .vshuf f => some ⟨f, 5, 4, [f.a, f.b, f.c], lanesOf fun xs i =>
      let j := bits (xs 2 i) 7 0
      if 128 ≤ j then 0 else if j < 64 then xs 0 j else xs 1 (j - 64)⟩
  | .vbcast f => some ⟨f, 3, 4, [f.a], lanesOf fun xs _ => xs 0 f.x.toNat⟩
  | .vslideDn f => some ⟨f, 3, 4, [f.a, f.b], lanesOf fun xs i =>
      if i + f.x.toNat % 64 < 64 then xs 0 (i + f.x.toNat % 64) else xs 1 (i + f.x.toNat % 64 - 64)⟩
  | .vslideUp f => some ⟨f, 3, 4, [f.a, f.b], lanesOf fun xs i =>
      if f.x.toNat % 64 ≤ i then xs 0 (i - f.x.toNat % 64) else xs 1 (64 + i - f.x.toNat % 64)⟩
  | .vsel f => some ⟨f, 2, 0, [f.a, f.b], lanesOf fun xs i =>
      if (s.r.ep.mask (Fin.ofNat 16 f.x.toNat)).getLsbD i then xs 0 i else xs 1 i⟩
  | .vkeyPack f => some ⟨f, 3, 4, [f.a, f.b], lanes2 fun a b =>
      (a <<< (f.x.toNat % 32)) ||| BitVec.ofNat 32 (b.toNat % 2 ^ (f.x.toNat % 32))⟩
  | .vkeyHash f => some ⟨f, 3, 4, [f.a, f.b], lanes2 fun a b =>
      BitVec.ofNat 32 ((a.toNat * 2 ^ 32 + b.toNat) * 0x9E3779B97F4A7C15 % 2 ^ 64 / 2 ^ (64 - f.x.toNat % 32))⟩
  | .vred f => some ⟨f, 8, 6, [f.a], fun xs => Lanes.fill (treeOf (redOp f) 6 (entering s f (xs.getD 0 (Lanes.fill 0))))⟩
  | .vscan f => some ⟨f, 10, 6, [f.a], fun xs => lanesOfList
      ((if f.fn.getLsbD 3 then [redIdentity f] else []) ++ scanOf (redOp f) (entering s f (xs.getD 0 (Lanes.fill 0))))⟩
  | .vmov f => some ⟨f, 1, 4, [f.a], lanes1 fun a => a⟩
  | .vli f lit => some ⟨f, 2, 4, [], lanesOf fun _ i => if i % 2 = 0 then lit.extractLsb' 0 32 else lit.extractLsb' 32 32⟩
  | _ => none
where
  /-- The vector whose lane i is a function of lanes of the operands. -/
  lanesOf (g : (Nat → Nat → W32) → Nat → W32) (xs : List Lanes) : Lanes :=
    Lanes.build fun i => g (fun k j => lane (xs.getD k (Lanes.fill 0)) j) i.val

/-- The scalar result of an instruction, as R309, R315 and R318 give it. -/
def scalarOp (s : State) : Instr → Option (EOp W32)
  | .sadd f => some ⟨f, 2, 5, [f.a, f.b], fun xs => if f.ty = 0 then fAdd (xs.getD 0 0) (xs.getD 1 0) else xs.getD 0 0 + xs.getD 1 0⟩
  | .smul f => some ⟨f, 2, 5, [f.a, f.b], fun xs => if f.ty = 0 then fMul (xs.getD 0 0) (xs.getD 1 0) else xs.getD 0 0 * xs.getD 1 0⟩
  | .sfma f => some ⟨f, 4, 5, [f.a, f.b, f.c], fun xs =>
      if f.ty = 0 then fFma (xs.getD 0 0) (xs.getD 1 0) (xs.getD 2 0) else xs.getD 0 0 * xs.getD 1 0 + xs.getD 2 0⟩
  | .smov f => some ⟨f, 2, 5, [f.a], fun xs => xs.getD 0 0⟩
  | .sli f lit => some ⟨f, 2, 5, [], fun _ => lit.extractLsb' 0 32⟩
  | .mpop f => some ⟨f, 3, 1, [], fun _ =>
      if f.fn = 0 then BitVec.ofNat 32 (onesIn (s.r.ep.mask (Fin.ofNat 16 f.a.toNat)))
      else BitVec.ofNat 32 ((List.range 64).find? (fun i => (s.r.ep.mask (Fin.ofNat 16 f.a.toNat)).getLsbD i) |>.getD 64)⟩
  | _ => none

/-- The generator after n elements of a conversion: one step for each under SR, none between two integer types (R89). -/
def drawn (f : EF) (src dst : Ty) (x : W32) : Nat → W32
  | 0 => x
  | n + 1 => if f.fn.toNat % 8 = 5 ∧ ¬(src.isInt = true ∧ dst.isInt = true) then lfsrStep (drawn f src dst x n) else drawn f src dst x n

/-- Element i of a conversion: its code under the rounding mode and the saturate flag, by the draw of its own step (R88, R310). -/
def converted (f : EF) (src dst : Ty) (x : W32) (i c : Nat) : Nat :=
  convert src dst (modeOf (f.fn.toNat % 8)) (f.fn.getLsbD 3) (drawn f src dst x (i + 1)) c

/-- The state with the vector generator after n elements of a conversion (R89, R90). -/
def State.drew (u : State) (f : EF) (src dst : Ty) (n : Nat) : State :=
  u.updE fun e => { e with lfsrV := drawn f src dst u.r.ep.lfsrV n }

/-- The width of a packed element of a type code: a 16-bit, an 8-bit or a narrow type (R79, R311). -/
def State.elemBits (s : State) (c : Nat) : Nat :=
  if c < 16 then (if c = 8 ∨ c = 9 then 8 else 16) else if fmtWidth (s.fmtOf c) ≤ 4 then 4 else 8

/-- Bit k of a vector of 256 bytes, lane 0 the lowest (R298, R299). -/
def laneBit (v : Lanes) (k : Nat) : Bool := (lane v (k / 32)).getLsbD (k % 32)

/-- The mask result of an instruction whose operands have been read (R307, R308). -/
def maskBit (s : State) (f : EF) : Instr → (List Lanes → Fin 64 → Bool)
  | .vcmp _ => fun xs i => eCondition f (xs.getD 0 (Lanes.fill 0))[i] (xs.getD 1 (Lanes.fill 0))[i]
  | .mlog _ => fun _ i => f.fn.toNat.testBit
      (2 * ((s.r.ep.mask (Fin.ofNat 16 f.a.toNat)).getLsbD i).toNat + ((s.r.ep.mask (Fin.ofNat 16 f.b.toNat)).getLsbD i).toNat)
  | _ => fun _ _ => false

/-- What taking n bytes at a head p leaves in t: the consumers of this core cycle find the head past them, and so it stands
in its register, unless the cycle has disabled, rewound or dropped it further (R26, R125, R131, R263). -/
def State.passes (s t : State) (p : SReg × Fin 4) (n : Nat) : Prop :=
  ∀ h new y : Head, h = s.headNow p → new = h.advance (s.streamStart p.1).esize n → y = (s.stream p.1).heads[p.2] →
    t.headNow p = new ∧
    (y.enabled = true → s.r.start.rewound.contains p = false → (y.count - h.count).toNat ≤ (new.count - h.count).toNat →
      (t.stream p.1).heads[p.2] = { y with count := new.count, pos := new.pos })

/-- What popping n bytes at a head leaves: the head has passed them, and no byte of memory has changed. -/
def State.popped (s t : State) (p : SReg × Fin 4) (n : Nat) : Prop :=
  s.passes t p n ∧ (∀ k, k ≠ p.1 → t.stream k = s.stream k) ∧ (∀ a, t.mem.byte a = s.mem.byte a) ∧
    t = { s.updR fun q => { q with st := t.r.st, start := { q.start with st := t.r.start.st } } with mem := t.mem }

/-! ### Bitmap-sparse segments (R100, R101) -/

/-- Bytes of the segment at the head of some bytes: 16, and its stored containers of w bits, padded to a multiple of 16. -/
def segmentSize (w : Nat) (bs : List Byte) : Nat := 16 + ((byteAt bs 8).toNat * w + 127) / 128 * 16

/-- Whether bit i of the bitmap of the segment at the head of some bytes is set. -/
def segmentHas (bs : List Byte) (i : Nat) : Bool := (byteAt bs (i / 8)).getLsbD (i % 8)

/-- Whether the number of set bits of a segment's bitmap is its length. -/
def segmentSound (bs : List Byte) : Bool := (List.range 64).countP (segmentHas bs) == (byteAt bs 8).toNat

/-- Container i of the segment at the head of some bytes: the next stored one where its bit is set, zero where not. -/
def segmentValue (w : Nat) (bs : List Byte) (i : Nat) : Nat :=
  if segmentHas bs i then containerAt w (bs.drop 16) ((List.range i).countP (segmentHas bs)) else 0

/-! ### The command queue and Gauze (R336, R337, R342 to R375) -/

/-- An operation has taken the next entry of the command queue. -/
def State.entered (u : State) (op : QOp) : State :=
  u.updR fun r => { r with
    mx := { r.mx with queue := r.mx.queue ++ [QEntry.fresh r.mx.nextQ r.ep.pc op], nextQ := r.mx.nextQ + 1 } }

/-- An operation has entered Gauze's queue, and starts if it is the oldest. -/
def State.gauzed (u : State) (op : GOp) : State :=
  u.updGz fun g => { g with ops := startOldest u.r.bind.banks u.now (g.ops ++ [⟨op, 0, none⟩]) }

/-- A stream that a unit of the matrix pipe takes its operands from, at the start of the core cycle (R26, R335). -/
def State.feedsUnit (s : State) (n : SReg) : Bool :=
  (s.streamStart n).isOpen && (s.streamStart n).sink == 7 && (s.streamStart (s.r.portOf n).1).isOpen

/-- The checks of a tile command's descriptor, M-tile count and targets (R346). -/
def State.tileOk (u : State) (w : Fin 8) (mt base : W32) : Bool :=
  ((u.r.mx.wdesc[w]).valid || (u.r.mx.wdesc[w]).loading) && decide (mt.toNat ≤ 65535) &&
    match u.r.dm.issued with
    | none => false
    | some c => c.tile && (c.hash || (decide (base.toNat < 2 ^ 11) &&
        decide (base.toNat + mt.toNat * u.r.issuedNb w ≤ c.entries u.r.bind.jsh)))

/-- A drain's output: the drain queue, or an EP-produced ring of the mode's records (R362). -/
def State.drainsTo (u : State) (c : JCfg) (d : BitVec 8) : Option (Option SReg) :=
  if d = 0xC3 then some none
  else if (u.streamStart (selStream d)).kind = 7 ∧ (u.streamStart (selStream d)).code = c.recordCode then some (some (selStream d))
  else none

/-- The configuration that a J.CFG names (R358). -/
def cfgOf (f : EF) : JCfg :=
  ⟨Fin.ofNat 4 f.fn.toNat, f.ty == 4, f.fn.getLsbD 2, f.x.toNat % 16 + 1,
    if f.d = 0xFF then none else some (selStream f.d)⟩

/-- The scalar operands of a queue command. -/
def cmdOperands : Instr → Option (List (BitVec 8))
  | .wload f | .wloadSc f | .mxDot f | .jDraino f => some [f.b, f.c]
  | .mxDots f => some [f.b]
  | .jAcc f => some (if f.b = 0xC0 then [] else [f.b])
  | .jDrain f => some (if f.b = 0xFF then [] else [f.b, f.c])
  | .rndSet _ | .jCfg _ | .jClear _ | .jMerge _ => some []
  | _ => none

/-- The queue operation of an instruction issued in s, whose operands have been read, leaving u; none where a check of it
fails. -/
def cmdOf (s u : State) (i : Instr) (xs : List W32) : Option QOp :=
  let x (k : Nat) : W32 := xs.getD k 0
  match i with
  | .wload f =>
    let e := f.fn.toNat % 4
    let ks := bits (x 1) 15 0
    let nb := bits (x 1) 23 16
    if s.feedsUnit (selStream f.a) ∧ ks ≠ 0 ∧ nb ≠ 0 ∧ bits (x 1) 31 24 = 0 ∧ (x 0).toNat % 64 = 0 ∧
        (e = 1 ∨ (x 0).toNat + weightBytes e ks nb ≤ u.r.bind.wbuf) then
      some (.wload (Fin.ofNat 8 f.x.toNat) (selStream f.a) (x 0).toNat e f.ty.toNat ks nb)
    else none
  | .wloadSc f =>
    if s.feedsUnit (selStream f.a) ∧ (x 0).toNat % 64 = 0 ∧ x 1 ≠ 0 ∧ (x 0).toNat + (x 1).toNat ≤ u.r.bind.smem then
      some (.wloadSc (selStream f.a) (x 0).toNat (x 1).toNat)
    else none
  | .mxDot f =>
    if s.feedsUnit (selStream f.a) ∧ u.tileOk (Fin.ofNat 8 f.fn.toNat) (x 0) (x 1) then
      some (.dot (Fin.ofNat 8 f.fn.toNat) (selStream f.a) f.ty.toNat (x 0).toNat (x 1) f.x.toNat)
    else none
  | .mxDots f =>
    let y (k : Nat) : W32 := u.r.ep.s[Fin.ofNat 32 (f.c.toNat + k)]
    if s.feedsUnit (selStream f.a) ∧ u.tileOk (Fin.ofNat 8 f.fn.toNat) (x 0) (y 0) then
      some (.dots (Fin.ofNat 8 f.fn.toNat) (selStream f.a) f.ty.toNat (x 0).toNat (y 0) (y 1) (y 2) (y 3) (y 4) f.x.toNat)
    else none
  | .rndSet f => some (.rnd (Fin.ofNat 8 f.fn.toNat))
  | .jCfg f =>
    if ¬((cfgOf f).hash ∧ s.pkg.boot.reduced) ∧ ¬((cfgOf f).sat ∧ ¬(cfgOf f).i32) ∧ ((cfgOf f).hash ∨ f.x = 0) ∧
        (∀ n, (cfgOf f).spill = some n → ringTakes s (cfgOf f) n) then
      some (.jcfg (cfgOf f))
    else none
  | .jClear _ => if s.r.dm.issued.isSome then some .jclear else none
  | .jAcc f =>
    match s.r.dm.issued with
    | some c =>
      if s.feedsUnit (selStream f.a) ∧ s.unitCode (selStream f.a) = c.recordCode then
        some (.jacc (selStream f.a) (if f.b = 0xC0 then none else some (x 0).toNat))
      else none
    | none => none
  | .jMerge f =>
    match s.r.dm.issued with
    | some c =>
      if s.feedsUnit (selStream f.a) ∧ s.feedsUnit (selStream f.b) ∧ ¬c.tile ∧ s.unitCode (selStream f.a) = 4 ∧
          s.unitCode (selStream f.b) = 4 then
        some (.jmerge (selStream f.a) (selStream f.b))
      else none
    | none => none
  | .jDrain f =>
    match s.r.dm.issued with
    | some c =>
      if f.b = 0xFF then (if c.hash then (u.drainsTo c f.d).map fun o => .jdrain o 0 0 else none)
      else if ¬c.hash ∧ (x 0).toNat + (x 1).toNat ≤ c.entries s.r.bind.jsh then
        (u.drainsTo c f.d).map fun o => .jdrain o (x 0).toNat (x 1).toNat
      else none
    | none => none
  | .jDraino f =>
    match s.r.dm.issued with
    | some c => if c.hash then (s.drainsTo c f.d).map fun o => .jdraino o (x 0).toNat (x 1).toNat else none
    | none => none
  | _ => none

/-- What J.STAT reads where it reads no micro-PC (R366). -/
def statOf (s : State) (sel : Nat) : W32 :=
  if sel = 5 then
    BitVec.ofNat 32 (s.r.mx.queue.length + 2 ^ 8 * ((s.r.dm.drainq.length + 63) / 64) +
      2 ^ 16 * (s.r.mx.queue.any fun q => q.fault.isSome).toNat)
  else
    match s.r.dm.issued, s.r.dm.cfg with
    | some _, some c =>
      if sel = 0 then BitVec.ofNat 32 (if 2 ≤ c.mode.val then s.r.dm.store.length else c.entries s.r.bind.jsh)
      else if sel = 1 then s.r.dm.spilled
      else BitVec.ofNat 32 (c.mode.val + 4 * c.i32.toNat + 8 * c.sat.toNat + 16 * (c.probes - 1) + 256 +
        512 * (if s.r.bind.jsh = 262144 then 0 else if s.r.bind.jsh = 524288 then 1 else 2))
    | _, _ => 0

/-- What the issue of a queue command changes beside the queue: the descriptor that a WLOAD names is known to be loading
(R346), and a J.CFG is the configuration of the commands after it (R337). -/
def cmdNoted (op : QOp) (u : State) : State :=
  match op with
  | .wload w _ _ _ _ _ _ =>
    u.updR fun r => { r with mx := { r.mx with wdesc := r.mx.wdesc.set w { r.mx.wdesc[w] with loading := true } } }
  | .jcfg c => u.updR fun r => { r with dm := { r.dm with issued := some c } }
  | _ => u

/-! ### What an event of a residency's units leaves -/

/-- The three contexts of the residency in focus are as before. -/
def State.ctxsKept (s t : State) : Prop := t.r.f = s.r.f ∧ t.r.d = s.r.d ∧ t.r.ep = s.r.ep

/-! ### Service, ingest and the package -/

/-- An action on record r with a result, which leaves u: a service request with its op whose fields name it is answered with
the result by `i`, and FAULT_ACT with its token leaves the result by `j` (R421 to R423). Op 1, RESUME, has no argument. -/
def State.answeredBy (s : State) (p : Fin 8) (r : FaultRec) (op : Byte) (arg : W64) (i : Instr) (j : W32 → Instr) (res : Byte)
    (u : State) : Prop :=
  (∀ k f, nextRequest s p = some (k, f) → byteAt f 0 = op → le64 f 24 = 0 →
    (op ≠ 1 → le64 f 16 = arg) → ((s.pkg.parts[p]).faults.find? fun x => x.seq == some (le64 f 8)) = some r →
    exec i s = .next (answer u p k f res)) ∧
  ∀ token, (op ≠ 1 → s.pkg.fw.faultArg = arg) → recordByToken s token = (p, some r) →
    exec (j token) s = .next { u with pkg := { u.pkg with fw := { u.pkg.fw with faultRes := res } } }

/-- An action on record r that is done and leaves u. -/
def State.servicedBy (s : State) (p : Fin 8) (r : FaultRec) (op : Byte) (arg : W64) (i : Instr) (j : W32 → Instr) (u : State) :
    Prop := s.answeredBy p r op arg i j 0 u

/-- A posted record that concerns the running residency in focus. -/
def State.pendingHere (s : State) (r : FaultRec) : Bool :=
  r.seq.isSome && r.entry == s.entry && r.launch == s.r.bind.launch && s.r.stage == .running

/-- t is s with a shootdown of a range of partition p under way: its overlapping TLB entries are stale, and each residency
has done with them what `Residency.shot` says (R415). -/
def State.shotDown (s t : State) (p : Fin 8) (va len : W64) (serves : Bool) : Prop :=
  t = { s with
    r := s.r.shot t.pkg.tlb p, others := s.others.map (Residency.shot t.pkg.tlb p)
    pkg := { s.pkg with
      tlb := t.pkg.tlb
      fw := { s.pkg.fw with sdVa := va, sdLen := len, sdPart := some p, sdServes := serves } } } ∧
  t.pkg.tlb.length = s.pkg.tlb.length ∧
  ∀ (i : Nat) (e : TlbEntry), s.pkg.tlb[i]? = some e →
    ∃ x, t.pkg.tlb[i]? = some x ∧ x = { e with stale := x.stale } ∧
      x.stale = (e.stale || (e.part == p &&
        (len == BitVec.allOnes 64 || decide (e.base < va.toNat + len.toNat ∧ va.toNat < e.base + e.size))))

/-- t is s but for one partition, which holds x, and the result of the partition command. -/
def State.onlyPart (s t : State) (p : Fin 8) (x : Partition) (result : Byte) : Prop :=
  t = { s with pkg := { s.pkg with parts := s.pkg.parts.set p x, partResult := result } }

/-- t is s with one partition changed. -/
def State.setPart (s : State) (p : Fin 8) (x : Partition) : State :=
  { s with pkg := { s.pkg with parts := s.pkg.parts.set p x } }

end Sys2Proof.Machine
end

