-- ==== Sys2Proof/Certificates/Slice0/Obligations.lean ====
section
/-! DEFINITION. The statements for the provers. -/

open Sys2Proof Sys2Proof.Machine

/-! ### Decoding, stepping and reset -/

/-- R173, R175, R183, R191, R222: words written out from the spec's encodings, and its own examples, decode to the
instructions they stand for. -/
def Obligations.WrittenWordsDecode : Prop :=
  decodeABytes [0x08, 0x80, 0x90, 0x09] = .ok (.addi ⟨3, 4, 4, 8⟩) ∧
  decodeABytes [0xA3, 0x91, 0x14, 0x28] = .ok (.lui 0 5 0x91A3) ∧
  decodeABytes [0x78, 0xB6, 0x14, 0x08] = .ok (.addi ⟨0, 5, 5, -2440⟩) ∧
  decodeABytes [0, 0, 0, 0xFC] = .ok (.halt 0) ∧ decodeABytes [0, 0, 0, 0] = .error 0x01 ∧
  decodeEBytes [0x00, 0x00, 0x08, 0x20, 0x14, 0x08, 0x20, 0x04] =
    .ok (.vfma ⟨2, false, 0x01, 0x02, 0x84, 0x01, 0, 0, 0⟩) ∧
  decodeTableWord 64 0x53_07_FF_FF_FF_F8_00_00 = some (.ehalt ⟨0, false, 0xFF, 0xFF, 0xFF, 0xFF, 0, 0, 0⟩)

/-- R173, R176, R183, R191, R192: decoding what a well-formed instruction is encoded to gives the instruction, with every
operand at every value. -/
def Obligations.DecodeInvertsEncode : Prop :=
  ∀ i : Instr, (i.isA = true → decodeABytes (encode i) = .ok i) ∧
    (i.isE = true → i.formOk = true → decodeEBytes (encode i) = .ok i)

/-- R173, R177, R183, R191, R193: an instruction that a word decodes to is encoded to that word, so that no bit of a word is
dropped and no two words are one instruction. -/
def Obligations.EncodeInvertsDecode : Prop :=
  (∀ (w : Nat) (i : Instr), w < 2 ^ 32 → decodeABytes (leBytes 4 w) = .ok i → encode i = leBytes 4 w) ∧
  ∀ (w l : Nat) (i : Instr), w < 2 ^ 64 → l < 2 ^ 64 → decodeEBytes (leBytes 8 w ++ leBytes 8 l) = .ok i →
    i.formOk = true ∧ encode i = leBytes 8 w ++ (if 0xF0 ≤ w / 2 ^ 56 then leBytes 8 l else [])

/-- R40, R173, R191, R298, R325: a step in the slot of a context that may fetch runs the instruction that the bytes at its
PC decode to, the slot being past; an ESTAGE in a pipelined body keeps the slot. -/
def Obligations.StepRunsTheDecodedInstruction : Prop :=
  ∀ (s : State) (i : Instr), s.pkg.boot.powered = true → s.r.stage = .running →
    (∀ c, s.phase = .ap → apOwner s = some c → (s.ctx c).status = .running → (s.ctx c).pending = none →
      (s.ctx c).stopReq = false → (s.ctx c).wake ≤ s.now → (s.ctx c).pc.toNat + 4 ≤ (s.r.section c).2 →
      s.mem.isBad (apimKey s.entry ((s.r.section c).1 + (s.ctx c).pc.toNat) / 64) = false →
      decodeABytes (s.mem.bytes (apimKey s.entry ((s.r.section c).1 + (s.ctx c).pc.toNat)) 4) = .ok i →
      step s = exec i { s with phase := .ep, ap := c }) ∧
    (∀ n, s.phase = .ep → epOwns s = true → s.r.ep.status = .running → s.r.ep.occupied = 0 → s.r.ep.stopReq = false →
      n = wordLen s.eWord → s.r.ep.pc.toNat + n ≤ s.r.bind.epSize →
      (s.r.ep.buffered = true ∨
        (granulesOf (keysFrom (epimKey s.entry s.r.ep.pc.toNat) n)).any s.mem.isBad = false) →
      decodeE s.eWord.toNat (if n = 16 then (s.eWordAt (s.r.ep.pc.toNat + 8)).toNat else 0) = .ok i →
      step s = exec i (if bits s.eWord 63 56 = 0x52 ∧ s.r.ep.refill.piped = true then s else { s with phase := .units none }))

/-- R14, R196, R197, R418: an instruction whose own fields raise a cause takes the exception, guarded off or not: its context
is parked with the cause, its PC at the instruction and its registers and memory as before, and a record of kind 0 with the
instruction's word is filed with the partition. In context E a drained pipelined level has begun its next run, with its
stage masks; its latches are empty, and every result in flight is held, also one that the slot would have delivered (log 42):
no other register, no queue and no byte of memory changes. An ESTAGE parks so in every stage: that it is never withheld itself
is the model's choice (log 112). -/
def Obligations.FieldCausesPark : Prop :=
  (∀ (i : Instr) (g : Guard) (c : Cause) (s : State), guardOf i = some g → staticCause i = some c →
    ∃ t x, exec i s = .next t ∧ (t.ctx s.ap).status = .parked c ∧ t.place = s.place ∧ s.allRegsKept t ∧ t.mem = s.mem ∧
      x ∈ t.part.faults ∧ x.cause = c ∧ x.kind = 0 ∧ x.unit = (match s.ap with | .f => 0 | .d => 1) ∧ x.entry = s.entry ∧
      x.launch = s.r.bind.launch ∧ x.lcore = s.r.bind.lcore ∧ x.index = 0xFF ∧ x.pc = (s.ctx s.ap).pc ∧
      x.detail = BitVec.ofNat 64 (s.apWord s.ap) ∧ x.tick = s.tick ∧ x.seq = none) ∧
  (∀ (i : Instr) (c : Cause) (s u : State), i.isE = true →
    u = s.updE EpCtx.refill → eCause u i = some c → (u.withheld = false ∨ ∃ f, i = .estage f) →
    ∃ t x, exec i s = .next t ∧ t.r.ep.status = .parked c ∧ t.r.ep.pc = s.r.ep.pc ∧
      t.r.ep.b = Vector.replicate 16 none ∧ x ∈ t.part.faults ∧ x.cause = c ∧ x.kind = 0 ∧ x.unit = 2 ∧
      x.entry = s.entry ∧ x.launch = s.r.bind.launch ∧ x.lcore = s.r.bind.lcore ∧ x.index = 0xFF ∧ x.pc = s.r.ep.pc ∧
      x.detail = s.eWord ∧ x.tick = s.tick ∧ x.seq = none ∧
      t = { u.updE fun e => { e with status := .parked c, b := Vector.replicate 16 none, atSwitch := false } with
        pkg := t.pkg, launches := t.launches } ∧
      t.mem = s.mem ∧ t.r.st = s.r.st ∧ t.r.mx = s.r.mx ∧ t.r.dm = s.r.dm ∧ t.r.ep.inflight = s.r.ep.inflight ∧
      t.r.ep.v = s.r.ep.v ∧ t.r.ep.s = s.r.ep.s ∧ t.r.ep.f = s.r.ep.f ∧ t.r.yq = s.r.yq ∧
      ∀ n, s.plainMask n → t.r.ep.m[n] = s.r.ep.m[n])

/-- R48, R388, R392, R400, R430, R434, R449, R450, R455, R456: the values that the spec gives for package reset. -/
def Obligations.ResetValues : Prop :=
  State.reset.tick = 0 ∧ State.reset.pkg.boot.state = 0 ∧ State.reset.pkg.boot.die1 = false ∧
  State.reset.pkg.boot.ready = false ∧ State.reset.pkg.boot.bridge = 0 ∧ State.reset.pkg.boot.trained = 0 ∧
  State.reset.pkg.owner = 0 ∧ State.reset.pkg.partAddr = 0 ∧ State.reset.pkg.partBusy = false ∧
  State.reset.pkg.partResult = 0 ∧ (∀ p : Fin 8, (State.reset.pkg.parts[p]).state = .free) ∧
  (∀ e : Fin 416, (State.reset.pkg.slots[e]).state = 0) ∧ State.reset.pkg.fw.saveLimit = 0x00100000 ∧
  State.reset.pkg.pinDriven = 0 ∧ State.reset.pkg.pinQueue = [] ∧ State.reset.pkg.fw.freeze = 0

/-- The memory of the machine after reset is in its canonical form (the model's own: log 2). -/
def Obligations.ResetMemoryCanonical : Prop := State.reset.memOk

/-- Every step keeps the memory in its canonical form, so that equal memories are equal data (the model's own: log 2). -/
def Obligations.StepKeepsMemoryCanonical : Prop := ∀ s t : State, s.memOk → step s = .next t → t.memOk

/-! ### The access processor -/

/-- R178: the condition that CMP and CMPI test, code by code, with the immediate sign-extended; codes 12 to 15 raise cause
0x01. -/
def Obligations.ConditionCodes : Prop :=
  ∀ (i : Instr) (s : State) (g p n : Guard) (c : Fin 16) (x y : W64) (b : Bool),
    (∃ a, x = s.areg a ∧ ((∃ k, y = s.areg k ∧ i = .cmp g p n c a k) ∨
      ∃ k : BitVec 8, y = k.signExtend 64 ∧ i = .cmpi g p n c a k)) →
    (12 ≤ c.val → staticCause i = some 0x01) ∧
    (s.apReady i g = true → p ≠ 0 → n ≠ p →
      (c = 0 ∧ b = decide (x = y) ∨ c = 1 ∧ b = decide (x ≠ y) ∨ c = 2 ∧ b = decide (x.toInt < y.toInt) ∨
        c = 3 ∧ b = decide (x.toInt ≥ y.toInt) ∨ c = 4 ∧ b = decide (x.toNat < y.toNat) ∨
        c = 5 ∧ b = decide (x.toNat ≥ y.toNat) ∨ c = 6 ∧ b = decide (x.toInt ≤ y.toInt) ∨
        c = 7 ∧ b = decide (x.toInt > y.toInt) ∨ c = 8 ∧ b = decide (x.toNat ≤ y.toNat) ∨
        c = 9 ∧ b = decide (x.toNat > y.toNat) ∨ c = 10 ∧ b = decide (x &&& y ≠ 0) ∨
        c = 11 ∧ b = decide (x &&& y = 0)) →
      ∃ t, exec i s = .next t ∧ t.apred p = b)

/-- R225: SEL, its encoding and its result. -/
def Obligations.SelectByPredicate : Prop :=
  ∀ (f : RRR) (n : Fin 8) (w : Nat),
    w = 0x0E * 2 ^ 26 + f.g.val * 2 ^ 23 + f.d.val * 2 ^ 18 + f.a.val * 2 ^ 13 + f.b.val * 2 ^ 8 →
    decodeABytes (leBytes 4 (w + n.val)) = .ok (.sel f n) ∧
    (∀ k, 8 ≤ k → k < 256 → decodeABytes (leBytes 4 (w + k)) = .error 0x02) ∧
    ∀ s : State, s.apReady (.sel f n) f.g = true → f.d ≠ 0 →
      ∃ t, exec (.sel f n) s = .next t ∧ t.areg f.d = if s.apred n = true then s.areg f.a else s.areg f.b

/-- R213, R214, R220 to R225: the result of every arithmetic instruction of the access processor, its frame, and the slots for
which its destination is still due; the registers that an instruction waits for are its destination and all that its result
depends on, and any instruction of the access processor that waits for one that is still due is blocked: it has no effect but
that the slot is counted. -/
def Obligations.ArithmeticCompletes : Prop :=
  (∀ (i : Instr) (s : State) (g : Guard) (d : AReg) (v : W64),
    aluValue s.areg s.apred i = some (g, d, v) → s.apReady i g = true →
    ∃ t, exec i s = .next t ∧ t.areg d = (if d = 0 then 0 else v) ∧ s.regsKept t d ∧ t.place = s.pastIt ∧ s.onlyCtx t ∧
      (t.ctx s.ap).busy = s.stillDue ++ if d ≠ 0 ∧ 1 < resultSlots i then [(d, resultSlots i)] else []) ∧
  (∀ (i : Instr) (x y : AReg → W64) (q : Guard → Bool) (g : Guard) (d : AReg) (v : W64), aluValue x q i = some (g, d, v) →
    d ∈ apRegs i ∧ ((∀ n ∈ apRegs i, y n = x n) → aluValue y q i = some (g, d, v))) ∧
  ∀ (i : Instr) (s : State) (g : Guard) (n : AReg) (k : Nat), guardOf i = some g → staticCause i = none → s.apred g = true →
    n ∈ apRegs i → n ≠ 0 → (n, k) ∈ s.stillDue →
    exec i s = .next (s.slotted.updCtx s.ap fun c => { c with ablk := c.ablk + 1 })

/-- R212, R224: bit fields, bit by bit, and their frame; a field into a0 writes nothing. -/
def Obligations.BitFieldsComplete : Prop :=
  ∀ (f : RBf) (s : State),
    (s.apReady (.bfx f) f.g = true → ∃ t, exec (.bfx f) s = .next t ∧
      (∀ j, j < 64 → (t.areg f.d).getLsbD j =
        (decide (f.d ≠ 0) && decide (j ≤ f.l.val) && (s.areg f.a).getLsbD (f.p.val + j))) ∧
      s.regsKept t f.d ∧ t.place = s.pastIt ∧ s.onlyCtx t) ∧
    (s.apReady (.bfxS f) f.g = true → ∃ t, exec (.bfxS f) s = .next t ∧
      (∀ j, j < 64 → (t.areg f.d).getLsbD j = (decide (f.d ≠ 0) && (s.areg f.a).getLsbD (f.p.val + min j f.l.val))) ∧
      s.regsKept t f.d ∧ t.place = s.pastIt ∧ s.onlyCtx t) ∧
    (s.apReady (.bfi f) f.g = true → ∃ t, exec (.bfi f) s = .next t ∧
      (∀ j, j < 64 → (t.areg f.d).getLsbD j = (decide (f.d ≠ 0) &&
        if f.p.val ≤ j ∧ j ≤ f.p.val + f.l.val then (s.areg f.a).getLsbD (j - f.p.val) else (s.areg f.d).getLsbD j)) ∧
      s.regsKept t f.d ∧ t.place = s.pastIt ∧ s.onlyCtx t)

/-- R226, R227: the two predicates that a comparison or a predicate operation writes, and its frame. -/
def Obligations.PredicatesComplete : Prop :=
  ∀ (i : Instr) (s : State) (g p n : Guard) (c : Bool),
    predValue s.areg s.apred i = some (g, p, n, c) → s.apReady i g = true →
    ∃ t, exec i s = .next t ∧
      (∀ k, t.apred k = if k = 0 then true else if k = n then !c else if k = p then c else s.apred k) ∧
      (∀ k, t.areg k = s.areg k) ∧ t.place = s.pastIt ∧ s.onlyCtx t

/-- R189: a guarded-off instruction of the access processor changes nothing but its count and the PC: its slot has passed, so
that the results still due are one slot nearer, it is counted, its context stands past it, and the watchdog sees that the
residency has moved; every other part of the state is as before. That it waits for no register whose result is still due, so
that nothing is asked of its registers here, is the model's choice (log 48). -/
def Obligations.GuardedOffDoesNothing : Prop :=
  ∀ (i : Instr) (s : State) (g : Guard),
    guardOf i = some g → staticCause i = none → s.apred g = false →
    ∃ t, exec i s = .next t ∧ s.allRegsKept t ∧ t.place = s.pastIt ∧
      t = (s.updCtx s.ap fun c => { c with
        busy := s.stillDue, ainst := c.ainst + 1, pc := s.pastIt.1, loops := s.pastIt.2 }).updR fun r =>
          { r with watch := { r.watch with moved := true } }

/-- R174, R228, R229, R233, R435, R436: the taken transfers, their branch record where branches are traced, and what they
leave unchanged. That the target of B and CALL is taken modulo 2^32 is the model's choice (log 35). A JR to a multiple of 4 at
or above 2^32 is no part of the clause on its target, whose value the model leaves free there; its branch record holds the
target's low 32 bits, which is the model's choice (log 14). -/
def Obligations.TransfersComplete : Prop :=
  (∀ (i : Instr) (s t : State) (g : Guard), (match i with | .b _ _ | .call _ _ | .jr _ => true | _ => false) = true →
    guardOf i = some g → s.apReady i g = true → s.tracing 1 (ctxNo s.ap) = false → exec i s = .next t →
    (∀ f, i = .jr f → (s.areg f.a).toNat % 4 = 0) →
    t = { s.takeIssue t with free := t.free }) ∧
  (∀ (i : Instr) (s t : State) (g : Guard) (w : W32), s.tracing 1 (ctxNo s.ap) = true →
    (match i with
      | .b _ o | .call _ o => some ((s.ctx s.ap).pc + o.signExtend 32 * 4)
      | .jr f => if (s.areg f.a).toNat % 4 = 0 then some ((s.areg f.a).setWidth 32) else none
      | _ => none) = some w →
    guardOf i = some g → s.apReady i g = true → exec i s = .next t →
    s.recorded t (branchRecord (ctxNo s.ap) s.apc w) ∧
      t = { (s.takeIssue t).updR fun r => { r with watch := { r.watch with trace := t.r.watch.trace } } with
        mem := t.mem, free := t.free } ∧
      { t.r.watch.trace with lost := 0 } = { s.r.watch.trace with lost := 0 }) ∧
  ∀ (s : State) (g : Guard) (o : BitVec 23) (f : RR),
    (s.apReady (.b g o) g = true → ∃ t, exec (.b g o) s = .next t ∧
      t.place = ((s.ctx s.ap).pc + o.signExtend 32 * 4,
        loopsAt ((s.ctx s.ap).pc + o.signExtend 32 * 4).toNat (s.ctx s.ap).loops) ∧ s.allRegsKept t) ∧
    (s.apReady (.call g o) g = true → ∃ t, exec (.call g o) s = .next t ∧
      t.place = ((s.ctx s.ap).pc + o.signExtend 32 * 4, (s.ctx s.ap).loops) ∧
      t.areg 31 = BitVec.ofNat 64 (s.apc + 4) ∧ s.regsKept t 31) ∧
    (s.apReady (.jr f) f.g = true → (s.areg f.a).toNat % 4 = 0 → (s.areg f.a).toNat < 2 ^ 32 →
      ∃ t, exec (.jr f) s = .next t ∧
        t.place = ((s.areg f.a).setWidth 32,
          if f.d = 0 then loopsAt (s.areg f.a).toNat (s.ctx s.ap).loops else (s.ctx s.ap).loops) ∧
        t.areg f.d = (if f.d = 0 then 0 else BitVec.ofNat 64 (s.apc + 4)) ∧ s.regsKept t f.d) ∧
    (s.apReady (.jr f) f.g = true → (s.areg f.a).toNat % 4 ≠ 0 →
      ∃ t, exec (.jr f) s = .next t ∧ (t.ctx s.ap).status = .parked 0x05 ∧ t.place = s.place ∧ s.allRegsKept t)

/-- R230 to R232: opening a hardware loop, and how execution passes to an offset in sequence: a level that does not end there
stays; one that does goes back to its start with its index one higher while that is below its count, and is popped
otherwise, and then the enclosing level is looked at in the same way. Where control goes past a LOOP that is itself the last
word of the innermost body is the model's choice (log 101). -/
def Obligations.LoopsComplete : Prop :=
  (∀ (t : Nat) (e : LoopEntry) (es : List LoopEntry), loopAdvance t [] = (t, []) ∧
    (e.stop ≠ t → loopAdvance t (e :: es) = (t, e :: es)) ∧
    (e.stop = t → e.index + 1 < e.count → loopAdvance t (e :: es) = (e.start, ⟨e.start, e.stop, e.count, e.index + 1⟩ :: es)) ∧
    (e.stop = t → e.count ≤ e.index + 1 → loopAdvance t (e :: es) = loopAdvance t es)) ∧
  ∀ (i : Instr) (s : State) (g : Guard) (n l : Nat),
    (match i with
      | .loop g' c b => some (g', (s.areg c).toNat, b.toNat)
      | .loopi g' c b => some (g', c.toNat, b.toNat)
      | _ => none) = some (g, n, l) →
    s.apReady i g = true → s.mayLoop n l = true →
    ∃ t, exec i s = .next t ∧ s.allRegsKept t ∧ s.onlyCtx t ∧
      t.place = if n = 0 then (BitVec.ofNat 32 (loopAdvance (s.body l).2 (s.ctx s.ap).loops).1,
          (loopAdvance (s.body l).2 (s.ctx s.ap).loops).2)
        else (BitVec.ofNat 32 (s.body l).1, ⟨(s.body l).1, (s.body l).2, n, 0⟩ :: (s.ctx s.ap).loops)

/-- R104, R105, R235 to R237, R240 to R242, R410 to R412: a load, a store or an atomic access is issued: its address is
resolved, and the context waits for its memory, from the next core cycle on, with nothing else changed but the TLBs; or it takes
the exception of what stops it, precisely. What an address names, what a walk does level by level, which cause each rule raises,
and the physical address that a leaf gives are stated; an access to one page is translated once, one that crosses into a second
is translated in both. The model's choices: the cycle in which HBM or the host serves an access (log 1), and what else occupies
a bank (log 75); that a whole frame is judged (log 13); the cause of a table entry at an address that no region entry covers
(log 103); and the cause of an access that ends past the 56-bit addresses (log 143). -/
def Obligations.AccessesIssue : Prop :=
  (∀ (s : State) (x : W64) (n : Nat), AddressForm s x n) ∧
  (∀ (pkg : Package) (m : Memory) (ranges : List (Nat × Nat)) (va : W64) (l table : Nat), 1 ≤ l → l ≤ 4 →
    WalkStep pkg m ranges va l table) ∧
  (∀ (pkg : Package) (p : Partition) (lf : Leaf) (va : W64) (r w : Bool), LeafGives pkg p lf va r w) ∧
  (∀ (m : Memory) (pkg : Package) (core : Nat) (part : Fin 8) (va : W64) (r w : Bool),
    (∀ t k, tlbFind pkg.tlb core part va.toNat r w = some t →
      leafCheck pkg pkg.parts[part] ⟨t.frame, t.base, t.size, t.read, t.write, 0⟩ va r w = .ok k →
      translate m pkg core part va r w = .ok (k, pkg.tlb)) ∧
    (tlbFind pkg.tlb core part va.toNat r w = none →
      (∀ y, walk pkg m (pkg.parts[part]).ranges va 4 (pkg.parts[part]).root = .error y →
        translate m pkg core part va r w = .error y) ∧
      ∀ lf, walk pkg m (pkg.parts[part]).ranges va 4 (pkg.parts[part]).root = .ok lf →
        (∀ y, leafCheck pkg pkg.parts[part] lf va r w = .error y → translate m pkg core part va r w = .error y) ∧
        ∀ k, leafCheck pkg pkg.parts[part] lf va r w = .ok k →
          ∃ ts, translate m pkg core part va r w = .ok (k, ts))) ∧
  (∀ (s : State) (x : W64) (n room : Nat) (r w : Bool), room = 65536 - x.toNat % 65536 →
    (∀ e o, formCheck s x n = .ok (.spad e o) → resolve s x n r w = .ok (keysFrom (spadKey e o) n, s)) ∧
    (∀ y, formCheck s x n = .error y → resolve s x n r w = .error y) ∧
    (formCheck s x n = .ok (.virt x) → walkWaits s.mem s.pkg (coreOf s.entry) s.r.bind.part x r w = false →
      (∀ y, translate s.mem s.pkg (coreOf s.entry) s.r.bind.part x r w = .error y →
        resolve s x n r w = .error (.trap y)) ∧
      ∀ k ts, translate s.mem s.pkg (coreOf s.entry) s.r.bind.part x r w = .ok (k, ts) → regionWaits s k = false →
        (n ≤ room → ∃ u, resolve s x n r w = .ok (keysFrom k n, u) ∧ u = { s with pkg := { s.pkg with tlb := u.pkg.tlb } }) ∧
        (room < n → ∀ a, a = { s.pkg with tlb := keepPinned s s.pkg.tlb ts } →
          walkWaits s.mem a (coreOf s.entry) s.r.bind.part (x + BitVec.ofNat 64 room) r w = false →
          (∀ y, translate s.mem a (coreOf s.entry) s.r.bind.part (x + BitVec.ofNat 64 room) r w = .error y →
            resolve s x n r w = .error (.trap y)) ∧
          ∀ k2 ts2, translate s.mem a (coreOf s.entry) s.r.bind.part (x + BitVec.ofNat 64 room) r w = .ok (k2, ts2) →
            regionWaits s k2 = false →
            ∃ u, resolve s x n r w = .ok (keysFrom k room ++ keysFrom k2 (n - room), u) ∧
              u = { s with pkg := { s.pkg with tlb := u.pkg.tlb } }))) ∧
  (∀ (i : Instr) (s : State) (x : Access) (y : Trap), accessOf s i = some x → s.apReady i x.g = true →
    (resolve s.slotted x.addr x.len x.rd x.wr = .error (.trap y) ∧ (x.op.atomic = true → x.addr.toNat % 8 = 0) ∨
      x.op.atomic = true ∧ x.addr.toNat % 8 ≠ 0 ∧ y = ⟨0x43, x.addr, 0⟩ ∧ (∃ z, formCheck s x.addr 8 = .ok z) ∨
      (x.op.atomic = true → x.addr.toNat % 8 = 0) ∧ y = ⟨0x44, x.addr, 0⟩ ∧
        ∃ ks u, resolve s.slotted x.addr x.len x.rd x.wr = .ok (ks, u) ∧ unsupported x.op ks = true) →
    ∃ t z, exec i s = .next t ∧ (t.ctx s.ap).status = .parked y.cause ∧ t.place = s.place ∧ s.allRegsKept t ∧
      (t.ctx s.ap).pending = (s.ctx s.ap).pending ∧ t.mem = s.mem ∧ z ∈ t.part.faults ∧ z.cause = y.cause ∧ z.kind = 0 ∧
      z.addr = y.addr ∧ z.aux = y.aux ∧ z.pc = (s.ctx s.ap).pc) ∧
  ∀ (i : Instr) (s u : State) (x : Access) (ks : List Nat),
    accessOf s i = some x → s.apReady i x.g = true →
    resolve s.slotted x.addr x.len x.rd x.wr = .ok (ks, u) → unsupported x.op ks = false →
    (x.op.atomic = true → x.addr.toNat % 8 = 0) →
    ∃ t, exec i s = .next t ∧ s.allRegsKept t ∧ t.place = s.place ∧
      (t.ctx s.ap).pending = some ⟨x.op, x.addr, ks, s.now + 1, [], false⟩ ∧
      t = { s.takeIssue t with pkg := { s.pkg with tlb := t.pkg.tlb } }

/-- R35, R106, R110, R111, R140, R179, R237, R240, R241, R283, R429, R455: the memory performs the parts of an access that it
serves in a core cycle, where the core that it names stands now: with the last part, what is loaded and what is stored; before
that, that it still waits for the rest. Every byte of memory outside the stored ones reads as before. A bank serves an own
share in phase 2 and another core's in phase 6, one access in each. When HBM and the host serve (log 1), and that nothing but
AP accesses occupies a bank (log 75), is the model's choice. -/
def Obligations.AccessesComplete : Prop :=
  (∀ (c : ApId) (s : State) (p q : MemReq) (l : List Nat) (old : List Byte),
    (s.ctx c).pending = some p → p.placed s = some q → q.since ≤ s.now → l = q.due s → l ≠ [] → old = q.seen s.mem →
    (s.pkg.boot.state = 10 → q.crosses s.entry = false) → q.cause s = none →
    ∃ t, exec (.memoryRequestComplete c) s = .next t ∧
      (match q.stores old with
        | some bs => t.mem = s.mem.write (q.keysAt l) (l.map fun i => bs.getD i 0) ∧ s.mem.keptBut t.mem (q.keysAt l)
        | none => t.mem = s.mem) ∧
      t = { (s.updCtx c fun _ => t.ctx c).updR fun r =>
        { r with h := t.r.h, watch := { r.watch with moved := true } } with
          mem := t.mem, banks := s.banks ++ (q.keysAt l).filterMap s.bankHolding } ∧
      (l ≠ q.rest → t.r.h = s.r.h ∧
        t.ctx c = { s.ctx c with pending := some { q with done := q.done ++ l.map fun i => (i, old.getD i 0) } }) ∧
      (l = q.rest →
        (t.ctx c).pending = none ∧ (t.ctx c).wake = s.now + (match q.op with | .store _ => 1 | _ => 3) ∧
        ((t.ctx c).pc, (t.ctx c).loops) =
          (BitVec.ofNat 32 (loopAdvance ((s.ctx c).pc.toNat + 4) (s.ctx c).loops).1,
            (loopAdvance ((s.ctx c).pc.toNat + 4) (s.ctx c).loops).2) ∧
        (∀ n, (t.ctx c).get n = match q.loads old with
          | some (d, v) => if n = 0 then 0 else if n = d then v else (s.ctx c).get n
          | none => (s.ctx c).get n) ∧
        (∀ n, (t.ctx c).pred n = (s.ctx c).pred n) ∧
        t.r.h = (match q.op with
          | .header h v => s.r.h.set h (some { v with hdr := old })
          | _ => s.r.h))) ∧
  ∀ (s : State) (r : Residency) (e o b : Nat), e < 416 → o < 2 ^ 22 → (s.all.find? fun r => r.bind.e == e) = some r →
    b = (if e % 2 = 0 then 0 else 32 - r.bind.banks) + o / 64 % r.bind.banks →
    s.bankHolding (spadKey e o) = some (32 * (e / 2) + b) ∧
    s.serving (spadKey e o) = (decide ((s.now + b) % 8 = if e = s.entry then 2 else 6) && !s.banks.contains (32 * (e / 2) + b))

/-- R239: a prefetch starts a page walk when its page is not in the first-level TLB; it touches no register and no byte of memory. -/
def Obligations.PrefetchCompletes : Prop :=
  ∀ (s : State) (g : Guard) (a : AReg) (o : BitVec 10), s.apReady (.pref g a o) g = true →
    ∃ t, exec (.pref g a o) s = .next t ∧ s.allRegsKept t ∧ t.place = s.pastIt ∧
      t.r.walks = (if bits (s.areg a + o.signExtend 64 * 8) 63 56 ≠ 0 ∨
          (s.pkg.tlb.any fun t => t.serves false (coreOf s.entry) s.r.bind.part (s.areg a + o.signExtend 64 * 8).toNat true false) = true
        then s.r.walks else s.r.walks ++ [s.areg a + o.signExtend 64 * 8]) ∧
      t = (s.takeIssue t).updR fun r => { r with walks := t.r.walks }

/-- R113, R122, R126, R259: a claim that finds room: the claimed count rises, and memory is as before. That every claim that
fits clears the note of a drop, earlier tries having dropped or not, is the model's choice (log 78). -/
def Obligations.ClaimCompletes : Prop :=
  ∀ (f : SA) (s : State),
    s.apReady (.sClaim f) f.g = true → (s.stream f.st).apProduced = true →
    (s.areg f.a).toNat ≤ (s.stream f.st).size → (s.areg f.a).toNat ≤ s.roomStart f.st →
    ∃ t, exec (.sClaim f) s = .next t ∧
      s.oneStream t f.st { s.stream f.st with
        claimed := (s.stream f.st).claimed + BitVec.ofNat 24 (s.areg f.a).toNat
        dropping := decide ((s.areg f.a).toNat = 0) && (s.stream f.st).dropping } ∧
      t.mem = s.mem

/-- R123, R261: a commit advances the committed count and the partial position, sets the full bit of every granule it
reaches, ends the stream where it is the form that does, and changes no byte of memory: not even of an element that has not
been written, which R123 counts as zero in the check value alone (log 12). -/
def Obligations.CommitsComplete : Prop :=
  ∀ (i : Instr) (f : SA) (el last : Bool) (s : State),
    commitForm i = some (f, el, last) → s.apReady i f.g = true → (s.stream f.st).apProduced = true →
    (s.stream f.st).commitSize el (s.areg f.a).toNat ≤ (s.stream f.st).claimedBytes →
    ∃ t, exec i s = .next t ∧
      s.allRegsKept t ∧ t.place = s.pastIt ∧ s.onlyStreams t ∧
      (∀ k, k ≠ f.st → t.stream k = s.stream k) ∧
      (t.stream f.st).ended = last ∧ (t.stream f.st).claimed = (s.stream f.st).claimed ∧
      (t.stream f.st).heads = (s.stream f.st).heads ∧ (t.stream f.st).awaits = (s.stream f.st).awaits ∧
      (∀ n r, r = s.stream f.st → n = r.commitSize el (s.areg f.a).toNat →
        (n = 0 → (t.stream f.st).committed = r.committed ∧ (t.stream f.st).tpos = r.tpos ∧ t.mem = s.mem) ∧
        (n ≠ 0 → r.code ≠ 6 →
          (t.stream f.st).committed = r.tail.1 + BitVec.ofNat 24 ((r.tail.2 + n + 63) / 64) ∧
          (t.stream f.st).tpos = BitVec.ofNat 7 ((r.tail.2 + n) % 64 / r.esize)) ∧
        (n ≠ 0 → r.code = 6 →
          (t.stream f.st).committed = r.committed + BitVec.ofNat 24 (n / 64) ∧ (t.stream f.st).tpos = r.tpos) ∧
        (n ≠ 0 → s.memOk → ∀ j, j < ((t.stream f.st).committed - r.tail.1).toNat →
          t.mem.isFull (r.granuleNo s.entry (r.tail.1 + BitVec.ofNat 24 j)) = true)) ∧
      ∀ k, t.mem.byte k = s.mem.byte k

/-- R125, R262: an await that finds its granules committed, and a retire; neither changes a byte of memory. -/
def Obligations.AwaitRetireComplete : Prop :=
  ∀ (f : SA) (s : State) (m : SReg) (j : Fin 4), s.r.headOf f.st = (m, j) → s.apConsumes f.st = true →
    (s.apReady (.sAwait f) f.g = true →
      ((s.areg f.a).toNat ≠ 0 →
        s.awaitedAt f.st + (s.areg f.a).toNat ≤ (s.stream m).size ∧ s.awaitedAt f.st + (s.areg f.a).toNat ≤ 65535 ∧
        (s.areg f.a).toNat ≤ awaitable (s.streamStart m) (s.headAt f.st) (s.awaitedAt f.st) ∧
        ringCause s.slotted (s.stream m) ((s.headAt f.st).count + BitVec.ofNat 24 (s.awaitedAt f.st)) (s.areg f.a).toNat = none) →
      ∃ t, exec (.sAwait f) s = .next t ∧ t.mem = s.mem ∧
        s.oneStream t m { s.stream m with
          awaits := (s.stream m).awaits.set j (BitVec.ofNat 16 (s.awaitedAt f.st + (s.areg f.a).toNat)) }) ∧
    (s.apReady (.sRetire f) f.g = true → (s.areg f.a).toNat ≤ s.awaitedAt f.st →
      ∃ t, exec (.sRetire f) s = .next t ∧ (∀ k, t.mem.byte k = s.mem.byte k) ∧
        s.oneStream t m { s.stream m with
          heads := (s.stream m).heads.set j { s.headAt f.st with
            count := (s.headAt f.st).count + BitVec.ofNat 24 (s.areg f.a).toNat, pos := 0 }
          awaits := (s.stream m).awaits.set j (BitVec.ofNat 16 (s.awaitedAt f.st - (s.areg f.a).toNat)) })

/-- R128, R263: setting, releasing and rewinding a mark. -/
def Obligations.MarksComplete : Prop :=
  ∀ (f : SO) (s : State) (m : SReg) (j : Fin 4), s.r.headOf f.st = (m, j) → s.headOpen f.st = true →
    (s.apReady (.sMark f) f.g = true → ∃ t, exec (.sMark f) s = .next t ∧ (∀ k, t.mem.byte k = s.mem.byte k) ∧
      s.oneStream t m { s.stream m with heads := (s.stream m).heads.set j { s.headAt f.st with
        markValid := true, markCount := (s.headAt f.st).count, markPos := (s.headAt f.st).pos } }) ∧
    (s.apReady (.sMarkRel f) f.g = true → ∃ t, exec (.sMarkRel f) s = .next t ∧ (∀ k, t.mem.byte k = s.mem.byte k) ∧
      s.oneStream t m { s.stream m with heads := (s.stream m).heads.set j { s.headAt f.st with markValid := false } }) ∧
    (s.apReady (.sRewind f) f.g = true → (s.headAt f.st).markValid = true →
      ∃ t, exec (.sRewind f) s = .next t ∧ s.allRegsKept t ∧ t.place = s.pastIt ∧
        s.streamsKept t m { s.stream m with
          heads := (s.stream m).heads.set j { s.headAt f.st with
            count := (s.headAt f.st).markCount, pos := (s.headAt f.st).markPos }
          awaits := (s.stream m).awaits.set j 0 } ∧
        t = (s.takeIssue t).updR fun r => { r with
          st := t.r.st, start := { r.start with rewound := (m, j) :: r.start.rewound } })

/-- R255, R257, R258, R260: source words, the start of a held stream, one more address, and data stored into claimed
room: a granule whose first byte is stored is written anew, so that a soft error in what it held is gone (the model's own:
log 34). -/
def Obligations.StreamWordsComplete : Prop :=
  ∀ (f : SAB) (o : SO) (w : Fin 8) (k : Fin 4) (z : Fin 4) (s : State),
    (s.apReady (.sPat f w) f.g = true → (s.stream f.st).isOpen = false →
      ∃ t, exec (.sPat f w) s = .next t ∧ t.mem = s.mem ∧
        s.oneStream t f.st { s.stream f.st with
          src := ((s.stream f.st).src.set (Fin.ofNat 6 w.val) (s.areg f.a)).set (Fin.ofNat 6 (w.val + 1)) (s.areg f.b) }) ∧
    (s.apReady (.sGo o) o.g = true → (s.stream o.st).isOpen = true →
      ∃ t, exec (.sGo o) s = .next t ∧ t.mem = s.mem ∧
        s.oneStream t o.st { s.stream o.st with
          fpend := (s.stream o.st).fpend && (s.stream o.st).fcause != 0 }) ∧
    (s.apReady (.sAddr f k) f.g = true → (s.stream f.st).kind = 3 ∨ ((s.stream f.st).isOpen = true ∧ (s.stream f.st).sink = 4) →
      (s.stream f.st).addrs.length < 64 →
      ∃ t, exec (.sAddr f k) s = .next t ∧ t.mem = s.mem ∧
        s.oneStream t f.st { s.stream f.st with
          addrs := (s.stream f.st).addrs ++ [s.areg f.a + (s.areg f.b <<< k.val)] }) ∧
    (s.apReady (.sData f z) f.g = true → (s.stream f.st).apProduced = true →
      (s.areg f.b).toNat % sizeBytes z.val = 0 →
      (s.areg f.b).toNat + sizeBytes z.val ≤ (s.stream f.st).claimedBytes →
      ∃ t, exec (.sData f z) s = .next t ∧
        s.oneStream t f.st { s.stream f.st with
          landed := max (s.stream f.st).landed ((s.areg f.b).toNat + sizeBytes z.val) } ∧
        ∀ ks, ks = (s.stream f.st).byteKeys s.entry (s.stream f.st).tail.1
            ((s.stream f.st).tail.2 + (s.areg f.b).toNat) (sizeBytes z.val) →
          t.mem = (s.mem.pokes (ks.zip (leBytes (sizeBytes z.val) (s.areg f.a).toNat))).mends
            ((ks.filter fun k => decide (k % 64 = 0)).map fun k => k / 64) ∧ s.mem.keptBut t.mem ks)

/-- R256, R257, R127, R264: opening a stream whose checks pass, held or not, and forking one. That a fork leaves the await
field of its head as it stood is the model's choice (log 79), and so is that the fields of the alias's control word that
S.FORK does not name are zero (log 68). -/
def Obligations.OpensComplete : Prop :=
  (∀ (i : Instr) (f : SAB) (hold : Bool) (s u : State) (r : StreamReg),
    (i = .sOpen f ∧ hold = false ∨ i = .sOpenH f ∧ hold = true) → s.apReady i f.g = true →
    (s.stream f.st).isOpen = false →
    r = openReg (s.areg f.a &&& BitVec.ofNat 64 (2 ^ 49 - 1)) ((s.areg f.b).setWidth 32) (s.stream f.st).src hold →
    openChecks s.slotted f.st r = .ok u →
    ∃ t, exec i s = .next t ∧ s.streamsKept t f.st r ∧ s.allRegsKept t ∧ t.place = s.pastIt ∧ t.mem = s.mem ∧
      r.fpend = hold ∧ r.claimed = 0 ∧ r.committed = 0 ∧ r.drops = 0 ∧ r.ended = false ∧
      r.heads[(0 : Fin 4)] = { Head.off with enabled := true } ∧
      t = { (s.takeIssue t).updR fun r => { r with st := t.r.st } with pkg := { s.pkg with tlb := t.pkg.tlb } }) ∧
  (∀ (f : SO) (src : SReg) (k : Fin 16) (j : Fin 4) (s u v : State),
    s.apReady (.sFork f src k j) f.g = true →
    (s.stream f.st).isOpen = false → (s.stream src).kind ≠ 10 → j ≠ 0 → (s.stream src).isOpen = true →
    ((s.stream src).heads[j]).enabled = false → k.val ≤ 7 →
    (k.val = 2 → (forkAlias s f.st src k j).patOk = true) →
    sideChecks s.slotted (forkAlias s f.st src k j) false (k.val = 3) false (s.stream src).esize = .ok u →
    sideChecks u (forkAlias s f.st src k j) (k.val = 2) false false (s.stream src).esize = .ok v →
    ∃ t, exec (.sFork f src k j) s = .next t ∧ s.allRegsKept t ∧ t.place = s.pastIt ∧ t.mem = s.mem ∧
      (∀ n, n ≠ f.st → n ≠ src → t.stream n = s.stream n) ∧
      (t.stream f.st).control = aliasControl k src j ∧
      t.stream src = { s.stream src with heads := (s.stream src).heads.set j { Head.off with
        enabled := true
        count := ((s.stream src).heads[(0 : Fin 4)]).count
        pos := ((s.stream src).heads[(0 : Fin 4)]).pos } } ∧
      t = { (s.takeIssue t).updR fun r => { r with st := t.r.st } with pkg := { s.pkg with tlb := t.pkg.tlb } })

/-- R254, R265: closing a stream, at once or when nothing of it was undelivered at the start of the core cycle, leaves its register zero and no byte of memory
changed. -/
def Obligations.ClosesComplete : Prop :=
  ∀ (i : Instr) (f : SO) (wait : Bool) (s : State),
    (i = .sClose f ∧ wait = false ∨ i = .sCloseW f ∧ wait = true) → s.apReady i f.g = true →
    (s.stream f.st).isOpen = true →
    ((s.stream f.st).kind = 10 ∨ ∀ m, ¬((s.stream m).kind = 10 ∧ (s.stream m).peerSt = f.st)) →
    (wait = true ∨ (s.stream f.st).kind = 9 → undeliveredIn s.r.start.st f.st = false ∧ (s.stream f.st).holds = 0) →
    ∃ t, exec i s = .next t ∧ t.stream f.st = .closed ∧ s.allRegsKept t ∧ t.place = s.pastIt ∧
      (∀ n, n ≠ f.st → ((s.stream f.st).kind = 10 → n ≠ (s.stream f.st).peerSt) → t.stream n = s.stream n) ∧
      (∀ k, t.mem.byte k = s.mem.byte k) ∧
      t = { (s.takeIssue t).updR fun r => { r with st := t.r.st } with
        mem := t.mem, pkg := { s.pkg with parts := t.pkg.parts } }

/-- R116, R266: reading a word of a stream register as it stood at the start of the core cycle, zero of a closed one. -/
def Obligations.StreamStatusCompletes : Prop :=
  ∀ (f : SO) (d : AReg) (w : Fin 16) (s : State), s.apReady (.sStat f d w) f.g = true →
    ∃ t, exec (.sStat f d w) s = .next t ∧ s.regsKept t d ∧ t.place = s.pastIt ∧
      ((s.streamStart f.st).opaqueWord w = false → t.areg d =
        if d = 0 ∨ (s.streamStart f.st).isOpen = false then 0 else (s.streamStart f.st).pack w) ∧
      t = { s.takeIssue t with free := t.free }

/-- R243, R268, R285: the queues between the access and the execute processor. -/
def Obligations.QueuesComplete : Prop :=
  ∀ (s : State) (g : Guard) (a d : AReg),
    (s.apReady (.xqPush g a) g = true → s.r.start.xq < 32 → s.r.xq.length < 32 →
      ∃ t, exec (.xqPush g a) s = .next t ∧ t.r.xq = s.r.xq ++ [s.areg a] ∧ s.allRegsKept t ∧ t.place = s.pastIt ∧
        t = (s.takeIssue t).updR fun r => { r with xq := t.r.xq }) ∧
    (∀ v vs, s.apReady (.yqPop g d) g = true → s.r.yq = v :: vs → s.r.start.yq ≠ 0 →
      ∃ t, exec (.yqPop g d) s = .next t ∧ t.r.yq = vs ∧ t.areg d = (if d = 0 then 0 else v) ∧ s.regsKept t d ∧
        t.place = s.pastIt ∧ t = (s.takeIssue t).updR fun r => { r with yq := t.r.yq }) ∧
    (s.apReady (.fmtPush g a) g = true → s.r.start.fq < 16 → s.r.fq.length < 16 →
      ∃ t, exec (.fmtPush g a) s = .next t ∧ t.r.fq = s.r.fq ++ [(s.areg a).setWidth 32] ∧ s.allRegsKept t ∧
        t.place = s.pastIt ∧ t = (s.takeIssue t).updR fun r => { r with fq := t.r.fq })

/-- R270 to R272, R274, R275, R277: a command whose block passes its checks and that finds its slot joins the commands of
its residency. -/
def Obligations.EngineCommandsIssue : Prop :=
  ∀ (i : Instr) (g : Guard) (kind : CmdKind) (a b : AReg) (tag : Nat) (z : Bool) (st : Option SReg)
    (s s1 s2 s3 : State) (f : List Byte) (c : BitVec 24),
    ((∃ x n c, i = .cpAsync x n c ∧ g = x.g ∧ a = x.a ∧ b = x.b ∧ kind = .copy ∧ tag = n.val ∧ z = false ∧
        st = if c then some x.d else none) ∨
      (∃ x c, i = .gxRows x z c ∧ g = x.g ∧ a = x.a ∧ b = x.b ∧ kind = .gather ∧ tag = 0 ∧
        st = if c then some x.st else none) ∨
      (∃ x c, i = .sxRows x z c ∧ g = x.g ∧ a = x.a ∧ b = x.b ∧ kind = .scatter ∧ tag = 0 ∧
        st = if c then some x.st else none)) →
    s.apReady i g = true → checkBlock s.slotted kind (s.areg a) = .ok (f, s1) →
    (tag ≠ 0 → s1.r.followOf tag + s1.r.inFlightTag tag + 1 ≤ 255) →
    claimRecord s1 st = .ok (s2, c) → takeSlot s2 kind.pool = .ok s3 →
    ∃ t, exec i s = .next t ∧ s.allRegsKept t ∧ t.place = s.pastIt ∧
      t.r.cmds = s.r.cmds ++ [{
        id := s.r.nextId, kind := kind, issuer := s.ap, pc := (s.ctx s.ap).pc, block := s.areg a, fields := f
        target := s.areg b, tag := tag, zero := z, stream := st, claim := c, status := .waiting
        row := 0, off := 0, bytes := 0, oor := 0, begun := false, pins := basePins kind f }] ∧
      (st = none → t.mem = s.mem ∧ t.r.st = s.r.st) ∧
      (∀ n, st = some n → (s.stream n).policy ≠ 2 →
        c = (s.stream n).claimed ∧ t.mem = s.mem)

/-- R278, R279: starting, resuming or reading a chain channel, and the fences. -/
def Obligations.ChainsAndFencesComplete : Prop :=
  (∀ (f : RR) (ch : Fin 8) (s : State), s.apReady (.cpChain f ch) f.g = true →
    (s.areg f.a ≠ 0 → (s.r.chains[ch]).busy = false ∧ (s.areg f.a).toNat % 64 = 0) →
    ∃ t, exec (.cpChain f ch) s = .next t ∧ s.regsKept t f.d ∧ t.place = s.pastIt ∧
      t.areg f.d = (if f.d = 0 then 0 else (s.r.chains[ch]).ptr ||| BitVec.ofNat 64 (s.r.chains[ch]).busy.toNat) ∧
      t.r.chains = (if s.areg f.a ≠ 0 then s.r.chains.set ch ⟨s.areg f.a, true, [], none, 0, false⟩
        else if (s.r.chains[ch]).ptr ≠ 0 ∧ (s.r.chains[ch]).busy = false
          then s.r.chains.set ch ⟨(s.r.chains[ch]).ptr, true, [], none, 0, false⟩
        else s.r.chains) ∧
      t = (s.takeIssue t).updR fun r => { r with chains := t.r.chains }) ∧
  (∀ (g : Guard) (s : State),
    (∀ c ∈ s.r.cmds, c.issuer = s.ap → c.status = .filled ∨ ∃ k, c.status = .cancelled k) →
    (s.apReady (.cpFence g) g = true →
      ∃ t, exec (.cpFence g) s = .next t ∧ s.allRegsKept t ∧ t.place = s.pastIt ∧ s.onlyCtx t) ∧
    (s.apReady (.cpFenceAll g) g = true → (∀ ch : Fin 8, (s.r.chains[ch]).busy = false) →
      ∃ t, exec (.cpFenceAll g) s = .next t ∧ s.allRegsKept t ∧ t.place = s.pastIt ∧ s.onlyCtx t))

/-- R283, R284, R405: loading a handle asks for its header, unloading it makes it invalid, and reading gives its fields. The
cycle in which HBM or the host serves the header (log 1), and what else occupies a bank (log 75), are the model's choice. -/
def Obligations.HandlesComplete : Prop :=
  ∀ (g : Guard) (h : Fin 16) (n : W16) (d : AReg) (x : BitVec 8) (s : State),
    (∀ (e : List Byte) (ks : List Nat) (u : State),
      s.apReady (.hLoad g h n) g = true → s.r.pinned h = false → n.toNat < s.part.oents →
      regionWaits s (s.part.otab + 64 * n.toNat) = false → s.pkg.unmapped (s.part.otab + 64 * n.toNat) = false →
      s.mem.isBad ((s.part.otab + 64 * n.toNat) / 64) = false →
      e = s.mem.bytes (s.part.otab + 64 * n.toNat) 64 → tensorEntry e = true →
      resolve s.slotted (le64 e 24) 64 true false = .ok (ks, u) → unsupported (.header h (entryHandle e n)) ks = false →
      ∃ t, exec (.hLoad g h n) s = .next t ∧ s.allRegsKept t ∧ t.place = s.place ∧
        (t.ctx s.ap).pending = some ⟨.header h ⟨[], n, bit (byteAt e 1) 0, bit (byteAt e 1) 1, le64 e 8, le64 e 16, false⟩,
          le64 e 24, ks, s.now + 1, [], false⟩ ∧
        t = { s.takeIssue t with pkg := { s.pkg with tlb := t.pkg.tlb } }) ∧
    (s.apReady (.hLoadNone g h n) g = true → s.r.pinned h = false →
      ∃ t, exec (.hLoadNone g h n) s = .next t ∧ t.r.h = s.r.h.set h none ∧ s.allRegsKept t ∧ t.place = s.pastIt ∧
        t = (s.takeIssue t).updR fun r => { r with h := t.r.h }) ∧
    (∀ v, s.apReady (.hGet g d h x) g = true → s.r.h[h] = some v →
      ∃ t, exec (.hGet g d h x) s = .next t ∧ s.regsKept t d ∧ t.place = s.pastIt ∧ s.onlyCtx t ∧
        t.areg d = if d = 0 then 0
          else if x.toNat < 8 then le64 v.hdr (8 * x.toNat)
          else if x.toNat = 8 then BitVec.ofNat 64 (v.index.toNat + v.read.toNat * 2 ^ 16 + v.write.toNat * 2 ^ 17 +
            (s.r.pinned h).toNat * 2 ^ 18)
          else v.len)

/-- R153, R154, R157, R168, R286: an acquire that finds its count reached, a release, a fence and the early launch
signal. -/
def Obligations.SynchronisationCompletes : Prop :=
  ∀ (g : Guard) (d a : AReg) (k : Fin 8) (n : BitVec 8) (s : State),
    checkScope s.slotted (scopeWord k n) = .ok () →
    (∀ ks u, s.apReady (.syncAcq g d a k n) g = true → apSync s.slotted (s.areg a) k false = .ok (ks, u) →
      (d = 0 ∨ (s.mem.wordAt ks - s.areg d).toNat < 2 ^ 63) →
      ∃ t, exec (.syncAcq g d a k n) s = .next t ∧ t.areg d = (if d = 0 then 0 else s.mem.wordAt ks) ∧
        s.regsKept t d ∧ t.place = s.pastIt ∧ t = { s.takeIssue t with pkg := { s.pkg with tlb := t.pkg.tlb } }) ∧
    (∀ ks u, s.apReady (.syncRel g a k n) g = true → apSync s.slotted (s.areg a) k true = .ok (ks, u) →
      ∃ t, exec (.syncRel g a k n) s = .next t ∧ t.mem = s.mem.write ks (leBytes 8 (s.mem.wordAt ks + 1).toNat) ∧
        s.mem.keptBut t.mem ks ∧ s.allRegsKept t ∧ t.place = s.pastIt ∧
        t = { s.takeIssue t with mem := t.mem, pkg := { s.pkg with tlb := t.pkg.tlb } }) ∧
    (s.apReady (.syncFence g k n) g = true →
      ∃ t, exec (.syncFence g k n) s = .next t ∧ s.allRegsKept t ∧ t.place = s.pastIt ∧ s.onlyCtx t) ∧
    (s.apReady (.syncLaunchEarly g) g = true → (∃ l ∈ s.launches, l.id = s.r.bind.launch) →
      ∃ t, exec (.syncLaunchEarly g) s = .next t ∧ t.launch.early.contains s.r.bind.lcore = true ∧ s.allRegsKept t ∧
        t.place = s.pastIt ∧ s.onlyLaunches t ∧
        s.mem.keptBut t.mem (if s.launch.earlyFired then [] else keysFrom s.launch.link.toNat 8))

/-- R26, R47, R163 to R165: arriving at a barrier, waiting for a phase that was complete at the start of the core cycle, and declaring expected bytes. An
arrival that completes the oldest phase ends it, and the next where that is then complete too; an overrun is noted for
a member that is not on a core (the model's own: log 49). -/
def Obligations.BarriersComplete : Prop :=
  ∀ (g : Guard) (a : AReg) (n : BitVec 8) (s : State) (x : Group) (m : BarMember),
    s.r.member n.toNat = true → s.group n.toNat = some x → x.part s.r.bind.lcore = some m →
    (s.apReady (.barArrive g n) g = true → m.arrived ≤ x.phaseStart + 1 →
      ∃ t y, exec (.barArrive g n) s = .next t ∧ s.allRegsKept t ∧ t.place = s.pastIt ∧ t.mem = s.mem ∧
        y = x.updPart s.r.bind.lcore (fun m => { m with arrived := m.arrived + 1 }) ∧
        (y.phaseDone = false → t.group n.toNat = some y) ∧
        (y.phaseDone = true → ∃ z, t.group n.toNat = some z ∧
          z.phase = y.phase + (if y.advance.phaseDone then 2 else 1) ∧ z.num = y.num ∧ z.master = y.master ∧
          z.members.length = y.members.length ∧
          ∀ (k : Nat) (b : BarMember), y.members[k]? = some b → ∃ b', z.members[k]? = some b' ∧
            b'.core = b.core ∧ b'.arrived = b.arrived ∧ b'.waited = b.waited ∧ b'.recv = 0 ∧
            (y.advance.phaseDone = false → b'.exp0 = b.exp1 ∧ b'.exp1 = b.exp2 ∧ b'.exp2 = 0))) ∧
    (∀ j, s.apReady (.barWait g n) g = true → s.r.groupSlot n.toNat = some j →
      (m.waited = m.arrived ∨ m.arrived ≤ x.phaseStart) → bit s.r.start.bovr (16 * j + 15) = false →
      ∃ t, exec (.barWait g n) s = .next t ∧ s.allRegsKept t ∧ t.place = s.pastIt ∧ s.onlyLaunches t ∧ t.mem = s.mem ∧
        t.group n.toNat = some (x.updPart s.r.bind.lcore fun m => { m with waited := m.arrived })) ∧
    (s.apReady (.barExpect g a n) g = true → (s.areg a).toNat < 2 ^ 32 →
      ∃ t, exec (.barExpect g a n) s = .next t ∧ s.allRegsKept t ∧ t.place = s.pastIt ∧ s.onlyLaunches t ∧ t.mem = s.mem ∧
        t.group n.toNat = some (x.updPart s.r.bind.lcore fun m =>
          if m.arrived ≤ x.phase then { m with exp0 := m.exp0 + s.areg a }
          else if m.arrived = x.phase + 1 then { m with exp1 := m.exp1 + s.areg a }
          else { m with exp2 := m.exp2 + s.areg a }))

/-- R56 to R59, R61, R62, R288 to R291: spawning a task, taking the newest of the own deque, falling through when no task
remains, and ending one. That the own deque is popped at the issue, and that a spawned record waits for the clock edge to be
placed, is the model's choice (log 25). -/
def Obligations.TasksComplete : Prop :=
  ∀ (g : Guard) (a : AReg) (s : State), s.r.bind.frame = false → (∃ l ∈ s.launches, l.id = s.r.bind.launch) →
    (∀ ks u t0, s.apReady (.taskSpawn g a) g = true → (s.areg a).toNat % 64 = 0 →
      resolve s.slotted (s.areg a) 64 true false = .ok (ks, u) → (ks.any fun k => storeOf k == .peer) = false →
      u.mem.readCause (granulesOf (checkable ks)) = none →
      t0 = { taskOfBytes (s.mem.gather ks) with dep := 0 } →
      hasRoom u (placeOf u t0.affinity s.r.bind.lcore) = true →
      ∃ t, exec (.taskSpawn g a) s = .next t ∧ s.allRegsKept t ∧ t.place = s.pastIt ∧ t.mem = s.mem ∧
        t.launch.spawned = s.launch.spawned ++ [⟨placeOf u t0.affinity s.r.bind.lcore, t0, none⟩] ∧
        t.launch.outstanding = s.launch.outstanding + 1) ∧
    (s.apReady (.taskNext g) g = true → s.ap = .f → s.launch.outStart = 0 →
      ∃ t, exec (.taskNext g) s = .next t ∧ s.allRegsKept t ∧ t.place = s.pastIt ∧ s.onlyCtx t) ∧
    (∀ x xs, s.apReady (.taskNext g) g = true → s.ap = .f → s.launch.outStart ≠ 0 → s.r.deque = x :: xs →
      x.entry.toNat % 4 = 0 → x.entry.toNat < s.r.bind.fetchSize →
      ∃ t, exec (.taskNext g) s = .next t ∧ t.r.deque = xs ∧ t.place = (x.entry, []) ∧ t.r.task.inTask = true ∧
        t.r.task.dispatch = (s.ctx s.ap).pc ∧ t.r.task.sideEffect = false ∧ t.r.task.record = x ∧
        t.areg 1 = x.affinity ∧ (∀ k : Fin 6, t.areg (Fin.ofNat 32 (k.val + 2)) = x.args[k]) ∧
        (∀ n, n = 0 ∨ 7 < n.val → t.areg n = s.areg n) ∧ s.predsKept t ∧ t.mem = s.mem) ∧
    (s.apReady (.taskDone g) g = true → s.ap = .f → s.r.task.inTask = true →
      ∃ t, exec (.taskDone g) s = .next t ∧ s.allRegsKept t ∧ t.place = (s.r.task.dispatch, (s.ctx s.ap).loops) ∧
        t.r.task.inTask = false ∧ t.launch.outstanding = s.launch.outstanding - 1 ∧ t.mem = s.mem)

/-- R26, R65, R292 to R294: reading a future that was full at the start of the core cycle gives its word, and filling an
empty one copies the 64 bytes and sets its full bit; every other byte of memory reads as before. -/
def Obligations.FuturesComplete : Prop :=
  ∀ (f : RR) (w : Fin 8) (s : State) (k id : Nat), futureKey s.slotted (s.areg f.a) = .ok (k, id) →
    (s.apReady (.futRead f w) f.g = true → s.r.bind.frame = false →
      (s.ap = .f → s.r.task.inTask = true → s.r.task.sideEffect = false) →
      s.mem.isFull (k / 64) = true → (∀ p ∈ s.launch.filled, p.1 ≠ id) → s.mem.readCause [k / 64] = none →
      ∃ t, exec (.futRead f w) s = .next t ∧ t.areg f.d = (if f.d = 0 then 0 else le64 (s.mem.bytes (k + 8 * w.val) 8) 0) ∧
        s.regsKept t f.d ∧ t.place = s.pastIt ∧ s.onlyCtx t) ∧
    (∀ o, s.apReady (.futFill f) f.g = true → s.memOk → localOffset s.slotted (s.areg f.d) 64 = some o → o % 64 = 0 →
      s.mem.isFull (k / 64) = false → s.mem.isBad (spadKey s.entry o / 64) = false →
      ∃ t, exec (.futFill f) s = .next t ∧ t.mem.granule (k / 64) = s.mem.granule (spadKey s.entry o / 64) ∧
        t.mem.chkOf (k / 64) = s.mem.chkOf (spadKey s.entry o / 64) ∧ t.mem.isFull (k / 64) = true ∧
        s.mem.keptBut t.mem (keysFrom (64 * (k / 64)) 64) ∧ s.allRegsKept t ∧ t.place = s.pastIt ∧ s.onlyLaunches t ∧
        ((∃ l ∈ s.launches, l.id = s.r.bind.launch) → t.launch.filled = s.launch.filled ++ [(id, s.r.bind.lcore)]))

/-- R49, R51 to R53, R295, R296, R427: waiting for a released block, ending a block, late or not, where a late one is counted
among the slips, its record is written into the slip log with a release of the completion object, or discarded where its write
meets a fault, and an event is noted; how an event is posted into the event area; and testing a decided tile. The model's
choices: a record whose region table is being installed waits (log 64), one that is discarded keeps its place in the log
(log 102), and the test takes the configuration of the last G.CFG that has completed (log 116). -/
def Obligations.TimetableAndSkipComplete : Prop :=
  (∀ (g : Guard) (b : BitVec 10) (s : State) (x : Block), s.r.bind.frame = true →
    s.launch.frames.blocks[b.toNat]? = some x → x.core = s.r.bind.lcore →
    (s.apReady (.ttWait g b) g = true → x.waited = false → x.released = true →
      ∃ t, exec (.ttWait g b) s = .next t ∧ s.allRegsKept t ∧ t.place = s.pastIt ∧ s.onlyLaunches t ∧ t.mem = s.mem ∧
        t.launch.frames.blocks[b.toNat]? = some { x with waited := true }) ∧
    (s.apReady (.ttDone g b) g = true → x.waited = true → s.tick.toNat ≤ s.launch.frames.base + x.deadline →
      ∃ t, exec (.ttDone g b) s = .next t ∧ s.allRegsKept t ∧ t.place = s.pastIt ∧ s.onlyLaunches t ∧ t.mem = s.mem ∧
        t.launch.frames.last = s.tick.toNat ∧ t.launch.frames.slips = s.launch.frames.slips ∧
        t.launch.frames.blocks[b.toNat]? = some { x with frame := x.frame + 1, waited := false, released := false }) ∧
    (s.apReady (.ttDone g b) g = true → x.waited = true → s.launch.frames.base + x.deadline < s.tick.toNat →
      ∃ t, exec (.ttDone g b) s = .next t ∧ s.allRegsKept t ∧ t.place = s.pastIt ∧
        t.launch.frames.last = s.tick.toNat ∧ t.launch.frames.slips = s.launch.frames.slips + 1 ∧
        t.launch.frames.blocks[b.toNat]? = some { x with frame := x.frame + 1, waited := false, released := false } ∧
        (s.part.record ≠ [] → ∃ e ∈ t.part.events, e = ⟨s.cycle, s.entry, (match s.ap with | .f => 0 | .d => 1), 2,
          s.r.bind.lcore, s.r.bind.launch, BitVec.ofNat 64 x.frame⟩) ∧
        ∀ (k : W64) (f : List Byte), s.launch.slipsDue = [] →
          k = s.launch.slog + BitVec.ofNat 64 (16 * (s.launch.frames.slips.toNat % 256)) →
          f = leBytes 8 x.frame ++ leBytes 2 b.toNat ++ leBytes 2 x.core ++
            leBytes 4 (min (s.tick.toNat - (s.launch.frames.base + x.deadline)) 0xFFFFFFFF) →
          (∀ ks u, translateSpan s.slotted k 16 false true = .ok (ks, u) → t.launch.slipsDue = [] ∧
            (s.mem.readCause (partialOf (checkable ks)) = none →
              t.mem = (s.mem.write ks f).bumped s.launch.compl.toNat ∧
                s.mem.keptBut t.mem (ks ++ keysFrom s.launch.compl.toNat 8)) ∧
            (s.mem.readCause (partialOf (checkable ks)) ≠ none → t.mem = s.mem)) ∧
          (∀ y, translateSpan s.slotted k 16 false true = .error (.trap y) → t.mem = s.mem ∧ t.launch.slipsDue = []) ∧
          (translateSpan s.slotted k 16 false true = .error .block →
            t.mem = s.mem ∧ t.launch.slipsDue = [⟨s.entry, x.core, k, f⟩]))) ∧
  (∀ (s : State) (p : Fin 8) (e : Event) (k n used : Nat) (x : Partition), x = s.pkg.parts[p] → x.events = [e] → k = x.evr →
    n = (s.mem.word64 k).toNat → used = (s.mem.word64 k - s.mem.word64 (k + 8)).toNat → regionWaits s k = false →
    ((s.postEvents p).pkg.parts[p]).events = [] ∧
    (x.eventsLost = 0 → used < 1023 → (s.postEvents p).mem = s.mem.evented k n p e.kind e.lcore e.launch s.tick e.detail ∧
      ((s.postEvents p).pkg.parts[p]).eventsLost = 0) ∧
    (x.eventsLost ≠ 0 → used + 2 ≤ 1023 → ((s.postEvents p).pkg.parts[p]).eventsLost = 0 ∧
      ∃ m, m = s.mem.evented k n p 4 0xFFFF 0 s.tick x.eventsLost ∧
        (s.postEvents p).mem = m.evented k (m.word64 k).toNat p e.kind e.lcore e.launch s.tick e.detail) ∧
    ((x.eventsLost = 0 ∧ 1023 ≤ used) ∨ (x.eventsLost ≠ 0 ∧ 1023 < used + 2) →
      (s.postEvents p).mem = s.mem ∧ ((s.postEvents p).pkg.parts[p]).eventsLost = x.eventsLost + 1)) ∧
  (∀ (g p : Guard) (a : AReg) (b : Fin 64) (s : State) (blk : GBlock), s.apReady (.skipTest g p a b) g = true →
    s.r.gz.blocks[b] = some blk → (s.areg a).toNat < blk.tiles →
    ((granulesOf [blk.recKey s.entry (s.areg a).toNat 18, blk.mapKey s.entry ((s.areg a).toNat / 8)]).any s.mem.isBad) = false →
    blk.decidedAt s.mem s.entry (s.areg a).toNat = true →
    ∃ t, exec (.skipTest g p a b) s = .next t ∧ (∀ n, t.areg n = s.areg n) ∧ t.place = s.pastIt ∧ s.onlyCtx t ∧
      ∀ n, t.apred n = if n = 0 then true else if n = p then blk.mapBit s.mem s.entry (s.areg a).toNat else s.apred n)

/-- R244 to R246: an alarm whose pins are granted and whose ring has room writes one record of 32 bytes and queues the
change of its pins. -/
def Obligations.AlarmsComplete : Prop :=
  ∀ (i : Instr) (f : RR) (pins : BitVec 8) (set : Bool) (s : State) (tick : W64) (k : Nat),
    (i = .alarmSet f pins ∧ set = true ∨ i = .alarmClr f pins ∧ set = false) → s.apReady i f.g = true →
    pins &&& ~~~s.part.pins = 0 → s.part.alarmsFull = false → regionWaits s k = false →
    (s.pkg.pinQueue.filter fun c => c.part == s.r.bind.part).length < 8 →
    tick = (if (s.areg f.a).toNat ≤ s.tick.toNat then s.tick + 1 else s.areg f.a) →
    k = bits s.part.ar.base 51 7 * 128 + 32 * (s.part.ar.tail.toNat % 2 ^ bits s.part.ar.base 3 0) →
    s.mem.readCause (partialOf (checkable (keysFrom k 32))) = none →
    ∃ t, exec i s = .next t ∧ s.allRegsKept t ∧ t.place = s.pastIt ∧
      t.mem = s.mem.write (keysFrom k 32) (alarmRecord s tick (s.areg f.d) pins set (s.part.alarmSeq + 1)) ∧
      s.mem.keptBut t.mem (keysFrom k 32) ∧
      t.part.ar.tail = s.part.ar.tail + 1 ∧ t.part.alarmSeq = s.part.alarmSeq + 1 ∧
      t.pkg.pinQueue = (if pins = 0 then s.pkg.pinQueue else s.pkg.pinQueue ++ [⟨tick, pins, set, s.r.bind.part⟩])

/-- R9, R27 to R30, R45, R54, R108, R141, R166, R216 to R219: reading and writing the control registers of the access
processor: what each of them holds, by its number, and the cause 0x09 of every other number. What bovr, fslip and fbase show in
the core cycle in which they change (log 3), and what cap_core holds before the end of bring-up (log 10), is the model's
choice. -/
def Obligations.ControlRegistersComplete : Prop :=
  (∀ (i : Instr) (g : Guard) (d a : AReg) (n : BitVec 11) (s : State), (i = .csrR g d n ∨ i = .csrW g a n) →
    s.apReady i g = true → s.apRegister n.toNat = none →
    ∃ t, exec i s = .next t ∧ (t.ctx s.ap).status = .parked 0x09 ∧ t.place = s.place ∧ s.allRegsKept t ∧ t.mem = s.mem) ∧
  ∀ (g : Guard) (d a : AReg) (n : BitVec 11) (s : State) (v : W64), s.apRegister n.toNat = some v →
    (s.apReady (.csrR g d n) g = true →
      ∃ t, exec (.csrR g d n) s = .next t ∧ t.areg d = (if d = 0 then 0 else v) ∧ s.regsKept t d ∧ t.place = s.pastIt ∧
        s.onlyCtx t) ∧
    (s.apReady (.csrW g a n) g = true →
      ∃ t, exec (.csrW g a n) s = .next t ∧ s.allRegsKept t ∧ t.place = s.pastIt ∧
        (∀ j : Fin 4, bits t.r.bovr (16 * j.val + 15) (16 * j.val) =
          if n.toNat = 0x010 ∧ bit (s.areg a) (16 * j.val + 15) = true then 0
          else bits s.r.bovr (16 * j.val + 15) (16 * j.val)) ∧
        t = (s.takeIssue t).updR fun r => { r with bovr := t.r.bovr })

/-- R248 to R251, R435, R436: the end of a context, the yield flag, the software trap, and a trace mark with its record, or the
count of lost ones where it finds no room. That HALT leaves the PC at the next instruction is the model's choice (log 17). -/
def Obligations.SystemGroupCompletes : Prop :=
  ∀ (g : Guard) (n : Fin 8) (a : AReg) (x : BitVec 11) (s : State),
    (s.apReady (.halt g) g = true →
      ∃ u, exec (.halt g) s = .next u.settle.checkDeadlock ∧ (u.ctx s.ap).status = .halted ∧
        (u.ctx s.ap).pc = (s.ctx s.ap).pc + 4 ∧ (u.ctx s.ap).loops = (s.ctx s.ap).loops ∧ s.allRegsKept u ∧ s.onlyCtx u ∧
        (s.r.ep.status ≠ .halted → s.launch.frameMode = true → u.settle.checkDeadlock = u)) ∧
    (s.apReady (.yield g) g = true →
      ∃ t, exec (.yield g) s = .next t ∧ t.r.watch.yield = true ∧ s.allRegsKept t ∧ t.place = s.pastIt ∧ t.mem = s.mem) ∧
    (s.apReady (.trap g n) g = true →
      ∃ t, exec (.trap g n) s = .next t ∧ (t.ctx s.ap).status = .parked (0x70 + BitVec.ofNat 8 n.val) ∧
        t.place = s.place ∧ (t.ctx s.ap).ainst = (s.ctx s.ap).ainst + 1 ∧ s.allRegsKept t ∧ t.mem = s.mem) ∧
    (s.apReady (.traceMark g a x) g = true →
      ∃ t, exec (.traceMark g a x) s = .next t ∧ s.allRegsKept t ∧ t.place = s.pastIt ∧
        (s.tracing 3 (ctxNo s.ap) = false → s.onlyCtx t) ∧
        (s.tracing 3 (ctxNo s.ap) = true →
          s.recorded t (leBytes 1 4 ++ leBytes 1 (ctxNo s.ap) ++ leBytes 2 x.toNat ++ leBytes 4 s.apc ++
            leBytes 8 (s.areg a).toNat)))

/-! ### The execute processor -/

/-- R185, R187, R190, R194, R304 to R306, R312 to R314, R317, R318: every vector instruction reads its operands in order,
reserves its destination, and puts the result that the tables give in flight, with its latency, guard and latch. That a VRED
to a port is in flight as a vector of 256 bytes, its result in every lane, is the model's choice (log 117). What the F32
operations give in exact values is stated with the scalar instructions. -/
def Obligations.VectorOpsComplete : Prop :=
  ∀ (i : Instr) (s u w : State) (o : EOp Lanes) (xs : List Lanes) (d : EDest),
    vecOp s.eSlot i = some o → s.eReady i = true → readAll s.eSlot o.ks = .ok (xs, u) →
    reserveDest u o.f (.vec (o.op xs)) = .ok (d, w) →
    ∃ t, exec i s = .next t ∧
      w.eIssued t (eLen i) ⟨o.lat, d, .vec (o.op xs), u.eguard o.f, some (Fin.ofNat 16 (2 * o.cls))⟩

/-- R74, R85, R86, R304, R305, R309, R315, R318: the same of every scalar instruction; and what the F32 operations of both,
lane by lane, give in exact values: the sum, the difference, the product, the multiply-add with its one rounding, the
reciprocal and the roots are rounded to nearest, ties to even; infinities, NaN and the signs of zero; the lesser and the
greater; and the special results of each function of VSFU. -/
def Obligations.ScalarOpsComplete : Prop :=
  (∀ (i : Instr) (s u w : State) (o : EOp W32) (xs : List W32) (d : EDest),
    scalarOp s.eSlot i = some o → s.eReady i = true → readScalars s.eSlot o.ks = .ok (xs, u) →
    reserveDest u o.f (.sc (o.op xs)) = .ok (d, w) →
    ∃ t, exec i s = .next t ∧
      w.eIssued t (eLen i) ⟨o.lat, d, .sc (o.op xs), u.eguard o.f, some (Fin.ofNat 16 (2 * o.cls))⟩) ∧
  (∀ (a b c : W32) (neg : Bool), neg = (a.getLsbD 31 ^^ b.getLsbD 31) →
    (f32NaN a = true ∨ f32NaN b = true → fAdd a b = canonicalNaN ∧ fMul a b = canonicalNaN ∧
      fMin a b = canonicalNaN ∧ fMax a b = canonicalNaN) ∧
    (f32NaN a = true ∨ f32NaN b = true ∨ f32NaN c = true → fFma a b c = canonicalNaN) ∧
    fSub a b = fAdd a (b ^^^ 0x80000000) ∧ fFms a b c = fFma a b (c ^^^ 0x80000000) ∧
    fAbs a = (if f32NaN a then canonicalNaN else a &&& 0x7FFFFFFF) ∧
    fNeg a = (if f32NaN a then canonicalNaN else a ^^^ 0x80000000) ∧
    (f32NaN a = false → f32NaN b = false →
      fMin a b = (if f32Order b < f32Order a then b else a) ∧ fMax a b = (if f32Order a < f32Order b then b else a)) ∧
    (f32Finite a = true → f32Finite b = true →
      (∀ v : ℚ, v = f32Value a + f32Value b → (v ≠ 0 → RoundsToF32 v (fAdd a b)) ∧
        (v = 0 → fAdd a b = f32Signed (a.getLsbD 31 && b.getLsbD 31) 0)) ∧
      (∀ v : ℚ, v = f32Value a * f32Value b → (v ≠ 0 → RoundsToF32 v (fMul a b)) ∧ (v = 0 → fMul a b = f32Signed neg 0)) ∧
      (∀ v : ℚ, f32Finite c = true → v = f32Value a * f32Value b + f32Value c →
        (v ≠ 0 → RoundsToF32 v (fFma a b c)) ∧ (v = 0 → fFma a b c = f32Signed (neg && c.getLsbD 31) 0)) ∧
      (f32Inf c = true → fAdd a c = c ∧ fAdd c a = c ∧ fFma a b c = c)) ∧
    (f32Inf a = true → f32Inf b = true → fAdd a b = if neg then canonicalNaN else a) ∧
    (f32Inf a = true ∨ f32Inf b = true → f32NaN a = false → f32NaN b = false →
      (f32Zero a = true ∨ f32Zero b = true → fMul a b = canonicalNaN ∧ fFma a b c = canonicalNaN) ∧
      (f32Zero a = false → f32Zero b = false → fMul a b = f32Signed neg 0x7F800000 ∧
        (f32NaN c = false → fFma a b c =
          if f32Inf c = true ∧ c.getLsbD 31 ≠ neg then canonicalNaN else f32Signed neg 0x7F800000)))) ∧
  ∀ (x : W32) (neg : Bool) (v : ℝ), neg = x.getLsbD 31 → v = f32Value x →
    (∀ n, f32NaN x = true → sfu n x = canonicalNaN) ∧
    (f32Zero x = true → sfu 0 x = f32Signed neg 0x7F800000 ∧ sfu 1 x = f32Signed neg 0x7F800000 ∧ sfu 2 x = x ∧
      sfu 3 x = 0x3F800000 ∧ sfu 4 x = 0xFF800000 ∧ sfu 5 x = x ∧ sfu 6 x = 0x3F800000 ∧ sfu 7 x = x) ∧
    (f32Inf x = true → sfu 0 x = f32Signed neg 0 ∧ sfu 1 x = (if neg then canonicalNaN else 0) ∧
      sfu 2 x = (if neg then canonicalNaN else x) ∧ sfu 3 x = (if neg then 0 else x) ∧
      sfu 4 x = (if neg then canonicalNaN else x) ∧ sfu 5 x = canonicalNaN ∧ sfu 6 x = canonicalNaN ∧
      sfu 7 x = f32Signed neg 0x3F800000 ∧ sfu 8 x = if neg then 0 else 0x3F800000) ∧
    (f32Finite x = true →
      (v ≠ 0 → RoundsToF32 (1 / v) (sfu 0 x)) ∧
      (0 < v → RoundsToF32 (1 / √v) (sfu 1 x) ∧ RoundsToF32 √v (sfu 2 x)) ∧
      (v < 0 → sfu 1 x = canonicalNaN ∧ sfu 2 x = canonicalNaN ∧ sfu 4 x = canonicalNaN) ∧
      (v = 1 → sfu 4 x = 0) ∧
      (v ≠ 0 → (∃ k : ℤ, v = k) → sfu 5 x = f32Signed neg 0) ∧
      ((∃ k : ℤ, v + 1 / 2 = k) → sfu 6 x = 0))

/-- R88, R89, R310, R311: conversions, packing and unpacking read their operands, convert element by element, and put
their result in flight. The generator steps once for each element under SR, unless both types are integer. -/
def Obligations.ConversionsComplete : Prop :=
  (∀ x : W32, lfsrStep x = if x.getLsbD 0 then (x >>> 1) ^^^ 0x80200003 else x >>> 1) ∧
  ∀ (f : EF) (s u w : State) (src dst : Ty) (d : EDest) (x : W32),
    s.eSlot.typeAt f.ty.toNat = .ok dst → s.eSlot.typeAt (f.x.toNat % 32) = .ok src → x = u.r.ep.lfsrV →
    (∀ (a : Lanes) (v : EVal), s.eReady (.vcvt f) = true → readV s.eSlot f.a = .ok (a, u) →
      v = .vec (Lanes.build fun i => laneForm f.ty.toNat (converted f src dst x i.val a[i].toNat)) →
      reserveDest (u.drew f src dst 64) f v = .ok (d, w) →
      ∃ t, exec (.vcvt f) s = .next t ∧ w.eIssued t 8 ⟨4, d, v, u.eguard f, some 8⟩) ∧
    (∀ (a z y : Lanes) (u1 : State) (n o : Nat), s.eReady (.vpack f) = true →
      readV s.eSlot f.a = .ok (a, u1) → readV u1 f.c = .ok (z, u) →
      n = s.eSlot.elemBits f.ty.toNat → o = 64 * n * (f.x.toNat / 32) →
      (∀ k, k < 2048 → laneBit y k =
        if o ≤ k ∧ k < o + 64 * n then (converted f src dst x ((k - o) / n) (lane a ((k - o) / n)).toNat).testBit ((k - o) % n)
        else laneBit z k) →
      reserveDest (u.drew f src dst 64) f (.vec y) = .ok (d, w) →
      ∃ t, exec (.vpack f) s = .next t ∧ w.eIssued t 8 ⟨4, d, .vec y, u.eguard f, some 8⟩) ∧
    (∀ (a : Lanes) (v : EVal) (n : Nat) (c : Fin 64 → Nat), s.eReady (.vunpack f) = true → readV s.eSlot f.a = .ok (a, u) →
      n = s.eSlot.elemBits (f.x.toNat % 32) →
      (∀ i, c i < 2 ^ n ∧ ∀ j, j < n → (c i).testBit j = laneBit a (64 * n * (f.x.toNat / 32) + n * i.val + j)) →
      v = .vec (Lanes.build fun i => laneForm f.ty.toNat (converted f src dst x i.val (c i))) →
      reserveDest (u.drew f src dst 64) f v = .ok (d, w) →
      ∃ t, exec (.vunpack f) s = .next t ∧ w.eIssued t 8 ⟨4, d, v, u.eguard f, some 8⟩) ∧
    (∀ (a : W32) (v : EVal), s.eReady (.scvt f) = true → readS s.eSlot f.a = .ok (a, u) →
      v = .sc (laneForm f.ty.toNat (converted f src dst x 0 a.toNat)) →
      reserveDest (u.drew f src dst 1) f v = .ok (d, w) →
      ∃ t, exec (.scvt f) s = .next t ∧ w.eIssued t 8 ⟨2, d, v, u.eguard f, some 10⟩)

/-- R301, R307, R308: comparisons and mask operations put a mask in flight; a stage mask of the active loop parks E. -/
def Obligations.MasksComplete : Prop :=
  (∀ (i : Instr) (f : EF) (ks : List (BitVec 8)) (lat : Nat) (s u : State) (xs : List Lanes),
    (i = .vcmp f ∧ ks = [f.a, f.b] ∧ lat = 2 ∨ i = .mlog f ∧ ks = [] ∧ lat = 1) → s.eReady i = true →
    readAll s.eSlot ks = .ok (xs, u) →
    (u.r.ep.stageMask (Fin.ofNat 16 f.d.toNat) = false →
      ∃ t v, exec i s = .next t ∧ (∀ k : Fin 64, v.getLsbD k.val = maskBit u f i xs k) ∧
        u.eIssued t 8 ⟨lat, .mask (Fin.ofNat 16 f.d.toNat), .mask v, u.eguard f, none⟩) ∧
    (u.r.ep.stageMask (Fin.ofNat 16 f.d.toNat) = true →
      ∃ t, exec i s = .next t ∧ t.r.ep.status = .parked 0x13 ∧ t.r.ep.pc = s.r.ep.pc)) ∧
  (∀ (f : EF) (s u : State) (a b : W32), s.eReady (.scmp f) = true → readScalars s.eSlot [f.a, f.b] = .ok ([a, b], u) →
    (u.r.ep.stageMask (Fin.ofNat 16 f.d.toNat) = false →
      ∃ t, exec (.scmp f) s = .next t ∧
        u.eIssued t 8 ⟨2, .mask (Fin.ofNat 16 f.d.toNat),
          .mask (if eCondition f a b then BitVec.allOnes 64 else 0), u.eguard f, none⟩) ∧
    (u.r.ep.stageMask (Fin.ofNat 16 f.d.toNat) = true →
      ∃ t, exec (.scmp f) s = .next t ∧ t.r.ep.status = .parked 0x13 ∧ t.r.ep.pc = s.r.ep.pc))

/-- R123, R185, R187, R190, R195, R316: what the delivery of a result writes. A vector register takes a vector lane by lane
under the guard, and a scalar in every lane of it; a scalar register and a mask are written under theirs; a port is given the
whole result, with masked-off lanes zero, and commits it; yq gains it as its newest entry; the join store takes it. The
class's latch holds what the register holds after the write, or else the whole result with masked-off lanes zero, and what it
held before moves to the older one. The model's choices: the bytes of a port's element past a scalar are free (log 7); a vector
result in a scalar register is its lane 0 (log 31); the join store takes masked lanes, and its tuples by their own guard bits
(log 47); and a latch holds a scalar as a scalar (log 109). -/
def Obligations.DeliveryWrites : Prop :=
  ∀ (s u : State) (x : InFlight), u = deliver s x →
    (∀ n v, x.dest = .vreg n → (x.val = .vec v ∨ ∃ w, x.val = .sc w ∧ v = Lanes.fill w) →
      (∀ k j : Nat, (hk : k < 64) → (hj : j < 64) → (u.r.ep.v[k])[j] =
        if k = n.val ∧ x.guard.getLsbD j = true then v[j] else (s.r.ep.v[k])[j]) ∧
      u.r.ep.s = s.r.ep.s ∧ u.r.ep.m = s.r.ep.m ∧ u.mem = s.mem ∧ s.latchTakes u x (.vec u.r.ep.v[n])) ∧
    (∀ n w, x.dest = .sreg n → (x.val = .sc w ∨ ∃ v, x.val = .vec v ∧ w = v[0]) →
      u.r.ep.s = (if x.guard.getLsbD 0 then s.r.ep.s.set n w else s.r.ep.s) ∧
      u.r.ep.v = s.r.ep.v ∧ u.r.ep.m = s.r.ep.m ∧ u.mem = s.mem ∧ s.latchTakes u x (.sc u.r.ep.s[n])) ∧
    (∀ n w, x.dest = .mask n → x.val = .mask w →
      (∀ k : Fin 16, ∀ j, j < 64 → (u.r.ep.m[k]).getLsbD j =
        if k = n ∧ x.guard.getLsbD j = true then w.getLsbD j else (s.r.ep.m[k]).getLsbD j) ∧
      u.r.ep.v = s.r.ep.v ∧ u.r.ep.s = s.r.ep.s ∧ u.r.ep.b = s.r.ep.b ∧ u.mem = s.mem) ∧
    (∀ l, x.whole = some l →
      (x.dest = .none ∨ x.dest = .yq ∨ (∃ n, x.dest = .push n) ∨ (∃ id, x.dest = .jport id)) →
      u.r.ep.v = s.r.ep.v ∧ u.r.ep.s = s.r.ep.s ∧ u.r.ep.m = s.r.ep.m ∧ s.latchTakes u x l ∧
      ((∀ n, x.dest ≠ .push n) → u.mem = s.mem ∧ ∀ n, u.stream n = s.stream n) ∧
      u.r.yq = (if x.dest = .yq then s.r.yq ++ [match l with | .vec v => (v[0]).setWidth 64 | .sc w => w.setWidth 64] else s.r.yq) ∧
      (∀ id, x.dest = .jport id → u.r.start.arrived = id :: s.r.start.arrived ∧
        u.r.mx.queue = s.r.mx.queue.map fun q => if q.id = id
          then { q with op := .jvec (some (match l with | .vec v => v | .sc w => Lanes.fill w)) x.guard } else q) ∧
      (∀ n r k, x.dest = .push n → r = s.stream n → r.kind = 7 →
        k = (match l with | .vec _ => 256 | .sc _ => max 4 r.esize) → k ≤ r.reserved →
        (∃ bs : List Byte, bs.length = k ∧
          (match l with | .vec v => bs = bytesOfLanes v | .sc w => bs.take 4 = leBytes 4 w.toNat) ∧
          (∀ a, u.mem.byte a = (s.mem.pokes ((r.byteKeys s.entry r.tail.1 r.tail.2 k).zip bs)).byte a)) ∧
        s.mem.keptBut u.mem (r.byteKeys s.entry r.tail.1 r.tail.2 k) ∧
        (∀ j, j ≠ n → u.stream j = s.stream j) ∧
        u.stream n = { r with
          committed := if r.code = 6 then r.committed + BitVec.ofNat 24 (k / 64)
            else r.tail.1 + BitVec.ofNat 24 ((r.tail.2 + k + 63) / 64)
          tpos := if r.code = 6 then r.tpos else BitVec.ofNat 7 ((r.tail.2 + k) % 64 / r.esize)
          landed := (u.stream n).landed, reserved := r.reserved - k } ∧
        (s.memOk → ∀ j, j < ((u.stream n).committed - r.tail.1).toNat →
          u.mem.isFull (r.granuleNo s.entry (r.tail.1 + BitVec.ofNat 24 j)) = true)))

/-- R76, R90, R319, R329 to R333, R364 to R366, R374: the instructions that read state of the residency into a scalar; of a
control register, the half that the instruction names of what the register holds, by its number, and the cause 0x09 of every
other number. -/
def Obligations.ScalarReadsComplete : Prop :=
  ∀ (f : EF) (s : State),
    (∀ v vs, s.eReady (.xqPop f) = true → s.eSlot.r.xq = v :: vs → s.eSlot.r.start.xq ≠ 0 →
      s.eGives (.xqPop f) f 1 5 (if f.x.getLsbD 0 then v.extractLsb' 32 32 else v.extractLsb' 0 32)
        (if f.x.getLsbD 1 then s.eSlot
          else s.eSlot.updR fun r => { r with xq := vs, start := { r.start with xq := r.start.xq - 1 } })) ∧
    (∀ n v, s.eReady (.ecsrR f) = true → n = f.fn.toNat % 8 * 256 + f.x.toNat → s.eSlot.eRegister n = some v →
      (n = 0x051 → s.eSlot.r.mx.queue.any QEntry.isMatrix = false) →
      s.eGives (.ecsrR f) f 2 7 (if f.fn.getLsbD 3 then v.extractLsb' 32 32 else v.extractLsb' 0 32) s.eSlot) ∧
    (s.eReady (.ecsrR f) = true → s.eSlot.eRegister (f.fn.toNat % 8 * 256 + f.x.toNat) = none →
      ∃ t, exec (.ecsrR f) s = .next t ∧ t.r.ep.status = .parked 0x09 ∧ t.r.ep.pc = s.r.ep.pc) ∧
    (∀ i c x y u r, (i = .jLook f ∨ i = .jLookP f) → s.eReady i = true → s.eSlot.r.dm.issued.isSome = true →
      readScalars s.eSlot [f.a, f.b] = .ok ([x, y], u) → u.r.mx.queue.any QEntry.writesDamask = false →
      u.r.dm.cfg = some c → lookUp u c x.toNat y.toNat = .ok r →
      s.eGives i f 6 7 (if i = .jLook f then r.getD 0 else if r.isSome then 1 else 0) u) ∧
    (s.eReady (.jStat f) = true → f.fn.toNat % 8 ≠ 3 → f.fn.toNat % 8 ≠ 4 →
      s.eGives (.jStat f) f 2 7 (statOf s.eSlot (f.fn.toNat % 8)) s.eSlot) ∧
    (s.eReady (.jStat f) = true → f.fn.toNat % 8 = 3 ∨ f.fn.toNat % 8 = 4 → s.eSlot.r.dm.issued.isNone = true →
      s.eGives (.jStat f) f 2 7 0 s.eSlot) ∧
    (∀ k b, k = Fin.ofNat 64 f.x.toNat → s.eSlot.r.gz.issued[k] = some b → s.eSlot.r.gz.ops = [] →
      (∀ w u, s.eReady (.gMapR f) = true → readScalars s.eSlot [f.b] = .ok ([w], u) → 32 * w.toNat < b.tiles →
        (granulesOf (keysFrom (b.mapKey u.entry (4 * w.toNat)) 4)).any u.mem.isBad = false →
        s.eGives (.gMapR f) f 2 7 (le32 (u.mem.bytes (b.mapKey u.entry (4 * w.toNat)) 4) 0) u) ∧
      (s.eReady (.gMapStep f) = true →
        s.eGives (.gMapStep f) f 2 7 ((s.eSlot.r.gz.blocks[k]).getD b).step s.eSlot) ∧
      (∀ w u r, s.eReady (.gMapTile f) = true → readScalars s.eSlot [f.b] = .ok ([w], u) → w.toNat < b.tiles →
        (granulesOf (keysFrom (b.recKey u.entry w.toNat 0) 64)).any u.mem.isBad = false →
        r = u.mem.bytes (b.recKey u.entry w.toNat 0) 20 →
        s.eGives (.gMapTile f) f 2 7 (BitVec.ofNat 32 (le16 r 16 + (byteAt r 18).toNat % 8 * 2 ^ 16)) u))

/-- R319, R320, R329, R331, R339: instructions of E that act on queues, streams and control registers, and its waits. That
vsp has 23 bits, and that a write of zero means the top of a region that ends at 2^22, is the model's choice (log 77). -/
def Obligations.QueueAndControlActs : Prop :=
  ∀ (f : EF) (s : State),
    (∀ xs u, s.eReady (.yqPush f) = true →
      readScalars s.eSlot (if f.b = 0xFF then [f.a] else [f.a, f.b]) = .ok (xs, u) → u.yqRoom = true →
      ∃ t, exec (.yqPush f) s = .next t ∧
        (u.updR fun r => { r with yq := r.yq ++ [BitVec.ofNat 64 ((xs.getD 0 0).toNat + (xs.getD 1 0).toNat * 2 ^ 32)] }).eActed
          t 8) ∧
    (∀ n p bs u, s.eReady (.sDrop f) = true → n = Fin.ofNat 32 f.a.toNat → ePort s.eSlot n = .ok p →
      popAll s.eSlot n (f.x.toNat * (s.eSlot.streamStart p.1).esize) false = .ok (bs, u) →
      ∃ t, exec (.sDrop f) s = .next t ∧ u.eActed t 8) ∧
    (∀ n v w u, s.eReady (.ecsrW f) = true → n = f.fn.toNat % 8 * 256 + f.x.toNat → s.eSlot.eRegister n = some v →
      readScalars s.eSlot [f.a] = .ok ([w], u) →
      (n = 0x051 → u.r.mx.queue.length < 16 →
        ∃ t, exec (.ecsrW f) s = .next t ∧ (u.entered (.lfsr (f.fn.getLsbD 3) w)).eActed t 8) ∧
      (n = 0x010 →
        ∃ t z, exec (.ecsrW f) s = .next t ∧ (u.updR fun r => { r with bovr := z }).eActed t 8 ∧
          ∀ j : Fin 4, bits z (16 * j.val + 15) (16 * j.val) =
            if decide (2 ≤ j.val) = f.fn.getLsbD 3 ∧ w.getLsbD (16 * (j.val % 2) + 15) = true then 0
            else bits u.r.bovr (16 * j.val + 15) (16 * j.val)) ∧
      (n ≠ 0x010 → n ≠ 0x051 → f.fn.getLsbD 3 = true → ∃ t, exec (.ecsrW f) s = .next t ∧ u.eActed t 8) ∧
      (f.fn.getLsbD 3 = false →
        (∀ k : Fin 8, n = 0x048 + k.val → ∃ t, exec (.ecsrW f) s = .next t ∧
          (u.updE fun e => { e with f := e.f.set k w }).eActed t 8) ∧
        (n = 0x050 → ∃ t, exec (.ecsrW f) s = .next t ∧
          (u.updE fun e => { e with lfsrV := if w = 0 then 1 else w }).eActed t 8) ∧
        (∀ v, n = 0x040 → v % 256 = 0 → u.spillBase ≤ v → v ≤ u.spillBase + 16384 →
          (bits w 21 0 = v ∨ bits w 21 0 + 2 ^ 22 = v ∧ v = u.spillBase + 16384) →
          ∃ t, exec (.ecsrW f) s = .next t ∧ (u.updE fun e => { e with vsp := BitVec.ofNat 23 v }).eActed t 8) ∧
        (n = 0x040 → (bits w 21 0 % 256 ≠ 0 ∨ (bits w 21 0 < u.spillBase ∧ bits w 21 0 + 2 ^ 22 ≠ u.spillBase + 16384) ∨
            u.spillBase + 16384 < bits w 21 0) →
          ∃ t, exec (.ecsrW f) s = .next t ∧ t.r.ep.status = .parked 0x14 ∧ t.r.ep.vsp = s.r.ep.vsp) ∧
        (n ≠ 0x010 → n ≠ 0x040 → (n < 0x048 ∨ 0x050 < n) → n ≠ 0x051 →
          ∃ t, exec (.ecsrW f) s = .next t ∧ u.eActed t 8))) ∧
    (s.eReady (.mxWait f) = true → s.eSlot.r.mx.queue.length ≤ f.x.toNat →
      ∃ t, exec (.mxWait f) s = .next t ∧ s.eSlot.eActed t 8) ∧
    (s.eReady (.jWait f) = true → s.eSlot.r.mx.queue.any QEntry.isJoin = false →
      ∃ t, exec (.jWait f) s = .next t ∧ s.eSlot.eActed t 8)

/-- R302, R303: the allotment grows and shrinks, and registers are pushed to and popped from the spill region; every byte
of memory outside what VPUSHM stores reads as before. That vsp has 23 bits (log 77), and that VPOPM reads its memory as it
issues (log 31), is the model's choice. -/
def Obligations.AllotmentAndSpill : Prop :=
  ∀ (f : EF) (s u : State) (n : Nat), u = s.eSlot →
    (n = f.x.toNat → n % 8 = 0 → 8 ≤ n → n ≤ 64 →
      (∀ i, (i = .vallot f ∧ n < u.r.ep.vregs ∨ i = .vshrink f ∧ n ≤ u.r.ep.vregs) → s.eReady i = true →
        ∃ t, exec i s = .next t ∧ (u.updE fun e => { e with
          vregs := n
          inflight := e.inflight.filter fun x => match x.dest with | .vreg k => decide (k.val < n) | _ => true }).eActed t 8) ∧
      (s.eReady (.vallot f) = true → n = u.r.ep.vregs → ∃ t, exec (.vallot f) s = .next t ∧ u.eActed t 8) ∧
      (s.eReady (.vallot f) = true → u.r.ep.vregs < n → n - u.r.ep.vregs ≤ u.freeRegs →
        ∃ t, exec (.vallot f) s = .next t ∧ (u.updE fun e => { e with
          vregs := n, v := Vector.ofFn fun i => if e.vregs ≤ i.val ∧ i.val < n then Lanes.fill 0 else e.v[i] }).eActed t 8)) ∧
    (n = f.fn.toNat + 1 → f.x.toNat + n ≤ u.r.ep.vregs →
      (s.eReady (.vpushm f) = true → u.r.ep.vsp.toNat + 256 * n ≤ u.spillBase + 16384 →
        ∃ t m, exec (.vpushm f) s = .next t ∧
          m = u.mem.writeGranules (spadKey u.entry u.r.ep.vsp.toNat / 64)
            ((List.range n).flatMap fun j => bytesOfLanes u.r.ep.v[Fin.ofNat 64 (f.x.toNat + j)]) ∧
          u.mem.keptBut m (keysFrom (64 * (spadKey u.entry u.r.ep.vsp.toNat / 64)) (256 * n)) ∧
          ({ u with mem := m }.updE fun e => { e with
            vsp := BitVec.ofNat 23 (u.r.ep.vsp.toNat + 256 * n), occupied := n - 1 }).eActed t 8) ∧
      (s.eReady (.vpopm f) = true → u.spillBase + 256 * n ≤ u.r.ep.vsp.toNat →
        ((granulesOf (keysFrom (spadKey u.entry (u.r.ep.vsp.toNat - 256 * n)) (256 * n))).any u.mem.isBad) = false →
        ∃ t, exec (.vpopm f) s = .next t ∧
          (u.updE fun e => { e with
            vsp := BitVec.ofNat 23 (u.r.ep.vsp.toNat - 256 * n), occupied := n - 1
            inflight := e.inflight ++ (List.range n).map fun j =>
              ⟨4 + j, .vreg (Fin.ofNat 64 (f.x.toNat + n - 1 - j)),
                .vec (lanesOfBytes (u.mem.bytes (spadKey u.entry (u.r.ep.vsp.toNat - 256 * (j + 1))) 256)),
                BitVec.allOnes 64, none⟩ }).eActed t 8))

/-- R321 to R326, R435, R436: the branch of E, with its record where branches are traced, its loops, plain and pipelined, the
stage marker, and how E passes to an offset in sequence: a level that does not end there stays; a plain one that does goes
back to its start with its index one higher while that is below its count, and is popped otherwise; a pipelined one goes on to
its next execution, with the stage masks of R324, while its oldest stage still carries an iteration, then waits where a request
has cut its run short, and is popped otherwise; past a popped level the enclosing one is looked at in the same way. -/
def Obligations.EpControlCompletes : Prop :=
  (∀ (req : Bool) (t : Nat) (m : Vector W64 16) (l : ELoop) (ls : List ELoop), eAdvance req t m [] = ⟨t, [], m, false⟩ ∧
    (l.stop ≠ t → eAdvance req t m (l :: ls) = ⟨t, l :: ls, m, false⟩) ∧
    (l.stop = t → l.pipe = none →
      (l.index + 1 < l.count → eAdvance req t m (l :: ls) = ⟨l.start, { l with index := l.index + 1 } :: ls, m, true⟩) ∧
      (l.count ≤ l.index + 1 → eAdvance req t m (l :: ls) = { eAdvance req t m ls with switched := true })) ∧
    ∀ (p q : Pipe) (e stop : Nat) (z : Vector W64 16), l.stop = t → l.pipe = some p → e = p.exec + 1 →
      stop = (if req = true ∧ p.base + e < p.stop then p.base + e else p.stop) → q = ⟨p.stages, p.base, stop, e⟩ →
      (∀ i : Fin 16, z[i] = if 8 ≤ i.val ∧ i.val < 8 + p.stages then 0 else m[i]) →
      (p.base + e < stop + (p.stages - 1) → ∃ m', eAdvance req t m (l :: ls) =
          ⟨l.start, { l with index := min (p.base + e + 1) stop, pipe := some q } :: ls, m', true⟩ ∧
        ∀ i : Fin 16, m'[i] = if 8 ≤ i.val ∧ i.val < 8 + p.stages
          then (if i.val - 8 ≤ e ∧ p.base + e - (i.val - 8) < stop then BitVec.allOnes 64 else 0) else m[i]) ∧
      (stop + (p.stages - 1) ≤ p.base + e →
        (stop < l.count → eAdvance req t m (l :: ls) = ⟨l.start, { l with pipe := some q } :: ls, z, true⟩) ∧
        (l.count ≤ stop → eAdvance req t m (l :: ls) = { eAdvance req t z ls with switched := true }))) ∧
  ∀ (f : EF) (s u : State) (w : W32), u = s.eSlot → w = u.r.ep.pc + (f.b ++ f.c).signExtend 32 * 8 →
    (∀ k : W64, k = u.r.ep.mask (Fin.ofNat 16 f.x.toNat) → s.eReady (.eb f) = true →
      ((f.fn = 0 ∨ f.fn = 1 ∧ k ≠ 0 ∨ f.fn = 2 ∧ k = BitVec.allOnes 64 ∨ f.fn = 3 ∧ k = 0) →
        ∃ t, exec (.eb f) s = .next t ∧
          t.ePlace = (w, u.r.ep.loops.dropWhile fun l => !(decide (l.start ≤ w.toNat) && decide (w.toNat < l.stop))) ∧
          t.r.ep.inflight = u.r.ep.inflight ∧ t.r.ep.b = Vector.replicate 16 none ∧ t.r.ep.m = u.r.ep.m ∧
          (u.tracing 1 2 = false → u.eFrame t) ∧
          (u.tracing 1 2 = true → u.recorded t (branchRecord 2 u.r.ep.pc.toNat w))) ∧
      (¬(f.fn = 0 ∨ f.fn = 1 ∧ k ≠ 0 ∨ f.fn = 2 ∧ k = BitVec.allOnes 64 ∨ f.fn = 3 ∧ k = 0) →
        ∃ t, exec (.eb f) s = .next t ∧ u.eActed t 8)) ∧
    (∀ i pipe hs ws stop v n, (i = .eloop f ∧ pipe = none ∨ i = .eloopPipe f ∧ pipe = some (f.fn.toNat % 8 + 1)) →
      s.eReady i = true → u.r.ep.loops.length < 6 →
      scanBody u (f.x.toNat % 64 + 1) (u.r.ep.pc.toNat + 8) = some (hs, ws, stop) →
      (∀ l ls, u.r.ep.loops = l :: ls → l.start ≤ u.r.ep.pc.toNat + 8 ∧ stop ≤ l.stop ∧ l.pipe = none) →
      (∀ st, pipe = some st → hs.any (pipeForbids st) = false) →
      (f.a = 0xFF ∧ n = (f.b ++ f.c).toNat ∧ v = u ∨ f.a ≠ 0xFF ∧ ∃ x, readScalars u [f.a] = .ok ([x], v) ∧ n = x.toNat) →
      (n = 0 → ∃ t, exec i s = .next t ∧ t.r.ep.inflight = v.r.ep.inflight ∧
        t.ePlace = (BitVec.ofNat 32 (eAdvance v.eRequest stop v.r.ep.m v.r.ep.loops).pc,
          (eAdvance v.eRequest stop v.r.ep.m v.r.ep.loops).loops) ∧ v.eOnly t) ∧
      (n ≠ 0 → ∃ t, exec i s = .next t ∧ t.r.ep.inflight = v.r.ep.inflight ∧
        t.ePlace = (BitVec.ofNat 32 (u.r.ep.pc.toNat + 8),
          ⟨u.r.ep.pc.toNat + 8, stop, n, if pipe = none then 0 else 1, pipe.map fun st => ⟨st, 0, n, 0⟩⟩ :: u.r.ep.loops) ∧
        t.r.ep.b = Vector.replicate 16 none ∧
        (∀ k : Fin 16, t.r.ep.m[k] = if 8 ≤ k.val ∧ ∃ st, pipe = some st ∧ k.val < 8 + st
          then (if k.val = 8 then BitVec.allOnes 64 else 0) else v.r.ep.m[k]) ∧
        (v.updE fun e => { e with lbufStart := t.r.ep.lbufStart }).eFrame t)) ∧
    (∀ v, v = s.updE EpCtx.refill → staticCause (.estage f) = none →
      (v.r.ep.piped = true → ∃ t, exec (.estage f) s = .next t ∧
        t.ePlace = (BitVec.ofNat 32 (eAdvance v.eRequest (v.r.ep.pc.toNat + 8) v.r.ep.m v.r.ep.loops).pc,
          (eAdvance v.eRequest (v.r.ep.pc.toNat + 8) v.r.ep.m v.r.ep.loops).loops) ∧
        t = v.updE fun e => { e with
          pc := t.r.ep.pc, loops := t.r.ep.loops, m := t.r.ep.m, b := t.r.ep.b, atSwitch := t.r.ep.atSwitch
          lbuf := t.r.ep.lbuf }) ∧
      (v.r.ep.piped = false → ∃ t, exec (.estage f) s = .next t ∧ t.r.ep.status = .parked 0x07 ∧
        t.r.ep.pc = s.r.ep.pc))

/-- R37, R38, R66, R169, R327, R328: the end of E, and its software trap; and what ends with a context. A residency has
completed when its contexts have halted, no command, chain or result is under way, and every drain to memory and every
decompressor is done; then it is counted for its launch, the early trigger fires once every core of the launch has signalled or
completed, and with the last residency the completion object is released and the completion record queued. A task launch in
which no task can run and none can be made runnable takes cause 0x67 in F of logical core 0. The model's choices: EHALT leaves
the PC past itself (log 17), and a drain of an ingest ring is done when nothing committed is left (log 133). -/
def Obligations.EpEndsComplete : Prop :=
  (∀ s : State, (s.r.stage ≠ .running ∨ s.finished = false → s.settle = s) ∧
    (s.finished = true ↔ s.r.f.status = .halted ∧ s.r.d.status = .halted ∧ s.r.ep.status = .halted ∧ s.r.cmds = [] ∧
      (∀ k : Fin 8, (s.r.chains[k]).busy = false) ∧ s.r.mx.queue = [] ∧ s.r.ep.inflight = [] ∧
      (∀ x ∈ s.launch.slipsDue, x.core ≠ s.r.bind.lcore) ∧ ∀ n, s.draining n = false ∧ s.expanding n = false) ∧
    ∀ (n : SReg) (x y : StreamReg), x = s.stream n → y = s.stream (s.r.headOf n).1 →
      (x.isOpen = false ∨ x.sink < 2 ∨ 4 < x.sink → s.draining n = false) ∧
      (x.isOpen = true → 2 ≤ x.sink → x.sink ≤ 4 →
        (s.r.undelivered n = true → s.draining n = true) ∧
        (s.r.undelivered n = false →
          (y.isOpen = false ∨ y.ended = true ∨ y.kind = 6 → s.draining n = false) ∧
          (y.isOpen = true → y.ended = false → 1 ≤ y.kind → y.kind ≤ 3 → s.draining n =
            (decide (y.landed ≠ 0 ∨ y.exhausted = false) && decide (y.kind ≠ 3 ∨ y.addrs ≠ [])))))) ∧
  (∀ (s : State) (l : Launch) (fires ends : Bool) (m : Memory), (∃ x ∈ s.launches, x.id = s.r.bind.launch) →
    s.r.stage = .running → s.finished = true →
    l = { s.launch with complete := if s.r.bind.lcore ∈ s.launch.complete then s.launch.complete
      else s.r.bind.lcore :: s.launch.complete } →
    fires = decide ((∀ c, c < l.n → c ∈ l.early ∨ c ∈ l.complete) ∧ l.earlyFired = false ∧ l.n ≠ 0) →
    ends = decide (l.complete.length = l.n ∧ l.finished = false) →
    m = (if fires then s.mem.bumped l.link.toNat else s.mem) →
    s.settle.mem = (if ends then m.bumped l.compl.toNat else m) ∧ s.settle.r = { s.r with stage := .done } ∧
      s.settle.others = s.others ∧ s.settle.launch.complete = l.complete ∧
      s.settle.launch.earlyFired = (l.earlyFired || fires) ∧ s.settle.launch.finished = (l.finished || ends) ∧
      (s.settle.pkg.parts[l.part]).completions = (s.pkg.parts[l.part]).completions ++ (if ends then
        [leBytes 4 l.tag.toNat ++ [0, 0] ++ leBytes 2 l.n ++ leBytes 8 0 ++ leBytes 4 l.frames.slips.toNat ++
          leBytes 4 l.faults.toNat ++ leBytes 8 0] else [])) ∧
  (∀ (s : State) (l : Launch) (rs : List Residency), l = s.launch →
    rs = (s.all.filter fun r => r.bind.launch == l.id && r.stage == .running) →
    (s.deadlocked = true ↔ l.frameMode = false ∧ l.outstanding ≠ 0 ∧ rs.length = l.n ∧ l.n ≠ 0 ∧
      (∀ r ∈ rs, r.atTaskNext s.mem = true ∧ r.d.status = .halted ∧ r.deque = []) ∧ l.spawned = [] ∧ l.filled = [] ∧
      l.held0 = [] ∧ l.held1 = [] ∧ s.mem.word64 l.ovf0.toNat = s.mem.word64 (l.ovf0.toNat + 8) ∧
      s.mem.word64 l.ovf1.toNat = s.mem.word64 (l.ovf1.toNat + 8)) ∧
    (s.deadlocked = false → s.checkDeadlock = s) ∧
    (s.deadlocked = true → s.peer 0 = some s.r → s.checkDeadlock.r.f = { s.r.f with status := .parked 0x67 } ∧
      s.checkDeadlock.r.d = s.r.d ∧ s.checkDeadlock.r.ep = s.r.ep ∧ s.checkDeadlock.others = s.others ∧
      s.checkDeadlock.mem = s.mem ∧
      ∃ x ∈ s.checkDeadlock.part.faults, x.cause = 0x67 ∧ x.kind = 0 ∧ x.unit = 0 ∧ x.pc = s.r.f.pc ∧ x.seq = none)) ∧
  ∀ (f : EF) (s u : State), u = s.eSlot →
    (s.eReady (.ehalt f) = true → ∃ t, exec (.ehalt f) s = .next t.settle ∧ t.r.ep.status = .halted ∧
      t.ePlace = (u.r.ep.pc + 8, u.r.ep.loops) ∧ t.r.ep.inflight = u.r.ep.inflight ∧
      (u.updE fun e => { e with status := .halted }).eFrame t) ∧
    (s.eReady (.etrap f) = true → ∃ t, exec (.etrap f) s = .next t ∧ t.r.ep.status = .parked (0x70 + f.x) ∧
      t.ePlace = u.ePlace ∧ t.r.ep.einst = u.r.ep.einst + 1 ∧ t.r.ep.v = u.r.ep.v ∧ t.r.ep.s = u.r.ep.s ∧
      t.r.ep.m = u.r.ep.m ∧ t.mem = u.mem)

/-- R335 to R337, R342, R345, R346, R352, R358 to R363, R461: a command of the matrix unit or of Damask whose checks pass
takes the next entry of the command queue. -/
def Obligations.CommandsEnter : Prop :=
  ∀ (i : Instr) (s u : State) (ks : List (BitVec 8)) (xs : List W32) (op : QOp),
    cmdOperands i = some ks → s.eReady i = true → readScalars s.eSlot ks = .ok (xs, u) →
    cmdOf s.eSlot u i xs = some op → u.r.mx.queue.length < 16 →
    ∃ t, exec i s = .next t ∧ (cmdNoted op (u.entered op)).eActed t 8

/-- R369, R370, R372 to R375: an instruction of Gauze whose checks pass enters its queue. -/
def Obligations.GauzeEnters : Prop :=
  ∀ (f : EF) (s u : State) (k : Fin 64), u = s.eSlot → k = Fin.ofNat 64 f.x.toNat →
    (∀ r : Nat → W32, (∀ j, r j = u.r.ep.s[Fin.ofNat 32 (f.c.toNat + j)]) → s.eReady (.gCfg f) = true →
      blockOk r (u.r.bind.banks * 131072) = true → u.r.gz.ops.length < 16 →
      ∃ t, exec (.gCfg f) s = .next t ∧ ((u.gauzed (.cfg k (blockOf r))).updGz fun g => { g with
        decided := g.decided.filter (fun p => p.1 != k.val), issued := g.issued.set k (some (blockOf r)) }).eActed t 8) ∧
    (∀ b, u.r.gz.issued[k] = some b → u.r.gz.ops.length < 16 →
      (s.eReady (.gStep f) = true → ∃ t, exec (.gStep f) s = .next t ∧
        ((u.gauzed (.step k)).updGz fun g => { g with decided := g.decided.filter fun p => p.1 != k.val }).eActed t 8) ∧
      (∀ bs v x w, s.eReady (.gKeep f) = true → popAll u (selStream f.a) b.ob false = .ok (bs, v) →
        readScalars v [f.b] = .ok ([x], w) → x.toNat < b.tiles →
        ∃ t, exec (.gKeep f) s = .next t ∧ (w.gauzed (.keep k x.toNat bs)).eActed t 8) ∧
      (∀ x y v, s.eReady (.gMapW f) = true → readScalars u [f.a, f.b] = .ok ([x, y], v) → 32 * y.toNat < b.tiles →
        ∃ t, exec (.gMapW f) s = .next t ∧ ((v.gauzed (.mapW k y.toNat x)).updGz fun g => { g with
          decided := ((List.range 32).map fun i => (k.val, 32 * y.toNat + i)) ++ g.decided }).eActed t 8) ∧
      (∀ ty bs v x w e, s.eReady (.gSig f) = true → u.typeAt f.ty.toNat = .ok ty →
        popAll u (selStream f.a) 1024 (decide (0xA0 ≤ f.a.toNat)) = .ok (bs, v) →
        readScalars v [f.b] = .ok ([x], w) → x.toNat < b.tiles → w.r.gz.decided.contains (k.val, x.toNat) = false →
        e = signatures (512 / sigBits f.ty.toNat (u.fmtOf f.ty.toNat))
          ((List.range (8192 / sigBits f.ty.toNat (u.fmtOf f.ty.toNat))).map fun i =>
            rneF32 (ty.decode (containerAt (sigBits f.ty.toNat (u.fmtOf f.ty.toNat)) bs i))) →
        ∃ t, exec (.gSig f) s = .next t ∧ ((w.gauzed (.sig k x.toNat e.1 e.2.1 e.2.2.1 e.2.2.2)).updGz fun g => { g with
          decided := (k.val, x.toNat) :: g.decided }).eActed t 8) ∧
      (∀ x v w q, s.eReady (.gReuse f) = true → readScalars u [f.b] = .ok ([x], v) → x.toNat < b.tiles →
        v.r.gz.ops = [] → bit (v.mem.byte (b.recKey v.entry x.toNat 18)) 1 = true → (v.streamStart (selStream f.d)).kind = 7 →
        v.reserve (selStream f.d) b.ob = some w → q = b.outKey v.entry x.toNat 0 →
        (granulesOf (keysFrom (b.recKey v.entry x.toNat 0) 64 ++ keysFrom q b.ob)).any v.mem.isBad = false →
        ∃ t, exec (.gReuse f) s = .next t ∧
          (w.gauzed (.reuse k x.toNat)).eIssued t 8 ⟨8 + 2 * b.v, .push (selStream f.d),
            .bytes (v.mem.bytes q b.ob) ((List.range (b.ob / 64)).map fun i => v.mem.chkOf (q / 64 + i)),
            BitVec.allOnes 64, none⟩))

/-- R125, R184, R186, R364: what each operand selector gives, as a vector and as a scalar; a pop takes its bytes and moves its head
on, a peek takes the same bytes and changes nothing, and neither changes a byte of memory. A vector operand of an ended
stream with fewer than 256 bytes left is filled with zero bytes; a scalar of one with fewer than 4 left has those bytes, and no
rule says what the rest of it holds (log 80). That xq fills every lane of a vector operand is the model's
choice (log 31). -/
def Obligations.OperandSelectors : Prop :=
  ∀ (s : State) (c : BitVec 8) (n : Nat), n = c.toNat →
    (n < 0x40 → readV s c = .ok (s.r.ep.v[Fin.ofNat 64 n], s) ∧ readS s c = .ok ((s.r.ep.v[Fin.ofNat 64 n])[0], s)) ∧
    (0x40 ≤ n → n < 0x50 → ∀ l, s.r.ep.b[Fin.ofNat 16 n] = some l →
      (∀ v, l = .vec v → readV s c = .ok (v, s) ∧ readS s c = .ok (v[0], s)) ∧
      (∀ w, l = .sc w → readV s c = .ok (Lanes.fill w, s) ∧ readS s c = .ok (w, s))) ∧
    (0x60 ≤ n → n < 0x80 →
      readV s c = .ok (Lanes.fill s.r.ep.s[Fin.ofNat 32 n], s) ∧ readS s c = .ok (s.r.ep.s[Fin.ofNat 32 n], s)) ∧
    (n = 0xC0 → readV s c = .ok (Lanes.fill 0, s) ∧ readS s c = .ok (0, s)) ∧
    (n = 0xC2 → ∀ x xs u, s.r.xq = x :: xs → s.r.start.xq ≠ 0 →
      u = (s.updR fun r => { r with xq := xs, start := { r.start with xq := r.start.xq - 1 } }) →
      readV s c = .ok (Lanes.fill (x.setWidth 32), u) ∧ readS s c = .ok (x.setWidth 32, u)) ∧
    (n = 0xC3 → 256 ≤ s.r.dm.drainq.length →
      readV s c = .ok (lanesOfBytes (s.r.dm.drainq.take 256),
        s.updR fun r => { r with dm := { r.dm with drainq := s.r.dm.drainq.drop 256 } })) ∧
    (0x80 ≤ n → n < 0xC0 → ∀ st m j r h, st = Fin.ofNat 32 n → s.r.portOf st = (m, j) → r = s.streamStart m →
      h = s.headNow (m, j) → (s.streamStart st).isOpen = true → (s.streamStart st).sink = 0 → r.isOpen = true →
      (256 ≤ availBytes r h → takenCause s r h 256 = none →
        ∃ u, readV s c = .ok (lanesOfBytes (s.mem.gather (r.byteKeys s.entry h.count (h.pos.toNat * r.esize) 256)), u) ∧
          (0xA0 ≤ n → u = s) ∧ (n < 0xA0 → s.popped u (m, j) 256)) ∧
      (∀ k, k = availBytes r h → r.esize ≤ k → k < 256 → r.esize ≤ 256 → r.ended = true → takenCause s r h k = none →
        ∃ u, readV s c = .ok (lanesOfBytes (s.mem.gather (r.byteKeys s.entry h.count (h.pos.toNat * r.esize) k) ++
            List.replicate (256 - k) 0), u) ∧
          (0xA0 ≤ n → u = s) ∧ (n < 0xA0 → s.popped u (m, j) k)) ∧
      (∀ k, k = max 4 r.esize → k ≤ availBytes r h → takenCause s r h k = none →
        ∃ u, readS s c = .ok (le32 (s.mem.gather (r.byteKeys s.entry h.count (h.pos.toNat * r.esize) k)) 0, u) ∧
          (0xA0 ≤ n → u = s) ∧ (n < 0xA0 → s.popped u (m, j) k)) ∧
      (∀ k, k = availBytes r h → r.esize ≤ k → k < 4 → r.ended = true → takenCause s r h k = none →
        ∃ w u, readS s c = .ok (w, u) ∧
          (leBytes 4 w.toNat).take k = s.mem.gather (r.byteKeys s.entry h.count (h.pos.toNat * r.esize) k) ∧
          (0xA0 ≤ n → u = { s with free := u.free }) ∧ (n < 0xA0 → s.popped { u with free := s.free } (m, j) k)))

/-! ### Events of a residency's units -/

/-- R100 to R103, R119, R120, R123 to R125, R134, R164, R239, R254, R267: the sides of streams. A fetch puts the bytes of the
next element behind those that have landed; landed bytes are committed, which changes no byte of memory; a drain writes the next
element and moves its head past it; a decompressor delivers and expands, and what a bitmap-sparse tile, a codebook-16 block and
a delta-line block expand to is stated; a remote sink hands its granule on to its consumer, or with multicast to each member of
its group, whose bytes count towards the group's barrier; a page walk ends. The model's choices: what can be committed, a part of a granule and the end that a remote sink hands on (log 71); the
input that a decompressor holds back (log 45), and its delivery of each element as soon as it is whole (log 72); and what the
rest of a granule that is committed in part holds (log 12). -/
def Obligations.StreamSidesComplete : Prop :=
  (∀ (n : SReg) (s s1 s2 : State) (r : StreamReg) (h : Option Handle) (x : W64) (ks rs : List Nat), r = s.withStartAddrs n →
    r.fetches = true → s.sideRuns n = true → h = (if r.kind = 2 then s.r.h[r.handleNo] else none) →
    (r.kind = 2 → ∃ v, h = some v ∧ (v.type = 0 ∨ v.type = 3) ∧ v.base.toNat ≤ x.toNat ∧
      x.toNat + r.esize ≤ v.base.toNat + v.len.toNat) →
    (∀ k, r.elements h r.kind = some k → r.cursor.toNat < k) → r.elemAddr h r.kind r.cursor.toNat = .ok (some x) →
    claimNext s n r.esize = some s1 → elemCheck s1 x r.esize = .ok () → sideRead s1 x r.esize = .ok (ks, s2) →
    rs = r.byteKeys s.entry r.tail.1 (r.tail.2 + r.landed) r.esize →
    ∃ t, exec (.streamFetch n) s = .next t ∧ (t.stream n).cursor = r.cursor + 1 ∧
      (t.stream n).landed = r.landed + r.esize ∧ (t.stream n).committed = r.committed ∧
      (∀ k, t.mem.byte k = (s1.mem.pokes (rs.zip (s2.readKeys ks))).byte k) ∧ s1.mem.keptBut t.mem rs ∧ s.ctxsKept t) ∧
  (∀ (n : SReg) (s : State) (r : StreamReg) (k : Nat), r = s.stream n → k = s.committable n → 1 ≤ r.kind → r.kind ≤ 3 →
    (0 < k ∨ (r.exhausted = true ∧ r.ended = false)) →
    ∃ t, exec (.granuleLand n) s = .next t ∧ (t.stream n).landed = r.landed - k ∧
      (t.stream n).committed = (if k = 0 then r.committed else (r.commitBytes k).committed) ∧
      (t.stream n).ended = (r.ended || (r.exhausted && decide (r.landed ≤ k))) ∧
      (∀ a, t.mem.byte a = s.mem.byte a) ∧ s.ctxsKept t) ∧
  (∀ (n m : SReg) (j : Fin 4) (s s1 s2 : State) (r x : StreamReg) (h : Option Handle) (a : W64) (src dst : List Nat)
      (bs : List Byte) (hd : Head), r = s.stream n → s.r.portOf n = (m, j) → x = s.streamStart m → hd = s.headNow (m, j) →
    h = drainHandle s r → r.drains = true → (s.streamStart n).sinkRuns = true →
    (∀ k, r.elements h r.drainWay = some k → r.cursor.toNat < k) → x.esize ≤ availBytes x hd →
    drainAddr (s.withStartAddrs n) h r.cursor.toNat = .ok (some a) → elemCheck s a x.esize = .ok () →
    (∀ v, h = some v → v.base.toNat ≤ a.toNat ∧ a.toNat + x.esize ≤ v.base.toNat + v.len.toNat) →
    src = x.byteKeys s.entry hd.count (hd.pos.toNat * x.esize) x.esize →
    takeBytes s (m, j) x.esize false = .ok (bs, s1) → resolve s1 a x.esize false true = .ok (dst, s2) →
    drainCause s2 src dst = none →
    ∃ u, exec (.streamDrainWrite n) s = .next u.settle ∧ (u.stream n).cursor = r.cursor + 1 ∧
      s.passes u (m, j) x.esize ∧
      (∀ k, u.mem.byte k = (s.mem.write dst (s.mem.gather src)).byte k) ∧ s.mem.keptBut u.mem dst ∧ s.ctxsKept u) ∧
  (∀ (n : SReg) (s : State) (r : StreamReg), r = s.stream n → r.kind = 5 → r.sourceRuns = true → r.ended = false →
    s.sideRuns n = true →
    (∀ k s1, r.count ≠ some r.dec.given → k = r.deliverable → k ≠ 0 → s.claim n (r.claimFor k) = some s1 →
      ∃ u, exec (.decompress n) s = .next u.settle ∧ (u.stream n).dec.given = r.dec.given + k / r.esize ∧
        (u.stream n).dec.output = r.dec.output.drop k ∧ (u.stream n).dec.input = r.dec.input ∧
        (∀ a, u.mem.byte a = (s1.mem.pokes ((r.byteKeys s.entry r.tail.1 r.tail.2 (r.dec.output.take k).length).zip
          (r.dec.output.take k))).byte a) ∧ s.ctxsKept u) ∧
    (∀ p i out m, r.count ≠ some r.dec.given → r.deliverable = 0 → inputHead s n = .ok p →
      i = inputSeen s n p → r.expand i.last i.bytes = .out out m →
      ∃ u, exec (.decompress n) s = .next u.settle ∧ (u.stream n).dec.output = r.dec.output ++ out ∧
        (u.stream n).dec.given = r.dec.given ∧ (∀ a, u.mem.byte a = s.mem.byte a) ∧ s.ctxsKept u) ∧
    (r.count = some r.dec.given →
      ∃ u, exec (.decompress n) s = .next u.settle ∧ (u.stream n).ended = true ∧ u.mem = s.mem ∧ s.ctxsKept u)) ∧
  (∀ (n m : SReg) (j : Fin 4) (s s1 : State) (r x : StreamReg) (hd : Head) (c : Residency) (k : Nat) (last : Bool)
      (keys : List Nat),
    r = s.stream n → s.r.portOf n = (m, j) → x = s.streamStart m → hd = s.headNow (m, j) → r.sink = 5 →
    r.sinkRuns = true → (s.streamStart n).sinkRuns = true → r.multicast = false → s.peer r.peerCore = some c → takesFrom c r.peerSt s.r.bind.lcore n = true →
    k = sendBytes x hd ((c.st[r.peerSt]).code == 6) → 0 < k → last = (x.ended && decide (availBytes x hd = k)) →
    keys = x.byteKeys s.entry hd.count (hd.pos.toNat * x.esize) k →
    (granulesOf keys).any s.mem.isBad = false →
    remotePut s c.bind.e r.peerSt (s.mem.gather keys)
      (if hd.pos = 0 then (List.range (k / 64)).map fun i => s.mem.chkOf (keys.getD (64 * i) 0 / 64) else []) last =
        some s1 →
    ∃ t, exec (.remoteGranuleSend n) s = .next t ∧
      s1.passes t (m, j) k ∧ (t.stream n).endSent = last ∧ t.others = s1.others ∧
      (∀ a, t.mem.byte a = s1.mem.byte a)) ∧
  (∀ (n m : SReg) (j : Fin 4) (s s1 : State) (r x : StreamReg) (hd : Head) (g : Group) (cs : List Nat) (k : Nat) (last : Bool)
      (keys : List Nat),
    r = s.stream n → s.r.portOf n = (m, j) → x = s.streamStart m → hd = s.headNow (m, j) → r.sink = 5 →
    r.sinkRuns = true → (s.streamStart n).sinkRuns = true → r.multicast = true → s.group r.group = some g →
    cs = (g.members.map fun y => y.core) →
    k = sendBytes x hd (cs.any fun c => (s.peer c).any fun y => (y.st[r.peerSt]).code == 6) → 0 < k →
    last = (x.ended && decide (availBytes x hd = k)) → keys = x.byteKeys s.entry hd.count (hd.pos.toNat * x.esize) k →
    (granulesOf keys).any s.mem.isBad = false →
    remoteAll s n r.peerSt (s.mem.gather keys)
      (if hd.pos = 0 then (List.range (k / 64)).map fun i => s.mem.chkOf (keys.getD (64 * i) 0 / 64) else []) last cs =
        some s1 →
    ∃ u, s1.passes u (m, j) k ∧ (u.stream n).endSent = last ∧ u.others = s1.others ∧
      (∀ a, u.mem.byte a = s1.mem.byte a) ∧
      exec (.remoteGranuleSend n) s = .next ((cs.foldl (fun t c => t.barrierBytes r.group c k) u).barrierCheck r.group)) ∧
  (∀ (s : State) (n k : SReg) (bs : List Byte) (ks : List Check) (last : Bool) (c : Nat) (cs : List Nat),
    remoteAll s n k bs ks last [] = some s ∧
    (∀ y t, s.peer c = some y → takesFrom y k s.r.bind.lcore n = true → remotePut s y.bind.e k bs ks last = some t →
      remoteAll s n k bs ks last (c :: cs) = remoteAll t n k bs ks last cs) ∧
    ((∀ y, s.peer c = some y → takesFrom y k s.r.bind.lcore n = false ∨ remotePut s y.bind.e k bs ks last = none) →
      remoteAll s n k bs ks last (c :: cs) = none)) ∧
  (∀ (s t : State) (e : Nat) (k : SReg) (bs : List Byte) (ks : List Check) (last : Bool) (r : StreamReg), t = s.focusOn e →
    r = t.stream k →
    (t.claim k (r.claimFor bs.length) = none → remotePut s e k bs ks last = none) ∧
    ∀ t1, r.code ≠ 6 → bs ≠ [] → t.claim k (r.claimFor bs.length) = some t1 →
      ∃ u : State, remotePut s e k bs ks last = some (u.focusOn s.entry) ∧
        (u.stream k).committed = ((t1.stream k).commitBytes bs.length).committed ∧
        (u.stream k).ended = ((t1.stream k).ended || last) ∧
        ∀ a, u.mem.byte a =
          (t1.mem.pokes (((t1.stream k).byteKeys t1.entry (t1.stream k).tail.1 (t1.stream k).tail.2 bs.length).zip bs)).byte a) ∧
  (∀ (s : State) (g c k : Nat) (x : Group), s.group g = some x →
    (s.barrierBytes g c k).group g = some { x with members := x.members.map fun y =>
      if y.core = c then { y with recv := y.recv + BitVec.ofNat 64 k } else y }) ∧
  (∀ (r : StreamReg) (w n : Nat) (o : Nat → Nat) (ended : Bool) (bs : List Byte), r.srcBits 3 0 = 0 → r.count = none →
    w = (if r.srcBits 4 4 = 1 then 4 else 8) → n = 128 / w → o 0 = 0 →
    (∀ j, o (j + 1) = o j + segmentSize w (bs.drop (o j))) → o n ≤ bs.length →
    ((∀ j, j < n → segmentSound (bs.drop (o j)) = true) → ∃ out, r.expand ended bs = .out out (o n) ∧ out.length = 1024 ∧
      ∀ j i, j < n → i < 64 → containerAt w out (64 * j + i) = segmentValue w (bs.drop (o j)) i) ∧
    ((∃ j, j < n ∧ segmentSound (bs.drop (o j)) = false) → r.expand ended bs = .fail 0x54)) ∧
  (∀ (r : StreamReg) (ended : Bool) (bs : List Byte), r.srcBits 3 0 = 1 → r.count = none → 2064 ≤ bs.length →
    ∃ out, r.expand ended bs = .out out 2064 ∧ out.length = 4096 ∧
      ∀ j, j < 4096 → byteAt out j =
        byteAt bs (if j % 2 = 0 then (byteAt bs (16 + j / 2)).toNat % 16 else (byteAt bs (16 + j / 2)).toNat / 16)) ∧
  (∀ (r : StreamReg) (n w k x : Nat) (ended : Bool) (bs : List Byte), r.srcBits 3 0 = 2 → r.count = none →
    n = (match r.code with | 0 => 8 | 1 => 16 | 7 => 10 | _ => 12) → w = (byteAt bs 0).toNat % 16 →
    k = (4 + n + 63 * w + 7) / 8 → k ≤ bs.length → x = leNat (bs.take k) →
    ∃ v : Nat → Nat, v 0 = x / 16 % 2 ^ n ∧
      (∀ i, i < 63 → (v (i + 1) : Int) = ((v i : Int) + (BitVec.ofNat w (x / 2 ^ (4 + n + i * w))).toInt) % 2 ^ n) ∧
      r.expand ended bs = .out ((List.range 64).flatMap fun i => leBytes (if n = 8 then 1 else 2) (v i)) k) ∧
  (∀ (s : State) (x : W64) (ws : List W64), s.r.walks = x :: ws →
    walkWaits s.mem s.pkg (coreOf s.entry) s.r.bind.part x true false = false →
    ∃ t, exec .pageWalkComplete s = .next t ∧
      t = { s.updR fun r => { r with walks := ws } with pkg := { s.pkg with tlb := t.pkg.tlb } })

/-- R271, R272, R274, R276, R277, R281: engine commands and transfer-record chains. A command that has acquired moves its
rows and is written; one row in one piece arrives at its destination and nowhere else; a command ends with its releases and
its record; a chain reads a record, and finishes it: its status, the release of its sync word and its event. -/
def Obligations.EngineEventsComplete : Prop :=
  (∀ (id : Nat) (s s1 s2 : State) (c c2 : Cmd),
    (s.r.cmds.find? fun c => c.id == id && c.status == .waiting) = some c → c.acquired s = .ok (true, s1) →
    c.run s1 = (s2, c2, none) →
    ∃ t, exec (.engineCommandStart id) s = .next t ∧ t.mem = s2.mem ∧
      t.r.cmds = (s2.r.cmds.map fun x => if x.id = id then { c2 with status := .written } else x) ∧
      t.r.follow = (if c.tag = 0 then s2.r.follow
        else s2.r.follow.set (Fin.ofNat 128 c.tag) (min 255 (s2.r.follow[Fin.ofNat 128 c.tag] + 1)))) ∧
  (∀ (id : Nat) (s s1 s2 : State) (c : Cmd) (a b : W64) (n : Nat) (src dst : List Nat),
    (s.r.cmds.find? fun c => c.id == id && c.status == .waiting) = some c → c.kind = .copy → c.group = none →
    blkFlag c.fields 0 = false → blkRows c.fields = c.row + 1 → c.off = 0 → c.rowSource 0 = .ok a → c.rowTarget 0 = .ok b →
    n = blkRowBytes c.fields → 0 < n → pieceLen a b n = n → resolve s a n true false = .ok (src, s1) →
    resolve s1 b n false true = .ok (dst, s2) → pieceCause (peerCause c.kind c.fields) s2 src dst = none →
    (∀ k ∈ dst, storeOf k ≠ .peer) →
    ∃ t, exec (.engineCommandStart id) s = .next t ∧
      (∀ k, t.mem.byte k = (s.mem.write dst (s2.readKeys src)).byte k) ∧ s.mem.keptBut t.mem dst ∧
      (∃ x ∈ t.r.cmds, x.id = id ∧ x.status = .written ∧ x.row = c.row + 1 ∧ x.bytes = c.bytes + BitVec.ofNat 64 n) ∧
      s.ctxsKept t) ∧
  (∀ (id : Nat) (s s1 : State) (c : Cmd), (s.r.cmds.find? fun c => c.id == id) = some c → c.stream = none →
    (c.status = .written → c.release s = .ok s1 →
      ∃ u : State, exec (.engineCommandFinish id) s = .next u.settle ∧ u.mem = s1.mem ∧
        u.r.cmds = s1.r.cmds.filter (fun x => x.id != id) ∧ u.r.follow = s.r.follow) ∧
    (∀ k, c.status = .cancelled k →
      ∃ u : State, exec (.engineCommandFinish id) s = .next u.settle ∧ u.mem = s.mem ∧ u.r.follow = s.r.follow ∧
        u.r.cmds = s.r.cmds.filter (fun x => x.id != id))) ∧
  (∀ (ch : Fin 8) (s s1 : State) (ks : List Nat) (p : W64) (f : List Byte), (s.r.chains[ch]).runs true = true →
    (s.r.chains[ch]).stamped = false →
    p = (s.r.chains[ch]).ptr → resolve s p 64 true false = .ok (ks, s1) → (∀ k ∈ ks, storeOf k ≠ .peer) →
    (granulesOf ks).any s.mem.isBad = false → f = s.mem.gather ks →
    (bit (byteAt f 28) 0 = false →
      ∃ u : State, exec (.chainRecordFetch ch) s = .next u.settle.move ∧ u.mem = s.mem ∧
        u.r.chains = s.r.chains.set ch ⟨p, false, [], none, 0, false⟩) ∧
    (∀ s2, bit (byteAt f 28) 0 = true → p.toNat % 64 = 0 → (∀ k ∈ ks, storeOf k ≠ .chip) →
      recordOk s1 f = .ok (true, s2) →
      ∃ t, exec (.chainRecordFetch ch) s = .next t ∧ t.mem = s.mem ∧
        t.r.chains = s.r.chains.set ch ⟨p, true, f, none, 0, false⟩)) ∧
  (∀ (ch : Fin 8) (s s1 s2 u v w : State) (c : Chain) (k n : Nat) (o : W64), c = s.r.chains[ch] → c.runs false = true →
    c.offset ≤ (le32 c.record 24).toNat → n = (le32 c.record 24).toNat - c.offset → o = BitVec.ofNat 64 c.offset →
    copyRun (some 0x44) none n s (le64 c.record 8 + o) (le64 c.record 16 + o) n = (s1, k, none) →
    s2 = (s1.updR fun r => { r with chains := r.chains.set ch { r.chains[ch] with offset := (r.chains[ch]).offset + k } }).moveIf (k ≠ 0) →
    (c.stamped = false → writeStatus s2 c.ptr [byteAt c.record 28 &&& 0xFE, 0, 0, 0] = .ok u) → (c.stamped = true → u = s2) →
    (bit (byteAt c.record 28) 1 = false → v = u) →
    (bit (byteAt c.record 28) 1 = true →
      chainRelease (u.updR fun r => { r with chains := r.chains.set ch { r.chains[ch] with stamped := true } })
        (le64 c.record 32) = .ok v) →
    w = (if bit (byteAt c.record 28) 2 = true then v.event 7 3 c.ptr else v) →
    ∃ t : State, exec (.chainRecordDone ch) s = .next t.settle.move ∧ t.mem = w.mem ∧ t.pkg = w.pkg ∧
      t.r.chains = w.r.chains.set ch ⟨le64 c.record 0, le64 c.record 0 != 0, [], none, 0, false⟩)

/-- R90, R187, R303, R327, R336, R342, R347, R348, R352, R356, R358 to R364, R371, R375, R461: the command queue, the units
behind it, Gauze, and the slots in which E issues nothing. The core cycle from which the array is free again, and that in
which the next operation of Gauze is due, are the model's choice (log 1). -/
def Obligations.QueueEventsComplete : Prop :=
  (∀ s : State,
    (s.r.ep.status = .running → s.r.ep.occupied ≠ 0 →
      ∃ t, exec .resultDelivery s = .next t ∧ t.r.ep.occupied = s.r.ep.occupied - 1 ∧ t.ePlace = s.ePlace ∧
        t.r.ep.einst = s.r.ep.einst + 1 ∧
        t.r.ep.inflight = (s.r.ep.inflight.map fun x => { x with left := x.left - 1 }).filter fun x => x.left ≠ 0) ∧
    (s.r.ep.status = .halted → s.r.ep.inflight ≠ [] →
      ∃ u : State, exec .resultDelivery s = .next u.settle ∧ u = s.tickE.move)) ∧
  (∀ (s : State) (q : QEntry), nextStart s.r = some q →
    (∀ md, q.op = .rnd md → ∃ t, exec .commandStart s = .next t ∧ t.r.mx.mode = md ∧ t.r.dm = s.r.dm ∧ t.mem = s.mem ∧
      t.r.mx.queue = s.r.mx.queue.map fun e => if e.id = q.id then { e with started := true, ran := true } else e) ∧
    (∀ hi v, q.op = .lfsr hi v → ∃ t, exec .commandStart s = .next t ∧ t.mem = s.mem ∧
      t.r.mx.lfsr = if hi = true then s.r.mx.lfsr else if v = 0 then 1 else v) ∧
    (∀ c, q.op = .jcfg c → ∃ t, exec .commandStart s = .next t ∧ t.r.dm.cfg = some c ∧ t.r.dm.store = [] ∧
      t.r.dm.spilled = 0 ∧ t.r.dm.drainq = s.r.dm.drainq ∧ t.mem = s.mem) ∧
    (q.op = .jclear → ∃ t, exec .commandStart s = .next t ∧ t.r.dm.cfg = s.r.dm.cfg ∧ t.r.dm.store = [] ∧
      t.r.dm.spilled = 0 ∧ t.mem = s.mem) ∧
    (∀ w st o e ty ks nb f fs, q.op = .wload w st o e ty ks nb → s.r.fq = f :: fs → s.r.start.fq ≠ 0 →
      ∃ t, exec .commandStart s = .next t ∧ t.r.fq = fs ∧ (t.r.mx.wdesc[w]).valid = false ∧ t.mem = s.mem ∧
        t.r.mx.queue = s.r.mx.queue.map fun e => if e.id = q.id then { e with started := true, word := f } else e) ∧
    (∀ x f fs, q.tile = some x → x.tag = 0 → x.mt ≠ 0 → arrayPrefers s = true → s.r.fq = f :: fs → s.r.start.fq ≠ 0 →
      tileCause s x f = none → aSizeOk s x.st = true →
      ∃ t, exec .commandStart s = .next t ∧ t.r.fq = fs ∧ t.mem = s.mem ∧
        t.r.mx.queue = s.r.mx.queue.map fun e => if e.id = q.id then { e with started := true, word := f } else e)) ∧
  (∀ (s s1 s2 s3 : State) (q : QEntry) (x : TileCmd) (c : JCfg) (a b : List Byte) (y : Target) (p : Nat)
      (vs : List W32) (l : W32), tileReady s = true → arrayServes s = (true, s1) →
    runningQ s1 (fun q => q.tile.isSome) = some q → q.tile = some x → s1.r.dm.cfg = some c → q.place ≠ 1 →
    nextA s1 q x = .ok (a, s2) → fetchPanel s2 (s1.r.mx.wdesc[x.w]) q.ks q.nb = .ok b → stepTarget s2 q x c = .ok (y, s3) →
    y.place = some p → (stepIn s3 x q c a b).run (y.read s3 c) 0 s3.r.mx.lfsr = (vs, l) →
    ∃ t, exec .matrixKStep s = .next t ∧ t.r.dm = { s3.r.dm with store := storeWrite c s3.r.dm.store p y.key vs } ∧
      t.r.mx.lfsr = l ∧ t.mem = s3.mem ∧ t.r.mx.freeAt = s.now + (if (s.r.mx.wdesc[x.w]).nb ≤ 1 then 2 else 1) ∧
      (x.mt ≠ 0 → (stepIn s3 x q c a b).md ≠ .sr → l = s3.r.mx.lfsr ∧ ∀ k, k < (y.read s3 c).length →
        vs[k]? = some (c.accRound (stepIn s3 x q c a b).md l
          ((stepIn s3 x q c a b).sum (k / 8) (k % 8) (c.accVal ((y.read s3 c).getD k 0)))))) ∧
  (∀ (s s1 : State) (q : QEntry) (n base sure es want k : Nat) (st : SReg) (bs : List Byte),
    runningQ s QEntry.isLoad = some q → copyLength s q = .ok (some n) → q.done < n → copyPlace s q = (base, st, sure) →
    es = (s.streamStart (s.r.portOf st).1).esize → want = min (max 64 es) (alignUp (n - q.done) es) →
    k = min want (n - q.done) → unitTake s st want false = .ok (bs, s1) →
    ∃ t, exec .queueStreamCopy s = .next t ∧ t.mem = s1.mem.fill (base + q.done) (bs.take k) ∧
      s1.mem.keptBut t.mem (keysFrom (base + q.done) (bs.take k).length) ∧
      t.r.mx.queue = s.r.mx.queue.map fun e =>
        if e.id = q.id then { e with done := e.done + k, ran := decide (n ≤ e.done + k) } else e) ∧
  (∀ (s s1 : State) (q : QEntry) (c : JCfg) (st : SReg) (n key : Nat) (bs : List Byte) (vals : List W32),
    runningQ s QEntry.isAcc = some q → q.op = .jacc st (some n) → q.done < n → s.r.dm.cfg = some c →
    unitTake s st c.itemBytes false = .ok (bs, s1) → itemOf c bs = .ok (key, vals) →
    (∀ p, locate c s.r.bind.jsh s.r.dm.store key = .ok (.hit p) →
      ∃ t, exec .damaskAccumulate s = .next t ∧ t.mem = s1.mem ∧
        t.r.dm = { s.r.dm with
          store := storeWrite c s.r.dm.store p key (List.zipWith c.addTo (storeRead c s.r.dm.store p) vals) }) ∧
    (∀ p, locate c s.r.bind.jsh s.r.dm.store key = .ok (.fresh p) →
      ∃ t, exec .damaskAccumulate s = .next t ∧ t.mem = s1.mem ∧
        t.r.dm = { s.r.dm with store := storeWrite c s.r.dm.store p key vals })) ∧
  (∀ (s : State) (q : QEntry) (c : JCfg) (e : JEntry), runningQ s QEntry.isDrain = some q → s.r.dm.cfg = some c →
    q.out = none → drainNext s q c = some e →
    (∀ x o n, q.op = .jdraino x o n → scratchHolds s q o n = true ∧
      s.mem.readCause (granulesOf (keysFrom (spadKey s.entry o) n)) = none) → s.r.dm.drainq.length + (c.record e.key e.vals).length ≤ 1024 →
    s.r.start.drainq + (c.record e.key e.vals).length ≤ 1024 →
    ∃ t, exec .damaskDrainEntry s = .next t ∧ t.mem = s.mem ∧
      t.r.dm = { s.r.dm with
        drainq := s.r.dm.drainq ++ c.record e.key e.vals, store := s.r.dm.store.filter fun x => x.place != e.place }) ∧
  (∀ (s : State) (q : QEntry), (s.r.mx.queue.find? fun q => q.ran && q.fault.isNone) = some q →
    ∃ u : State, exec .commandFinish s = .next u.settle ∧ u.r.mx.queue = s.r.mx.queue.filter (fun x => x.id != q.id) ∧
      u.mem = s.mem ∧ u.r.dm = s.r.dm ∧
      ∀ w st o e ty ks nb, q.op = .wload w st o e ty ks nb →
        u.r.mx.wdesc[w] = ⟨true, true, o, if e = 1 then s.dirEntry o (ks * nb) else weightBytes e ks nb, e, ty, q.word, ks, nb⟩) ∧
  ∀ (s : State) (g : GEntry) (gs : List GEntry) (b : GBlock), s.memOk → s.r.gz.ops = g :: gs → g.op.isReuse = false →
    g.fault = none → g.due ≠ 0 → g.due ≤ s.now → g.op.target s.r.gz = some b →
    s.mem.readCause (g.op.reads b s.entry) = none →
    ∃ t, exec .gauzeOpComplete s = .next t ∧ t.r.gz.blocks = s.r.gz.blocks.set g.op.blk (some (g.op.apply b s.entry s.mem).2) ∧
      t.r.gz.ops = startOldest s.r.bind.banks s.now gs ∧ t.mem = (g.op.apply b s.entry s.mem).1 ∧
      (∀ k x s0 s1 s2 s3, g.op = .sig k x s0 s1 s2 s3 → x < b.tiles → b.offset % 64 = 0 →
        b.mapBit t.mem s.entry x = skips b (readRec s.mem b s.entry x) s0 s1 s2 s3 ∧ b.decidedAt t.mem s.entry x = true)

/-- R8, R48 to R51, R246, R396, R399, R418, R419, R425, R434, R435, R436: the frame counter, frames and releases, pins,
completion and fault records, trace samples and the watchdog. The model's choices: 32 core cycles in a tick before the clock
is set (log 10); that records are merged into granules that are not verified (log 33); samples and time stamps at multiples of
their periods (log 54), by a clock that stands while the partition is frozen (log 98); what moves the watchdog (log 55), and
when it watches (log 94); and the token of a fault record (log 20). -/
def Obligations.TimeAndRecordsComplete : Prop :=
  (∀ s : State, (if s.pkg.boot.clock = 1200 then 12 else 32) ≤ s.subtick →
    exec .frameTick s = .next { s with tick := s.tick + 1, subtick := 0 }) ∧
  (∀ (s : State) (l : Launch),
    (s.launches.find? fun x => x.id.toNat == l.id.toNat && x.frameMode && !x.finished) = some l →
    (l.frames.fixed = true → l.frames.begun = false → l.frames.base ≤ s.tick.toNat →
      exec (.frameStart l.id.toNat) s = .next { s with launches := s.launches.map fun x =>
        if x.id == l.id then { x with frames := { x.frames with begun := true } } else x }) ∧
    (∀ a, l.frames.fixed = true → l.frames.begun = true → (∀ b ∈ l.frames.blocks, l.frames.num < b.frame) →
      a = max (l.frames.base + l.frames.period) (l.frames.last + 1) → a ≤ s.tick.toNat →
      exec (.frameStart l.id.toNat) s = .next { s with launches := s.launches.map fun x =>
        if x.id == l.id then { x with frames := { x.frames with num := x.frames.num + 1, base := a } } else x }) ∧
    (∀ (b : BitVec 10) (x : Block), l.frames.blocks[b.toNat]? = some x → l.frames.begun = true →
      x.frame = l.frames.num → x.released = false → l.frames.base + x.release ≤ s.tick.toNat →
      ∃ t, exec (.blockRelease l.id.toNat b) s = .next t ∧ t = { s with launches := t.launches } ∧
        (t.launches.find? fun x => x.id.toNat == l.id.toNat && x.frameMode && !x.finished) =
          some { l with frames := { l.frames with
            blocks := l.frames.blocks.set b.toNat { x with released := true } } })) ∧
  (∀ s : State, ∃ t, exec .pinChange s = .next t ∧
    (∀ j, j < 8 → t.pkg.pinDriven.getLsbD j =
      ((s.pkg.pinQueue.any fun c => decide (c.tick.toNat ≤ s.tick.toNat) && c.set && c.pins.getLsbD j) ||
        (s.pkg.pinDriven.getLsbD j &&
          !(s.pkg.pinQueue.any fun c => decide (c.tick.toNat ≤ s.tick.toNat) && !c.set && c.pins.getLsbD j)))) ∧
    t.pkg.pinQueue = (s.pkg.pinQueue.filter fun c => !decide (c.tick.toNat ≤ s.tick.toNat)) ∧
    t = { s with pkg := { s.pkg with pinDriven := t.pkg.pinDriven, pinQueue := t.pkg.pinQueue } }) ∧
  (∀ (s : State) (p : Fin 8) (x : Partition), x = s.pkg.parts[p] →
    (∀ c cs ks, x.completions = c :: cs → c.length = 32 → (x.cr.tail - x.cr.head).toNat < x.ring x.cr.base 32 →
      regionWaits s (ringKey x.cr.base 32 x.cr.tail.toNat) = false → ks = keysFrom (ringKey x.cr.base 32 x.cr.tail.toNat) 32 →
      ∃ t, exec (.completionRecordWrite p) s = .next t ∧
        t.mem = s.mem.write ks (c.take 8 ++ leBytes 8 s.tick.toNat ++ c.drop 16) ∧ s.mem.keptBut t.mem ks ∧
        t = { s.setPart p { x with completions := cs, cr := { x.cr with tail := x.cr.tail + 1 } } with mem := t.mem }) ∧
    (∀ r n k, s.memOk → x.faults.find? (fun r => r.seq.isNone) = some r → x.record.isEmpty = false → regionWaits s x.fq = false → n = s.mem.word64 x.fq →
      (n - s.mem.word64 (x.fq + 8)).toNat < 256 → k = x.fq + 4096 + 64 * (n.toNat % 256) →
      ∃ (t : State) (y : Partition), exec (.faultRecordPost p) s = .next t ∧ t.mem.bytes k 64 = faultBytes p r n ∧ t.mem.word64 x.fq = n + 1 ∧
        s.mem.keptBut t.mem (keysFrom k 64 ++ keysFrom x.fq 8) ∧ { r with seq := some n } ∈ y.faults ∧
        y.faults.length = x.faults.length ∧ t = { s.setPart p { x with faults := y.faults } with
          mem := t.mem, launches := s.launches.map fun l => if l.id = r.launch then { l with faults := l.faults + 1 } else l })) ∧
  (∀ (s : State) (c : Fin 3) (base : Nat), s.r.traced = true → s.r.watch.trace.lost = 0 →
    base = s.r.watch.trace.base.toNat →
    (s.mem.word64 base - s.mem.word64 (base + 8)).toNat < 2 ^ s.r.watch.trace.k - 4 →
    (s.tracing 0 c.val = true → bits s.r.watch.trace.control 31 16 ≠ 0 →
      s.now % bits s.r.watch.trace.control 31 16 = 0 →
      ∃ t, exec (.tracePcSample c) s = .next t ∧
        t = traceAppend s (traceRecord 1 c.val 0 (pcAndCycles s c).1 (pcAndCycles s c).2)) ∧
    ((∀ k : Fin 3, s.tracing 2 k.val = decide (k = c)) → bits s.r.watch.trace.control 63 32 ≠ 0 → s.subtick = 0 →
      s.tick.toNat % bits s.r.watch.trace.control 63 32 = 0 →
      ∃ t, exec .traceTimeStamp s = .next t ∧
        t = traceAppend s (traceRecord 3 c.val 0 ((pcAndCycles s c).2.toNat % 2 ^ 32) s.tick))) ∧
  (∀ (s : State) (n limit : Nat), n = (if s.subtick = 0 then s.r.watch.idle + 1 else s.r.watch.idle) →
    limit = (s.pkg.fw.wdog[(Fin.ofNat 2 (dieOf s.entry))]).toNat →
    (s.r.watch.moved = true → exec .watchdogExpire s =
      .next (s.updR fun r => { r with watch := { r.watch with moved := false, idle := 0, armed := true } })) ∧
    (s.r.watch.moved = false → s.r.watched = false → exec .watchdogExpire s =
      .next (s.updR fun r => { r with watch := { r.watch with idle := 0 } })) ∧
    (s.r.watch.moved = false → s.r.watched = true → s.r.watch.armed = false ∨ limit = 0 ∨ n < limit →
      exec .watchdogExpire s = .next (s.updR fun r => { r with watch := { r.watch with idle := n } })) ∧
    (s.r.watch.moved = false → s.r.watched = true → s.r.watch.armed = true → limit ≠ 0 → limit ≤ n →
      ∃ t x, exec .watchdogExpire s = .next t ∧ t.r.watch = { s.r.watch with idle := n, armed := false } ∧
        x ∈ t.part.faults ∧ x.cause = 0x7A ∧ x.kind = 3 ∧ x.unit = 0xFF ∧ x.entry = s.entry ∧ x.tick = s.tick ∧
        s.ctxsKept t ∧ t.mem = s.mem))

/-- R34 to R36, R39, R397 to R404, R429 to R433: a launch descriptor is taken or refused, its residencies are bound and
loaded and started, unbound, saved, and restored and run. The model's choices: places, id and area come with the event
(log 24), the layout of the area (log 19), the shares that the firmware writes into a bind record (log 51), the order in which
the streams of a launch record are opened (log 50), the fields inside the parts of a save area and what is kept beside it
(log 18), the checks of a restore record (log 52), and that an image must lie in the privileged range (log 106). -/
def Obligations.LifeOfLaunchesCompletes : Prop :=
  (∀ (p : Fin 8) (q : Fin 4) (place : List (Fin 416)) (id : W32) (area : W64) (aff : List (Fin 192)) (s : State)
      (lq : LaunchQueue) (d : List Byte), lq = (s.pkg.parts[p]).lq[q] → s.inService = true →
    (s.pkg.parts[p]).state = .active → (s.pkg.parts[p]).ring lq.base 128 ≠ 0 → lq.head ≠ lq.tail →
    regionWaits s (ringKey lq.base 128 lq.head.toNat) = false →
    d = s.mem.bytes (ringKey lq.base 128 lq.head.toNat) 128 →
    (∀ status, refusal s p d = some status →
      ∃ t x, exec (.launchDescriptorTake p q place id area aff) s = .next t ∧
        ((t.pkg.parts[p]).lq[q]) = { lq with head := lq.head + 1 } ∧
        (t.pkg.parts[p]).completions = (s.pkg.parts[p]).completions ++ [x] ∧ x.take 5 = leBytes 4 (le32 d 0).toNat ++
          leBytes 1 status ∧ t.launches = s.launches ∧ t.mem = s.mem) ∧
    (∀ f pred n, refusal s p d = none → readVirtual s p (le64 d 24).toNat (le64 d 16) = some f →
      predecessor s p (byteAt d 5).toNat (le32 d 8) = some (true, pred) → n = recCores (imgSection f 4) →
      placeOk s p d f n place area = true → (s.launches.filter fun l => !l.finished).length < 32 →
      (∀ l ∈ s.launches, l.id ≠ id) →
      ∃ t l, exec (.launchDescriptorTake p q place id area aff) s = .next t ∧ t.launches = s.launches ++ [l] ∧
        l.id = id ∧ l.part = p ∧ l.tag = le32 d 0 ∧ l.n = n ∧ l.finished = false ∧ l.applied = [] ∧
        t.inbox = s.inbox ++ place.map .bind ∧ ((t.pkg.parts[p]).lq[q]) = { lq with head := lq.head + 1 } ∧
        (∀ c e, place[c]? = some e → (t.pkg.slots[e]).record = bindRecord s p d f id area e c) ∧
        s.mem.keptBut t.mem (keysFrom area.toNat (areaBytes f.length)) ∧ t.r = s.r ∧ t.others = s.others)) ∧
  (∀ (e : Fin 416) (s : State) (f : List Byte), f = (s.pkg.slots[e]).record →
    (∀ x, byteAt f 0 = 1 → bindReject s e f false = some x →
      ∃ t, exec (.bind e) s = .next t ∧ (t.pkg.slots[e]).reject = x ∧ t = { s with pkg := { s.pkg with slots := t.pkg.slots } }) ∧
    (byteAt f 0 = 1 → bindReject s e f false = none →
      ∃ t r, exec (.bind e) s = .next t ∧ r ∈ t.all ∧ r = Residency.fresh (bindOf e f) (8 * (byteAt f 13).toNat) ∧
        (t.pkg.slots[e]).state = 1 ∧ (s.r.stage ≠ .free → t.r = s.r) ∧ (∀ x ∈ s.others, x ∈ t.others) ∧ t.mem = s.mem) ∧
    (∀ r, byteAt f 0 = 2 → recordNames e f = true → (s.pkg.slots[e]).state ≠ 4 → s.resAt e.val = some r →
      r.stage = .done ∨ r.stage = .held ∨ (s.pkg.parts[r.bind.part]).state = .destroying →
      ∃ t, exec (.unbind e) s = .next t ∧ (t.pkg.slots[e]).state = 0 ∧ t.mem = s.mem ∧
        (s.entry = e.val → t.r = Residency.absent ∧ t.others = s.others) ∧
        (s.entry ≠ e.val → t.r = s.r ∧ t.others = s.others.filter fun r => r.bind.e != e.val)) ∧
    (byteAt f 0 = 3 → recordNames e f = true → (s.pkg.slots[e]).state = 2 → s.entry = e.val →
      ∃ t, exec (.save e) s = .next t ∧ t.r = { s.r with
          stage := .saving, bind := { s.r.bind with save := le64 f 40 }
          watch := { s.r.watch with saveReq := some s.now } } ∧
        (t.pkg.slots[e]).state = 3 ∧ t = { s with r := t.r, pkg := { s.pkg with slots := t.pkg.slots } }) ∧
    (∀ k, byteAt f 0 = 4 → bindReject s e f true = none → k = (le64 f 40).toNat →
      headerAgrees (s.mem.bytes k 256) f = true → (∀ r ∈ s.all, r.bind.e ≠ e.val) →
      (∀ img n, img = (le64 (s.mem.bytes k 256) 32).toNat → n = (s.mem.word64 (img + 8)).toNat →
        inRanges [(s.pkg.parts[(Fin.ofNat 8 (byteAt f 3).toNat)]).priv] img n = true ∧
        s.mem.readCause (granulesOf (keysFrom img n)) = none ∧ (bindOf e f).fits (s.mem.bytes img n) = true) →
      ∃ t r, exec (.restore e) s = .next t ∧ r ∈ t.all ∧ r.bind.e = e.val ∧ r.bind.launch = le32 f 16 ∧
        r.stage = .held ∧ (t.pkg.slots[e]).state = 1 ∧ r.f.pc = le32 (s.mem.bytes (k + 0x1000) 0x800) 0x100 ∧
        (∀ i : Fin 32, r.f.a[i] = le64 (s.mem.bytes (k + 0x1000) 0x800) (8 * i.val)) ∧
        (∀ i : Fin 32, r.d.a[i] = le64 (s.mem.bytes (k + 0x1800) 0x800) (8 * i.val)) ∧
        ∀ i : Fin 32, r.ep.s[i] = le32 (s.mem.bytes (k + 0x2000) 0x2000) (8 + 4 * i.val))) ∧
  (∀ (s : State) (f : List Byte), imageCopy s = some f →
    (s.r.stage = .loading → imageWaits s = false → codeFits s f = true → alignUp (imgSection f 1).length 64 + (imgSection f 2).length ≤ 65536 →
      (imgSection f 3).length ≤ 131072 →
      ∃ t, exec .overlayLoad s = .next t ∧ t.r.stage = .loaded ∧ t.r.bind.fetchSize = (imgSection f 1).length ∧
        t.r.bind.drainBase = alignUp (imgSection f 1).length 64 ∧ t.r.bind.drainSize = (imgSection f 2).length ∧
        t.r.bind.epSize = (imgSection f 3).length ∧
        (∀ j, j < (imgSection f 1).length → t.mem.byte (apimKey s.entry j) = (imgSection f 1).getD j 0) ∧
        (∀ j, j < (imgSection f 2).length → t.mem.byte (apimKey s.entry (t.r.bind.drainBase + j)) =
          (imgSection f 2).getD j 0) ∧
        (∀ j, j < (imgSection f 3).length → t.mem.byte (epimKey s.entry j) = (imgSection f 3).getD j 0) ∧
        t.r.f = s.r.f ∧ t.r.ep = s.r.ep ∧ t.pkg = s.pkg ∧ t.others = s.others) ∧
    (∀ l s1 s2 s3, mayApply s = true → l = imgSection f 4 → loadHandles l (List.range (recHandles l)) s = .ok s1 →
      openStreams l false (List.range (recStreams l)) s1 = .ok s2 →
      openStreams l true (List.range (recStreams l)) s2 = .ok s3 →
      ∃ t, exec .launchRecordApply s = .next t ∧ t.r.stage = .running ∧ t.r.f.status = .running ∧
        t.r.d.status = .running ∧ t.r.ep.status = .running ∧ t.r.f.pc = le32 l 0 ∧ t.r.d.pc = le32 l 4 ∧
        t.r.ep.pc = le32 l 8 ∧
        (∀ i : Fin 32, t.r.f.a[i] = (if 1 ≤ i.val ∧ i.val ≤ 8 then le64 l (8 + 8 * i.val) else 0) ∧
          t.r.d.a[i] = (if 1 ≤ i.val ∧ i.val ≤ 8 then le64 l (8 + 8 * i.val) else 0) ∧
          t.r.ep.s[i] = if 1 ≤ i.val ∧ i.val ≤ 8 then le32 l (76 + 4 * i.val) else 0) ∧
        t.r.st = s3.r.st ∧ t.r.h = s3.r.h ∧ (t.pkg.slots[(Fin.ofNat 416 s.entry)]).state = 2 ∧ t.mem = s3.mem)) ∧
  (∀ (s : State) (n : Nat) (rs : List Residency), n ≠ 0 → rs.length = n → (∀ r ∈ rs, r.bind.n = n) →
    (∀ id, (s.all.filter fun r => r.stage == .held && r.bind.launch == id) = rs →
      ∃ t, exec (.run id) s = .next t ∧ t.pkg.fw.runStarted = true ∧ t.pkg.fw.runLaunch = id ∧
        (∀ r ∈ rs, (t.pkg.slots[(Fin.ofNat 416 r.bind.e)]).state = 2) ∧
        (rs = [s.r] → ∃ u : State, t = u.settle ∧ u.r = { s.r with stage := .running, bovr := u.r.bovr } ∧ u.mem = s.mem ∧
          ((∀ x ∈ s.launch.groups, ∀ m, x.part s.r.bind.lcore = some m → m.owed = 0) → u.r.bovr = s.r.bovr)))) ∧
  (∀ (s : State) (b : Nat), s.r.stage = .saving → s.r.watch.saveReq = some b →
    (s.r.eAtRest = false → s.r.watch.forced = false → b + s.pkg.fw.saveLimit.toNat ≤ s.now →
      ∃ t x, exec .forcedSave s = .next t ∧ t.r.watch.forced = true ∧ t.r.ep.b = Vector.replicate 16 none ∧
        t.r.ep.pc = s.r.ep.pc ∧ x ∈ t.part.faults ∧ x.cause = 0x78 ∧ x.kind = 4 ∧ x.unit = 2 ∧ x.entry = s.entry ∧
        x.pc = 0 ∧ t.mem = s.mem) ∧
    (s.r.saveReady = true → s.r.f.wake ≤ s.now → s.r.d.wake ≤ s.now → s.entry < 416 →
      rangeWaits s s.r.bind.save.toNat (98304 * 64) = false →
      ∃ t v, exec .saveComplete s = .next t ∧ t.r = Residency.absent ∧ t.others = s.others ∧
        (t.pkg.slots[(Fin.ofNat 416 s.entry)]).state = 0 ∧ t.vault = v :: s.vault ∧ v.res = savedForm s.r ∧
        v.res.f.a = s.r.f.a ∧ v.res.ep.v = s.r.ep.v ∧
        t.mem.bytes s.r.bind.save.toNat 6 = [0x4B, 0x53, 0x56, 0x31, 1, 0] ∧
        t.mem.bytes (s.r.bind.save.toNat + 8) 4 = leBytes 4 s.r.bind.launch.toNat))

/-- R134, R276, R281, R338, R410 to R415, R420 to R423, R425, R426, R434, R435: the actions on fault records, of contexts,
commands, streams and the watchdog (a record that only gives notice leaves the machine as it is), the actions that a record
does not take, shootdowns, trace requests, stops, the freeze, and a host read that is never answered. The model's choices: the
token that names a record (log 20), k in bits [4:0] of the ring word (log 54), which accesses are pins on stale entries
(log 56), that E stands at no group switch after the ETRAP that it is resumed from (log 119), and that the mark that a
cancelled J.MERGE has set stays (log 124). -/
def Obligations.ServiceCompletes : Prop :=
  (∀ (s t : State) (p : Fin 8) (k q : Nat) (f : List Byte) (x : Byte), s.memOk → nextRequest s p = some (k, f) → le64 f 32 = 0 →
    q = (s.pkg.parts[p]).fq → t = answer s p k f x →
    t.mem.byte (k + 1) = x ∧ t.mem.word64 (q + 24) = s.mem.word64 (q + 24) + 1 ∧
      s.mem.keptBut t.mem ((k + 1) :: keysFrom (q + 24) 8) ∧ t = { s with mem := t.mem }) ∧
  (∀ (s : State) (p : Fin 8) (r : FaultRec), s.pendingHere r = true →
    (∀ c, r.kind = 0 → r.item = .ap c → r.cause ≠ 0x60 →
      ∃ u, s.servicedBy p r 1 0 (.resume p) .faultActResume u ∧ u = (s.updCtx c fun _ => u.ctx c).dropRecord p r ∧
        u.ctx c = if 0x70 ≤ r.cause ∧ r.cause ≤ 0x77 then { s.ctx c with
            status := .running
            pc := BitVec.ofNat 32 (loopAdvance ((s.ctx c).pc.toNat + 4) (s.ctx c).loops).1
            loops := (loopAdvance ((s.ctx c).pc.toNat + 4) (s.ctx c).loops).2 }
          else { s.ctx c with status := .running }) ∧
    (∀ c g n j, r.kind = 0 → r.item = .ap c → r.cause = 0x60 →
      decodeABytes (leBytes 4 r.detail.toNat) = .ok (.barWait g n) → s.r.groupSlot n.toNat = some j →
      ∃ u, s.servicedBy p r 1 0 (.resume p) .faultActResume u ∧
        (∀ i : Fin 4, bits u.r.bovr (16 * i.val + 15) (16 * i.val) =
          if i.val = j then 0 else bits s.r.bovr (16 * i.val + 15) (16 * i.val)) ∧
        u = ((s.updCtx c fun x => { x with status := .running }).updR fun x => { x with
          bovr := u.r.bovr, start := { x.start with bovr := u.r.start.bovr } }).dropRecord p r) ∧
    (r.kind = 0 → r.item = .ep → (r.cause < 0x70 ∨ 0x77 < r.cause) →
      ∃ u, s.servicedBy p r 1 0 (.resume p) .faultActResume u ∧
        u = (s.updE fun e => { e with status := .running }).dropRecord p r) ∧
    (r.kind = 0 → r.item = .ep → 0x70 ≤ r.cause → r.cause ≤ 0x77 →
      ∃ u, s.servicedBy p r 1 0 (.resume p) .faultActResume u ∧ u.ePlace = s.ePast 8 ∧
        (u.r.ep.b = s.r.ep.b ∨ u.r.ep.b = Vector.replicate 16 none) ∧ (∀ n, s.plainMask n → u.r.ep.m[n] = s.r.ep.m[n]) ∧
        u = (s.updE fun e => { e with
          status := .running, pc := u.r.ep.pc, loops := u.r.ep.loops, m := u.r.ep.m, b := u.r.ep.b
          lbuf := u.r.ep.lbuf, atSwitch := false }).dropRecord p r) ∧
    (∀ c arg, r.kind = 0 → r.item = .ap c → arg.toNat < (s.r.section c).2 → arg.toNat % 4 = 0 →
      ∃ u, s.servicedBy p r 2 arg (.redirect p) .faultActRedirect u ∧
        u = (s.updCtx c fun x => { x with status := .running, pc := arg.setWidth 32 }).dropRecord p r) ∧
    (∀ id arg, r.kind = 1 → r.item = .engine id →
      ∃ u, s.servicedBy p r 3 arg (.cancel p) .faultActCancel u ∧
        u = (s.updR fun x => { x with
          cmds := x.cmds.map fun c => if c.id = id then { c with status := .cancelled (arg.setWidth 8) } else c
          }).dropRecord p r) ∧
    (∀ id, r.kind = 1 → r.item = .engine id → s.servicedBy p r 1 0 (.resume p) .faultActResume
      ((s.updR fun x => { x with cmds := x.cmds.map fun c =>
        if c.id = id then { c with status := if c.row = blkRows c.fields then .written else .waiting } else c }).dropRecord p r)) ∧
    (∀ ch : Fin 8, r.kind = 1 → r.item = .chain ch → s.servicedBy p r 1 0 (.resume p) .faultActResume
      ((s.updR fun x => { x with chains := x.chains.set ch { x.chains[ch] with faulted := none } }).dropRecord p r)) ∧
    (∀ id, r.kind = 1 → r.item = .queue id → s.servicedBy p r 1 0 (.resume p) .faultActResume
      ((s.updR fun x => { x with mx := { x.mx with
        queue := x.mx.queue.map fun q => if q.id = id then { q with fault := none } else q } }).dropRecord p r)) ∧
    (r.kind = 1 → r.item = .gauze → s.servicedBy p r 1 0 (.resume p) .faultActResume
      ((s.updR fun x => { x with gz := { x.gz with ops := x.gz.ops.map fun o => { o with fault := none } } }).dropRecord p r)) ∧
    (∀ n : SReg, r.kind = 2 → r.item = .stream n → s.servicedBy p r 1 0 (.resume p) .faultActResume
      ((s.updR fun x => { x with st := x.st.set n { x.st[n] with fpend := false } }).dropRecord p r)) ∧
    (r.kind = 3 → r.item ≠ .gone → s.servicedBy p r 1 0 (.resume p) .faultActResume
      ((s.updR fun x => { x with watch := { x.watch with idle := 0, armed := true } }).dropRecord p r)) ∧
    (∀ arg, r.kind = 0 → r.item = .ep → arg.toNat < s.r.bind.epSize → arg.toNat % 8 = 0 →
      s.servicedBy p r 2 arg (.redirect p) .faultActRedirect
        ((s.updE fun e => { e with status := .running, pc := arg.setWidth 32 }).dropRecord p r)) ∧
    (∀ n arg, r.kind = 2 → r.item = .stream n →
      s.servicedBy p r 3 arg (.cancel p) .faultActCancel (s.dropRecord p r)) ∧
    (∀ id arg, r.kind = 1 → r.item = .queue id → s.servicedBy p r 3 arg (.cancel p) .faultActCancel
      (((s.updR fun x => { x with mx := { x.mx with
        queue := x.mx.queue.filter fun q => q.id != id } }).settle.focusOn s.entry).dropRecord p r)) ∧
    (∀ arg, r.kind = 1 → r.item = .gauze → s.servicedBy p r 3 arg (.cancel p) .faultActCancel
      ((s.updR fun x => { x with gz := { x.gz with ops := startOldest s.r.bind.banks s.now (x.gz.ops.drop 1) } }).dropRecord p r)) ∧
    (∀ (ch : Fin 8) arg c f w, r.kind = 1 → r.item = .chain ch → c = s.r.chains[ch] →
      (c.record ≠ [] ∧ f = c.record ∨
        c.record = [] ∧ ∃ ks s1, resolve s c.ptr 64 true false = .ok (ks, s1) ∧ f = s1.mem.gather ks) →
      writeStatus s c.ptr [byteAt f 28 &&& 0xFE, arg.setWidth 8] = .ok w →
      s.servicedBy p r 3 arg (.cancel p) .faultActCancel
        (((w.updR fun x => { x with chains := x.chains.set ch ⟨c.ptr, false, [], none, 0, false⟩ }).settle.focusOn
          s.entry).dropRecord p r)) ∧
    (∀ op arg i j, r.item ≠ .gone →
      (op = 2 ∧ i = .redirect p ∧ j = .faultActRedirect ∧ r.kind ≠ 0 ∧ r.kind ≠ 4 ∨
        op = 3 ∧ i = .cancel p ∧ j = .faultActCancel ∧ (r.kind = 0 ∨ r.kind = 3)) →
      s.answeredBy p r op arg i j 2 s) ∧
    (∀ arg, r.kind = 0 → (∃ c, r.item = .ap c ∧ ((s.r.section c).2 ≤ arg.toNat ∨ arg.toNat % 4 ≠ 0)) ∨
        (r.item = .ep ∧ (s.r.bind.epSize ≤ arg.toNat ∨ arg.toNat % 8 ≠ 0)) →
      s.answeredBy p r 2 arg (.redirect p) .faultActRedirect 2 s)) ∧
  (∀ (s : State) (p : Fin 8) (r : FaultRec), r.kind = 4 → recordPending s p r = true →
    s.servicedBy p r 1 0 (.resume p) .faultActResume s) ∧
  (∀ (s : State) (p : Fin 8) (va len : W64), s.pkg.fw.sdPart = none →
    (len = BitVec.allOnes 64 ∨ len ≠ 0 ∧ va.toNat % 65536 = 0 ∧ len.toNat % 65536 = 0) →
    (va = s.pkg.fw.sdVa → len = s.pkg.fw.sdLen → ∃ t, exec (.sdCmd p) s = .next t ∧ s.shotDown t p va len false) ∧
    (∀ k f, nextRequest s p = some (k, f) → byteAt f 0 = 4 → le64 f 8 = 0 → le64 f 16 = va →
      le64 f 24 = len → ∃ t, exec (.shootdown p) s = .next t ∧ s.shotDown t p va len true)) ∧
  (∀ (s u : State) (p : Fin 8), s.pkg.fw.sdPart = some p → pinsHeld s p = 0 →
    u = { s with pkg := { s.pkg with
      tlb := s.pkg.tlb.filter fun t => !(t.stale && t.part == p), fw := { s.pkg.fw with sdPart := none, sdServes := false } } } →
    (s.pkg.fw.sdServes = false → exec .shootdownComplete s = .next u) ∧
    (∀ k f, s.pkg.fw.sdServes = true → nextRequest s p = some (k, f) →
      exec .shootdownComplete s = .next (answer u p k f 0))) ∧
  (∀ (s : State) (p : Fin 8) (k : Nat) (f : List Byte), nextRequest s p = some (k, f) → byteAt f 0 = 5 →
    s.r.stage ≠ .free → s.r.bind.part = p → s.r.bind.launch = le32 f 8 →
    s.r.bind.lcore = le16 f 12 → traceOk s p (le64 f 16) (le64 f 24) (byteAt f 14) = true →
    exec (.trace p) s = .next (answer (s.updR fun r => { r with watch := { r.watch with trace :=
      ⟨BitVec.ofNat 64 (bits (le64 f 16) 51 12 * 4096), bits (le64 f 16) 4 0, le64 f 24, byteAt f 14, 0⟩ } }) p k f 0)) ∧
  (∀ (s : State) (e : Fin 416), (s.pkg.slots[e]).state = 2 → s.entry = e.val →
    (s.r.f.status ≠ .halted →
      exec (.stop e 0) s = .next (s.updR fun r => { r with f := { r.f with stopReq := true } })) ∧
    (s.r.d.status ≠ .halted →
      exec (.stop e 1) s = .next (s.updR fun r => { r with d := { r.d with stopReq := true } })) ∧
    (s.r.ep.status ≠ .halted →
      exec (.stop e 2) s = .next (s.updR fun r => { r with ep := { r.ep with stopReq := true } }))) ∧
  (∀ (s : State) (mask : BitVec 8),
    exec (.freeze mask) s = .next { s with pkg := { s.pkg with fw := { s.pkg.fw with freeze := mask } } }) ∧
  ∀ (s : State) (e : Fin 416) (c : ApId) (q : MemReq) (d : AReg) (z : Fin 8), s.entry = e.val → s.r.stage ≠ .free →
    (s.ctx c).pending = some q → q.op = .load d z → (∃ k ∈ q.keys, storeOf k = .host) →
    ∃ t x, exec (.hostCompletionTimeout ⟨e, .ap c⟩) s = .next t ∧ (t.ctx c).status = .parked 0x40 ∧
      (t.ctx c).pending = none ∧ (t.ctx c).pc = (s.ctx c).pc ∧ (t.ctx c).a = (s.ctx c).a ∧ x ∈ t.part.faults ∧
      x.cause = 0x40 ∧ x.kind = 0 ∧ x.addr = q.addr ∧ t.mem = s.mem

/-- R386 to R393, R396, R408, R409, R422, R423, R425, R440, R443, R449, R450: the owner, the partition commands, the queues' registers, the region
tables, and the registers without a behaviour of their own. The model's choices: a partition command is done in its own step,
and CREATE and the end of a partition leave the registers of its queues (log 57); how far the head moves when the tail of a
launch queue overruns it (log 53); a scheduling core has no master id, and writes as its die (log 74), whose watchdog limit WDOG
is (log 41); an address that an installation moves to another channel holds a free byte (log 104). -/
def Obligations.PrivilegedRegistersComplete : Prop :=
  (∀ (s : State) (m n : Master), s.responds = true → m ≠ 0 →
    (s.pkg.owner = 0 → exec (.ownerClaim m) s = .next { s with pkg := { s.pkg with owner := m } }) ∧
    (s.pkg.owner ≠ 0 → exec (.ownerClaim m) s = .next s) ∧
    (s.pkg.owner = 1 ∨ s.pkg.owner = 2 → linkedMaster s s.pkg.owner = false →
      exec (.ownerForceClaim 3) s = .next { s with pkg := { s.pkg with owner := 3 } }) ∧
    (s.pkg.owner = m → n ≠ m → n = 0 ∨ linkedMaster s n = true →
      exec (.ownerHandover m n) s = .next { s with pkg := { s.pkg with owner := n } }) ∧
    (s.pkg.owner ≠ m → exec (.ownerHandover m n) s = .next s)) ∧
  (∀ (s : State) (m : Master) (p : Fin 8) (f : List Byte), s.byOwner m = true → f = s.mem.bytes s.pkg.partAddr.toNat 256 →
    (s.memOk → createResult s p f = 0 →
      ∃ t x, exec (.create m p) s = .next t ∧ x = { s.pkg.parts[p] with state := .active, record := f } ∧
        (∀ j, j < 4096 → t.mem.byte (x.fq + j) = 0) ∧ s.mem.keptBut t.mem (keysFrom x.fq 4096) ∧
        { s with mem := t.mem }.onlyPart t p x 0) ∧
    (createResult s p f ≠ 0 →
      exec (.create m p) s = .next { s with pkg := { s.pkg with partResult := createResult s p f } }) ∧
    ((s.pkg.parts[p]).state = .active →
      ∃ t, exec (.destroy m p) s = .next t ∧ (t.pkg.parts[p]).state = .destroying ∧ t.pkg.partResult = 0 ∧
        (∀ x ∈ t.pkg.tlb, x.part ≠ p) ∧ t.mem = s.mem ∧ t.tick = s.tick) ∧
    ((s.pkg.parts[p]).state = .active → partRecordOk s p f = true →
      withoutGrants f = withoutGrants (s.pkg.parts[p]).record →
      (activeParts s p).any (grantsClash { s.pkg.parts[p] with record := f }) = false → grantInUse s p f = false →
      ∃ t, exec (.regrant m p) s = .next t ∧ s.onlyPart t p { s.pkg.parts[p] with record := f } 0)) ∧
  (∀ (s : State) (p : Fin 8), (s.pkg.parts[p]).state = .destroying → (s.pkg.parts[p]).completions = [] →
    exec (.partitionFreed p) s =
      .next ({ s with
        launches := s.launches.filter fun l => l.part != p
        vault := s.vault.filter fun v => v.res.bind.part != p }.setPart p (s.pkg.parts[p]).freed)) ∧
  (∀ (s : State) (m : Master) (p : Fin 8) (q : Fin 4) (v b : W64) (x : Partition), s.byMaster m p = true →
    x = s.pkg.parts[p] → b = v &&& 0x000FFFFFFFFFFF8F →
    exec (.lqBase m p q v) s = .next (s.setPart p { x with lq := x.lq.set q ⟨b, 0, 0⟩ }) ∧
    ((v.setWidth 16 - (x.lq[q]).head).toNat ≤ 2 ^ bits (x.lq[q]).base 3 0 →
      exec (.lqTail m p q v) s = .next (s.setPart p { x with lq := x.lq.set q { x.lq[q] with tail := v.setWidth 16 } })) ∧
    (∀ n d, n = 2 ^ bits (x.lq[q]).base 3 0 → 2 ≤ n → d = (v.setWidth 16 - (x.lq[q]).head).toNat → n < d →
      exec (.lqTail m p q v) s = .next (s.setPart p { x with lq := x.lq.set q { x.lq[q] with
        tail := v.setWidth 16, head := v.setWidth 16 - BitVec.ofNat 16 (d % n) } })) ∧
    exec (.crBase m p v) s = .next (s.setPart p { x with cr := ⟨b, 0, 0⟩ }) ∧
    exec (.crHead m p v) s = .next (s.setPart p { x with cr := { x.cr with head := v.setWidth 16 } }) ∧
    exec (.arBase m p v) s = .next (s.setPart p { x with ar := ⟨b, 0, 0⟩ }) ∧
    exec (.arHead m p v) s = .next (s.setPart p { x with ar := { x.ar with head := v.setWidth 32 } })) ∧
  (∀ (s : State) (m : Master) (k : Fin 8) (v : W64) (t : RegionTable), t = s.pkg.regions[k] → s.byOwner m = true →
    stackReached s m k = true →
    (t.pending = false → v.setWidth 16 = t.gen + 1 → stackServed s.pkg.boot k = true → shadowOk t = true →
      exec (.regionCommit m k v) s = .next { s with pkg := { s.pkg with
        regions := s.pkg.regions.set k { t with pending := true, newGen := v.setWidth 16, result := 0 } } }) ∧
    (t.pending = true → exec (.regionCommit m k v) s = .next { s with pkg := { s.pkg with
      regions := s.pkg.regions.set k { t with result := 1 } } })) ∧
  (∀ (s : State) (k : Fin 8) (t : RegionTable), t = s.pkg.regions[k] → t.pending = true → oldGeneration s k = false →
    ∃ u, exec (.regionInstall k) s = .next u ∧
      (∀ (a : Nat) (x : Remap), x = ⟨k, t.active, t.shadow, s.free⟩ →
        u.mem.byte a = if x.moves a then Config.openByte s.free a else s.mem.byte a) ∧
      u = { s with mem := u.mem, free := u.free, pkg := { s.pkg with
        regions := s.pkg.regions.set k { t with active := t.shadow, gen := t.newGen, pending := false } } }) ∧
  (∀ (s : State) (m : Master) (mask : BitVec 8), s.byOwner m = true →
    ∃ t, exec (.pinReset m mask) s = .next t ∧ t.pkg.pinDriven = s.pkg.pinDriven &&& ~~~mask ∧
      (∀ c ∈ t.pkg.pinQueue, c.pins &&& mask = 0 ∧ c.pins ≠ 0) ∧
      t = { s with pkg := { s.pkg with pinDriven := t.pkg.pinDriven, pinQueue := t.pkg.pinQueue } }) ∧
  ∀ (s : State) (d : Fin 2) (v : W64),
    (∀ off : BitVec 32, off = 0x40030000 ∨ off = 0x40030100 ∨ off = 0x40030108 →
      ∃ t, exec (.registerWrite (.core d) off v) s = .next t ∧ (∀ die, firmwareRead t die off.toNat = v) ∧
        t = { s with pkg := { s.pkg with fw := t.pkg.fw } }) ∧
    (∃ t, exec (.registerWrite (.core d) 0x40040018 v) s = .next t ∧ firmwareRead t d 0x40040018 = (v.setWidth 32).setWidth 64 ∧
      (∀ die, die ≠ d → firmwareRead t die 0x40040018 = firmwareRead s die 0x40040018) ∧
      t = { s with pkg := { s.pkg with fw := t.pkg.fw } }) ∧
    (bits v 33 32 = 0 → ∃ t, exec (.registerWrite (.core d) 0x40030008 v) s = .next t ∧
      (t.pkg.fw.faultRes = 1 ∨ t.pkg.fw.faultRes = 2) ∧ t = { s with pkg := { s.pkg with fw := t.pkg.fw } }) ∧
    (∃ t, exec (.registerWrite (.core d) 0x40040020 v) s = .next t ∧ t.pkg.fw = { s.pkg.fw with saveLimit := v.setWidth 32 } ∧
      t = { s with pkg := { s.pkg with fw := t.pkg.fw } }) ∧
    (∀ m, s.byOwner m = true →
      (∃ t, exec (.registerWrite (.master m) 0x20 v) s = .next t ∧ barRead t m 0x20 8 = .data (leBytes 8 (v &&& 0x000FFFFFFFFFFF00).toNat) ∧
        t = { s with pkg := { s.pkg with partAddr := t.pkg.partAddr } }) ∧
      ∀ (k : Fin 8) (i : Fin 16) (off : BitVec 32), off.toNat = 0x2000 + 512 * k.val + 16 * i.val →
        stackReached s m k = true →
        ∃ t, exec (.registerWrite (.master m) off v) s = .next t ∧ barRead t m off.toNat 8 = .data (leBytes 8 (v &&& 0x00FFFFFFFFFF0000).toNat) ∧
          (t.pkg.regions[k]).active = (s.pkg.regions[k]).active ∧
          t = { s with pkg := { s.pkg with regions := t.pkg.regions } })

/-- R130, R388, R434, R438, R443, R446 to R448, R451, R452, R455 to R460: ingest, accesses from outside, links, and bring-up.
The model's choices: memory and the cores' own state over package reset (log 39); a peer's access is one of three kinds, as an
inbound write merges (log 61); the check values that it brings are free (log 8); state 9 is settled as the firmware runs, and a
spare stands for both entries of its core (log 62); and memory of the part is cleared by a thermal trip (log 63). -/
def Obligations.OutsideWorldCompletes : Prop :=
  (∀ (s : State) (c : Fin 32) (n : SReg) (r : StreamReg), ingestAt s c = some (s.entry, n) → r = s.stream n →
    (r.ing.inFrame = false → r.ing.eof = none → ingestHeld s n = false → r.frameLen ≤ s.roomStart n →
      ∃ t, exec (.ingestFrameStart c) s = .next t ∧ t.stream n = { r with
          claimed := r.claimed + BitVec.ofNat 24 r.frameLen, dropping := false
          ing := { r.ing with inFrame := true, admitted := true, seq := r.ing.seq + 1, tick := s.tick } } ∧
        s.mem.keptBut t.mem (r.byteKeys s.entry r.committed 0 (64 * r.frameLen)) ∧ s.ctxsKept t) ∧
    (r.ing.inFrame = false → r.ing.eof = none → ingestHeld s n = false → r.policy ≠ 2 → s.roomStart n < r.frameLen →
      ∃ t, exec (.ingestFrameStart c) s = .next t ∧ (t.stream n).drops = r.drops + 1 ∧
        (t.stream n).ing = { r.ing with
          inFrame := true, admitted := false, seq := r.ing.seq + 1, gap := r.ing.gap + 1, tick := s.tick } ∧
        (t.stream n).claimed = r.claimed ∧ s.ctxsKept t) ∧
    (r.ing.inFrame = false → r.ing.eof = none → ingestHeld s n = true →
      ∃ t, exec (.ingestFrameStart c) s = .next t ∧ t.mem = s.mem ∧ s.ctxsKept t ∧
        t.stream n = { r with
          drops := r.drops + 1
          ing := { r.ing with
            inFrame := true, admitted := false, seq := r.ing.seq + 1, gap := r.ing.gap + 1, tick := s.tick } }) ∧
    (∀ s1, r.ing.inFrame = false → r.ing.eof = none → ingestHeld s n = false → r.policy = 2 → s.roomStart n < r.frameLen →
      s1 = (s.updSt n fun r => { r with ing := { r.ing with inFrame := true, seq := r.ing.seq + 1, tick := s.tick } }).dropBy n
        (s.streamStart n).frameUnit r.frameLen →
      (r.frameLen ≤ s1.roomStart n →
        ∃ t, exec (.ingestFrameStart c) s = .next t ∧ s.ctxsKept t ∧ t.stream n = { s1.stream n with
            claimed := (s1.stream n).claimed + BitVec.ofNat 24 r.frameLen
            ing := { (s1.stream n).ing with admitted := true } } ∧
          s1.mem.keptBut t.mem ((s1.stream n).byteKeys s.entry (s1.stream n).committed 0 (64 * r.frameLen))) ∧
      (s1.roomStart n < r.frameLen →
        ∃ t, exec (.ingestFrameStart c) s = .next t ∧ s.ctxsKept t ∧ (t.stream n).drops = (s1.stream n).drops + 1 ∧
          (t.stream n).claimed = (s1.stream n).claimed ∧
          (t.stream n).ing = { (s1.stream n).ing with admitted := false, gap := (s1.stream n).ing.gap + 1 })) ∧
    (∀ (off : BitVec 20) (data : List Byte), r.ing.inFrame = true → r.ing.admitted = true → data ≠ [] → off.toNat < 0xFFFF0 →
      ∃ t ks, exec (.ingestPayloadWrite c off data) s = .next t ∧
        ks = ((payloadBytes r off.toNat data).map fun x => (r.byteKey s.entry r.committed (64 + x.1), x.2)) ∧
        t = { s with mem := s.mem.pokes ks } ∧ s.mem.keptBut t.mem (ks.map Prod.fst)) ∧
    (∀ len, r.ing.inFrame = true →
      ∃ t, exec (.ingestEof c len) s = .next t ∧ t.mem = s.mem ∧ s.ctxsKept t ∧
        t.stream n = { r with ing := { r.ing with
          inFrame := false, eof := if r.ing.admitted = true then some len else none } }) ∧
    (∀ len, r.ing.eof = some len → r.frameLen ≠ 0 →
      ∃ t, exec (.ingestFrameCommit c) s = .next t ∧ s.ctxsKept t ∧
        (t.stream n).committed = (r.commitBytes (64 * r.frameLen)).committed ∧
        (t.stream n).ing = { r.ing with eof := none, admitted := false, gap := 0 } ∧
        ∀ a, t.mem.byte a = (s.mem.pokes ((r.byteKeys s.entry r.committed 0 64).zip (r.header len))).byte a)) ∧
  (∀ (s : State) (m : Master) (off : BitVec 39) (data : List Byte) (ks : List Nat), ks = keysFrom off.toNat data.length →
    windowWaits s off.toNat = false →
    (windowAllowed s m off.toNat data.length = true → (∀ g ∈ partialOf ks, s.mem.readCause [g] = none) →
      ∃ t, exec (.hbmWindowWrite m off data) s = .next t ∧ t = { s with mem := s.mem.write ks data } ∧
        s.mem.keptBut t.mem ks) ∧
    (windowAllowed s m off.toNat data.length = false → exec (.hbmWindowWrite m off data) s = .next s) ∧
    (∀ len : BitVec 13, windowAllowed s m off.toNat len.toNat = true →
      s.mem.readCause (granulesOf (keysFrom off.toNat len.toNat)) = none → s.pkg.boot.state ≠ 10 →
      exec (.hbmWindowRead m off len) s = .next s ∧
        windowRead s m off.toNat len.toNat = .data (s.mem.bytes off.toNat len.toNat))) ∧
  (∀ (s : State) (k : Fin 8) (off : BitVec 45) (data : List Byte) (a : Nat), exportKey s k off.toNat data.length = some a →
    windowWaits s a = false →
    exec (.peerAccess k off data 0) s = .next s ∧
    ((∀ g ∈ partialOf (keysFrom a data.length), s.mem.readCause [g] = none) →
      ∃ t, exec (.peerAccess k off data 1) s = .next t ∧
        t = { s with mem := t.mem, free := s.free + 1 } ∧
        (∀ b, t.mem.byte b = (s.mem.write (keysFrom a data.length) data).byte b) ∧
        s.mem.keptBut t.mem (keysFrom a data.length)) ∧
    (a % 64 = 0 → s.memOk → s.mem.readCause [a / 64] = none → ∃ t, exec (.peerAccess k off data 2) s = .next t ∧ t.mem.word64 a = s.mem.word64 a + 1 ∧
      t = { s with mem := t.mem } ∧ s.mem.keptBut t.mem (keysFrom a 8))) ∧
  (∀ (s : State) (port : Fin 2) (k : Fin 8) (up ret : Bool) (lanes : BitVec 4) (ps : W32) (pp : BitVec 3),
    exec (.pcieLinkChange port up) s = .next { s with pkg := { s.pkg with
      links := { s.pkg.links with pcieUp := s.pkg.links.pcieUp.set port up } } } ∧
    ∃ t, exec (.slavamusLinkChange k up ret lanes ps pp) s = .next t ∧ ((t.pkg.links.slv[k]).up = up) ∧
      ((t.pkg.links.slv[k]).lanes.toNat = min lanes.toNat 8) ∧ (t.pkg.links.slv[k]).pserial = ps ∧
      ((t.pkg.links.slv[k]).retrain.toNat = min ((s.pkg.links.slv[k]).retrain.toNat + ret.toNat) 255) ∧
      t = { s with pkg := { s.pkg with links := { s.pkg.links with slv := t.pkg.links.slv } } }) ∧
  (∀ s : State,
    (∃ t, exec .packageReset s = .next t ∧ t.pkg = { Package.reset with boot := { Boot.reset with tripped := s.pkg.boot.tripped } } ∧
      t.r = Residency.absent ∧ t.others = [] ∧ t.launches = [] ∧ t.tick = 0 ∧
      (∀ m v, m = 3 ∨ s.byOwner m = true → v = 0x5253 → exec (.pkgReset m v) s = .next t)) ∧
    (∀ m v, v ≠ 0x5253 → exec (.pkgReset m v) s = .next s) ∧
    ∃ t, exec .thermalTrip s = .next t ∧ t.pkg.boot.tripped = true ∧ t.pkg.boot.powered = false ∧ t.pkg.pinDriven = 0 ∧
      t.launches = [] ∧ t.r = Residency.absent ∧ t.others = [] ∧
      ∀ a, t.mem.byte a = if storeOf a = .host then s.mem.byte a else 0) ∧
  (∀ s : State,
    (∀ ser step spares, s.pkg.boot.state = 0 →
      ∃ t, exec (.fuses ser step spares) s = .next t ∧
        t.pkg.boot = { s.pkg.boot with state := 1, serial := ser, stepping := step, spares := spares } ∧
        (∀ e : Fin 416, t.pkg.slots[e] = if (∃ x ∈ spares, coreOf x.val = coreOf e.val) then { s.pkg.slots[e] with state := 4 }
          else s.pkg.slots[e]) ∧
        t = { s with pkg := { s.pkg with boot := t.pkg.boot, slots := t.pkg.slots } }) ∧
    (∀ b, s.pkg.boot.state = 1 →
      exec (.clocks b) s = .next (s.updBoot fun x => { x with state := 2, clock := if b = true then 3200 else 1200 })) ∧
    (∀ b, s.pkg.boot.state = 2 → exec (.memoryTraining b) s = .next (s.updBoot fun x => { x with state := 3, trained := b })) ∧
    (∀ b l, s.pkg.boot.state = 3 →
      exec (.meshAndBridge b l) s = .next (s.updBoot fun x => { x with
        state := 4, die0 := b.getLsbD 0, die1 := b.getLsbD 1, bridge := l })) ∧
    (s.pkg.boot.state = 4 → ∀ good, exec (.firmware good) s = .next (s.updBoot fun x => { x with state := 5 })) ∧
    (s.pkg.boot.state = 5 →
      exec (.firmware false) s = .next (s.updBoot fun x => { x with state := 8 }) ∧
      ∃ t, exec (.firmware true) s = .next t ∧ t.pkg.owner = 0 ∧
        t.pkg.boot.state = (if s.pkg.boot.die0 = false then 9 else if s.pkg.boot.die1 = true ∧ s.pkg.boot.trained = 0xFF ∧ s.pkg.boot.bridge = 0xFFFF ∧
          s.pkg.boot.clock = 3200 then 6 else if s.pkg.boot.trained.getLsbD 0 = true then 7 else 9) ∧
        (t.pkg.boot.state = 6 → ∀ k : Fin 8, t.pkg.regions[k] = .reset) ∧
        (t.pkg.boot.state = 7 → t.pkg.boot.clock = 1200 ∧ t.pkg.boot.die1 = false ∧
          ∀ k : Fin 8, t.pkg.regions[k] = if k = 0 then .reset else .empty) ∧
        t = { s with pkg := { s.pkg with boot := t.pkg.boot, owner := 0, regions := t.pkg.regions } }) ∧
    (s.pkg.boot.state = 7 → exec .backgroundTraining s = .next (s.updBoot fun x => { x with ready := true })) ∧
    (∀ m, (s.pkg.boot.state = 8 ∧ m ≠ 0 ∨ s.inService = true ∧ s.byOwner m = true) → s.pkg.boot.fwBusy = false →
      fwImageOk s.pkg.boot = true →
      exec (.fwGo m) s = .next (s.updBoot fun x => { x with fwBusy := true, fwFlash := false }) ∧
      exec (.fwFlash m) s = .next (s.updBoot fun x => { x with fwBusy := true, fwFlash := true })) ∧
    (∀ x, s.pkg.boot.fwBusy = true → (x = 0 ∨ x = 2 ∨ x = 3 ∨ x = 4 ∧ s.pkg.boot.fwFlash = true) →
      exec (.fwVerifyDone x) s = .next (s.updBoot fun b => { b with
        fwBusy := false, fwResult := x, state := if b.state = 8 ∧ x = 0 then 5 else b.state })) ∧
    ∀ (l : Fin 16) (gone : W16), s.inService = true → s.pkg.boot.bridge.getLsbD l.val = true →
      s.pkg.boot.retired.getLsbD l.val = false → gone = s.pkg.boot.retired ||| BitVec.ofNat 16 (2 ^ l.val) →
      (gone ≠ s.pkg.boot.bridge →
        exec (.bridgeLinkRetire l) s = .next (s.updBoot fun x => { x with retired := gone })) ∧
      (gone = s.pkg.boot.bridge →
        exec (.bridgeLinkRetire l) s = .next ((s.updBoot fun x => { x with retired := gone, state := 10 }).updFw
          fun x => { x with freeze := 0xFF })))
end

