-- ==== Sys2Proof/Laws/Float.lean ====
section
/-! SUPPORT. What rounding to FP32 does, in exact values: the lemmas about F32 results (R74, R85, R86, R305). -/

namespace Sys2Proof.Machine.F32

/-- The value of a magnitude code of FP32; 0x7F800000 counts as 2^128, and the codes above go on alike. -/
noncomputable def magValue (c : Nat) : ℝ :=
  if c / 2 ^ 23 = 0 then (c % 2 ^ 23 : ℕ) * (2 : ℝ) ^ (-149 : ℤ)
  else (2 ^ 23 + (c % 2 ^ 23 : ℕ)) * (2 : ℝ) ^ (((c / 2 ^ 23 : ℕ) : ℤ) - 150)

theorem two_zpow_pos (k : ℤ) : (0 : ℝ) < 2 ^ k := zpow_pos (by norm_num) k

/-- A code in the binade whose unit is 2^q. -/
theorem magValue_unit (q : ℤ) (n : Nat) (hq : -149 ≤ q) (hn : n ≤ 2 ^ 24) (h : q = -149 ∨ 2 ^ 23 ≤ n) :
    magValue ((q + 149).toNat * 2 ^ 23 + n) = n * (2 : ℝ) ^ q := by
  obtain ⟨k, hk⟩ : ∃ k : ℕ, q = (k : ℤ) - 149 := ⟨(q + 149).toNat, by omega⟩
  subst hk
  have e1 : ((k : ℤ) - 149 + 149).toNat = k := by omega
  rw [e1]
  unfold magValue
  rcases Nat.lt_or_ge n (2 ^ 23) with h1 | h1
  · have hk0 : k = 0 := by omega
    subst hk0
    have : (0 * 2 ^ 23 + n) / 2 ^ 23 = 0 := by omega
    have h2 : (0 * 2 ^ 23 + n) % 2 ^ 23 = n := by omega
    rw [if_pos this, h2]; norm_num
  · rcases Nat.lt_or_ge n (2 ^ 24) with h3 | h3
    · have a : (k * 2 ^ 23 + n) / 2 ^ 23 = k + 1 := by omega
      have b : (k * 2 ^ 23 + n) % 2 ^ 23 = n - 2 ^ 23 := by omega
      rw [a, b, if_neg (by omega), Nat.cast_sub h1]
      have : (((k + 1 : ℕ) : ℤ) - 150) = (k : ℤ) - 149 := by push_cast; ring
      rw [this]; push_cast; ring
    · have hn' : n = 2 ^ 24 := by omega
      have a : (k * 2 ^ 23 + n) / 2 ^ 23 = k + 2 := by omega
      have b : (k * 2 ^ 23 + n) % 2 ^ 23 = 0 := by omega
      rw [a, b, if_neg (by omega), hn']
      have : (((k + 2 : ℕ) : ℤ) - 150) = ((k : ℤ) - 149) + 1 := by push_cast; ring
      rw [this, zpow_add₀ (by norm_num)]; push_cast; ring

/-- Every code is in some binade. -/
theorem code_unit (c : Nat) : ∃ (q : ℤ) (n : Nat), -149 ≤ q ∧ n < 2 ^ 24 ∧ (q = -149 ∨ 2 ^ 23 ≤ n) ∧
    c = (q + 149).toNat * 2 ^ 23 + n := by
  by_cases h : c / 2 ^ 23 = 0
  · exact ⟨-149, c, by omega, by omega, .inl rfl, by omega⟩
  · exact ⟨(c / 2 ^ 23 : ℕ) - 150, 2 ^ 23 + c % 2 ^ 23, by omega, by omega, .inr (by omega), by omega⟩

theorem magValue_strictMono : StrictMono magValue := by
  refine strictMono_nat_of_lt_succ fun c => ?_
  obtain ⟨q, n, hq, hn, h, rfl⟩ := code_unit c
  rw [Nat.add_assoc, magValue_unit q n hq hn.le h, magValue_unit q (n + 1) hq hn (by omega)]
  have := two_zpow_pos q
  push_cast; nlinarith

theorem magValue_zero : magValue 0 = 0 := by norm_num [magValue]

theorem magValue_nonneg (c : Nat) : 0 ≤ magValue c := by
  rw [← magValue_zero]; exact magValue_strictMono.monotone (Nat.zero_le c)

/-- x is the code of the binade's grid that a magnitude w rounds to: w lies no further from it than halfway to the codes
beside it, and halfway only where it is even. -/
def Nearest (w : ℝ) (x : Nat) : Prop :=
  (∀ y, x = y + 1 → magValue y + magValue x ≤ 2 * w ∧ (magValue y + magValue x = 2 * w → x % 2 = 0)) ∧
  2 * w ≤ magValue x + magValue (x + 1) ∧ (2 * w = magValue x + magValue (x + 1) → x % 2 = 0)

/-- No code is nearer than the nearest, and of two as near it is the even one. -/
theorem Nearest.le {w : ℝ} {x : Nat} (hx : Nearest w x) (y : Nat) :
    |w - magValue x| ≤ |w - magValue y| ∧ (|w - magValue x| = |w - magValue y| → y = x ∨ x % 2 = 0) := by
  obtain ⟨h1, h2, h3⟩ := hx
  rcases Nat.lt_trichotomy y x with h | h | h
  · obtain ⟨z, rfl⟩ : ∃ z, x = z + 1 := ⟨x - 1, by omega⟩
    obtain ⟨h4, h5⟩ := h1 z rfl
    have a : magValue y ≤ magValue z := magValue_strictMono.monotone (by omega)
    have b : magValue z < magValue (z + 1) := magValue_strictMono (by omega)
    have c : |w - magValue y| = w - magValue y := abs_of_nonneg (by linarith)
    rw [c]
    refine ⟨abs_le.2 ⟨by linarith, by linarith⟩, fun e => .inr (h5 ?_)⟩
    rcases abs_cases (w - magValue (z + 1)) with ⟨e1, _⟩ | ⟨e1, _⟩ <;> linarith
  · subst h; exact ⟨le_refl _, fun _ => .inl rfl⟩
  · have a : magValue (x + 1) ≤ magValue y := magValue_strictMono.monotone (by omega)
    have b : magValue x < magValue (x + 1) := magValue_strictMono (by omega)
    have c : |w - magValue y| = magValue y - w := by rw [abs_of_nonpos (by linarith)]; ring
    rw [c]
    refine ⟨abs_le.2 ⟨by linarith, by linarith⟩, fun e => .inr (h3 ?_)⟩
    rcases abs_cases (w - magValue x) with ⟨e1, _⟩ | ⟨e1, _⟩ <;> linarith

/-- A magnitude within one unit, 2^q, above n units rounds to n or n + 1 units by the half and the even code. -/
theorem nearest_of_units (q : ℤ) (n : Nat) (w : ℝ) (up : Bool) (hq : -149 ≤ q) (hn : n < 2 ^ 24) (h : q = -149 ∨ 2 ^ 23 ≤ n)
    (lo : n * (2 : ℝ) ^ q ≤ w) (hi : w < (n + 1) * (2 : ℝ) ^ q)
    (hup : up = true → (2 * n + 1) * (2 : ℝ) ^ q ≤ 2 * w ∧ ((2 * n + 1) * (2 : ℝ) ^ q = 2 * w → n % 2 = 1))
    (hdn : up = false → 2 * w ≤ (2 * n + 1) * (2 : ℝ) ^ q ∧ (2 * w = (2 * n + 1) * (2 : ℝ) ^ q → n % 2 = 0)) :
    Nearest w ((q + 149).toNat * 2 ^ 23 + if up then n + 1 else n) := by
  have hv := magValue_unit q n hq hn.le h
  have hv1 := magValue_unit q (n + 1) hq hn (by omega)
  have u := two_zpow_pos q
  generalize hb : (q + 149).toNat * 2 ^ 23 = b at *
  have be : b % 2 = 0 := by omega
  cases up with
  | true =>
    obtain ⟨a, c⟩ := hup rfl
    simp only [if_true]
    have hs : magValue (b + (n + 1)) < magValue (b + (n + 1) + 1) := magValue_strictMono (by omega)
    push_cast at hv1
    refine ⟨fun y hy => ?_, by linarith, fun e => by exfalso; linarith⟩
    obtain rfl : y = b + n := by omega
    rw [hv, hv1]
    refine ⟨by linarith, fun e => ?_⟩
    have := c (by linarith)
    omega
  | false =>
    obtain ⟨a, c⟩ := hdn rfl
    simp only [Bool.false_eq_true, if_false]
    push_cast at hv1
    have e1 : magValue (b + n + 1) = (n + 1) * (2 : ℝ) ^ q := by rw [Nat.add_assoc, hv1]
    refine ⟨fun y hy => ?_, by rw [hv, e1]; linarith, fun e => ?_⟩
    · have hs : magValue y < magValue (b + n) := magValue_strictMono (by omega)
      exact ⟨by linarith, fun e => by exfalso; linarith⟩
    · rw [hv, e1] at e
      have := c (by linarith)
      omega

/-- A value stands to every multiple of 2^(e+1) as m · 2^e does. -/
def Alike (w : ℝ) (m : Nat) (e : ℤ) : Prop :=
  ∀ j : ℕ, ((j : ℝ) * 2 ^ (e + 1) ≤ w ↔ (j : ℝ) * 2 ^ (e + 1) ≤ m * (2 : ℝ) ^ e) ∧
    (w ≤ (j : ℝ) * 2 ^ (e + 1) ↔ m * (2 : ℝ) ^ e ≤ (j : ℝ) * 2 ^ (e + 1))

/-- A value that rounds as m · 2^e does: that value, or one that a mantissa with bits to spare stands for. -/
def RoundsAs (w : ℝ) (m : Nat) (e : ℤ) : Prop := w = m * (2 : ℝ) ^ e ∨ (2 ^ 25 ≤ m ∧ Alike w m e)

theorem zpow_nat_split (a b : ℤ) (h : a ≤ b) : (2 : ℝ) ^ b = ((2 ^ (b - a).toNat : ℕ) : ℝ) * 2 ^ a := by
  have : b = ((b - a).toNat : ℤ) + a := by omega
  conv_lhs => rw [this, zpow_add₀ (by norm_num), zpow_natCast]
  push_cast; ring

/-- Comparison with the halves of a unit of more than two bits above the exponent. -/
theorem RoundsAs.halves {w : ℝ} {m : Nat} {e q : ℤ} (h : RoundsAs w m e) (hq : e + 2 ≤ q ∨ w = m * (2 : ℝ) ^ e) (j : ℕ) :
    ((j : ℝ) * 2 ^ (q - 1) ≤ w ↔ (j : ℝ) * 2 ^ (q - 1) ≤ m * (2 : ℝ) ^ e) ∧
      (w ≤ (j : ℝ) * 2 ^ (q - 1) ↔ m * (2 : ℝ) ^ e ≤ (j : ℝ) * 2 ^ (q - 1)) := by
  rcases h with rfl | ⟨-, h⟩
  · simp
  · rcases hq with hq | rfl
    · have := h (j * 2 ^ (q - 1 - (e + 1)).toNat)
      rw [zpow_nat_split (e + 1) (q - 1) (by omega)]
      push_cast at this ⊢
      simpa [mul_assoc] using this
    · simp

/-- The unit of FP32 at a magnitude m · 2^e. -/
def unitOf (m : Nat) (e : ℤ) : ℤ := max (-149) (e + Nat.log2 m - 23)

theorem log2_bounds (m : Nat) (hm : m ≠ 0) : 2 ^ Nat.log2 m ≤ m ∧ m < 2 ^ (Nat.log2 m + 1) :=
  ⟨Nat.log2_self_le hm, Nat.lt_log2_self⟩

/-- RNE gives the nearest code (R85, R86). -/
theorem nearest_code (neg : Bool) (m : Nat) (e : ℤ) (w : ℝ) (hm : m ≠ 0) (hw : RoundsAs w m e) :
    Nearest w ((unitOf m e + 149).toNat * 2 ^ 23 +
      roundUnits .rne 0 neg m e (unitOf m e) ((unitOf m e + 149).toNat * 2 ^ 23)) := by
  obtain ⟨l1, l2⟩ := log2_bounds m hm
  have hq : -149 ≤ unitOf m e := le_max_left _ _
  have hq2 : e + Nat.log2 m - 23 ≤ unitOf m e := le_max_right _ _
  have hq3 : unitOf m e = -149 ∨ unitOf m e = e + Nat.log2 m - 23 := by unfold unitOf; omega
  have hw2 : e + 2 ≤ unitOf m e ∨ w = m * (2 : ℝ) ^ e := by
    rcases hw with h | ⟨h, -⟩
    · exact .inr h
    · have : 25 ≤ Nat.log2 m := (Nat.le_log2 hm).2 h
      exact .inl (by omega)
  have hh := fun j => hw.halves hw2 j
  generalize unitOf m e = q at *
  have u := two_zpow_pos q
  have half : (2 : ℝ) ^ (q - 1) = 2 ^ q / 2 := by rw [zpow_sub_one₀ (by norm_num)]; ring
  rw [half] at hh
  unfold roundUnits
  split
  · rename_i hle
    have hwe : w = m * (2 : ℝ) ^ e := by rcases hw2 with h | h; · omega
                                         · exact h
    have hn : m * 2 ^ (e - q).toNat < 2 ^ 24 := by
      calc m * 2 ^ (e - q).toNat < 2 ^ (Nat.log2 m + 1) * 2 ^ (e - q).toNat := by
            exact Nat.mul_lt_mul_of_pos_right l2 (by positivity)
        _ = 2 ^ (Nat.log2 m + 1 + (e - q).toNat) := by rw [← pow_add]
        _ ≤ 2 ^ 24 := Nat.pow_le_pow_right (by norm_num) (by omega)
    have hn2 : q = -149 ∨ 2 ^ 23 ≤ m * 2 ^ (e - q).toNat := by
      rcases hq3 with h | h
      · exact .inl h
      · right
        calc 2 ^ 23 = 2 ^ Nat.log2 m * 2 ^ (e - q).toNat := by rw [← pow_add]; congr 1; omega
          _ ≤ _ := Nat.mul_le_mul_right _ l1
    have hv : w = ((m * 2 ^ (e - q).toNat : ℕ) : ℝ) * 2 ^ q := by
      rw [hwe, zpow_nat_split q e hle]; push_cast; ring
    have := nearest_of_units q (m * 2 ^ (e - q).toNat) w false hq hn hn2 (by rw [hv]) (by rw [hv]; nlinarith) (by simp)
      (fun _ => ⟨by rw [hv]; nlinarith, fun e => by exfalso; rw [hv] at e; nlinarith⟩)
    simpa using this
  · rename_i hlt
    push Not at hlt
    obtain ⟨k, hk⟩ : ∃ k : ℕ, q = e + k := ⟨(q - e).toNat, by omega⟩
    have ek : (q - e).toNat = k := by omega
    simp only [ek]
    have hmod := Nat.div_add_mod m (2 ^ k)
    have hr := Nat.mod_lt m (show 2 ^ k > 0 by positivity)
    generalize hnn : m / 2 ^ k = n at *
    generalize hrr : m % 2 ^ k = r at *
    have hn : n < 2 ^ 24 := by
      rw [← hnn]
      apply Nat.div_lt_of_lt_mul
      calc m < 2 ^ (Nat.log2 m + 1) := l2
        _ ≤ 2 ^ (k + 24) := Nat.pow_le_pow_right (by norm_num) (by omega)
        _ = 2 ^ k * 2 ^ 24 := pow_add _ _ _
    have hn2 : q = -149 ∨ 2 ^ 23 ≤ n := by
      rcases hq3 with h | h
      · exact .inl h
      · right
        rw [← hnn, Nat.le_div_iff_mul_le (by positivity), ← pow_add]
        exact le_trans (Nat.pow_le_pow_right (by norm_num) (by omega)) l1
    have hv : (m : ℝ) * 2 ^ e * 2 ^ k = (2 ^ k * n + r) * 2 ^ q := by
      rw [hk, zpow_add₀ (by norm_num), zpow_natCast, ← hmod]; push_cast; ring
    have pk : (0 : ℝ) < 2 ^ k := by positivity
    have pr : (r : ℝ) < 2 ^ k := by exact_mod_cast hr
    -- w0 against j halves of the unit
    have cmp : ∀ j : ℕ, ((j : ℝ) * (2 ^ q / 2) ≤ m * (2 : ℝ) ^ e ↔ j * 2 ^ k ≤ 2 * (2 ^ k * n + r)) ∧
        (m * (2 : ℝ) ^ e ≤ j * (2 ^ q / 2) ↔ 2 * (2 ^ k * n + r) ≤ j * 2 ^ k) := by
      intro j
      have c1 : (j * 2 ^ k ≤ 2 * (2 ^ k * n + r)) ↔ ((j : ℝ) * 2 ^ k ≤ 2 * (2 ^ k * n + r)) := by
        rw [← @Nat.cast_le ℝ]; push_cast; rfl
      have c2 : (2 * (2 ^ k * n + r) ≤ j * 2 ^ k) ↔ (2 * ((2 : ℝ) ^ k * n + r) ≤ j * 2 ^ k) := by
        rw [← @Nat.cast_le ℝ]; push_cast; rfl
      have e1 : (j : ℝ) * (2 ^ q / 2) * 2 ^ k = (j * 2 ^ k) * (2 ^ q / 2) := by ring
      have e2 : ((2 : ℝ) ^ k * n + r) * 2 ^ q = (2 * (2 ^ k * n + r)) * (2 ^ q / 2) := by ring
      have hu : (0 : ℝ) < 2 ^ q / 2 := by positivity
      rw [c1, c2]
      constructor
      · rw [← mul_le_mul_iff_left₀ pk (b := (j : ℝ) * _), hv, e1, e2, mul_le_mul_iff_left₀ hu]
      · rw [← mul_le_mul_iff_left₀ pk (b := (m : ℝ) * _), hv, e1, e2, mul_le_mul_iff_left₀ hu]
    have key : ∀ j : ℕ, ((j : ℝ) * (2 ^ q / 2) ≤ w ↔ j * 2 ^ k ≤ 2 * (2 ^ k * n + r)) ∧
        (w ≤ (j : ℝ) * (2 ^ q / 2) ↔ 2 * (2 ^ k * n + r) ≤ j * 2 ^ k) := fun j =>
      ⟨(hh j).1.trans (cmp j).1, (hh j).2.trans (cmp j).2⟩
    have k0 := (key (2 * n)).1.2 (by nlinarith)
    have k1 : ¬ ((((2 * n + 2 : ℕ)) : ℝ) * (2 ^ q / 2) ≤ w) := fun h => by
      have := (key (2 * n + 2)).1.1 h; nlinarith
    have k2 := key (2 * n + 1)
    push_cast at k0 k1 k2
    rw [show (2 * n + 1) * 2 ^ k = 2 * (2 ^ k * n) + 2 ^ k by ring, show 2 * (2 ^ k * n + r) = 2 * (2 ^ k * n) + 2 * r by ring] at k2
    refine nearest_of_units q n w _ hq hn hn2 (by linarith) (by push Not at k1; linarith) ?_ ?_
    · intro hup
      have hup' : 2 ^ k < 2 * r ∨ 2 * r = 2 ^ k ∧ n % 2 = 1 := by
        simp only [Bool.or_eq_true, Bool.and_eq_true, decide_eq_true_eq] at hup
        omega
      refine ⟨?_, fun h => ?_⟩
      · have := k2.1.2 (by rcases hup' with h | h <;> linarith)
        linarith
      · have := k2.2.1 (by linarith)
        rcases hup' with h1 | h1
        · omega
        · exact h1.2
    · intro hdn
      have hdn' : 2 * r < 2 ^ k ∨ 2 * r = 2 ^ k ∧ n % 2 = 0 := by
        simp only [Bool.or_eq_false_iff, Bool.and_eq_false_imp, decide_eq_false_iff_not, decide_eq_true_eq] at hdn
        omega
      refine ⟨?_, fun h => ?_⟩
      · have := k2.2.2 (by rcases hdn' with h | h <;> linarith)
        linarith
      · have := k2.1.1 (by linarith)
        rcases hdn' with h1 | h1
        · omega
        · exact h1.2

/-! ### Words -/

/-- The value of a word is its sign and its magnitude's. -/
theorem f32Value_eq (w : W32) : ((f32Value w : ℚ) : ℝ) = (if w.getLsbD 31 then -1 else 1) * magValue (bits w 30 0) := by
  have a : bits w 30 0 / 2 ^ 23 = bits w 30 23 := by simp only [bits, fld]; omega
  have b : bits w 30 0 % 2 ^ 23 = bits w 22 0 := by simp only [bits, fld]; omega
  unfold f32Value magValue
  rw [a, b]
  split <;> split <;> push_cast <;> ring

theorem finite_iff (w : W32) : f32Finite w = true ↔ bits w 30 0 < 0x7F800000 := by
  unfold f32Finite; rw [decide_eq_true_iff]; simp only [bits, fld]; omega

/-- The word of a sign and a magnitude code. -/
def wordOf (neg : Bool) (c : Nat) : W32 := BitVec.ofNat 32 (if neg then 2 ^ 31 + c else c)

theorem wordOf_bits (neg : Bool) (c : Nat) (h : c < 2 ^ 31) : bits (wordOf neg c) 30 0 = c := by
  cases neg <;> simp [wordOf, bits, fld] <;> omega

theorem wordOf_sign (neg : Bool) (c : Nat) (h : c < 2 ^ 31) : (wordOf neg c).getLsbD 31 = neg := by
  have : ∀ x : W32, x.getLsbD 31 = decide (2 ^ 31 ≤ x.toNat) := by
    intro x
    rw [BitVec.getLsbD, Nat.testBit_eq_decide_div_mod_eq]
    have := x.isLt
    congr 1
    apply propext; omega
  rw [this]
  cases neg <;> simp [wordOf] <;> omega

theorem word_even (w : W32) : w.getLsbD 0 = false ↔ bits w 30 0 % 2 = 0 := by
  simp only [BitVec.getLsbD, Nat.testBit_zero, bits, fld, decide_eq_false_iff_not]; omega

/-- The code of a result: infinity past the greatest finite one. -/
def held (x : Nat) : Nat := if 0x7F7FFFFF < x then 0x7F800000 else x

theorem magValue_top : magValue 0x7F7FFFFF + magValue 0x7F800000 = 2 * ((2 ^ 25 - 1) * 2 ^ 103) := by
  norm_num [magValue]

/-- The nearest code to a positive magnitude, with a sign, is what the value rounds to. -/
theorem Nearest.rounds {w : ℝ} {x : Nat} (hx : Nearest w x) (hw : 0 < w) (neg : Bool) :
    RoundsToF32 ((if neg then -1 else 1) * w) (wordOf neg (held x)) := by
  have hh : held x < 2 ^ 31 := by unfold held; split <;> omega
  have habs : |(if neg then (-1 : ℝ) else 1) * w| = w := by
    cases neg <;> simp [abs_of_pos hw]
  have mono := magValue_strictMono.monotone
  refine ⟨fun hlt => ?_, fun hge => ?_, ?_⟩
  · rw [habs] at hlt
    have hfin : ¬ 0x7F7FFFFF < x := fun h => by
      obtain ⟨y, rfl⟩ : ∃ y, x = y + 1 := ⟨x - 1, by omega⟩
      have a := (hx.1 y rfl).1
      have b : magValue 0x7F7FFFFF ≤ magValue y := mono (by omega)
      have c : magValue 0x7F800000 ≤ magValue (y + 1) := mono (by omega)
      have := magValue_top
      linarith
    have hx' : held x = x := by simp [held, hfin]
    rw [hx'] at hh ⊢
    refine ⟨(finite_iff _).2 (by rw [wordOf_bits _ _ hh]; omega), fun y hy => ?_⟩
    have ey := f32Value_eq y
    have ex : ((f32Value (wordOf neg x) : ℚ) : ℝ) = (if neg then -1 else 1) * magValue x := by
      rw [f32Value_eq, wordOf_bits _ _ hh, wordOf_sign _ _ hh]
    have ed : |(if neg then (-1 : ℝ) else 1) * w - f32Value (wordOf neg x)| = |w - magValue x| := by
      rw [ex]; cases neg
      · simp
      · simp only [if_true]; rw [← abs_neg]; congr 1; ring
    rw [ed, word_even, wordOf_bits _ _ hh]
    obtain ⟨l1, l2⟩ := hx.le (bits y 30 0)
    obtain ⟨z1, z2⟩ := hx.le 0
    rw [magValue_zero, sub_zero, abs_of_pos hw] at z1 z2
    have ny := magValue_nonneg (bits y 30 0)
    by_cases hs : y.getLsbD 31 = neg
    · have e2 : |(if neg then (-1 : ℝ) else 1) * w - f32Value y| = |w - magValue (bits y 30 0)| := by
        rw [ey, hs]; cases neg
        · simp
        · simp only [if_true]; rw [← abs_neg]; congr 1; ring
      rw [e2]
      refine ⟨l1, fun e => (l2 e).imp_left fun h => ?_⟩
      have : ((f32Value y : ℚ) : ℝ) = f32Value (wordOf neg x) := by rw [ey, ex, hs, h]
      exact_mod_cast this
    · have hs' : y.getLsbD 31 = !neg := by cases neg <;> simpa using hs
      have e2 : |(if neg then (-1 : ℝ) else 1) * w - f32Value y| = w + magValue (bits y 30 0) := by
        rw [ey, hs']; cases neg
        · simp only [Bool.not_false, Bool.false_eq_true, if_true, if_false]
          rw [abs_of_pos (by linarith)]; ring
        · simp only [Bool.not_true, Bool.false_eq_true, if_true, if_false]
          rw [abs_of_neg (by linarith)]; ring
      rw [e2]
      refine ⟨by linarith, fun e => ?_⟩
      rcases z2 (by linarith) with h | h
      · left
        have hy0 : magValue (bits y 30 0) = 0 := by linarith
        have : ((f32Value y : ℚ) : ℝ) = f32Value (wordOf neg x) := by rw [ey, ex, hy0, ← h, magValue_zero]; simp
        exact_mod_cast this
      · exact .inr h
  · rw [habs] at hge
    have hinf : 0x7F7FFFFF < x := by
      by_contra h
      push Not at h
      have a := hx.2.1
      have b : magValue x ≤ magValue 0x7F7FFFFF := mono (by omega)
      have c : magValue (x + 1) ≤ magValue 0x7F800000 := mono (by omega)
      have d := magValue_top
      have e := hx.2.2 (by linarith)
      have f : x = 0x7F7FFFFF := by
        by_contra hne
        have := magValue_strictMono (show x < 0x7F7FFFFF by omega)
        linarith
      omega
    have hx' : held x = 0x7F800000 := by simp [held, hinf]
    rw [hx']; cases neg <;> decide
  · rw [wordOf_sign _ _ hh]
    cases neg
    · simp; linarith
    · simp; linarith

/-- rneF32 of an exact value that is not zero: RoundToF32(v, RNE) of every v that it stands for (R85, R86, R305). -/
theorem rneF32_rounds (neg : Bool) (m : Nat) (e : ℤ) (w : ℝ) (hm : m ≠ 0) (hw : RoundsAs w m e) (hp : 0 < w) :
    RoundsToF32 ((if neg then -1 else 1) * w) (rneF32 (.fin neg m e)) := by
  have h := (nearest_code neg m e w hm hw).rounds hp neg
  have q1 : max (1 - 127 - ((23 : ℕ) : ℤ)) (e + Nat.log2 m - ((23 : ℕ) : ℤ)) = unitOf m e := by simp [unitOf]
  have q2 : unitOf m e - (1 - 127 - ((23 : ℕ) : ℤ)) = unitOf m e + 149 := by push_cast; ring
  have : rneF32 (.fin neg m e) = wordOf neg (held ((unitOf m e + 149).toNat * 2 ^ 23 +
      roundUnits .rne 0 neg m e (unitOf m e) ((unitOf m e + 149).toNat * 2 ^ 23))) := by
    simp only [rneF32, toF32, floatCode, hm, q1, q2]
    generalize (unitOf m e + 149).toNat * 2 ^ 23 +
      roundUnits .rne 0 neg m e (unitOf m e) ((unitOf m e + 149).toNat * 2 ^ 23) = x
    simp only [wordOf, held, maxCode, overflowCode]
    cases neg
    all_goals simp; try (split <;> rfl)
  rw [this]; exact h

/-- The real value of a sign, a mantissa and an exponent. -/
noncomputable def value (neg : Bool) (m : Nat) (e : ℤ) : ℝ := (if neg then -1 else 1) * (m * (2 : ℝ) ^ e)

theorem value_zero (neg : Bool) (e : ℤ) : value neg 0 e = 0 := by simp [value]

theorem value_eq_zero (neg : Bool) (m : Nat) (e : ℤ) : value neg m e = 0 ↔ m = 0 := by
  have := (two_zpow_pos e).ne'
  cases neg <;> simp [value, this]

/-- rneF32 of an exact value is that value's RoundToF32(v, RNE), with the sign of a zero kept. -/
theorem rneF32_exact (neg : Bool) (m : Nat) (e : ℤ) (v : ℝ) (hv : v = value neg m e) :
    (v ≠ 0 → RoundsToF32 v (rneF32 (.fin neg m e))) ∧ (v = 0 → rneF32 (.fin neg m e) = f32Signed neg 0) := by
  subst hv
  rw [ne_eq, value_eq_zero]
  refine ⟨fun hm => ?_, fun hm => ?_⟩
  · have hp : 0 < (m : ℝ) * 2 ^ e := mul_pos (by exact_mod_cast Nat.pos_of_ne_zero hm) (two_zpow_pos e)
    exact rneF32_rounds neg m e _ hm (.inl rfl) hp
  · subst hm; cases neg <;> simp [rneF32, toF32, floatCode, f32Signed]

theorem rneF32_nan : rneF32 .nan = canonicalNaN := by decide
theorem rneF32_inf (neg : Bool) : rneF32 (.inf neg) = f32Signed neg 0x7F800000 := by cases neg <;> decide

/-- A value that lies between two neighbours at a wide mantissa rounds as the sticky form of the lower one. -/
theorem sticky_rounds (neg : Bool) (r : Nat) (e : ℤ) (more : Bool) (w : ℝ) (hr : 2 ^ 24 ≤ r) (lo : r * (2 : ℝ) ^ e ≤ w)
    (hi : w < (r + 1) * (2 : ℝ) ^ e) (hm : more = true ↔ w ≠ r * (2 : ℝ) ^ e) :
    RoundsToF32 ((if neg then -1 else 1) * w) (rneF32 (sticky neg r e more)) := by
  have u := two_zpow_pos e
  have hp : 0 < w := lt_of_lt_of_le (mul_pos (by exact_mod_cast (by omega : 0 < r)) u) lo
  have half : (2 : ℝ) ^ (e - 1) = 2 ^ e / 2 := by rw [zpow_sub_one₀ (by norm_num)]; ring
  refine rneF32_rounds neg _ _ w (by omega) (.inr ⟨by omega, fun j => ?_⟩) hp
  rw [show e - 1 + 1 = e by ring, half]
  have c (x : ℝ) : x * ((2 : ℝ) ^ e / 2) = x / 2 * 2 ^ e := by ring
  rw [c, mul_le_mul_iff_left₀ u, mul_le_mul_iff_left₀ u]
  have n1 : ∀ x : Nat, (x : ℝ) * 2 ^ e ≤ r * 2 ^ e ↔ x ≤ r := fun x => by
    rw [mul_le_mul_iff_left₀ u, Nat.cast_le]
  have n2 : (j : ℝ) * 2 ^ e ≤ w ↔ j ≤ r := by
    constructor
    · intro h
      have : (j : ℝ) < (r : ℝ) + 1 := lt_of_mul_lt_mul_right (lt_of_le_of_lt h hi) u.le
      exact_mod_cast Nat.lt_succ_iff.1 (by exact_mod_cast this)
    · intro h; exact ((n1 j).2 h).trans lo
  cases more with
  | false =>
    have hw : w = r * (2 : ℝ) ^ e := by by_contra h; exact absurd (hm.2 h) (by simp)
    have e1 : ((2 * r + false.toNat : ℕ) : ℝ) / 2 = r := by push_cast; simp
    rw [e1, hw, mul_le_mul_iff_left₀ u, mul_le_mul_iff_left₀ u]
    exact ⟨Iff.rfl, Iff.rfl⟩
  | true =>
    have hne := hm.1 rfl
    have e1 : ((2 * r + true.toNat : ℕ) : ℝ) / 2 = r + 1 / 2 := by push_cast; simp; ring
    rw [e1, n2]
    refine ⟨⟨fun h => ?_, fun h => ?_⟩, ⟨fun h => ?_, fun h => ?_⟩⟩
    · have : (j : ℝ) ≤ r := by exact_mod_cast h
      linarith
    · have : (j : ℝ) < ((r + 1 : ℕ) : ℝ) := by push_cast; linarith
      have := Nat.cast_lt.1 this
      omega
    · have : r < j := by
        by_contra hc
        push Not at hc
        have := (n2.2 hc)
        exact hne (le_antisymm (h.trans ((n1 j).2 hc)) lo)
      have : ((r + 1 : ℕ) : ℝ) ≤ j := by exact_mod_cast this
      push_cast at this; linarith
    · have : (r : ℝ) < j := by linarith
      have : r + 1 ≤ j := by exact_mod_cast this
      have : ((r + 1 : ℕ) : ℝ) * 2 ^ e ≤ j * 2 ^ e := mul_le_mul_of_nonneg_right (by exact_mod_cast this) u.le
      push_cast at this; linarith

/-! ### Operands -/

/-- The magnitude of a word is its exponent above its fraction. -/
theorem bits_fields (w : W32) : bits w 30 0 = bits w 30 23 * 2 ^ 23 + bits w 22 0 ∧ bits w 22 0 < 2 ^ 23 ∧ bits w 30 23 < 2 ^ 8 := by
  simp only [bits, fld]
  generalize w.toNat = x
  omega

theorem zero_iff (w : W32) : f32Zero w = true ↔ bits w 30 23 = 0 ∧ bits w 22 0 = 0 := by
  have := bits_fields w
  unfold f32Zero; rw [decide_eq_true_iff]; omega

theorem inf_iff (w : W32) : f32Inf w = true ↔ bits w 30 23 = 255 ∧ bits w 22 0 = 0 := by
  have := bits_fields w
  unfold f32Inf; rw [decide_eq_true_iff]; omega

/-- The decoding of FP32, by the fields of a word (R74, R78). -/
theorem fp_eq (w : W32) : fp w =
    if bits w 30 23 = 255 then (if bits w 22 0 = 0 then .inf (w.getLsbD 31) else .nan)
    else if bits w 30 23 = 0 then .fin (w.getLsbD 31) (bits w 22 0) (-149)
    else .fin (w.getLsbD 31) (2 ^ 23 + bits w 22 0) ((bits w 30 23 : ℤ) - 150) := by
  have a : w.toNat / 2 ^ 23 % 2 ^ 8 = bits w 30 23 := by simp only [bits, fld]
  have b : w.toNat % 2 ^ 23 / 2 ^ 0 * 2 ^ 0 = bits w 22 0 := by simp only [bits, fld]; omega
  have c : w.toNat.testBit (8 + 23) = w.getLsbD 31 := rfl
  simp only [fp, tyFp32, Ty.decode, a, b, c]
  by_cases h : bits w 30 23 = 255 <;> by_cases h0 : bits w 30 23 = 0 <;> simp [h, h0]
  ring

/-- A finite word as an exact value. -/
theorem fp_finite (w : W32) (h : f32Finite w = true) : ∃ m e, fp w = .fin (w.getLsbD 31) m e ∧
    ((f32Value w : ℚ) : ℝ) = value (w.getLsbD 31) m e ∧ m < 2 ^ 24 ∧ -149 ≤ e ∧ e ≤ 104 ∧ (m = 0 ↔ f32Zero w = true) := by
  have h255 : bits w 30 23 ≠ 255 := by simpa [f32Finite] using h
  obtain ⟨-, l1, l2⟩ := bits_fields w
  rw [fp_eq, if_neg h255, zero_iff]
  by_cases h0 : bits w 30 23 = 0
  · refine ⟨bits w 22 0, -149, by rw [if_pos h0], ?_, by omega, by omega, by omega, by omega⟩
    cases hs : w.getLsbD 31 <;> simp only [f32Value, h0, value, hs] <;> push_cast <;> simp
  · refine ⟨2 ^ 23 + bits w 22 0, (bits w 30 23 : ℤ) - 150, by rw [if_neg h0], ?_, by omega, by omega, by omega, by omega⟩
    cases hs : w.getLsbD 31 <;> simp only [f32Value, h0, value, hs] <;> push_cast <;> norm_num

theorem fp_inf (w : W32) (h : f32Inf w = true) : fp w = .inf (w.getLsbD 31) := by
  have := (inf_iff w).1 h
  rw [fp_eq, if_pos this.1, if_pos this.2]

theorem fp_nan (w : W32) (h : f32NaN w = true) : fp w = .nan := by
  have : bits w 30 23 = 255 ∧ bits w 22 0 ≠ 0 := by simpa [f32NaN] using h
  rw [fp_eq, if_pos this.1, if_neg this.2]

/-- Every word is finite, an infinity or a NaN. -/
theorem word_cases (w : W32) : f32Finite w = true ∨ f32Inf w = true ∨ f32NaN w = true := by
  rw [inf_iff]
  simp only [f32Finite, f32NaN, decide_eq_true_eq]
  tauto

/-! ### Exact sums and products -/

/-- The exact product (R304). -/
theorem mul_value (s t : Bool) (m n : Nat) (e d : ℤ) : (Num.fin s m e).mul (.fin t n d) = .fin (s != t) (m * n) (e + d) ∧
    value (s != t) (m * n) (e + d) = value s m e * value t n d := by
  refine ⟨rfl, ?_⟩
  simp only [value, zpow_add₀ (show (2 : ℝ) ≠ 0 by norm_num)]
  cases s <;> cases t <;> push_cast <;> simp <;> ring

/-- The exact sum, with the sign of an exact zero (R86). -/
theorem add_value (s t : Bool) (m n : Nat) (e d : ℤ) : ∃ u k f, (Num.fin s m e).add false (.fin t n d) = .fin u k f ∧
    value u k f = value s m e + value t n d ∧ (k = 0 → u = (s && t && decide (m = 0 ∧ n = 0))) := by
  have sv : ∀ (s : Bool) (m : Nat) (e k : ℤ), k ≤ e → ((scaled s m e k : ℤ) : ℝ) * 2 ^ k = value s m e := by
    intro s m e k h
    rw [value, zpow_nat_split k e h, scaled]
    cases s <;> push_cast <;> simp <;> ring
  simp only [Num.add]
  by_cases h0 : m = 0 ∧ n = 0
  · rw [if_pos h0]
    refine ⟨_, _, _, rfl, by simp [h0.1, h0.2, value_zero], fun _ => ?_⟩
    cases s <;> cases t <;> simp [h0]
  rw [if_neg h0]
  by_cases hm : m = 0
  · rw [if_pos hm]
    exact ⟨_, _, _, rfl, by simp [hm, value_zero], fun h => absurd ⟨hm, h⟩ h0⟩
  rw [if_neg hm]
  by_cases hn : n = 0
  · rw [if_pos hn]
    exact ⟨_, _, _, rfl, by simp [hn, value_zero], fun h => absurd ⟨h, hn⟩ h0⟩
  rw [if_neg hn]
  have e1 := sv s m e (min e d) (min_le_left _ _)
  have e2 := sv t n d (min e d) (min_le_right _ _)
  rw [← e1, ← e2, ← add_mul, ← Int.cast_add]
  generalize scaled s m e (min e d) + scaled t n d (min e d) = v
  by_cases hv : v = 0
  · exact ⟨false, 0, 0, by simp [hv], by simp [hv, value_zero], fun _ => by simp [h0]⟩
  · refine ⟨decide (v < 0), v.natAbs, min e d, by simp [hv], ?_, fun h => absurd (Int.natAbs_eq_zero.1 h) hv⟩
    rw [value, ← mul_assoc]
    congr 1
    rcases lt_or_gt_of_ne hv with h | h
    · have : ((v.natAbs : ℕ) : ℝ) = -(v : ℝ) := by
        rw [Nat.cast_natAbs, abs_of_neg h]; push_cast; ring
      simp [h, this]
    · have : ((v.natAbs : ℕ) : ℝ) = (v : ℝ) := by
        rw [Nat.cast_natAbs, abs_of_pos h]
      simp [not_lt.2 h.le, this]

/-! ### Integer roots -/

theorem isqrtFrom_spec (n k r : Nat) (lo : r * r ≤ n) (hi : n < (r + 2 ^ k) * (r + 2 ^ k)) :
    isqrtFrom n k r * isqrtFrom n k r ≤ n ∧ n < (isqrtFrom n k r + 1) * (isqrtFrom n k r + 1) := by
  induction k generalizing r with
  | zero => simpa [isqrtFrom] using ⟨lo, hi⟩
  | succ k ih =>
    rw [isqrtFrom]
    split
    · rename_i h
      exact ih _ h (by rw [pow_succ] at hi; rwa [show r + 2 ^ k + 2 ^ k = r + 2 ^ k * 2 by ring])
    · rename_i h
      exact ih _ lo (by omega)

/-- isqrt is the floor of the root. -/
theorem isqrt_spec (n : Nat) : isqrt n * isqrt n ≤ n ∧ n < (isqrt n + 1) * (isqrt n + 1) := by
  refine isqrtFrom_spec n _ 0 (by simp) ?_
  rw [zero_add, ← pow_add]
  exact lt_of_lt_of_le Nat.lt_log2_self (Nat.pow_le_pow_right (by norm_num) (by omega))

end Sys2Proof.Machine.F32
end

