-- ==== Sys2Proof/Laws/State.lean ====
section
/-! SUPPORT. One lemma per field per update of the state, so that no later proof unfolds a record update. -/

namespace Sys2Proof.Machine

/-! ### What an update of the focus leaves -/

@[simp] theorem State.updR_mem (s : State) (f : Residency → Residency) : (s.updR f).mem = s.mem := rfl
@[simp] theorem State.updR_r (s : State) (f : Residency → Residency) : (s.updR f).r = f s.r := rfl
@[simp] theorem State.updR_others (s : State) (f : Residency → Residency) : (s.updR f).others = s.others := rfl
@[simp] theorem State.updR_turns (s : State) (f : Residency → Residency) : (s.updR f).turns = s.turns := rfl
@[simp] theorem State.updR_banks (s : State) (f : Residency → Residency) : (s.updR f).banks = s.banks := rfl
@[simp] theorem State.updR_ap (s : State) (f : Residency → Residency) : (s.updR f).ap = s.ap := rfl
@[simp] theorem State.updR_phase (s : State) (f : Residency → Residency) : (s.updR f).phase = s.phase := rfl
@[simp] theorem State.updR_launches (s : State) (f : Residency → Residency) : (s.updR f).launches = s.launches := rfl
@[simp] theorem State.updR_pkg (s : State) (f : Residency → Residency) : (s.updR f).pkg = s.pkg := rfl
@[simp] theorem State.updR_cycle (s : State) (f : Residency → Residency) : (s.updR f).cycle = s.cycle := rfl
@[simp] theorem State.updR_tick (s : State) (f : Residency → Residency) : (s.updR f).tick = s.tick := rfl
@[simp] theorem State.updR_subtick (s : State) (f : Residency → Residency) : (s.updR f).subtick = s.subtick := rfl
@[simp] theorem State.updR_inbox (s : State) (f : Residency → Residency) : (s.updR f).inbox = s.inbox := rfl
@[simp] theorem State.updR_vault (s : State) (f : Residency → Residency) : (s.updR f).vault = s.vault := rfl
@[simp] theorem State.updR_free (s : State) (f : Residency → Residency) : (s.updR f).free = s.free := rfl

/-! ### An AP context -/

@[simp] theorem State.updCtx_mem (s : State) (c : ApId) (g : ApCtx → ApCtx) : (s.updCtx c g).mem = s.mem := by cases c <;> rfl
@[simp] theorem State.updCtx_others (s : State) (c : ApId) (g : ApCtx → ApCtx) : (s.updCtx c g).others = s.others := by cases c <;> rfl
@[simp] theorem State.updCtx_turns (s : State) (c : ApId) (g : ApCtx → ApCtx) : (s.updCtx c g).turns = s.turns := by cases c <;> rfl
@[simp] theorem State.updCtx_banks (s : State) (c : ApId) (g : ApCtx → ApCtx) : (s.updCtx c g).banks = s.banks := by cases c <;> rfl
@[simp] theorem State.updCtx_ap (s : State) (c : ApId) (g : ApCtx → ApCtx) : (s.updCtx c g).ap = s.ap := by cases c <;> rfl
@[simp] theorem State.updCtx_phase (s : State) (c : ApId) (g : ApCtx → ApCtx) : (s.updCtx c g).phase = s.phase := by cases c <;> rfl
@[simp] theorem State.updCtx_launches (s : State) (c : ApId) (g : ApCtx → ApCtx) : (s.updCtx c g).launches = s.launches := by cases c <;> rfl
@[simp] theorem State.updCtx_pkg (s : State) (c : ApId) (g : ApCtx → ApCtx) : (s.updCtx c g).pkg = s.pkg := by cases c <;> rfl
@[simp] theorem State.updCtx_cycle (s : State) (c : ApId) (g : ApCtx → ApCtx) : (s.updCtx c g).cycle = s.cycle := by cases c <;> rfl
@[simp] theorem State.updCtx_tick (s : State) (c : ApId) (g : ApCtx → ApCtx) : (s.updCtx c g).tick = s.tick := by cases c <;> rfl
@[simp] theorem State.updCtx_subtick (s : State) (c : ApId) (g : ApCtx → ApCtx) : (s.updCtx c g).subtick = s.subtick := by cases c <;> rfl
@[simp] theorem State.updCtx_inbox (s : State) (c : ApId) (g : ApCtx → ApCtx) : (s.updCtx c g).inbox = s.inbox := by cases c <;> rfl
@[simp] theorem State.updCtx_vault (s : State) (c : ApId) (g : ApCtx → ApCtx) : (s.updCtx c g).vault = s.vault := by cases c <;> rfl
@[simp] theorem State.updCtx_free (s : State) (c : ApId) (g : ApCtx → ApCtx) : (s.updCtx c g).free = s.free := by cases c <;> rfl
@[simp] theorem State.updCtx_r_bind (s : State) (c : ApId) (g : ApCtx → ApCtx) : (s.updCtx c g).r.bind = s.r.bind := by cases c <;> rfl
@[simp] theorem State.updCtx_r_stage (s : State) (c : ApId) (g : ApCtx → ApCtx) : (s.updCtx c g).r.stage = s.r.stage := by cases c <;> rfl
@[simp] theorem State.updCtx_r_ep (s : State) (c : ApId) (g : ApCtx → ApCtx) : (s.updCtx c g).r.ep = s.r.ep := by cases c <;> rfl
@[simp] theorem State.updCtx_r_task (s : State) (c : ApId) (g : ApCtx → ApCtx) : (s.updCtx c g).r.task = s.r.task := by cases c <;> rfl
@[simp] theorem State.updCtx_r_deque (s : State) (c : ApId) (g : ApCtx → ApCtx) : (s.updCtx c g).r.deque = s.r.deque := by cases c <;> rfl
@[simp] theorem State.updCtx_r_st (s : State) (c : ApId) (g : ApCtx → ApCtx) : (s.updCtx c g).r.st = s.r.st := by cases c <;> rfl
@[simp] theorem State.updCtx_r_h (s : State) (c : ApId) (g : ApCtx → ApCtx) : (s.updCtx c g).r.h = s.r.h := by cases c <;> rfl
@[simp] theorem State.updCtx_r_xq (s : State) (c : ApId) (g : ApCtx → ApCtx) : (s.updCtx c g).r.xq = s.r.xq := by cases c <;> rfl
@[simp] theorem State.updCtx_r_yq (s : State) (c : ApId) (g : ApCtx → ApCtx) : (s.updCtx c g).r.yq = s.r.yq := by cases c <;> rfl
@[simp] theorem State.updCtx_r_fq (s : State) (c : ApId) (g : ApCtx → ApCtx) : (s.updCtx c g).r.fq = s.r.fq := by cases c <;> rfl
@[simp] theorem State.updCtx_r_follow (s : State) (c : ApId) (g : ApCtx → ApCtx) : (s.updCtx c g).r.follow = s.r.follow := by cases c <;> rfl
@[simp] theorem State.updCtx_r_cmds (s : State) (c : ApId) (g : ApCtx → ApCtx) : (s.updCtx c g).r.cmds = s.r.cmds := by cases c <;> rfl
@[simp] theorem State.updCtx_r_nextId (s : State) (c : ApId) (g : ApCtx → ApCtx) : (s.updCtx c g).r.nextId = s.r.nextId := by cases c <;> rfl
@[simp] theorem State.updCtx_r_chains (s : State) (c : ApId) (g : ApCtx → ApCtx) : (s.updCtx c g).r.chains = s.r.chains := by cases c <;> rfl
@[simp] theorem State.updCtx_r_slotWait (s : State) (c : ApId) (g : ApCtx → ApCtx) : (s.updCtx c g).r.slotWait = s.r.slotWait := by cases c <;> rfl
@[simp] theorem State.updCtx_r_bovr (s : State) (c : ApId) (g : ApCtx → ApCtx) : (s.updCtx c g).r.bovr = s.r.bovr := by cases c <;> rfl
@[simp] theorem State.updCtx_r_mx (s : State) (c : ApId) (g : ApCtx → ApCtx) : (s.updCtx c g).r.mx = s.r.mx := by cases c <;> rfl
@[simp] theorem State.updCtx_r_dm (s : State) (c : ApId) (g : ApCtx → ApCtx) : (s.updCtx c g).r.dm = s.r.dm := by cases c <;> rfl
@[simp] theorem State.updCtx_r_gz (s : State) (c : ApId) (g : ApCtx → ApCtx) : (s.updCtx c g).r.gz = s.r.gz := by cases c <;> rfl
@[simp] theorem State.updCtx_r_walks (s : State) (c : ApId) (g : ApCtx → ApCtx) : (s.updCtx c g).r.walks = s.r.walks := by cases c <;> rfl
@[simp] theorem State.updCtx_r_watch (s : State) (c : ApId) (g : ApCtx → ApCtx) : (s.updCtx c g).r.watch = s.r.watch := by cases c <;> rfl
@[simp] theorem State.updCtx_r_start (s : State) (c : ApId) (g : ApCtx → ApCtx) : (s.updCtx c g).r.start = s.r.start := by cases c <;> rfl
@[simp] theorem State.ctx_updCtx (s : State) (c : ApId) (g : ApCtx → ApCtx) : (s.updCtx c g).ctx c = g (s.ctx c) := by cases c <;> rfl
@[simp] theorem State.updCtx_entry (s : State) (c : ApId) (g : ApCtx → ApCtx) : (s.updCtx c g).entry = s.entry := by cases c <;> rfl
@[simp] theorem State.updCtx_part (s : State) (c : ApId) (g : ApCtx → ApCtx) : (s.updCtx c g).part = s.part := by cases c <;> rfl
@[simp] theorem State.updCtx_launch (s : State) (c : ApId) (g : ApCtx → ApCtx) : (s.updCtx c g).launch = s.launch := by cases c <;> rfl
@[simp] theorem State.updCtx_stream (s : State) (c : ApId) (g : ApCtx → ApCtx) (n : SReg) : (s.updCtx c g).stream n = s.stream n := by cases c <;> rfl
@[simp] theorem State.updCtx_streamStart (s : State) (c : ApId) (g : ApCtx → ApCtx) (n : SReg) : (s.updCtx c g).streamStart n = s.streamStart n := by cases c <;> rfl
@[simp] theorem State.updCtx_updCtx (s : State) (c : ApId) (g h : ApCtx → ApCtx) :
    (s.updCtx c g).updCtx c h = s.updCtx c fun x => h (g x) := by cases c <;> rfl

/-! ### Registers and predicates of the issuing context (R212) -/

@[simp] theorem State.setA_mem (s : State) (d : AReg) (v : W64) : (s.setA d v).mem = s.mem := by simp [State.setA]
@[simp] theorem State.setA_others (s : State) (d : AReg) (v : W64) : (s.setA d v).others = s.others := by simp [State.setA]
@[simp] theorem State.setA_turns (s : State) (d : AReg) (v : W64) : (s.setA d v).turns = s.turns := by simp [State.setA]
@[simp] theorem State.setA_banks (s : State) (d : AReg) (v : W64) : (s.setA d v).banks = s.banks := by simp [State.setA]
@[simp] theorem State.setA_ap (s : State) (d : AReg) (v : W64) : (s.setA d v).ap = s.ap := by simp [State.setA]
@[simp] theorem State.setA_phase (s : State) (d : AReg) (v : W64) : (s.setA d v).phase = s.phase := by simp [State.setA]
@[simp] theorem State.setA_launches (s : State) (d : AReg) (v : W64) : (s.setA d v).launches = s.launches := by simp [State.setA]
@[simp] theorem State.setA_pkg (s : State) (d : AReg) (v : W64) : (s.setA d v).pkg = s.pkg := by simp [State.setA]
@[simp] theorem State.setA_cycle (s : State) (d : AReg) (v : W64) : (s.setA d v).cycle = s.cycle := by simp [State.setA]
@[simp] theorem State.setA_tick (s : State) (d : AReg) (v : W64) : (s.setA d v).tick = s.tick := by simp [State.setA]
@[simp] theorem State.setA_subtick (s : State) (d : AReg) (v : W64) : (s.setA d v).subtick = s.subtick := by simp [State.setA]
@[simp] theorem State.setA_inbox (s : State) (d : AReg) (v : W64) : (s.setA d v).inbox = s.inbox := by simp [State.setA]
@[simp] theorem State.setA_vault (s : State) (d : AReg) (v : W64) : (s.setA d v).vault = s.vault := by simp [State.setA]
@[simp] theorem State.setA_free (s : State) (d : AReg) (v : W64) : (s.setA d v).free = s.free := by simp [State.setA]
@[simp] theorem State.setA_r_bind (s : State) (d : AReg) (v : W64) : (s.setA d v).r.bind = s.r.bind := by simp [State.setA]
@[simp] theorem State.setA_r_stage (s : State) (d : AReg) (v : W64) : (s.setA d v).r.stage = s.r.stage := by simp [State.setA]
@[simp] theorem State.setA_r_ep (s : State) (d : AReg) (v : W64) : (s.setA d v).r.ep = s.r.ep := by simp [State.setA]
@[simp] theorem State.setA_r_task (s : State) (d : AReg) (v : W64) : (s.setA d v).r.task = s.r.task := by simp [State.setA]
@[simp] theorem State.setA_r_deque (s : State) (d : AReg) (v : W64) : (s.setA d v).r.deque = s.r.deque := by simp [State.setA]
@[simp] theorem State.setA_r_st (s : State) (d : AReg) (v : W64) : (s.setA d v).r.st = s.r.st := by simp [State.setA]
@[simp] theorem State.setA_r_h (s : State) (d : AReg) (v : W64) : (s.setA d v).r.h = s.r.h := by simp [State.setA]
@[simp] theorem State.setA_r_xq (s : State) (d : AReg) (v : W64) : (s.setA d v).r.xq = s.r.xq := by simp [State.setA]
@[simp] theorem State.setA_r_yq (s : State) (d : AReg) (v : W64) : (s.setA d v).r.yq = s.r.yq := by simp [State.setA]
@[simp] theorem State.setA_r_fq (s : State) (d : AReg) (v : W64) : (s.setA d v).r.fq = s.r.fq := by simp [State.setA]
@[simp] theorem State.setA_r_follow (s : State) (d : AReg) (v : W64) : (s.setA d v).r.follow = s.r.follow := by simp [State.setA]
@[simp] theorem State.setA_r_cmds (s : State) (d : AReg) (v : W64) : (s.setA d v).r.cmds = s.r.cmds := by simp [State.setA]
@[simp] theorem State.setA_r_nextId (s : State) (d : AReg) (v : W64) : (s.setA d v).r.nextId = s.r.nextId := by simp [State.setA]
@[simp] theorem State.setA_r_chains (s : State) (d : AReg) (v : W64) : (s.setA d v).r.chains = s.r.chains := by simp [State.setA]
@[simp] theorem State.setA_r_slotWait (s : State) (d : AReg) (v : W64) : (s.setA d v).r.slotWait = s.r.slotWait := by simp [State.setA]
@[simp] theorem State.setA_r_bovr (s : State) (d : AReg) (v : W64) : (s.setA d v).r.bovr = s.r.bovr := by simp [State.setA]
@[simp] theorem State.setA_r_mx (s : State) (d : AReg) (v : W64) : (s.setA d v).r.mx = s.r.mx := by simp [State.setA]
@[simp] theorem State.setA_r_dm (s : State) (d : AReg) (v : W64) : (s.setA d v).r.dm = s.r.dm := by simp [State.setA]
@[simp] theorem State.setA_r_gz (s : State) (d : AReg) (v : W64) : (s.setA d v).r.gz = s.r.gz := by simp [State.setA]
@[simp] theorem State.setA_r_walks (s : State) (d : AReg) (v : W64) : (s.setA d v).r.walks = s.r.walks := by simp [State.setA]
@[simp] theorem State.setA_r_watch (s : State) (d : AReg) (v : W64) : (s.setA d v).r.watch = s.r.watch := by simp [State.setA]
@[simp] theorem State.setA_r_start (s : State) (d : AReg) (v : W64) : (s.setA d v).r.start = s.r.start := by simp [State.setA]
@[simp] theorem State.setQ_mem (s : State) (d : Guard) (v : Bool) : (s.setQ d v).mem = s.mem := by simp [State.setQ]
@[simp] theorem State.setQ_others (s : State) (d : Guard) (v : Bool) : (s.setQ d v).others = s.others := by simp [State.setQ]
@[simp] theorem State.setQ_turns (s : State) (d : Guard) (v : Bool) : (s.setQ d v).turns = s.turns := by simp [State.setQ]
@[simp] theorem State.setQ_banks (s : State) (d : Guard) (v : Bool) : (s.setQ d v).banks = s.banks := by simp [State.setQ]
@[simp] theorem State.setQ_ap (s : State) (d : Guard) (v : Bool) : (s.setQ d v).ap = s.ap := by simp [State.setQ]
@[simp] theorem State.setQ_phase (s : State) (d : Guard) (v : Bool) : (s.setQ d v).phase = s.phase := by simp [State.setQ]
@[simp] theorem State.setQ_launches (s : State) (d : Guard) (v : Bool) : (s.setQ d v).launches = s.launches := by simp [State.setQ]
@[simp] theorem State.setQ_pkg (s : State) (d : Guard) (v : Bool) : (s.setQ d v).pkg = s.pkg := by simp [State.setQ]
@[simp] theorem State.setQ_cycle (s : State) (d : Guard) (v : Bool) : (s.setQ d v).cycle = s.cycle := by simp [State.setQ]
@[simp] theorem State.setQ_tick (s : State) (d : Guard) (v : Bool) : (s.setQ d v).tick = s.tick := by simp [State.setQ]
@[simp] theorem State.setQ_subtick (s : State) (d : Guard) (v : Bool) : (s.setQ d v).subtick = s.subtick := by simp [State.setQ]
@[simp] theorem State.setQ_inbox (s : State) (d : Guard) (v : Bool) : (s.setQ d v).inbox = s.inbox := by simp [State.setQ]
@[simp] theorem State.setQ_vault (s : State) (d : Guard) (v : Bool) : (s.setQ d v).vault = s.vault := by simp [State.setQ]
@[simp] theorem State.setQ_free (s : State) (d : Guard) (v : Bool) : (s.setQ d v).free = s.free := by simp [State.setQ]
@[simp] theorem State.setQ_r_bind (s : State) (d : Guard) (v : Bool) : (s.setQ d v).r.bind = s.r.bind := by simp [State.setQ]
@[simp] theorem State.setQ_r_stage (s : State) (d : Guard) (v : Bool) : (s.setQ d v).r.stage = s.r.stage := by simp [State.setQ]
@[simp] theorem State.setQ_r_ep (s : State) (d : Guard) (v : Bool) : (s.setQ d v).r.ep = s.r.ep := by simp [State.setQ]
@[simp] theorem State.setQ_r_task (s : State) (d : Guard) (v : Bool) : (s.setQ d v).r.task = s.r.task := by simp [State.setQ]
@[simp] theorem State.setQ_r_deque (s : State) (d : Guard) (v : Bool) : (s.setQ d v).r.deque = s.r.deque := by simp [State.setQ]
@[simp] theorem State.setQ_r_st (s : State) (d : Guard) (v : Bool) : (s.setQ d v).r.st = s.r.st := by simp [State.setQ]
@[simp] theorem State.setQ_r_h (s : State) (d : Guard) (v : Bool) : (s.setQ d v).r.h = s.r.h := by simp [State.setQ]
@[simp] theorem State.setQ_r_xq (s : State) (d : Guard) (v : Bool) : (s.setQ d v).r.xq = s.r.xq := by simp [State.setQ]
@[simp] theorem State.setQ_r_yq (s : State) (d : Guard) (v : Bool) : (s.setQ d v).r.yq = s.r.yq := by simp [State.setQ]
@[simp] theorem State.setQ_r_fq (s : State) (d : Guard) (v : Bool) : (s.setQ d v).r.fq = s.r.fq := by simp [State.setQ]
@[simp] theorem State.setQ_r_follow (s : State) (d : Guard) (v : Bool) : (s.setQ d v).r.follow = s.r.follow := by simp [State.setQ]
@[simp] theorem State.setQ_r_cmds (s : State) (d : Guard) (v : Bool) : (s.setQ d v).r.cmds = s.r.cmds := by simp [State.setQ]
@[simp] theorem State.setQ_r_nextId (s : State) (d : Guard) (v : Bool) : (s.setQ d v).r.nextId = s.r.nextId := by simp [State.setQ]
@[simp] theorem State.setQ_r_chains (s : State) (d : Guard) (v : Bool) : (s.setQ d v).r.chains = s.r.chains := by simp [State.setQ]
@[simp] theorem State.setQ_r_slotWait (s : State) (d : Guard) (v : Bool) : (s.setQ d v).r.slotWait = s.r.slotWait := by simp [State.setQ]
@[simp] theorem State.setQ_r_bovr (s : State) (d : Guard) (v : Bool) : (s.setQ d v).r.bovr = s.r.bovr := by simp [State.setQ]
@[simp] theorem State.setQ_r_mx (s : State) (d : Guard) (v : Bool) : (s.setQ d v).r.mx = s.r.mx := by simp [State.setQ]
@[simp] theorem State.setQ_r_dm (s : State) (d : Guard) (v : Bool) : (s.setQ d v).r.dm = s.r.dm := by simp [State.setQ]
@[simp] theorem State.setQ_r_gz (s : State) (d : Guard) (v : Bool) : (s.setQ d v).r.gz = s.r.gz := by simp [State.setQ]
@[simp] theorem State.setQ_r_walks (s : State) (d : Guard) (v : Bool) : (s.setQ d v).r.walks = s.r.walks := by simp [State.setQ]
@[simp] theorem State.setQ_r_watch (s : State) (d : Guard) (v : Bool) : (s.setQ d v).r.watch = s.r.watch := by simp [State.setQ]
@[simp] theorem State.setQ_r_start (s : State) (d : Guard) (v : Bool) : (s.setQ d v).r.start = s.r.start := by simp [State.setQ]
/-- A register reads what was last written to it; a0 reads zero. -/
@[simp] theorem ApCtx.get_put (c : ApCtx) (d n : AReg) (v : W64) :
    (c.put d v).get n = if n = 0 then 0 else if n = d then v else c.get n := by
  unfold ApCtx.get ApCtx.put
  by_cases h0 : n = 0
  · simp [h0]
  · by_cases hd : d = 0
    · have : n ≠ d := fun h => h0 (h.trans hd)
      simp [h0, hd]
    · by_cases hn : n = d
      · subst hn; simp [h0]
      · have h2 : d.val ≠ n.val := fun h => hn (Fin.ext h.symm)
        simp [h0, hd, hn, h2]
@[simp] theorem ApCtx.pred_put (c : ApCtx) (d : AReg) (v : W64) (n : Guard) : (c.put d v).pred n = c.pred n := by
  unfold ApCtx.put; split <;> rfl
@[simp] theorem ApCtx.pred_putPred (c : ApCtx) (d n : Guard) (v : Bool) :
    (c.putPred d v).pred n = if n = 0 then true else if n = d then v else c.pred n := by
  unfold ApCtx.pred ApCtx.putPred
  by_cases h0 : n = 0
  · simp [h0]
  · by_cases hd : d = 0
    · have : n ≠ d := fun h => h0 (h.trans hd)
      simp [h0, hd]
    · by_cases hn : n = d
      · subst hn; simp [h0]
      · have h2 : d.val ≠ n.val := fun h => hn (Fin.ext h.symm)
        simp [h0, hd, hn, h2]
@[simp] theorem ApCtx.get_putPred (c : ApCtx) (d : Guard) (v : Bool) (n : AReg) : (c.putPred d v).get n = c.get n := by
  unfold ApCtx.putPred; split <;> rfl
@[simp] theorem ApCtx.get_flow (c : ApCtx) (fl : Flow) (n : AReg) : (c.flow fl).get n = c.get n := by cases fl <;> rfl
@[simp] theorem ApCtx.pred_flow (c : ApCtx) (fl : Flow) (n : Guard) : (c.flow fl).pred n = c.pred n := by cases fl <;> rfl
@[simp] theorem ApCtx.get_slot (c : ApCtx) (n : AReg) : c.slot.get n = c.get n := rfl
@[simp] theorem ApCtx.pred_slot (c : ApCtx) (n : Guard) : c.slot.pred n = c.pred n := rfl
@[simp] theorem ApCtx.slot_pc (c : ApCtx) : c.slot.pc = c.pc := rfl
@[simp] theorem ApCtx.slot_loops (c : ApCtx) : c.slot.loops = c.loops := rfl
@[simp] theorem ApCtx.slot_status (c : ApCtx) : c.slot.status = c.status := rfl
@[simp] theorem ApCtx.slot_pending (c : ApCtx) : c.slot.pending = c.pending := rfl
@[simp] theorem State.areg_setA (s : State) (d n : AReg) (v : W64) :
    (s.setA d v).areg n = if n = 0 then 0 else if n = d then v else s.areg n := by simp [State.areg, State.setA]
@[simp] theorem State.apred_setA (s : State) (d : AReg) (v : W64) (n : Guard) : (s.setA d v).apred n = s.apred n := by
  simp [State.apred, State.setA]
@[simp] theorem State.apred_setQ (s : State) (d n : Guard) (v : Bool) :
    (s.setQ d v).apred n = if n = 0 then true else if n = d then v else s.apred n := by simp [State.apred, State.setQ]
@[simp] theorem State.areg_setQ (s : State) (d : Guard) (v : Bool) (n : AReg) : (s.setQ d v).areg n = s.areg n := by
  simp [State.areg, State.setQ]

/-! ### Context E -/

@[simp] theorem State.updE_mem (s : State) (f : EpCtx → EpCtx) : (s.updE f).mem = s.mem := rfl
@[simp] theorem State.updE_others (s : State) (f : EpCtx → EpCtx) : (s.updE f).others = s.others := rfl
@[simp] theorem State.updE_turns (s : State) (f : EpCtx → EpCtx) : (s.updE f).turns = s.turns := rfl
@[simp] theorem State.updE_banks (s : State) (f : EpCtx → EpCtx) : (s.updE f).banks = s.banks := rfl
@[simp] theorem State.updE_ap (s : State) (f : EpCtx → EpCtx) : (s.updE f).ap = s.ap := rfl
@[simp] theorem State.updE_phase (s : State) (f : EpCtx → EpCtx) : (s.updE f).phase = s.phase := rfl
@[simp] theorem State.updE_launches (s : State) (f : EpCtx → EpCtx) : (s.updE f).launches = s.launches := rfl
@[simp] theorem State.updE_pkg (s : State) (f : EpCtx → EpCtx) : (s.updE f).pkg = s.pkg := rfl
@[simp] theorem State.updE_cycle (s : State) (f : EpCtx → EpCtx) : (s.updE f).cycle = s.cycle := rfl
@[simp] theorem State.updE_tick (s : State) (f : EpCtx → EpCtx) : (s.updE f).tick = s.tick := rfl
@[simp] theorem State.updE_subtick (s : State) (f : EpCtx → EpCtx) : (s.updE f).subtick = s.subtick := rfl
@[simp] theorem State.updE_inbox (s : State) (f : EpCtx → EpCtx) : (s.updE f).inbox = s.inbox := rfl
@[simp] theorem State.updE_vault (s : State) (f : EpCtx → EpCtx) : (s.updE f).vault = s.vault := rfl
@[simp] theorem State.updE_free (s : State) (f : EpCtx → EpCtx) : (s.updE f).free = s.free := rfl
@[simp] theorem State.updE_r_bind (s : State) (f : EpCtx → EpCtx) : (s.updE f).r.bind = s.r.bind := rfl
@[simp] theorem State.updE_r_stage (s : State) (f : EpCtx → EpCtx) : (s.updE f).r.stage = s.r.stage := rfl
@[simp] theorem State.updE_r_f (s : State) (f : EpCtx → EpCtx) : (s.updE f).r.f = s.r.f := rfl
@[simp] theorem State.updE_r_d (s : State) (f : EpCtx → EpCtx) : (s.updE f).r.d = s.r.d := rfl
@[simp] theorem State.updE_r_ep (s : State) (f : EpCtx → EpCtx) : (s.updE f).r.ep = f s.r.ep := rfl
@[simp] theorem State.updE_r_task (s : State) (f : EpCtx → EpCtx) : (s.updE f).r.task = s.r.task := rfl
@[simp] theorem State.updE_r_deque (s : State) (f : EpCtx → EpCtx) : (s.updE f).r.deque = s.r.deque := rfl
@[simp] theorem State.updE_r_st (s : State) (f : EpCtx → EpCtx) : (s.updE f).r.st = s.r.st := rfl
@[simp] theorem State.updE_r_h (s : State) (f : EpCtx → EpCtx) : (s.updE f).r.h = s.r.h := rfl
@[simp] theorem State.updE_r_xq (s : State) (f : EpCtx → EpCtx) : (s.updE f).r.xq = s.r.xq := rfl
@[simp] theorem State.updE_r_yq (s : State) (f : EpCtx → EpCtx) : (s.updE f).r.yq = s.r.yq := rfl
@[simp] theorem State.updE_r_fq (s : State) (f : EpCtx → EpCtx) : (s.updE f).r.fq = s.r.fq := rfl
@[simp] theorem State.updE_r_follow (s : State) (f : EpCtx → EpCtx) : (s.updE f).r.follow = s.r.follow := rfl
@[simp] theorem State.updE_r_cmds (s : State) (f : EpCtx → EpCtx) : (s.updE f).r.cmds = s.r.cmds := rfl
@[simp] theorem State.updE_r_nextId (s : State) (f : EpCtx → EpCtx) : (s.updE f).r.nextId = s.r.nextId := rfl
@[simp] theorem State.updE_r_chains (s : State) (f : EpCtx → EpCtx) : (s.updE f).r.chains = s.r.chains := rfl
@[simp] theorem State.updE_r_slotWait (s : State) (f : EpCtx → EpCtx) : (s.updE f).r.slotWait = s.r.slotWait := rfl
@[simp] theorem State.updE_r_bovr (s : State) (f : EpCtx → EpCtx) : (s.updE f).r.bovr = s.r.bovr := rfl
@[simp] theorem State.updE_r_mx (s : State) (f : EpCtx → EpCtx) : (s.updE f).r.mx = s.r.mx := rfl
@[simp] theorem State.updE_r_dm (s : State) (f : EpCtx → EpCtx) : (s.updE f).r.dm = s.r.dm := rfl
@[simp] theorem State.updE_r_gz (s : State) (f : EpCtx → EpCtx) : (s.updE f).r.gz = s.r.gz := rfl
@[simp] theorem State.updE_r_walks (s : State) (f : EpCtx → EpCtx) : (s.updE f).r.walks = s.r.walks := rfl
@[simp] theorem State.updE_r_watch (s : State) (f : EpCtx → EpCtx) : (s.updE f).r.watch = s.r.watch := rfl
@[simp] theorem State.updE_r_start (s : State) (f : EpCtx → EpCtx) : (s.updE f).r.start = s.r.start := rfl

/-! ### Movement, streams, partitions and launches -/

@[simp] theorem State.move_mem (s : State) : s.move.mem = s.mem := rfl
@[simp] theorem State.move_others (s : State) : s.move.others = s.others := rfl
@[simp] theorem State.move_turns (s : State) : s.move.turns = s.turns := rfl
@[simp] theorem State.move_banks (s : State) : s.move.banks = s.banks := rfl
@[simp] theorem State.move_ap (s : State) : s.move.ap = s.ap := rfl
@[simp] theorem State.move_phase (s : State) : s.move.phase = s.phase := rfl
@[simp] theorem State.move_launches (s : State) : s.move.launches = s.launches := rfl
@[simp] theorem State.move_pkg (s : State) : s.move.pkg = s.pkg := rfl
@[simp] theorem State.move_cycle (s : State) : s.move.cycle = s.cycle := rfl
@[simp] theorem State.move_tick (s : State) : s.move.tick = s.tick := rfl
@[simp] theorem State.move_subtick (s : State) : s.move.subtick = s.subtick := rfl
@[simp] theorem State.move_inbox (s : State) : s.move.inbox = s.inbox := rfl
@[simp] theorem State.move_vault (s : State) : s.move.vault = s.vault := rfl
@[simp] theorem State.move_free (s : State) : s.move.free = s.free := rfl
@[simp] theorem State.move_r_bind (s : State) : s.move.r.bind = s.r.bind := rfl
@[simp] theorem State.move_r_stage (s : State) : s.move.r.stage = s.r.stage := rfl
@[simp] theorem State.move_r_f (s : State) : s.move.r.f = s.r.f := rfl
@[simp] theorem State.move_r_d (s : State) : s.move.r.d = s.r.d := rfl
@[simp] theorem State.move_r_ep (s : State) : s.move.r.ep = s.r.ep := rfl
@[simp] theorem State.move_r_task (s : State) : s.move.r.task = s.r.task := rfl
@[simp] theorem State.move_r_deque (s : State) : s.move.r.deque = s.r.deque := rfl
@[simp] theorem State.move_r_st (s : State) : s.move.r.st = s.r.st := rfl
@[simp] theorem State.move_r_h (s : State) : s.move.r.h = s.r.h := rfl
@[simp] theorem State.move_r_xq (s : State) : s.move.r.xq = s.r.xq := rfl
@[simp] theorem State.move_r_yq (s : State) : s.move.r.yq = s.r.yq := rfl
@[simp] theorem State.move_r_fq (s : State) : s.move.r.fq = s.r.fq := rfl
@[simp] theorem State.move_r_follow (s : State) : s.move.r.follow = s.r.follow := rfl
@[simp] theorem State.move_r_cmds (s : State) : s.move.r.cmds = s.r.cmds := rfl
@[simp] theorem State.move_r_nextId (s : State) : s.move.r.nextId = s.r.nextId := rfl
@[simp] theorem State.move_r_chains (s : State) : s.move.r.chains = s.r.chains := rfl
@[simp] theorem State.move_r_slotWait (s : State) : s.move.r.slotWait = s.r.slotWait := rfl
@[simp] theorem State.move_r_bovr (s : State) : s.move.r.bovr = s.r.bovr := rfl
@[simp] theorem State.move_r_mx (s : State) : s.move.r.mx = s.r.mx := rfl
@[simp] theorem State.move_r_dm (s : State) : s.move.r.dm = s.r.dm := rfl
@[simp] theorem State.move_r_gz (s : State) : s.move.r.gz = s.r.gz := rfl
@[simp] theorem State.move_r_walks (s : State) : s.move.r.walks = s.r.walks := rfl
@[simp] theorem State.move_r_start (s : State) : s.move.r.start = s.r.start := rfl
@[simp] theorem State.updSt_mem (s : State) (n : SReg) (f : StreamReg → StreamReg) : (s.updSt n f).mem = s.mem := rfl
@[simp] theorem State.updSt_others (s : State) (n : SReg) (f : StreamReg → StreamReg) : (s.updSt n f).others = s.others := rfl
@[simp] theorem State.updSt_turns (s : State) (n : SReg) (f : StreamReg → StreamReg) : (s.updSt n f).turns = s.turns := rfl
@[simp] theorem State.updSt_banks (s : State) (n : SReg) (f : StreamReg → StreamReg) : (s.updSt n f).banks = s.banks := rfl
@[simp] theorem State.updSt_ap (s : State) (n : SReg) (f : StreamReg → StreamReg) : (s.updSt n f).ap = s.ap := rfl
@[simp] theorem State.updSt_phase (s : State) (n : SReg) (f : StreamReg → StreamReg) : (s.updSt n f).phase = s.phase := rfl
@[simp] theorem State.updSt_launches (s : State) (n : SReg) (f : StreamReg → StreamReg) : (s.updSt n f).launches = s.launches := rfl
@[simp] theorem State.updSt_pkg (s : State) (n : SReg) (f : StreamReg → StreamReg) : (s.updSt n f).pkg = s.pkg := rfl
@[simp] theorem State.updSt_cycle (s : State) (n : SReg) (f : StreamReg → StreamReg) : (s.updSt n f).cycle = s.cycle := rfl
@[simp] theorem State.updSt_tick (s : State) (n : SReg) (f : StreamReg → StreamReg) : (s.updSt n f).tick = s.tick := rfl
@[simp] theorem State.updSt_subtick (s : State) (n : SReg) (f : StreamReg → StreamReg) : (s.updSt n f).subtick = s.subtick := rfl
@[simp] theorem State.updSt_inbox (s : State) (n : SReg) (f : StreamReg → StreamReg) : (s.updSt n f).inbox = s.inbox := rfl
@[simp] theorem State.updSt_vault (s : State) (n : SReg) (f : StreamReg → StreamReg) : (s.updSt n f).vault = s.vault := rfl
@[simp] theorem State.updSt_free (s : State) (n : SReg) (f : StreamReg → StreamReg) : (s.updSt n f).free = s.free := rfl
@[simp] theorem State.updSt_r_bind (s : State) (n : SReg) (f : StreamReg → StreamReg) : (s.updSt n f).r.bind = s.r.bind := rfl
@[simp] theorem State.updSt_r_stage (s : State) (n : SReg) (f : StreamReg → StreamReg) : (s.updSt n f).r.stage = s.r.stage := rfl
@[simp] theorem State.updSt_r_f (s : State) (n : SReg) (f : StreamReg → StreamReg) : (s.updSt n f).r.f = s.r.f := rfl
@[simp] theorem State.updSt_r_d (s : State) (n : SReg) (f : StreamReg → StreamReg) : (s.updSt n f).r.d = s.r.d := rfl
@[simp] theorem State.updSt_r_ep (s : State) (n : SReg) (f : StreamReg → StreamReg) : (s.updSt n f).r.ep = s.r.ep := rfl
@[simp] theorem State.updSt_r_task (s : State) (n : SReg) (f : StreamReg → StreamReg) : (s.updSt n f).r.task = s.r.task := rfl
@[simp] theorem State.updSt_r_deque (s : State) (n : SReg) (f : StreamReg → StreamReg) : (s.updSt n f).r.deque = s.r.deque := rfl
@[simp] theorem State.updSt_r_h (s : State) (n : SReg) (f : StreamReg → StreamReg) : (s.updSt n f).r.h = s.r.h := rfl
@[simp] theorem State.updSt_r_xq (s : State) (n : SReg) (f : StreamReg → StreamReg) : (s.updSt n f).r.xq = s.r.xq := rfl
@[simp] theorem State.updSt_r_yq (s : State) (n : SReg) (f : StreamReg → StreamReg) : (s.updSt n f).r.yq = s.r.yq := rfl
@[simp] theorem State.updSt_r_fq (s : State) (n : SReg) (f : StreamReg → StreamReg) : (s.updSt n f).r.fq = s.r.fq := rfl
@[simp] theorem State.updSt_r_follow (s : State) (n : SReg) (f : StreamReg → StreamReg) : (s.updSt n f).r.follow = s.r.follow := rfl
@[simp] theorem State.updSt_r_cmds (s : State) (n : SReg) (f : StreamReg → StreamReg) : (s.updSt n f).r.cmds = s.r.cmds := rfl
@[simp] theorem State.updSt_r_nextId (s : State) (n : SReg) (f : StreamReg → StreamReg) : (s.updSt n f).r.nextId = s.r.nextId := rfl
@[simp] theorem State.updSt_r_chains (s : State) (n : SReg) (f : StreamReg → StreamReg) : (s.updSt n f).r.chains = s.r.chains := rfl
@[simp] theorem State.updSt_r_slotWait (s : State) (n : SReg) (f : StreamReg → StreamReg) : (s.updSt n f).r.slotWait = s.r.slotWait := rfl
@[simp] theorem State.updSt_r_bovr (s : State) (n : SReg) (f : StreamReg → StreamReg) : (s.updSt n f).r.bovr = s.r.bovr := rfl
@[simp] theorem State.updSt_r_mx (s : State) (n : SReg) (f : StreamReg → StreamReg) : (s.updSt n f).r.mx = s.r.mx := rfl
@[simp] theorem State.updSt_r_dm (s : State) (n : SReg) (f : StreamReg → StreamReg) : (s.updSt n f).r.dm = s.r.dm := rfl
@[simp] theorem State.updSt_r_gz (s : State) (n : SReg) (f : StreamReg → StreamReg) : (s.updSt n f).r.gz = s.r.gz := rfl
@[simp] theorem State.updSt_r_walks (s : State) (n : SReg) (f : StreamReg → StreamReg) : (s.updSt n f).r.walks = s.r.walks := rfl
@[simp] theorem State.updSt_r_watch (s : State) (n : SReg) (f : StreamReg → StreamReg) : (s.updSt n f).r.watch = s.r.watch := rfl
@[simp] theorem State.updSt_r_start (s : State) (n : SReg) (f : StreamReg → StreamReg) : (s.updSt n f).r.start = s.r.start := rfl
@[simp] theorem State.stream_updSt (s : State) (n k : SReg) (f : StreamReg → StreamReg) :
    (s.updSt n f).stream k = if k = n then f (s.stream n) else s.stream k := by
  unfold State.stream State.updSt State.updR
  by_cases h : k = n
  · subst h; simp
  · have h2 : n.val ≠ k.val := fun e => h (Fin.ext e.symm)
    simp [h, h2]
@[simp] theorem State.updPart_mem (s : State) (p : Fin 8) (f : Partition → Partition) : (s.updPart p f).mem = s.mem := rfl
@[simp] theorem State.updPart_r (s : State) (p : Fin 8) (f : Partition → Partition) : (s.updPart p f).r = s.r := rfl
@[simp] theorem State.updPart_others (s : State) (p : Fin 8) (f : Partition → Partition) : (s.updPart p f).others = s.others := rfl
@[simp] theorem State.updPart_turns (s : State) (p : Fin 8) (f : Partition → Partition) : (s.updPart p f).turns = s.turns := rfl
@[simp] theorem State.updPart_banks (s : State) (p : Fin 8) (f : Partition → Partition) : (s.updPart p f).banks = s.banks := rfl
@[simp] theorem State.updPart_ap (s : State) (p : Fin 8) (f : Partition → Partition) : (s.updPart p f).ap = s.ap := rfl
@[simp] theorem State.updPart_phase (s : State) (p : Fin 8) (f : Partition → Partition) : (s.updPart p f).phase = s.phase := rfl
@[simp] theorem State.updPart_launches (s : State) (p : Fin 8) (f : Partition → Partition) : (s.updPart p f).launches = s.launches := rfl
@[simp] theorem State.updPart_cycle (s : State) (p : Fin 8) (f : Partition → Partition) : (s.updPart p f).cycle = s.cycle := rfl
@[simp] theorem State.updPart_tick (s : State) (p : Fin 8) (f : Partition → Partition) : (s.updPart p f).tick = s.tick := rfl
@[simp] theorem State.updPart_subtick (s : State) (p : Fin 8) (f : Partition → Partition) : (s.updPart p f).subtick = s.subtick := rfl
@[simp] theorem State.updPart_inbox (s : State) (p : Fin 8) (f : Partition → Partition) : (s.updPart p f).inbox = s.inbox := rfl
@[simp] theorem State.updPart_vault (s : State) (p : Fin 8) (f : Partition → Partition) : (s.updPart p f).vault = s.vault := rfl
@[simp] theorem State.updPart_free (s : State) (p : Fin 8) (f : Partition → Partition) : (s.updPart p f).free = s.free := rfl
@[simp] theorem State.updLaunch_mem (s : State) (id : W32) (f : Launch → Launch) : (s.updLaunch id f).mem = s.mem := rfl
@[simp] theorem State.updLaunch_r (s : State) (id : W32) (f : Launch → Launch) : (s.updLaunch id f).r = s.r := rfl
@[simp] theorem State.updLaunch_others (s : State) (id : W32) (f : Launch → Launch) : (s.updLaunch id f).others = s.others := rfl
@[simp] theorem State.updLaunch_turns (s : State) (id : W32) (f : Launch → Launch) : (s.updLaunch id f).turns = s.turns := rfl
@[simp] theorem State.updLaunch_banks (s : State) (id : W32) (f : Launch → Launch) : (s.updLaunch id f).banks = s.banks := rfl
@[simp] theorem State.updLaunch_ap (s : State) (id : W32) (f : Launch → Launch) : (s.updLaunch id f).ap = s.ap := rfl
@[simp] theorem State.updLaunch_phase (s : State) (id : W32) (f : Launch → Launch) : (s.updLaunch id f).phase = s.phase := rfl
@[simp] theorem State.updLaunch_pkg (s : State) (id : W32) (f : Launch → Launch) : (s.updLaunch id f).pkg = s.pkg := rfl
@[simp] theorem State.updLaunch_cycle (s : State) (id : W32) (f : Launch → Launch) : (s.updLaunch id f).cycle = s.cycle := rfl
@[simp] theorem State.updLaunch_tick (s : State) (id : W32) (f : Launch → Launch) : (s.updLaunch id f).tick = s.tick := rfl
@[simp] theorem State.updLaunch_subtick (s : State) (id : W32) (f : Launch → Launch) : (s.updLaunch id f).subtick = s.subtick := rfl
@[simp] theorem State.updLaunch_inbox (s : State) (id : W32) (f : Launch → Launch) : (s.updLaunch id f).inbox = s.inbox := rfl
@[simp] theorem State.updLaunch_vault (s : State) (id : W32) (f : Launch → Launch) : (s.updLaunch id f).vault = s.vault := rfl
@[simp] theorem State.updLaunch_free (s : State) (id : W32) (f : Launch → Launch) : (s.updLaunch id f).free = s.free := rfl
@[simp] theorem State.updMine_mem (s : State) (f : Launch → Launch) : (s.updMine f).mem = s.mem := rfl
@[simp] theorem State.updMine_r (s : State) (f : Launch → Launch) : (s.updMine f).r = s.r := rfl
@[simp] theorem State.updMine_others (s : State) (f : Launch → Launch) : (s.updMine f).others = s.others := rfl
@[simp] theorem State.updMine_turns (s : State) (f : Launch → Launch) : (s.updMine f).turns = s.turns := rfl
@[simp] theorem State.updMine_banks (s : State) (f : Launch → Launch) : (s.updMine f).banks = s.banks := rfl
@[simp] theorem State.updMine_ap (s : State) (f : Launch → Launch) : (s.updMine f).ap = s.ap := rfl
@[simp] theorem State.updMine_phase (s : State) (f : Launch → Launch) : (s.updMine f).phase = s.phase := rfl
@[simp] theorem State.updMine_pkg (s : State) (f : Launch → Launch) : (s.updMine f).pkg = s.pkg := rfl
@[simp] theorem State.updMine_cycle (s : State) (f : Launch → Launch) : (s.updMine f).cycle = s.cycle := rfl
@[simp] theorem State.updMine_tick (s : State) (f : Launch → Launch) : (s.updMine f).tick = s.tick := rfl
@[simp] theorem State.updMine_subtick (s : State) (f : Launch → Launch) : (s.updMine f).subtick = s.subtick := rfl
@[simp] theorem State.updMine_inbox (s : State) (f : Launch → Launch) : (s.updMine f).inbox = s.inbox := rfl
@[simp] theorem State.updMine_vault (s : State) (f : Launch → Launch) : (s.updMine f).vault = s.vault := rfl
@[simp] theorem State.updMine_free (s : State) (f : Launch → Launch) : (s.updMine f).free = s.free := rfl
@[simp] theorem State.draw_mem (s : State) : s.draw.2.mem = s.mem := rfl
@[simp] theorem State.draw_r (s : State) : s.draw.2.r = s.r := rfl
@[simp] theorem State.draw_others (s : State) : s.draw.2.others = s.others := rfl
@[simp] theorem State.draw_turns (s : State) : s.draw.2.turns = s.turns := rfl
@[simp] theorem State.draw_banks (s : State) : s.draw.2.banks = s.banks := rfl
@[simp] theorem State.draw_ap (s : State) : s.draw.2.ap = s.ap := rfl
@[simp] theorem State.draw_phase (s : State) : s.draw.2.phase = s.phase := rfl
@[simp] theorem State.draw_launches (s : State) : s.draw.2.launches = s.launches := rfl
@[simp] theorem State.draw_pkg (s : State) : s.draw.2.pkg = s.pkg := rfl
@[simp] theorem State.draw_cycle (s : State) : s.draw.2.cycle = s.cycle := rfl
@[simp] theorem State.draw_tick (s : State) : s.draw.2.tick = s.tick := rfl
@[simp] theorem State.draw_subtick (s : State) : s.draw.2.subtick = s.subtick := rfl
@[simp] theorem State.draw_inbox (s : State) : s.draw.2.inbox = s.inbox := rfl
@[simp] theorem State.draw_vault (s : State) : s.draw.2.vault = s.vault := rfl

/-! ### The clock of a residency, which stands while its partition is frozen (R434, log 98) -/

theorem State.clockOf_eq (s : State) (p : Fin 8) : s.clockOf p = s.cycle - (s.pkg.parts[p]).lag := rfl
@[simp] theorem State.updE_now (s : State) (f : EpCtx → EpCtx) : (s.updE f).now = s.now := rfl
@[simp] theorem State.updSt_now (s : State) (n : SReg) (f : StreamReg → StreamReg) : (s.updSt n f).now = s.now := rfl
@[simp] theorem State.move_now (s : State) : s.move.now = s.now := rfl
@[simp] theorem State.draw_now (s : State) : s.draw.2.now = s.now := rfl
@[simp] theorem State.updCtx_now (s : State) (c : ApId) (g : ApCtx → ApCtx) : (s.updCtx c g).now = s.now := by cases c <;> rfl
@[simp] theorem State.setA_now (s : State) (d : AReg) (v : W64) : (s.setA d v).now = s.now := by simp [State.setA]
@[simp] theorem State.setQ_now (s : State) (d : Guard) (v : Bool) : (s.setQ d v).now = s.now := by simp [State.setQ]
@[simp] theorem State.updLaunch_now (s : State) (id : W32) (f : Launch → Launch) : (s.updLaunch id f).now = s.now := rfl
@[simp] theorem State.updMine_now (s : State) (f : Launch → Launch) : (s.updMine f).now = s.now := rfl
@[simp] theorem State.updR_clockOf (s : State) (f : Residency → Residency) (p : Fin 8) : (s.updR f).clockOf p = s.clockOf p := rfl

end Sys2Proof.Machine
end

