-- ==== Sys2Proof/Laws/Issue.lean ====
section
/-! SUPPORT. What the issue of an instruction can do, said once: of an A-set instruction (R189, R197, R213) and of an
E-set instruction (R197, R325, R42). -/

namespace Sys2Proof.Machine

/-! ### A-set -/

@[simp] theorem State.slotted_areg (s : State) (n : AReg) : s.slotted.areg n = s.areg n := by
  simp [State.slotted, State.areg]
@[simp] theorem State.slotted_apred (s : State) (n : Guard) : s.slotted.apred n = s.apred n := by
  simp [State.slotted, State.apred]
@[simp] theorem State.slotted_ap (s : State) : s.slotted.ap = s.ap := by simp [State.slotted]
@[simp] theorem State.slotted_apc (s : State) : s.slotted.apc = s.apc := by simp [State.slotted, State.apc]
@[simp] theorem State.slotted_ctx (s : State) : s.slotted.ctx s.ap = (s.ctx s.ap).slot := by simp [State.slotted]
@[simp] theorem State.slotted_stream (s : State) (n : SReg) : s.slotted.stream n = s.stream n := by simp [State.slotted]
@[simp] theorem State.slotted_streamStart (s : State) (n : SReg) : s.slotted.streamStart n = s.streamStart n := by
  simp [State.slotted]
@[simp] theorem State.slotted_mem (s : State) : s.slotted.mem = s.mem := by simp [State.slotted]
@[simp] theorem State.slotted_entry (s : State) : s.slotted.entry = s.entry := by simp [State.slotted]

/-- An instruction that nothing keeps from executing does what its body does. -/
theorem apIssue_ok {i : Instr} {g : Guard} {s s' : State} {body : State → Except Stop (State × Flow)} {fl : Flow}
    (h : s.apReady i g = true) (hb : body s.slotted = .ok (s', fl)) :
    apIssue i g s body = .next (s'.finish i fl) := by
  simp only [State.apReady, State.settled, Bool.and_eq_true, beq_iff_eq, Bool.not_eq_true'] at h
  obtain ⟨⟨h1, h2⟩, h3⟩ := h
  have h2' : (s.slotted).apred g = true := by simpa using h2
  simp only [apIssue, h1]
  change (if !s.slotted.apred g then _ else if (apRegs i).any (fun n => n ≠ 0 &&
    (s.slotted.ctx s.slotted.ap).busy.any fun p => p.1 == n) = true then _ else _) = _
  rw [h2', State.slotted_ap, h3]
  change (match body s.slotted with
    | .ok (s', fl) => Host.Outcome.next (s'.finish i fl)
    | .error .block => _
    | .error (.blockAt s') => _
    | .error (.blockClaim _ _) => _
    | .error (.defer s') => .next s'
    | .error (.trap t) => _
    | .error (.trapAt t s') => _) = _
  rw [hb]

/-- A guarded-off instruction is counted and its PC moves on; nothing else happens (R189). -/
theorem apIssue_off {i : Instr} {g : Guard} {s : State} {body : State → Except Stop (State × Flow)}
    (h1 : staticCause i = none) (h2 : s.apred g = false) :
    apIssue i g s body = .next ((s.slotted.issued i true).updCtx s.ap fun c => c.flow .next) := by
  have h2' : (s.slotted).apred g = false := by simpa using h2
  simp only [apIssue, h1]
  change (if !s.slotted.apred g then _ else _) = _
  rw [h2']
  simp only [Bool.not_false, if_true, State.updCtx_ap]; rfl

/-- The causes of an instruction's own fields come first (R197). -/
theorem apIssue_static {i : Instr} {g : Guard} {s : State} {body : State → Except Stop (State × Flow)} {c : Cause}
    (h : staticCause i = some c) : apIssue i g s body = .next (s.slotted.park s.ap ⟨c, 0, 0⟩) := by
  simp only [apIssue, h, State.updCtx_ap]; rfl

/-! ### The end of an A-set instruction -/

@[simp] theorem State.issued_ap (s : State) (i : Instr) (b : Bool) : (s.issued i b).ap = s.ap := by
  simp [State.issued]
@[simp] theorem State.finish_ap (s : State) (i : Instr) (fl : Flow) : (s.finish i fl).ap = s.ap := by
  simp [State.finish]
@[simp] theorem State.issued_mem (s : State) (i : Instr) (b : Bool) : (s.issued i b).mem = s.mem := by
  simp [State.issued]
@[simp] theorem State.finish_mem (s : State) (i : Instr) (fl : Flow) : (s.finish i fl).mem = s.mem := by
  simp [State.finish]
@[simp] theorem State.issued_others (s : State) (i : Instr) (b : Bool) : (s.issued i b).others = s.others := by
  simp [State.issued]
@[simp] theorem State.finish_others (s : State) (i : Instr) (fl : Flow) : (s.finish i fl).others = s.others := by
  simp [State.finish]
@[simp] theorem State.issued_turns (s : State) (i : Instr) (b : Bool) : (s.issued i b).turns = s.turns := by
  simp [State.issued]
@[simp] theorem State.issued_banks (s : State) (i : Instr) (b : Bool) : (s.issued i b).banks = s.banks := by
  simp [State.issued]
@[simp] theorem State.finish_turns (s : State) (i : Instr) (fl : Flow) : (s.finish i fl).turns = s.turns := by
  simp [State.finish]
@[simp] theorem State.finish_banks (s : State) (i : Instr) (fl : Flow) : (s.finish i fl).banks = s.banks := by
  simp [State.finish]
@[simp] theorem State.issued_phase (s : State) (i : Instr) (b : Bool) : (s.issued i b).phase = s.phase := by
  simp [State.issued]
@[simp] theorem State.finish_phase (s : State) (i : Instr) (fl : Flow) : (s.finish i fl).phase = s.phase := by
  simp [State.finish]
@[simp] theorem State.issued_launches (s : State) (i : Instr) (b : Bool) : (s.issued i b).launches = s.launches := by
  simp [State.issued]
@[simp] theorem State.finish_launches (s : State) (i : Instr) (fl : Flow) : (s.finish i fl).launches = s.launches := by
  simp [State.finish]
@[simp] theorem State.issued_pkg (s : State) (i : Instr) (b : Bool) : (s.issued i b).pkg = s.pkg := by
  simp [State.issued]
@[simp] theorem State.finish_pkg (s : State) (i : Instr) (fl : Flow) : (s.finish i fl).pkg = s.pkg := by
  simp [State.finish]
@[simp] theorem State.issued_cycle (s : State) (i : Instr) (b : Bool) : (s.issued i b).cycle = s.cycle := by
  simp [State.issued]
@[simp] theorem State.finish_cycle (s : State) (i : Instr) (fl : Flow) : (s.finish i fl).cycle = s.cycle := by
  simp [State.finish]
@[simp] theorem State.issued_tick (s : State) (i : Instr) (b : Bool) : (s.issued i b).tick = s.tick := by
  simp [State.issued]
@[simp] theorem State.finish_tick (s : State) (i : Instr) (fl : Flow) : (s.finish i fl).tick = s.tick := by
  simp [State.finish]
@[simp] theorem State.issued_subtick (s : State) (i : Instr) (b : Bool) : (s.issued i b).subtick = s.subtick := by
  simp [State.issued]
@[simp] theorem State.finish_subtick (s : State) (i : Instr) (fl : Flow) : (s.finish i fl).subtick = s.subtick := by
  simp [State.finish]
@[simp] theorem State.issued_inbox (s : State) (i : Instr) (b : Bool) : (s.issued i b).inbox = s.inbox := by
  simp [State.issued]
@[simp] theorem State.finish_inbox (s : State) (i : Instr) (fl : Flow) : (s.finish i fl).inbox = s.inbox := by
  simp [State.finish]
@[simp] theorem State.issued_vault (s : State) (i : Instr) (b : Bool) : (s.issued i b).vault = s.vault := by
  simp [State.issued]
@[simp] theorem State.finish_vault (s : State) (i : Instr) (fl : Flow) : (s.finish i fl).vault = s.vault := by
  simp [State.finish]
@[simp] theorem State.issued_free (s : State) (i : Instr) (b : Bool) : (s.issued i b).free = s.free := by
  simp [State.issued]
@[simp] theorem State.finish_free (s : State) (i : Instr) (fl : Flow) : (s.finish i fl).free = s.free := by
  simp [State.finish]
@[simp] theorem State.issued_r_bind (s : State) (i : Instr) (b : Bool) : (s.issued i b).r.bind = s.r.bind := by
  simp [State.issued]
@[simp] theorem State.finish_r_bind (s : State) (i : Instr) (fl : Flow) : (s.finish i fl).r.bind = s.r.bind := by
  simp [State.finish]
@[simp] theorem State.issued_r_stage (s : State) (i : Instr) (b : Bool) : (s.issued i b).r.stage = s.r.stage := by
  simp [State.issued]
@[simp] theorem State.finish_r_stage (s : State) (i : Instr) (fl : Flow) : (s.finish i fl).r.stage = s.r.stage := by
  simp [State.finish]
@[simp] theorem State.issued_r_ep (s : State) (i : Instr) (b : Bool) : (s.issued i b).r.ep = s.r.ep := by
  simp [State.issued]
@[simp] theorem State.finish_r_ep (s : State) (i : Instr) (fl : Flow) : (s.finish i fl).r.ep = s.r.ep := by
  simp [State.finish]
@[simp] theorem State.issued_r_deque (s : State) (i : Instr) (b : Bool) : (s.issued i b).r.deque = s.r.deque := by
  simp [State.issued]
@[simp] theorem State.finish_r_deque (s : State) (i : Instr) (fl : Flow) : (s.finish i fl).r.deque = s.r.deque := by
  simp [State.finish]
@[simp] theorem State.issued_r_st (s : State) (i : Instr) (b : Bool) : (s.issued i b).r.st = s.r.st := by
  simp [State.issued]
@[simp] theorem State.finish_r_st (s : State) (i : Instr) (fl : Flow) : (s.finish i fl).r.st = s.r.st := by
  simp [State.finish]
@[simp] theorem State.issued_r_h (s : State) (i : Instr) (b : Bool) : (s.issued i b).r.h = s.r.h := by
  simp [State.issued]
@[simp] theorem State.finish_r_h (s : State) (i : Instr) (fl : Flow) : (s.finish i fl).r.h = s.r.h := by
  simp [State.finish]
@[simp] theorem State.issued_r_xq (s : State) (i : Instr) (b : Bool) : (s.issued i b).r.xq = s.r.xq := by
  simp [State.issued]
@[simp] theorem State.finish_r_xq (s : State) (i : Instr) (fl : Flow) : (s.finish i fl).r.xq = s.r.xq := by
  simp [State.finish]
@[simp] theorem State.issued_r_yq (s : State) (i : Instr) (b : Bool) : (s.issued i b).r.yq = s.r.yq := by
  simp [State.issued]
@[simp] theorem State.finish_r_yq (s : State) (i : Instr) (fl : Flow) : (s.finish i fl).r.yq = s.r.yq := by
  simp [State.finish]
@[simp] theorem State.issued_r_fq (s : State) (i : Instr) (b : Bool) : (s.issued i b).r.fq = s.r.fq := by
  simp [State.issued]
@[simp] theorem State.finish_r_fq (s : State) (i : Instr) (fl : Flow) : (s.finish i fl).r.fq = s.r.fq := by
  simp [State.finish]
@[simp] theorem State.issued_r_follow (s : State) (i : Instr) (b : Bool) : (s.issued i b).r.follow = s.r.follow := by
  simp [State.issued]
@[simp] theorem State.finish_r_follow (s : State) (i : Instr) (fl : Flow) : (s.finish i fl).r.follow = s.r.follow := by
  simp [State.finish]
@[simp] theorem State.issued_r_cmds (s : State) (i : Instr) (b : Bool) : (s.issued i b).r.cmds = s.r.cmds := by
  simp [State.issued]
@[simp] theorem State.finish_r_cmds (s : State) (i : Instr) (fl : Flow) : (s.finish i fl).r.cmds = s.r.cmds := by
  simp [State.finish]
@[simp] theorem State.issued_r_nextId (s : State) (i : Instr) (b : Bool) : (s.issued i b).r.nextId = s.r.nextId := by
  simp [State.issued]
@[simp] theorem State.finish_r_nextId (s : State) (i : Instr) (fl : Flow) : (s.finish i fl).r.nextId = s.r.nextId := by
  simp [State.finish]
@[simp] theorem State.issued_r_chains (s : State) (i : Instr) (b : Bool) : (s.issued i b).r.chains = s.r.chains := by
  simp [State.issued]
@[simp] theorem State.finish_r_chains (s : State) (i : Instr) (fl : Flow) : (s.finish i fl).r.chains = s.r.chains := by
  simp [State.finish]
@[simp] theorem State.issued_r_slotWait (s : State) (i : Instr) (b : Bool) : (s.issued i b).r.slotWait = s.r.slotWait := by
  simp [State.issued]
@[simp] theorem State.finish_r_slotWait (s : State) (i : Instr) (fl : Flow) : (s.finish i fl).r.slotWait = s.r.slotWait := by
  simp [State.finish]
@[simp] theorem State.issued_r_bovr (s : State) (i : Instr) (b : Bool) : (s.issued i b).r.bovr = s.r.bovr := by
  simp [State.issued]
@[simp] theorem State.finish_r_bovr (s : State) (i : Instr) (fl : Flow) : (s.finish i fl).r.bovr = s.r.bovr := by
  simp [State.finish]
@[simp] theorem State.issued_r_mx (s : State) (i : Instr) (b : Bool) : (s.issued i b).r.mx = s.r.mx := by
  simp [State.issued]
@[simp] theorem State.finish_r_mx (s : State) (i : Instr) (fl : Flow) : (s.finish i fl).r.mx = s.r.mx := by
  simp [State.finish]
@[simp] theorem State.issued_r_dm (s : State) (i : Instr) (b : Bool) : (s.issued i b).r.dm = s.r.dm := by
  simp [State.issued]
@[simp] theorem State.finish_r_dm (s : State) (i : Instr) (fl : Flow) : (s.finish i fl).r.dm = s.r.dm := by
  simp [State.finish]
@[simp] theorem State.issued_r_gz (s : State) (i : Instr) (b : Bool) : (s.issued i b).r.gz = s.r.gz := by
  simp [State.issued]
@[simp] theorem State.finish_r_gz (s : State) (i : Instr) (fl : Flow) : (s.finish i fl).r.gz = s.r.gz := by
  simp [State.finish]
@[simp] theorem State.issued_r_walks (s : State) (i : Instr) (b : Bool) : (s.issued i b).r.walks = s.r.walks := by
  simp [State.issued]
@[simp] theorem State.finish_r_walks (s : State) (i : Instr) (fl : Flow) : (s.finish i fl).r.walks = s.r.walks := by
  simp [State.finish]
@[simp] theorem State.issued_r_start (s : State) (i : Instr) (b : Bool) : (s.issued i b).r.start = s.r.start := by
  simp [State.issued]
@[simp] theorem State.finish_r_start (s : State) (i : Instr) (fl : Flow) : (s.finish i fl).r.start = s.r.start := by
  simp [State.finish]

/-- The issuing context after an instruction is counted. -/
theorem State.issued_ctx (s : State) (i : Instr) (b : Bool) :
    (s.issued i b).ctx s.ap = (s.ctx s.ap).counted i b := by
  unfold State.issued
  cases s.ap <;> rfl
@[simp] theorem State.issued_areg (s : State) (i : Instr) (b : Bool) (n : AReg) : (s.issued i b).areg n = s.areg n := by
  rw [State.areg, State.issued_ap, State.issued_ctx]; rfl
@[simp] theorem State.issued_apred (s : State) (i : Instr) (b : Bool) (n : Guard) :
    (s.issued i b).apred n = s.apred n := by rw [State.apred, State.issued_ap, State.issued_ctx]; rfl
@[simp] theorem State.finish_areg (s : State) (i : Instr) (fl : Flow) (n : AReg) : (s.finish i fl).areg n = s.areg n := by
  rw [State.areg, State.finish_ap, State.finish, State.ctx_updCtx, ApCtx.get_flow, State.issued_ctx]; rfl
@[simp] theorem State.finish_apred (s : State) (i : Instr) (fl : Flow) (n : Guard) :
    (s.finish i fl).apred n = s.apred n := by
  rw [State.apred, State.finish_ap, State.finish, State.ctx_updCtx, ApCtx.pred_flow, State.issued_ctx]; rfl
/-- Where an instruction leaves the issuing context. -/
theorem State.finish_place (s : State) (i : Instr) (fl : Flow) :
    (s.finish i fl).place = (((s.ctx s.ap).flow fl).pc, ((s.ctx s.ap).flow fl).loops) := by
  rw [State.place, State.finish_ap, State.finish, State.ctx_updCtx, State.issued_ctx]
  cases fl <;> rfl
/-- What an instruction whose body changes only its context leaves: everything else. -/
theorem State.finish_onlyCtx (s : State) (i : Instr) (fl : Flow) (f : ApCtx → ApCtx) :
    s.onlyCtx ((s.updCtx s.ap f).finish i fl) := by
  unfold State.onlyCtx State.takeIssue State.finish State.issued
  cases h : s.ap <;> simp [State.updCtx, State.updR, State.move, State.ctx, h, TaskState.noting]

/-! ### E-set -/

/-- An instruction of E that nothing keeps from issuing does what its body does, on a state in which the results
that are due have been delivered. -/
theorem eIssue_ok {i : Instr} {s s' : State} {body : State → Except Stop (State × EFlow)} {fl : EFlow}
    (hw : (s.updE EpCtx.refill).withheld = false) (hc : staticCause i = none)
    (hl : eLate (s.updE EpCtx.refill) i = none) (ho : outsideAllotment (s.updE EpCtx.refill).tickE i = false)
    (he : namesEmptyLatch (s.updE EpCtx.refill).tickE i = false)
    (hb : body (s.updE EpCtx.refill).tickE = .ok (s', fl)) : eIssue i s body = .next (s'.eDone i fl) := by
  simp only [eIssue, eCause, hw, hc, hl, ho, he, hb, Bool.false_eq_true, if_false]

/-- The causes of an E-set instruction's own fields come first, unless its stage withholds it (R197, R325). -/
theorem eIssue_cause {i : Instr} {s : State} {body : State → Except Stop (State × EFlow)} {c : Cause}
    (hw : (s.updE EpCtx.refill).withheld = false) (hc : eCause (s.updE EpCtx.refill) i = some c) :
    eIssue i s body = .next ((s.updE EpCtx.refill).parkE ⟨c, 0, 0⟩) := by
  simp only [eIssue, hw, hc, Bool.false_eq_true, if_false]

end Sys2Proof.Machine
end

