-- ==== Sys2Proof/Laws/Memory.lean ====
section
/-! SUPPORT. Memory: a read after a write, and the canonical form that every memory operation keeps (log 2). -/

namespace Sys2Proof.Machine

variable {α : Type} [DecidableEq α] {d : α} {f : Nat → α}

/-! ### Canonical lists -/

omit [DecidableEq α] in
/-- No key below every listed one has a value of its own. -/
theorem kvGet_below {l : List (Nat × α)} {k : Nat} (h : ∀ p ∈ l, k < p.1) : kvGet d l k = d := by
  induction l with
  | nil => rfl
  | cons p l ih =>
    have hp := h p (by simp)
    simp only [kvGet, if_neg (by omega : ¬p.1 = k)]
    exact ih fun q hq => h q (by simp [hq])

/-- What the canonical form says of a list and its tail. -/
theorem kvWf_cons {k : Nat} {v : α} {l : List (Nat × α)} :
    kvWf f ((k, v) :: l) = true ↔ v ≠ f k ∧ (∀ p ∈ l, k < p.1) ∧ kvWf f l = true := by
  simp [kvWf, and_assoc]

/-- A write keeps keys above a bound above it. -/
theorem kvSet_keys {l : List (Nat × α)} {b k : Nat} {v : α} (hl : ∀ p ∈ l, b < p.1) (hk : b < k) :
    ∀ p ∈ kvSet d l k v, b < p.1 := by
  induction l with
  | nil => unfold kvSet; split <;> simp [hk]
  | cons q l ih =>
    obtain ⟨k', v'⟩ := q
    have h' : b < k' := hl (k', v') (by simp)
    have ht : ∀ p ∈ l, b < p.1 := fun p hp => hl p (by simp [hp])
    unfold kvSet
    split
    · split
      · exact hl
      · intro p hp; rcases List.mem_cons.1 hp with rfl | hp
        · exact hk
        · exact hl p hp
    · split
      · split
        · exact ht
        · intro p hp; rcases List.mem_cons.1 hp with rfl | hp
          · exact hk
          · exact ht p hp
      · intro p hp; rcases List.mem_cons.1 hp with rfl | hp
        · exact h'
        · exact ih ht p hp

/-- A write keeps the canonical form. -/
theorem kvSet_wf {l : List (Nat × α)} {k : Nat} {v : α} (h : kvWf f l = true) : kvWf f (kvSet (f k) l k v) = true := by
  induction l with
  | nil => unfold kvSet; split <;> simp_all [kvWf]
  | cons q l ih =>
    obtain ⟨k', v'⟩ := q
    obtain ⟨h1, h2, h3⟩ := kvWf_cons.1 h
    unfold kvSet
    split
    · rename_i hlt
      split
      · exact h
      · rename_i hv
        refine kvWf_cons.2 ⟨hv, ?_, h⟩
        intro p hp
        rcases List.mem_cons.1 hp with rfl | hp
        · exact hlt
        · have := h2 p hp; omega
    · split
      · rename_i he
        subst he
        split
        · exact h3
        · rename_i hv; exact kvWf_cons.2 ⟨hv, h2, h3⟩
      · rename_i h4 h5
        exact kvWf_cons.2 ⟨h1, kvSet_keys h2 (by omega), ih h3⟩

/-- A read gives what was last written at its key, and what it gave before at every other one. -/
theorem kvGet_kvSet {l : List (Nat × α)} {k x : Nat} {v : α} (h : kvWf f l = true) :
    kvGet (f x) (kvSet (f k) l k v) x = if x = k then v else kvGet (f x) l x := by
  induction l with
  | nil =>
    unfold kvSet
    split
    · rename_i hv; split <;> simp_all [kvGet]
    · by_cases hx : x = k
      · simp [kvGet, hx]
      · simp [kvGet, hx, Ne.symm hx]
  | cons q l ih =>
    obtain ⟨k', v'⟩ := q
    obtain ⟨h1, h2, h3⟩ := kvWf_cons.1 h
    unfold kvSet
    split
    · rename_i hlt
      have hb : kvGet (f k) ((k', v') :: l) k = f k := kvGet_below fun p hp => by
        rcases List.mem_cons.1 hp with rfl | hp
        · exact hlt
        · have := h2 p hp; omega
      split
      · rename_i hv
        by_cases hx : x = k
        · subst hx; rw [hb, if_pos rfl, hv]
        · rw [if_neg hx]
      · by_cases hx : x = k
        · subst hx; simp [kvGet]
        · rw [if_neg hx, kvGet, if_neg (Ne.symm hx)]
    · split
      · rename_i he
        subst he
        have hb : kvGet (f k) l k = f k := kvGet_below h2
        split
        · rename_i hv
          by_cases hx : x = k
          · subst hx; rw [hb, if_pos rfl, hv]
          · rw [if_neg hx, kvGet, if_neg (Ne.symm hx)]
        · by_cases hx : x = k
          · subst hx; simp [kvGet]
          · rw [if_neg hx, kvGet, kvGet, if_neg (Ne.symm hx), if_neg (Ne.symm hx)]
      · rename_i h4 h5
        by_cases hx : x = k'
        · subst hx; rw [kvGet, if_pos rfl, if_neg (Ne.symm h5), kvGet, if_pos rfl]
        · rw [kvGet, if_neg (Ne.symm hx), ih h3, kvGet, if_neg (Ne.symm hx)]

/-- Leaving out keys keeps the canonical form. -/
theorem kvWf_filter {l : List (Nat × α)} (g : Nat × α → Bool) (h : kvWf f l = true) : kvWf f (l.filter g) = true := by
  induction l with
  | nil => rfl
  | cons q l ih =>
    obtain ⟨k, v⟩ := q
    obtain ⟨h1, h2, h3⟩ := kvWf_cons.1 h
    rw [List.filter_cons]
    split
    · exact kvWf_cons.2 ⟨h1, fun p hp => h2 p (List.mem_filter.1 hp).1, ih h3⟩
    · exact ih h3

/-! ### The canonical form of a whole memory -/

theorem Memory.wf_iff {m : Memory} : m.wf = true ↔
    kvWf m.blank m.cells = true ∧ kvWf m.blankFull m.full = true ∧ kvWf m.blankChk m.chk = true ∧
      kvWf (fun _ => false) m.bad = true := by
  simp [Memory.wf, and_assoc]

theorem Memory.empty_wf : Memory.empty.wf = true := rfl

theorem Memory.setFull_wf {m : Memory} (g : Nat) (b : Bool) (h : m.wf = true) : (m.setFull g b).wf = true := by
  obtain ⟨a, b', c, e⟩ := Memory.wf_iff.1 h; exact Memory.wf_iff.2 ⟨a, kvSet_wf b', c, e⟩
theorem Memory.setChk_wf {m : Memory} (g : Nat) (c : Check) (h : m.wf = true) : (m.setChk g c).wf = true := by
  obtain ⟨a, b', c, e⟩ := Memory.wf_iff.1 h; exact Memory.wf_iff.2 ⟨a, b', kvSet_wf c, e⟩
theorem Memory.mend_wf {m : Memory} (g : Nat) (h : m.wf = true) : (m.mend g).wf = true := by
  obtain ⟨a, b', c, e⟩ := Memory.wf_iff.1 h; exact Memory.wf_iff.2 ⟨a, b', c, kvSet_wf e⟩
theorem Memory.poke_wf {m : Memory} (k : Nat) (b : Byte) (h : m.wf = true) : (m.poke k b).wf = true := by
  obtain ⟨a, b', c, e⟩ := Memory.wf_iff.1 h; exact Memory.wf_iff.2 ⟨kvSet_wf a, b', c, e⟩
theorem Memory.pokes_wf (l : List (Nat × Byte)) {m : Memory} (h : m.wf = true) : (m.pokes l).wf = true := by
  induction l generalizing m with
  | nil => exact h
  | cons p l ih => exact ih (Memory.poke_wf _ _ h)
theorem Memory.fill_wf (bs : List Byte) {m : Memory} (k : Nat) (h : m.wf = true) : (m.fill k bs).wf = true := by
  induction bs generalizing m k with
  | nil => exact h
  | cons b bs ih => exact ih _ (Memory.poke_wf _ _ h)
theorem Memory.recheck_wf {m : Memory} (g : Nat) (h : m.wf = true) : (m.recheck g).wf = true := Memory.setChk_wf _ _ h
theorem Memory.rechecks_wf (gs : List Nat) {m : Memory} (h : m.wf = true) : (m.rechecks gs).wf = true := by
  induction gs generalizing m with
  | nil => exact h
  | cons g gs ih => exact ih (Memory.recheck_wf _ h)
theorem Memory.mends_wf (gs : List Nat) {m : Memory} (h : m.wf = true) : (m.mends gs).wf = true := by
  induction gs generalizing m with
  | nil => exact h
  | cons g gs ih => exact ih (Memory.mend_wf _ h)
theorem Memory.write_wf {m : Memory} (ks : List Nat) (bs : List Byte) (h : m.wf = true) : (m.write ks bs).wf = true :=
  Memory.rechecks_wf _ (Memory.mends_wf _ (Memory.pokes_wf _ h))
theorem Memory.writeGranule_wf {m : Memory} (g : Nat) (bs : List Byte) (c : Check) (h : m.wf = true) :
    (m.writeGranule g bs c).wf = true := Memory.setChk_wf _ _ (Memory.mend_wf _ (Memory.fill_wf _ _ h))
theorem Memory.writeGranules_wf {m : Memory} (g : Nat) (bs : List Byte) (h : m.wf = true) :
    (m.writeGranules g bs).wf = true := Memory.write_wf _ _ h
theorem Memory.scrub_wf {m : Memory} (g n : Nat) (h : m.wf = true) : (m.scrub g n).wf = true := by
  obtain ⟨a, b', c, e⟩ := Memory.wf_iff.1 h
  exact Memory.wf_iff.2 ⟨kvWf_filter _ a, kvWf_filter _ b', kvWf_filter _ c, kvWf_filter _ e⟩
theorem Memory.moveGranules_wf (src dst n : Nat) {m : Memory} (h : m.wf = true) : (m.moveGranules src dst n).wf = true := by
  induction n with
  | zero => exact h
  | succ n ih => exact Memory.setFull_wf _ _ (Memory.writeGranule_wf _ _ _ ih)
theorem clearRing_wf (e : Nat) (r : StreamReg) (c : BitVec 24) (n : Nat) {m : Memory} (h : m.wf = true) :
    (clearRing m e r c n).wf = true := by
  induction n with
  | zero => exact h
  | succ n ih => exact Memory.setFull_wf _ _ ih
theorem sealRing_wf (e : Nat) (r : StreamReg) (c : BitVec 24) (n : Nat) {m : Memory} (h : m.wf = true) :
    (sealRing m e r c n).wf = true := by
  induction n with
  | zero => exact h
  | succ n ih => exact Memory.setFull_wf _ _ (Memory.recheck_wf _ ih)
theorem sealLast_wf (e : Nat) (r : StreamReg) {m : Memory} (h : m.wf = true) : (sealLast m e r).wf = true := by
  unfold sealLast; split
  · exact h
  · exact Memory.setChk_wf _ _ h
theorem carryChecks_wf (e : Nat) (r : StreamReg) (cs : List Check) (c : BitVec 24) {m : Memory} (h : m.wf = true) :
    (carryChecks m e r c cs).wf = true := by
  induction cs generalizing m c with
  | nil => exact h
  | cons k ks ih => exact ih _ (Memory.setChk_wf _ _ h)
theorem setMap_wf (b : GBlock) (e t : Nat) (v : Bool) {m : Memory} (h : m.wf = true) : (setMap m b e t v).wf = true :=
  Memory.write_wf _ _ h
theorem writeRec_wf (b : GBlock) (e t : Nat) (x : TileRec) {m : Memory} (h : m.wf = true) :
    (writeRec m b e t x).wf = true := Memory.writeGranules_wf _ _ h
theorem mapRec_wf (b : GBlock) (e : Nat) (f : TileRec → TileRec) (t : Nat) {m : Memory} (h : m.wf = true) :
    (mapRec b e f m t).wf = true := by unfold mapRec; exact writeRec_wf _ _ _ _ h
/-- A fold of steps that keep the canonical form keeps it. -/
theorem foldl_wf {β : Type} (g : Memory → β → Memory) (hg : ∀ m x, m.wf = true → (g m x).wf = true) (xs : List β)
    {m : Memory} (h : m.wf = true) : (xs.foldl g m).wf = true := by
  induction xs generalizing m with
  | nil => exact h
  | cons x xs ih => rw [List.foldl_cons]; exact ih (hg _ _ h)
/-- A table of values that differ from g, at keys where f and g agree, differs from f. -/
theorem kvWf_congr {g : Nat → α} {l : List (Nat × α)} (hg : kvWf g l = true) (he : ∀ p ∈ l, f p.1 = g p.1) : kvWf f l = true := by
  induction l with
  | nil => rfl
  | cons q l ih =>
    obtain ⟨k, v⟩ := q
    obtain ⟨h1, h2, h3⟩ := kvWf_cons.1 hg
    exact kvWf_cons.2 ⟨he (k, v) (by simp) ▸ h1, h2, ih h3 fun p hp => he p (by simp [hp])⟩
/-- An installation moves no address of host memory. -/
theorem Remap.moves_host {k : Nat} (h : (storeOf k == .host) = true) (r : Remap) : r.moves k = false := by
  simp only [beq_iff_eq] at h
  simp [Remap.moves, h]
theorem remaps_host {k : Nat} (h : (storeOf k == .host) = true) (l : List Remap) : l.find? (fun r => r.moves k) = none :=
  List.find?_eq_none.2 fun r _ => by simp [Remap.moves_host h]
/-- Host memory reads by default as if nothing had been installed. -/
theorem Memory.blank_host {m : Memory} {k : Nat} (h : (storeOf k == .host) = true) : m.hostOnly.blank k = m.blank k := by
  simp [Memory.blank, Memory.hostOnly, remaps_host h]
theorem Memory.blankFull_host {m : Memory} {g : Nat} (h : (storeOf (64 * g) == .host) = true) :
    m.hostOnly.blankFull g = m.blankFull g := by simp [Memory.blankFull, Memory.hostOnly, remaps_host h]
theorem Memory.blankChk_host {m : Memory} {g : Nat} (h : (storeOf (64 * g) == .host) = true) :
    m.hostOnly.blankChk g = m.blankChk g := by simp [Memory.blankChk, Memory.hostOnly, remaps_host h]
theorem Memory.hostOnly_wf {m : Memory} (h : m.wf = true) : m.hostOnly.wf = true := by
  obtain ⟨a, b', c, e⟩ := Memory.wf_iff.1 h
  exact Memory.wf_iff.2 ⟨kvWf_congr (kvWf_filter _ a) fun p hp => Memory.blank_host (List.mem_filter.1 hp).2,
    kvWf_congr (kvWf_filter _ b') fun p hp => Memory.blankFull_host (List.mem_filter.1 hp).2,
    kvWf_congr (kvWf_filter _ c) fun p hp => Memory.blankChk_host (List.mem_filter.1 hp).2, kvWf_filter _ e⟩
/-- What an installation moves reads its new channel; every other unlisted byte reads as before (R409). -/
theorem Memory.blank_remap (m : Memory) (r : Remap) (k : Nat) :
    (m.remap r).blank k = if r.moves k then Config.openByte r.draw k else m.blank k := by
  simp only [Memory.blank, Memory.remap, List.find?_cons]
  cases r.moves k <;> rfl
theorem Memory.blankFull_remap (m : Memory) {r : Remap} {g : Nat} (h : r.moves (64 * g) = false) :
    (m.remap r).blankFull g = m.blankFull g := by simp [Memory.blankFull, Memory.remap, h]
theorem Memory.blankChk_remap (m : Memory) {r : Remap} {g : Nat} (h : r.moves (64 * g) = false) :
    (m.remap r).blankChk g = m.blankChk g := by simp [Memory.blankChk, Memory.remap, h]
theorem Memory.remap_wf (r : Remap) {m : Memory} (h : m.wf = true) : (m.remap r).wf = true := by
  obtain ⟨a, b', c, e⟩ := Memory.wf_iff.1 h
  refine Memory.wf_iff.2 ⟨kvWf_congr (kvWf_filter _ a) fun p hp => ?_,
    kvWf_congr (kvWf_filter _ b') fun p hp => Memory.blankFull_remap m (by simpa using (List.mem_filter.1 hp).2),
    kvWf_congr (kvWf_filter _ c) fun p hp => Memory.blankChk_remap m (by simpa using (List.mem_filter.1 hp).2), kvWf_filter _ e⟩
  rw [Memory.blank_remap, if_neg]
  simpa using (List.mem_filter.1 hp).2
theorem mapRecs_wf (b : GBlock) (e : Nat) (f : TileRec → TileRec) (ts : List Nat) {m : Memory} (h : m.wf = true) :
    (mapRecs b e f ts m).wf = true := by unfold mapRecs; exact foldl_wf _ (fun _ _ h => mapRec_wf _ _ _ _ h) _ h
theorem writeMapBits_wf (b : GBlock) (e : Nat) (v : W32) (w : Nat) (ts : List Nat) {m : Memory} (h : m.wf = true) :
    (writeMapBits b e v w ts m).wf = true := by
  unfold writeMapBits; exact foldl_wf _ (fun _ _ h => setMap_wf _ _ _ _ h) _ h
/-- What an operation of Gauze does to memory keeps the canonical form. -/
theorem GOp.apply_wf (o : GOp) (b : GBlock) (e : Nat) {m : Memory} (h : m.wf = true) : (o.apply b e m).1.wf = true := by
  cases o with
  | sig _ t s0 s1 s2 s3 =>
    simp only [GOp.apply, decideTile]
    split <;> exact writeRec_wf _ _ _ _ (setMap_wf _ _ _ _ h)
  | mapW _ w v => simp only [GOp.apply]; exact mapRecs_wf _ _ _ _ (writeMapBits_wf _ _ _ _ _ h)
  | step _ => simp only [GOp.apply]; exact mapRecs_wf _ _ _ _ h
  | keep _ t data => simp only [GOp.apply]; exact mapRecs_wf _ _ _ _ (Memory.writeGranules_wf _ _ h)
  | cfg _ b2 => simp only [GOp.apply]; exact Memory.writeGranules_wf _ _ h
  | reuse _ _ => exact h

/-! ### A read after a write -/

theorem Memory.byte_poke {m : Memory} (h : m.wf = true) (k x : Nat) (b : Byte) :
    (m.poke k b).byte x = if x = k then b else m.byte x :=
  kvGet_kvSet (f := m.blank) (Memory.wf_iff.1 h).1

/-- The write of one key leaves every other byte alone, whatever the memory. -/
theorem kvGet_kvSet_ne {c : α} {l : List (Nat × α)} {k x : Nat} {v : α} (hx : x ≠ k) :
    kvGet d (kvSet c l k v) x = kvGet d l x := by
  induction l with
  | nil => unfold kvSet; split <;> simp [kvGet, Ne.symm hx]
  | cons q l ih =>
    obtain ⟨k', v'⟩ := q
    unfold kvSet
    split
    · split
      · rfl
      · rw [kvGet, if_neg (Ne.symm hx)]
    · split
      · rename_i he
        subst he
        split
        · rw [kvGet, if_neg (Ne.symm hx)]
        · rw [kvGet, if_neg (Ne.symm hx), kvGet, if_neg (Ne.symm hx)]
      · simp only [kvGet, ih]

theorem Memory.byte_poke_ne {m : Memory} {k x : Nat} (b : Byte) (hx : x ≠ k) : (m.poke k b).byte x = m.byte x :=
  kvGet_kvSet_ne hx
@[simp] theorem Memory.byte_setFull (m : Memory) (g : Nat) (b : Bool) (x : Nat) : (m.setFull g b).byte x = m.byte x := rfl
@[simp] theorem Memory.byte_setChk (m : Memory) (g : Nat) (c : Check) (x : Nat) : (m.setChk g c).byte x = m.byte x := rfl
@[simp] theorem Memory.byte_mend (m : Memory) (g x : Nat) : (m.mend g).byte x = m.byte x := rfl
@[simp] theorem Memory.byte_recheck (m : Memory) (g x : Nat) : (m.recheck g).byte x = m.byte x := rfl
@[simp] theorem Memory.byte_mends (m : Memory) (gs : List Nat) (x : Nat) : (m.mends gs).byte x = m.byte x := by
  induction gs generalizing m with
  | nil => rfl
  | cons g gs ih => exact ih _
@[simp] theorem Memory.byte_rechecks (m : Memory) (gs : List Nat) (x : Nat) : (m.rechecks gs).byte x = m.byte x := by
  induction gs generalizing m with
  | nil => rfl
  | cons g gs ih => exact ih _
theorem Memory.byte_pokes_ne (l : List (Nat × Byte)) {m : Memory} {x : Nat} (hx : ∀ p ∈ l, p.1 ≠ x) :
    (m.pokes l).byte x = m.byte x := by
  induction l generalizing m with
  | nil => rfl
  | cons p l ih =>
    show ((m.poke p.1 p.2).pokes l).byte x = m.byte x
    rw [ih fun q hq => hx q (by simp [hq]), Memory.byte_poke_ne _ (Ne.symm (hx p (by simp)))]
/-- A write leaves every byte alone but those at its keys. -/
theorem Memory.byte_write_ne {m : Memory} {ks : List Nat} (bs : List Byte) {x : Nat} (hx : x ∉ ks) :
    (m.write ks bs).byte x = m.byte x := by
  simp only [Memory.write, Memory.byte_rechecks, Memory.byte_mends]
  exact Memory.byte_pokes_ne _ fun p hp he => hx (he ▸ (List.of_mem_zip hp).1)
/-- The bytes that a write stores, where no key stands twice. -/
theorem Memory.byte_pokes_mem {l : List (Nat × Byte)} {m : Memory} (h : m.wf = true)
    (hn : (l.map Prod.fst).Nodup) {p : Nat × Byte} (hp : p ∈ l) : (m.pokes l).byte p.1 = p.2 := by
  induction l generalizing m with
  | nil => simp at hp
  | cons q l ih =>
    rw [List.map_cons, List.nodup_cons] at hn
    show ((m.poke q.1 q.2).pokes l).byte p.1 = p.2
    rcases List.mem_cons.1 hp with rfl | hp
    · rw [Memory.byte_pokes_ne _ fun r hr he => hn.1 (List.mem_map.2 ⟨r, hr, he⟩), Memory.byte_poke h, if_pos rfl]
    · exact ih (Memory.poke_wf _ _ h) hn.2 hp
/-- Memory holds the bytes just written. -/
theorem Memory.gather_write {m : Memory} (h : m.wf = true) {ks : List Nat} {bs : List Byte} (hn : ks.Nodup)
    (hl : ks.length = bs.length) : (m.write ks bs).gather ks = bs := by
  have hz : ((ks.zip bs).map Prod.fst) = ks := by simp [List.map_fst_zip, hl]
  apply List.ext_getElem
  · simp [Memory.gather, hl]
  · intro i h1 h2
    have hi : i < ks.length := by omega
    have hm : (ks[i], bs[i]) ∈ ks.zip bs := by
      rw [List.mem_iff_getElem]; exact ⟨i, by simp [hl, h2], by simp⟩
    simp only [Memory.gather, List.getElem_map, Memory.write, Memory.byte_rechecks, Memory.byte_mends]
    exact Memory.byte_pokes_mem h (hz.symm ▸ hn) hm
@[simp] theorem byte_clearRing (m : Memory) (e : Nat) (r : StreamReg) (c : BitVec 24) (n x : Nat) :
    (clearRing m e r c n).byte x = m.byte x := by
  induction n with
  | zero => rfl
  | succ n ih => exact ih
@[simp] theorem byte_sealLast (m : Memory) (e : Nat) (r : StreamReg) (x : Nat) : (sealLast m e r).byte x = m.byte x := by
  unfold sealLast; split <;> rfl
@[simp] theorem byte_sealRing (m : Memory) (e : Nat) (r : StreamReg) (c : BitVec 24) (n x : Nat) :
    (sealRing m e r c n).byte x = m.byte x := by
  induction n with
  | zero => rfl
  | succ n ih => exact ih

end Sys2Proof.Machine
end

