-- ==== Sys2Proof/Laws/PerInstr.lean ====
section
/-! SUPPORT. For each constructor, how many bytes its encoding has (R173, R183, R191): 4 in the A-set, 8 in the E-set, 16
for a long form, none for an event. -/

namespace Sys2Proof.Laws.Encoding

/-- The bytes of an instruction's encoding. -/
def size (i : Instr) : Nat := if i.isA then 4 else if i.isE then (if (literalE i).isSome then 16 else 8) else 0

/-- An instruction is encoded in as many bytes as its set and form have. -/
def Statement (i : Instr) : Prop := (encode i).length = size i

theorem length_encode (i : Instr) : Statement i := by
  unfold Statement size encode Instr.isA Instr.isE
  cases encodeA i with
  | some w => rfl
  | none =>
    cases opcodeE i with
    | none => rfl
    | some p => cases literalE i <;> rfl

theorem add (f : RRR) : Statement (.add f) := length_encode _
theorem sub (f : RRR) : Statement (.sub f) := length_encode _
theorem mul (f : RRR) : Statement (.mul f) := length_encode _
theorem mulh (f : RRR) : Statement (.mulh f) := length_encode _
theorem mulhu (f : RRR) : Statement (.mulhu f) := length_encode _
theorem divu (f : RRR) : Statement (.divu f) := length_encode _
theorem remu (f : RRR) : Statement (.remu f) := length_encode _
theorem and (f : RRR) : Statement (.and f) := length_encode _
theorem or (f : RRR) : Statement (.or f) := length_encode _
theorem xor (f : RRR) : Statement (.xor f) := length_encode _
theorem shl (f : RRR) : Statement (.shl f) := length_encode _
theorem shr (f : RRR) : Statement (.shr f) := length_encode _
theorem sra (f : RRR) : Statement (.sra f) := length_encode _
theorem min (f : RRR) : Statement (.min f) := length_encode _
theorem max (f : RRR) : Statement (.max f) := length_encode _
theorem minu (f : RRR) : Statement (.minu f) := length_encode _
theorem maxu (f : RRR) : Statement (.maxu f) := length_encode _
theorem clz (f : RR) : Statement (.clz f) := length_encode _
theorem popc (f : RR) : Statement (.popc f) := length_encode _
theorem addi (f : RI) : Statement (.addi f) := length_encode _
theorem andi (f : RI) : Statement (.andi f) := length_encode _
theorem ori (f : RI) : Statement (.ori f) := length_encode _
theorem xori (f : RI) : Statement (.xori f) := length_encode _
theorem shli (f : RSh) : Statement (.shli f) := length_encode _
theorem shri (f : RSh) : Statement (.shri f) := length_encode _
theorem srai (f : RSh) : Statement (.srai f) := length_encode _
theorem muli (f : RI) : Statement (.muli f) := length_encode _
theorem lui (g : Guard) (d : AReg) (i : BitVec 18) : Statement (.lui g d i) := length_encode _
theorem madd (f : RRR) (c : AReg) : Statement (.madd f c) := length_encode _
theorem bfx (f : RBf) : Statement (.bfx f) := length_encode _
theorem bfxS (f : RBf) : Statement (.bfxS f) := length_encode _
theorem bfi (f : RBf) : Statement (.bfi f) := length_encode _
theorem sel (f : RRR) (n : Guard) : Statement (.sel f n) := length_encode _
theorem cmp (g t f : Guard) (c : Fin 16) (a b : AReg) : Statement (.cmp g t f c a b) := length_encode _
theorem cmpi (g t f : Guard) (c : Fin 16) (a : AReg) (i : BitVec 8) : Statement (.cmpi g t f c a i) := length_encode _
theorem plog (g t f : Guard) (n : Fin 16) (a b : Guard) : Statement (.plog g t f n a b) := length_encode _
theorem b (g : Guard) (o : BitVec 23) : Statement (.b g o) := length_encode _
theorem call (g : Guard) (o : BitVec 23) : Statement (.call g o) := length_encode _
theorem jr (f : RR) : Statement (.jr f) := length_encode _
theorem loop (g : Guard) (c : AReg) (l : BitVec 12) : Statement (.loop g c l) := length_encode _
theorem loopi (g : Guard) (n : BitVec 14) (l : BitVec 9) : Statement (.loopi g n l) := length_encode _
theorem ld (f : RMem) : Statement (.ld f) := length_encode _
theorem st (f : RMem) : Statement (.st f) := length_encode _
theorem ldx (f : RIdx) : Statement (.ldx f) := length_encode _
theorem stx (f : RIdx) : Statement (.stx f) := length_encode _
theorem pref (g : Guard) (a : AReg) (o : BitVec 10) : Statement (.pref g a o) := length_encode _
theorem amoAdd (f : RRR) : Statement (.amoAdd f) := length_encode _
theorem amoAnd (f : RRR) : Statement (.amoAnd f) := length_encode _
theorem amoOr (f : RRR) : Statement (.amoOr f) := length_encode _
theorem amoXor (f : RRR) : Statement (.amoXor f) := length_encode _
theorem amoMin (f : RRR) : Statement (.amoMin f) := length_encode _
theorem amoMax (f : RRR) : Statement (.amoMax f) := length_encode _
theorem amoMinu (f : RRR) : Statement (.amoMinu f) := length_encode _
theorem amoMaxu (f : RRR) : Statement (.amoMaxu f) := length_encode _
theorem amoSwap (f : RRR) : Statement (.amoSwap f) := length_encode _
theorem cas (f : RRR) : Statement (.cas f) := length_encode _
theorem sOpen (f : SAB) : Statement (.sOpen f) := length_encode _
theorem sOpenH (f : SAB) : Statement (.sOpenH f) := length_encode _
theorem sPat (f : SAB) (w : Fin 8) : Statement (.sPat f w) := length_encode _
theorem sGo (f : SO) : Statement (.sGo f) := length_encode _
theorem sAddr (f : SAB) (k : Fin 4) : Statement (.sAddr f k) := length_encode _
theorem sData (f : SAB) (z : Fin 4) : Statement (.sData f z) := length_encode _
theorem sClaim (f : SA) : Statement (.sClaim f) := length_encode _
theorem sCommit (f : SA) : Statement (.sCommit f) := length_encode _
theorem sCommitEl (f : SA) : Statement (.sCommitEl f) := length_encode _
theorem sCommitEnd (f : SA) : Statement (.sCommitEnd f) := length_encode _
theorem sCommitElEnd (f : SA) : Statement (.sCommitElEnd f) := length_encode _
theorem sAwait (f : SA) : Statement (.sAwait f) := length_encode _
theorem sRetire (f : SA) : Statement (.sRetire f) := length_encode _
theorem sMark (f : SO) : Statement (.sMark f) := length_encode _
theorem sMarkRel (f : SO) : Statement (.sMarkRel f) := length_encode _
theorem sRewind (f : SO) : Statement (.sRewind f) := length_encode _
theorem sFork (f : SO) (src : SReg) (k : Fin 16) (j : Fin 4) : Statement (.sFork f src k j) := length_encode _
theorem sClose (f : SO) : Statement (.sClose f) := length_encode _
theorem sCloseW (f : SO) : Statement (.sCloseW f) := length_encode _
theorem sStat (f : SO) (d : AReg) (w : Fin 16) : Statement (.sStat f d w) := length_encode _
theorem xqPush (g : Guard) (a : AReg) : Statement (.xqPush g a) := length_encode _
theorem yqPop (g : Guard) (d : AReg) : Statement (.yqPop g d) := length_encode _
theorem cpAsync (f : RRR) (t : Fin 128) (c : Bool) : Statement (.cpAsync f t c) := length_encode _
theorem cpChain (f : RR) (ch : Fin 8) : Statement (.cpChain f ch) := length_encode _
theorem cpFence (g : Guard) : Statement (.cpFence g) := length_encode _
theorem cpFenceAll (g : Guard) : Statement (.cpFenceAll g) := length_encode _
theorem gxRows (f : SAB) (z c : Bool) : Statement (.gxRows f z c) := length_encode _
theorem sxRows (f : SAB) (z c : Bool) : Statement (.sxRows f z c) := length_encode _
theorem hLoad (g : Guard) (h : Fin 16) (i : W16) : Statement (.hLoad g h i) := length_encode _
theorem hLoadNone (g : Guard) (h : Fin 16) (i : W16) : Statement (.hLoadNone g h i) := length_encode _
theorem hGet (g : Guard) (d : AReg) (h : Fin 16) (f : BitVec 8) : Statement (.hGet g d h f) := length_encode _
theorem fmtPush (g : Guard) (a : AReg) : Statement (.fmtPush g a) := length_encode _
theorem syncAcq (g : Guard) (d a : AReg) (k : Fin 8) (n : BitVec 8) : Statement (.syncAcq g d a k n) := length_encode _
theorem syncRel (g : Guard) (a : AReg) (k : Fin 8) (n : BitVec 8) : Statement (.syncRel g a k n) := length_encode _
theorem syncFence (g : Guard) (k : Fin 8) (n : BitVec 8) : Statement (.syncFence g k n) := length_encode _
theorem syncLaunchEarly (g : Guard) : Statement (.syncLaunchEarly g) := length_encode _
theorem barArrive (g : Guard) (n : BitVec 8) : Statement (.barArrive g n) := length_encode _
theorem barWait (g : Guard) (n : BitVec 8) : Statement (.barWait g n) := length_encode _
theorem barExpect (g : Guard) (a : AReg) (n : BitVec 8) : Statement (.barExpect g a n) := length_encode _
theorem taskSpawn (g : Guard) (a : AReg) : Statement (.taskSpawn g a) := length_encode _
theorem taskNext (g : Guard) : Statement (.taskNext g) := length_encode _
theorem taskDone (g : Guard) : Statement (.taskDone g) := length_encode _
theorem futRead (f : RR) (w : Fin 8) : Statement (.futRead f w) := length_encode _
theorem futFill (f : RR) : Statement (.futFill f) := length_encode _
theorem ttWait (g : Guard) (b : BitVec 10) : Statement (.ttWait g b) := length_encode _
theorem ttDone (g : Guard) (b : BitVec 10) : Statement (.ttDone g b) := length_encode _
theorem skipTest (g t : Guard) (a : AReg) (b : Fin 64) : Statement (.skipTest g t a b) := length_encode _
theorem alarmSet (f : RR) (p : BitVec 8) : Statement (.alarmSet f p) := length_encode _
theorem alarmClr (f : RR) (p : BitVec 8) : Statement (.alarmClr f p) := length_encode _
theorem csrR (g : Guard) (d : AReg) (n : BitVec 11) : Statement (.csrR g d n) := length_encode _
theorem csrW (g : Guard) (a : AReg) (n : BitVec 11) : Statement (.csrW g a n) := length_encode _
theorem halt (g : Guard) : Statement (.halt g) := length_encode _
theorem yield (g : Guard) : Statement (.yield g) := length_encode _
theorem trap (g : Guard) (n : Fin 8) : Statement (.trap g n) := length_encode _
theorem traceMark (g : Guard) (a : AReg) (t : BitVec 11) : Statement (.traceMark g a t) := length_encode _
theorem vadd (f : EF) : Statement (.vadd f) := length_encode _
theorem vsub (f : EF) : Statement (.vsub f) := length_encode _
theorem vmul (f : EF) : Statement (.vmul f) := length_encode _
theorem vfma (f : EF) : Statement (.vfma f) := length_encode _
theorem vfms (f : EF) : Statement (.vfms f) := length_encode _
theorem vmin (f : EF) : Statement (.vmin f) := length_encode _
theorem vmax (f : EF) : Statement (.vmax f) := length_encode _
theorem vabs (f : EF) : Statement (.vabs f) := length_encode _
theorem vneg (f : EF) : Statement (.vneg f) := length_encode _
theorem vsfu (f : EF) : Statement (.vsfu f) := length_encode _
theorem viadd (f : EF) : Statement (.viadd f) := length_encode _
theorem visub (f : EF) : Statement (.visub f) := length_encode _
theorem vimul (f : EF) : Statement (.vimul f) := length_encode _
theorem vimad (f : EF) : Statement (.vimad f) := length_encode _
theorem vand (f : EF) : Statement (.vand f) := length_encode _
theorem vor (f : EF) : Statement (.vor f) := length_encode _
theorem vxor (f : EF) : Statement (.vxor f) := length_encode _
theorem vshl (f : EF) : Statement (.vshl f) := length_encode _
theorem vshr (f : EF) : Statement (.vshr f) := length_encode _
theorem vsra (f : EF) : Statement (.vsra f) := length_encode _
theorem vimin (f : EF) : Statement (.vimin f) := length_encode _
theorem vimax (f : EF) : Statement (.vimax f) := length_encode _
theorem vcmp (f : EF) : Statement (.vcmp f) := length_encode _
theorem scmp (f : EF) : Statement (.scmp f) := length_encode _
theorem mlog (f : EF) : Statement (.mlog f) := length_encode _
theorem mpop (f : EF) : Statement (.mpop f) := length_encode _
theorem vcvt (f : EF) : Statement (.vcvt f) := length_encode _
theorem vpack (f : EF) : Statement (.vpack f) := length_encode _
theorem vunpack (f : EF) : Statement (.vunpack f) := length_encode _
theorem scvt (f : EF) : Statement (.scvt f) := length_encode _
theorem vshuf (f : EF) : Statement (.vshuf f) := length_encode _
theorem vbcast (f : EF) : Statement (.vbcast f) := length_encode _
theorem vslideDn (f : EF) : Statement (.vslideDn f) := length_encode _
theorem vslideUp (f : EF) : Statement (.vslideUp f) := length_encode _
theorem vsel (f : EF) : Statement (.vsel f) := length_encode _
theorem vkeyPack (f : EF) : Statement (.vkeyPack f) := length_encode _
theorem vkeyHash (f : EF) : Statement (.vkeyHash f) := length_encode _
theorem vred (f : EF) : Statement (.vred f) := length_encode _
theorem vscan (f : EF) : Statement (.vscan f) := length_encode _
theorem sadd (f : EF) : Statement (.sadd f) := length_encode _
theorem smul (f : EF) : Statement (.smul f) := length_encode _
theorem sfma (f : EF) : Statement (.sfma f) := length_encode _
theorem smov (f : EF) : Statement (.smov f) := length_encode _
theorem vmov (f : EF) : Statement (.vmov f) := length_encode _
theorem vli (f : EF) (lit : W64) : Statement (.vli f lit) := length_encode _
theorem sli (f : EF) (lit : W64) : Statement (.sli f lit) := length_encode _
theorem xqPop (f : EF) : Statement (.xqPop f) := length_encode _
theorem yqPush (f : EF) : Statement (.yqPush f) := length_encode _
theorem vallot (f : EF) : Statement (.vallot f) := length_encode _
theorem vshrink (f : EF) : Statement (.vshrink f) := length_encode _
theorem vpushm (f : EF) : Statement (.vpushm f) := length_encode _
theorem vpopm (f : EF) : Statement (.vpopm f) := length_encode _
theorem eb (f : EF) : Statement (.eb f) := length_encode _
theorem eloop (f : EF) : Statement (.eloop f) := length_encode _
theorem eloopPipe (f : EF) : Statement (.eloopPipe f) := length_encode _
theorem estage (f : EF) : Statement (.estage f) := length_encode _
theorem ehalt (f : EF) : Statement (.ehalt f) := length_encode _
theorem etrap (f : EF) : Statement (.etrap f) := length_encode _
theorem ecsrR (f : EF) : Statement (.ecsrR f) := length_encode _
theorem ecsrW (f : EF) : Statement (.ecsrW f) := length_encode _
theorem sDrop (f : EF) : Statement (.sDrop f) := length_encode _
theorem wload (f : EF) : Statement (.wload f) := length_encode _
theorem wloadSc (f : EF) : Statement (.wloadSc f) := length_encode _
theorem mxDot (f : EF) : Statement (.mxDot f) := length_encode _
theorem mxDots (f : EF) : Statement (.mxDots f) := length_encode _
theorem rndSet (f : EF) : Statement (.rndSet f) := length_encode _
theorem mxWait (f : EF) : Statement (.mxWait f) := length_encode _
theorem jCfg (f : EF) : Statement (.jCfg f) := length_encode _
theorem jClear (f : EF) : Statement (.jClear f) := length_encode _
theorem jAcc (f : EF) : Statement (.jAcc f) := length_encode _
theorem jMerge (f : EF) : Statement (.jMerge f) := length_encode _
theorem jDrain (f : EF) : Statement (.jDrain f) := length_encode _
theorem jDraino (f : EF) : Statement (.jDraino f) := length_encode _
theorem jLook (f : EF) : Statement (.jLook f) := length_encode _
theorem jLookP (f : EF) : Statement (.jLookP f) := length_encode _
theorem jStat (f : EF) : Statement (.jStat f) := length_encode _
theorem jWait (f : EF) : Statement (.jWait f) := length_encode _
theorem gCfg (f : EF) : Statement (.gCfg f) := length_encode _
theorem gSig (f : EF) : Statement (.gSig f) := length_encode _
theorem gReuse (f : EF) : Statement (.gReuse f) := length_encode _
theorem gKeep (f : EF) : Statement (.gKeep f) := length_encode _
theorem gMapR (f : EF) : Statement (.gMapR f) := length_encode _
theorem gMapW (f : EF) : Statement (.gMapW f) := length_encode _
theorem gMapStep (f : EF) : Statement (.gMapStep f) := length_encode _
theorem gMapTile (f : EF) : Statement (.gMapTile f) := length_encode _
theorem gStep (f : EF) : Statement (.gStep f) := length_encode _
theorem resultDelivery : Statement (.resultDelivery) := length_encode _
theorem memoryRequestComplete (c : ApId) : Statement (.memoryRequestComplete c) := length_encode _
theorem pageWalkComplete : Statement (.pageWalkComplete) := length_encode _
theorem streamFetch (st : SReg) : Statement (.streamFetch st) := length_encode _
theorem granuleLand (st : SReg) : Statement (.granuleLand st) := length_encode _
theorem decompress (st : SReg) : Statement (.decompress st) := length_encode _
theorem streamDrainWrite (st : SReg) : Statement (.streamDrainWrite st) := length_encode _
theorem remoteGranuleSend (st : SReg) : Statement (.remoteGranuleSend st) := length_encode _
theorem engineCommandStart (id : Nat) : Statement (.engineCommandStart id) := length_encode _
theorem engineCommandFinish (id : Nat) : Statement (.engineCommandFinish id) := length_encode _
theorem chainRecordFetch (ch : Fin 8) : Statement (.chainRecordFetch ch) := length_encode _
theorem chainRecordDone (ch : Fin 8) : Statement (.chainRecordDone ch) := length_encode _
theorem commandStart : Statement (.commandStart) := length_encode _
theorem matrixKStep : Statement (.matrixKStep) := length_encode _
theorem queueStreamCopy : Statement (.queueStreamCopy) := length_encode _
theorem damaskAccumulate : Statement (.damaskAccumulate) := length_encode _
theorem damaskDrainEntry : Statement (.damaskDrainEntry) := length_encode _
theorem commandFinish : Statement (.commandFinish) := length_encode _
theorem gauzeOpComplete : Statement (.gauzeOpComplete) := length_encode _
theorem frameTick : Statement (.frameTick) := length_encode _
theorem frameStart (launch : Nat) : Statement (.frameStart launch) := length_encode _
theorem blockRelease (launch : Nat) (b : BitVec 10) : Statement (.blockRelease launch b) := length_encode _
theorem pinChange : Statement (.pinChange) := length_encode _
theorem completionRecordWrite (p : Fin 8) : Statement (.completionRecordWrite p) := length_encode _
theorem faultRecordPost (p : Fin 8) : Statement (.faultRecordPost p) := length_encode _
theorem tracePcSample (c : Fin 3) : Statement (.tracePcSample c) := length_encode _
theorem traceTimeStamp : Statement (.traceTimeStamp) := length_encode _
theorem watchdogExpire : Statement (.watchdogExpire) := length_encode _
theorem forcedSave : Statement (.forcedSave) := length_encode _
theorem saveComplete : Statement (.saveComplete) := length_encode _
theorem shootdownComplete : Statement (.shootdownComplete) := length_encode _
theorem regionInstall (s : Fin 8) : Statement (.regionInstall s) := length_encode _
theorem partitionFreed (p : Fin 8) : Statement (.partitionFreed p) := length_encode _
theorem launchDescriptorTake (p : Fin 8) (q : Fin 4) (place : List (Fin 416)) (launch : W32) (area : W64) (affinity : List (Fin 192)) : Statement (.launchDescriptorTake p q place launch area affinity) := length_encode _
theorem overlayLoad : Statement (.overlayLoad) := length_encode _
theorem launchRecordApply : Statement (.launchRecordApply) := length_encode _
theorem bind (e : Fin 416) : Statement (.bind e) := length_encode _
theorem resume (p : Fin 8) : Statement (.resume p) := length_encode _
theorem redirect (p : Fin 8) : Statement (.redirect p) := length_encode _
theorem cancel (p : Fin 8) : Statement (.cancel p) := length_encode _
theorem shootdown (p : Fin 8) : Statement (.shootdown p) := length_encode _
theorem trace (p : Fin 8) : Statement (.trace p) := length_encode _
theorem ingestFrameStart (c : Fin 32) : Statement (.ingestFrameStart c) := length_encode _
theorem ingestPayloadWrite (c : Fin 32) (off : BitVec 20) (data : List Byte) : Statement (.ingestPayloadWrite c off data) := length_encode _
theorem ingestEof (c : Fin 32) (len : W64) : Statement (.ingestEof c len) := length_encode _
theorem ingestFrameCommit (c : Fin 32) : Statement (.ingestFrameCommit c) := length_encode _
theorem hbmWindowWrite (m : Master) (off : BitVec 39) (data : List Byte) : Statement (.hbmWindowWrite m off data) := length_encode _
theorem hbmWindowRead (m : Master) (off : BitVec 39) (len : BitVec 13) : Statement (.hbmWindowRead m off len) := length_encode _
theorem hostCompletionTimeout (x : HostAccess) : Statement (.hostCompletionTimeout x) := length_encode _
theorem ownerClaim (m : Master) : Statement (.ownerClaim m) := length_encode _
theorem ownerForceClaim (m : Master) : Statement (.ownerForceClaim m) := length_encode _
theorem ownerHandover (m succ : Master) : Statement (.ownerHandover m succ) := length_encode _
theorem create (m : Master) (p : Fin 8) : Statement (.create m p) := length_encode _
theorem destroy (m : Master) (p : Fin 8) : Statement (.destroy m p) := length_encode _
theorem regrant (m : Master) (p : Fin 8) : Statement (.regrant m p) := length_encode _
theorem lqBase (m : Master) (p : Fin 8) (q : Fin 4) (v : W64) : Statement (.lqBase m p q v) := length_encode _
theorem lqTail (m : Master) (p : Fin 8) (q : Fin 4) (v : W64) : Statement (.lqTail m p q v) := length_encode _
theorem crBase (m : Master) (p : Fin 8) (v : W64) : Statement (.crBase m p v) := length_encode _
theorem crHead (m : Master) (p : Fin 8) (v : W64) : Statement (.crHead m p v) := length_encode _
theorem arBase (m : Master) (p : Fin 8) (v : W64) : Statement (.arBase m p v) := length_encode _
theorem arHead (m : Master) (p : Fin 8) (v : W64) : Statement (.arHead m p v) := length_encode _
theorem regionCommit (m : Master) (s : Fin 8) (v : W64) : Statement (.regionCommit m s v) := length_encode _
theorem unbind (e : Fin 416) : Statement (.unbind e) := length_encode _
theorem save (e : Fin 416) : Statement (.save e) := length_encode _
theorem restore (e : Fin 416) : Statement (.restore e) := length_encode _
theorem run (launch : W32) : Statement (.run launch) := length_encode _
theorem faultActResume (token : W32) : Statement (.faultActResume token) := length_encode _
theorem faultActRedirect (token : W32) : Statement (.faultActRedirect token) := length_encode _
theorem faultActCancel (token : W32) : Statement (.faultActCancel token) := length_encode _
theorem sdCmd (p : Fin 8) : Statement (.sdCmd p) := length_encode _
theorem stop (e : Fin 416) (c : Fin 4) : Statement (.stop e c) := length_encode _
theorem freeze (mask : BitVec 8) : Statement (.freeze mask) := length_encode _
theorem pinReset (m : Master) (mask : BitVec 8) : Statement (.pinReset m mask) := length_encode _
theorem pkgReset (m : Master) (v : W64) : Statement (.pkgReset m v) := length_encode _
theorem packageReset : Statement (.packageReset) := length_encode _
theorem fuses (serial : W32) (stepping : Byte) (spares : List (Fin 416)) : Statement (.fuses serial stepping spares) := length_encode _
theorem clocks (locked3200 : Bool) : Statement (.clocks locked3200) := length_encode _
theorem memoryTraining (passed : BitVec 8) : Statement (.memoryTraining passed) := length_encode _
theorem meshAndBridge (dies : BitVec 2) (links : W16) : Statement (.meshAndBridge dies links) := length_encode _
theorem firmware (crcOk : Bool) : Statement (.firmware crcOk) := length_encode _
theorem fwGo (m : Master) : Statement (.fwGo m) := length_encode _
theorem fwFlash (m : Master) : Statement (.fwFlash m) := length_encode _
theorem fwVerifyDone (result : BitVec 8) : Statement (.fwVerifyDone result) := length_encode _
theorem bridgeLinkRetire (l : Fin 16) : Statement (.bridgeLinkRetire l) := length_encode _
theorem slavamusLinkChange (k : Fin 8) (up retrained : Bool) (lanes : BitVec 4) (pserial : W32) (pport : BitVec 3) : Statement (.slavamusLinkChange k up retrained lanes pserial pport) := length_encode _
theorem thermalTrip : Statement (.thermalTrip) := length_encode _
theorem registerWrite (w : Writer) (off : BitVec 32) (v : W64) : Statement (.registerWrite w off v) := length_encode _
theorem pcieLinkChange (port : Fin 2) (up : Bool) : Statement (.pcieLinkChange port up) := length_encode _
theorem peerAccess (k : Fin 8) (off : BitVec 45) (data : List Byte) (kind : Fin 3) : Statement (.peerAccess k off data kind) := length_encode _
theorem backgroundTraining : Statement (.backgroundTraining) := length_encode _

end Sys2Proof.Laws.Encoding
end

