-- ==== Sys2Proof/Laws/Units.lean ====
section
/-! SUPPORT. What the operations around a core cycle and a command leave alone: the latch of a residency among the
others (R26), the pins that a command gives up (R414), and the end of a barrier phase (R164). -/

namespace Sys2Proof.Machine

/-! ### What the residencies of the package show each other (R26) -/

variable (r : Residency) (all : List Residency)

@[simp] theorem Residency.latchAmong_st : (r.latchAmong all).st = r.st := rfl
@[simp] theorem Residency.latchAmong_ep : (r.latchAmong all).ep = r.ep := rfl
@[simp] theorem Residency.latchAmong_bind : (r.latchAmong all).bind = r.bind := rfl
@[simp] theorem Residency.latchAmong_cmds : (r.latchAmong all).cmds = r.cmds := rfl
@[simp] theorem Residency.latchAmong_stage : (r.latchAmong all).stage = r.stage := rfl
@[simp] theorem Residency.latchAmong_start_st : (r.latchAmong all).start.st = r.start.st := rfl
@[simp] theorem Residency.latchAmong_start_ingests : (r.latchAmong all).start.ingests = all.flatMap Residency.ingests := rfl

/-- A residency that stands alone on its core finds none beside it. -/
theorem Residency.latchAmong_alone (h : ∀ o ∈ all, o.stage ≠ .free → coreOf o.bind.e = coreOf r.bind.e → o.bind.e = r.bind.e) :
    (r.latchAmong all).start.beside = none := by
  have : (all.find? fun o => coreOf o.bind.e == coreOf r.bind.e && o.bind.e != r.bind.e && o.stage != .free) = none := by
    simp only [List.find?_eq_none, Bool.and_eq_true, beq_iff_eq, bne_iff_ne, not_and, and_imp]
    exact fun o ho hc hn hs => hn (h o ho hs hc)
  simp [Residency.latchAmong, this]

/-! ### Pins of a command (R414) -/

variable (c : Cmd) (s : State) (a : W64) (n : Nat)

@[simp] theorem Cmd.touch_zero : c.touch s a 0 = c := by simp [Cmd.touch]
@[simp] theorem Cmd.touch_begun : (c.touch s a n).begun = (c.begun || n != 0) := rfl
@[simp] theorem Cmd.touch_id : (c.touch s a n).id = c.id := rfl
@[simp] theorem Cmd.touch_kind : (c.touch s a n).kind = c.kind := rfl
@[simp] theorem Cmd.touch_fields : (c.touch s a n).fields = c.fields := rfl
@[simp] theorem Cmd.touch_target : (c.touch s a n).target = c.target := rfl
@[simp] theorem Cmd.touch_tag : (c.touch s a n).tag = c.tag := rfl
@[simp] theorem Cmd.touch_zeroed : (c.touch s a n).zero = c.zero := rfl
@[simp] theorem Cmd.touch_stream : (c.touch s a n).stream = c.stream := rfl
@[simp] theorem Cmd.touch_status : (c.touch s a n).status = c.status := rfl
@[simp] theorem Cmd.touch_row : (c.touch s a n).row = c.row := rfl
@[simp] theorem Cmd.touch_off : (c.touch s a n).off = c.off := rfl
@[simp] theorem Cmd.touch_bytes : (c.touch s a n).bytes = c.bytes := rfl
@[simp] theorem Cmd.touch_oor : (c.touch s a n).oor = c.oor := rfl

/-- A command only ever gives pins up. -/
theorem Cmd.touch_pins_sub : ∀ p ∈ (c.touch s a n).pins, p ∈ c.pins := fun _ h => List.mem_of_mem_filter h

/-! ### The end of a phase (R164) -/

@[simp] theorem State.endPhase_none : s.endPhase none = s := rfl
@[simp] theorem State.endPhase_some (g : Nat) : s.endPhase (some g) = s.barrierCheck g := rfl

/-- A phase that is not complete does not end. -/
theorem State.barrierCheck_of_open (g : Nat) (h : ∀ x, s.group g = some x → x.phaseDone = false) : s.barrierCheck g = s := by
  have e : s.barrierEnd g = s := by
    unfold State.barrierEnd
    split
    · rfl
    · rename_i x hx
      simp [h x hx]
  rw [State.barrierCheck, e, e]

end Sys2Proof.Machine
end

