-- ==== Sys2Proof/Tests/Slice0.lean ====
section
/-! SUPPORT. The states that meet the hypotheses of each statement, words written out from the encodings, ill-formed
instructions that the checks refuse, and a few single steps. -/

namespace Sys2Proof.Tests

open Sys2Proof Sys2Proof.Machine

set_option Elab.async false

/-- The record of a partition whose HBM range is the first 32 MiB, the upper half of it privileged. -/
def record0 : List Byte :=
  [0, 0, 1, 0, 0, 0, 0, 0] ++ leBytes 8 0x100000 ++ leBytes 8 0x60000 ++ leBytes 4 16 ++ leBytes 4 0 ++ leBytes 4 1 ++
    [0xFF, 0, 0, 0] ++ leBytes 8 0x1000000 ++ leBytes 8 0x1000000 ++ leBytes 8 0x40000 ++ leBytes 8 0x50000 ++ leBytes 8 0 ++
    leBytes 8 0 ++ leBytes 8 0x2000000 ++ List.replicate 160 0

/-- A package in full service with partition 0 active, owned by host 1; one page of virtual memory, 0x10000, in the TLB of
core 0. -/
def package0 : Package := { Package.reset with
  boot := { Boot.reset with state := 6, die1 := true, trained := 0xFF, bridge := 0xFFFF, clock := 3200 }
  owner := 1
  parts := Package.reset.parts.set 0 { Partition.free with state := .active, record := record0 }
  regions := Vector.replicate 8 .reset
  tlb := [⟨false, 0, 0, 0x10000, 0x10000, 0x20000, true, true, false⟩] }

/-- A launch of one core whose launch record is applied. -/
def launch0 : Launch := { Launch.none with n := 1, link := 0x1000000, compl := 0x1000040, applied := [0] }

/-- A running residency in entry 0 of a launch of one core, context F before its slot. -/
def base : State := { State.reset with
  r := { Residency.bare with
    bind := { Residency.bare.bind with
      fetchSize := 4096, drainBase := 4096, drainSize := 4096, epSize := 4096, smem := 16384, jsh := 262144 }
    f := { ApCtx.fresh with status := .running }
    d := { ApCtx.fresh with status := .running }
    ep := { Residency.bare.ep with status := .running } }
  phase := .ap
  launches := [launch0]
  pkg := package0 }

/-- The same with registers of context F set. -/
def withA (l : List (AReg × W64)) : State := l.foldl (fun s x => s.setA x.1 x.2) base

/-- Whether an answer is there and passes a test. -/
def okAnd {α : Type} (x : Except Stop α) (p : α → Bool) : Bool := match x with | .ok a => p a | .error _ => false

/-- Whether an instruction gives a next state that passes a test. -/
def goes (i : Instr) (s : State) (p : State → Bool) : Bool := match exec i s with | .next t => p t | _ => false

/-! ### Witnesses: the hypotheses of each statement can be met -/

/-- A ring of 4 granules at granule `g` of the share: kind, sink and size code, head 0 enabled. -/
def ring (kind sink code g : Nat) : StreamReg := { StreamReg.closed with
  control := BitVec.ofNat 64 (kind + 16 * sink + 256 * code)
  ring := BitVec.ofNat 32 (g + 3 * 2 ^ 16)
  heads := StreamReg.closed.heads.set 0 { Head.off with enabled := true } }

/-- Stream register n holds r, now and at the start of the core cycle. -/
def withSt (s : State) (n : SReg) (r : StreamReg) : State :=
  s.updR fun q => { q with st := q.st.set n r, start := { q.start with st := q.start.st.set n r } }

/-- E or an AP context at code placed at its PC. -/
def atCode (a : Bool) (bs : List Byte) : State :=
  { base with
    mem := base.mem.fill (if a then apimKey 0 0 else epimKey 0 0) bs
    phase := if a then .ap else .ep }

theorem wit_step_ap : (atCode true [0x08, 0x80, 0x90, 0x09]).pkg.boot.powered = true ∧
    apOwner (atCode true [0x08, 0x80, 0x90, 0x09]) = some .f ∧
    decodeABytes ((atCode true [0x08, 0x80, 0x90, 0x09]).mem.bytes (apimKey 0 0) 4) = .ok (.addi ⟨3, 4, 4, 8⟩) ∧
    (atCode true [0x08, 0x80, 0x90, 0x09]).mem.isBad (apimKey 0 0 / 64) = false := by decide +kernel

theorem wit_step_ep : epOwns (atCode false (leBytes 8 0x53_07_FF_FF_FF_F8_00_00)) = true ∧
    wordLen (atCode false (leBytes 8 0x53_07_FF_FF_FF_F8_00_00)).eWord = 8 ∧
    decodeE (atCode false (leBytes 8 0x53_07_FF_FF_FF_F8_00_00)).eWord.toNat 0 =
      .ok (.ehalt ⟨0, false, 0xFF, 0xFF, 0xFF, 0xFF, 0, 0, 0⟩) := by decide +kernel

theorem wit_field_causes : guardOf (.cmp 0 1 2 12 3 4) = some 0 ∧ staticCause (.cmp 0 1 2 12 3 4) = some 0x01 ∧
    eCause (base.updE EpCtx.refill) (.vadd ⟨0, false, 0x01, 0x02, 0x03, 0xFF, 1, 0, 0⟩) ≠ none ∧
    (base.updE EpCtx.refill).withheld = false ∧
    eCause (base.updE EpCtx.refill) (.estage ⟨0, false, 0xFF, 0xFF, 0xFF, 0xFF, 1, 0, 0⟩) = some 0x01 := by decide +kernel

theorem wit_memory_canonical : base.memOk ∧ (match step base with | .next _ => true | _ => false) = true :=
  ⟨by show base.mem.wf = true; decide +kernel, by decide +kernel⟩

theorem wit_conditions : base.apReady (.cmp 0 1 2 11 3 4) 0 = true ∧ base.apReady (.cmpi 0 1 2 0 3 7) 0 = true := by
  decide +kernel

theorem wit_select : base.apReady (.sel ⟨0, 1, 2, 3⟩ 7) 0 = true ∧
    aluValue base.areg base.apred (.sel ⟨0, 1, 2, 3⟩ 0) = some (0, 1, 0) := by decide +kernel

/-- One instruction of each form of the arithmetic statement is ready. -/
theorem wit_arithmetic : ([.add ⟨0, 1, 2, 3⟩, .clz ⟨0, 1, 2⟩, .addi ⟨0, 1, 2, -1⟩, .shli ⟨0, 1, 2, 63⟩, .lui 0 1 5,
    .madd ⟨0, 1, 2, 3⟩ 4] : List Instr).all (fun i => base.apReady i 0 && (aluValue base.areg base.apred i).isSome) = true := by
  decide +kernel

/-- A product is due to a2 in two more slots. -/
theorem wit_blocked : (let s := base.updCtx .f fun c => { c with busy := [(2, 3)] }
    guardOf (.add ⟨0, 1, 2, 3⟩) = some 0 ∧ staticCause (.add ⟨0, 1, 2, 3⟩) = none ∧ s.apred 0 = true ∧
    (2 : AReg) ∈ apRegs (.add ⟨0, 1, 2, 3⟩) ∧ (2, 2) ∈ s.stillDue) := by decide +kernel

theorem wit_bit_fields : base.apReady (.bfx ⟨0, 1, 2, 5, 58⟩) 0 = true ∧ base.apReady (.bfxS ⟨0, 1, 2, 63, 0⟩) 0 = true ∧
    base.apReady (.bfi ⟨0, 1, 2, 0, 63⟩) 0 = true := by decide +kernel

theorem wit_predicates : predValue base.areg base.apred (.plog 0 1 2 6 3 4) = some (0, 1, 2, false) ∧
    base.apReady (.plog 0 1 2 6 3 4) 0 = true := by decide +kernel

theorem wit_guarded_off : guardOf (.add ⟨3, 1, 2, 3⟩) = some 3 ∧ staticCause (.add ⟨3, 1, 2, 3⟩) = none ∧
    base.apred 3 = false := by decide +kernel

theorem wit_transfers : base.apReady (.b 0 5) 0 = true ∧ base.apReady (.call 0 5) 0 = true ∧
    base.apReady (.jr ⟨0, 1, 2⟩) 0 = true ∧ base.tracing 1 0 = false ∧ (base.areg 2).toNat % 4 = 0 ∧
    (withA [(2, 6)]).apReady (.jr ⟨0, 1, 2⟩) 0 = true ∧ ((withA [(2, 6)]).areg 2).toNat % 4 ≠ 0 := by decide +kernel

/-- Two levels that end together: the inner is popped, the outer goes back. -/
theorem test_loop_levels : loopAdvance 8 [⟨0, 8, 3, 2⟩, ⟨4, 8, 2, 0⟩] = (4, [⟨4, 8, 2, 1⟩]) := by decide

theorem wit_loops : base.apReady (.loop 0 1 3) 0 = true ∧ base.apReady (.loopi 0 0 3) 0 = true ∧ base.mayLoop 0 3 = true := by
  decide +kernel

theorem wit_accesses_issue : ([.ld ⟨0, 1, 2, 3, 0⟩, .st ⟨0, 1, 2, 3, 0⟩, .ldx ⟨0, 1, 2, 0, 0, 3⟩, .stx ⟨0, 1, 2, 0, 0, 3⟩,
    .amoAdd ⟨0, 1, 2, 3⟩, .cas ⟨0, 1, 2, 3⟩] : List Instr).all (fun i =>
      match accessOf (withA [(2, 0x10008)]) i with
      | some x => (withA [(2, 0x10008)]).apReady i x.g && decide (x.addr = 0x10008) &&
          okAnd (resolve (withA [(2, 0x10008)]).slotted x.addr x.len x.rd x.wr) (fun p => !unsupported x.op p.1)
      | none => false) = true := by decide +kernel

/-- A second page, 0x20000, lies in host memory. -/
def hosted : State := { base with pkg := { base.pkg with tlb := ⟨false, 0, 0, 0x20000, 0x10000, 2 ^ 48, true, true, false⟩ :: base.pkg.tlb } }

/-- Tables that lead to a leaf for the page 0x20000, which is in no TLB; the entry of the page 0x30000 is not valid. -/
def mapped (leaf : W64) : State := { base with
  mem := [(0x100000, 0x200001), (0x200000, 0x201001), (0x201000, 0x202001), (0x202010, leaf.toNat)].foldl
    (fun m x => m.write (keysFrom x.1 8) (leBytes 8 x.2)) base.mem }

/-- The cause that stops an access, if one does. -/
def trapOf {α : Type} (x : Except Stop α) : Option Cause := match x with | .error (.trap t) => some t.cause | _ => none

/-- The cause that ends a walk or a check, if one does. -/
def causeOf {α : Type} (x : Except Trap α) : Option Cause := match x with | .error t => some t.cause | _ => none

/-- A hit and a miss that walks to a leaf, an entry that is not valid, one that is malformed, a leaf without rights, one whose
frame the partition may not reach, and one in a stack without regions. -/
theorem wit_translations :
    ((tlbFind base.pkg.tlb 0 0 0x10008 true true).isSome ∧ tlbFind base.pkg.tlb 0 0 0x20008 true false = none) ∧
    (translate (mapped 0x2000F).mem base.pkg 0 0 0x20008 true true).toOption.isSome = true ∧
    ([(mapped 0x2000F, 0x30000), (mapped 0x2001F, 0x20000), (mapped 0x20003, 0x20000), (mapped 0x100000F, 0x20000)] :
      List (State × W64)).map (fun x => causeOf (translate x.1.mem x.1.pkg 0 0 x.2 true false)) =
        [some 0x31, some 0x33, some 0x32, some 0x39] ∧
    causeOf (translate (mapped 0x20007).mem base.pkg 0 0 0x20000 false true) = some 0x32 ∧
    inRanges (base.pkg.parts[(0 : Fin 8)]).ranges 0x100000 (8 * tableEntries 4) = true ∧ base.pkg.unmapped 0x100000 = false ∧
    (mapped 0x2000F).mem.readCause [0x100000 / 64] = none := by decide +kernel

/-- An access that crosses into a second page. -/
theorem wit_two_pages : (resolve (mapped 0x2000F) 0x1FFFC 8 true false).toOption.map (fun p => p.1) =
    some (keysFrom 0x2FFFC 4 ++ keysFrom 0x20000 4) := by decide +kernel

/-- A share and a page; the causes of an address that names nothing, of an unaligned atomic access, and of one that
host memory does not serve. -/
theorem wit_access_faults : (formCheck base 0xFE00000000000040 8).toOption = some (.spad 0 0x40) ∧
    (formCheck (mapped 0x2000F) 0x1FFFC 8).toOption = some (.virt 0x1FFFC) ∧
    ([0x0100000000000000, 0xFE00000000400000, 0xFD00000100000000, 0xFE00000000100000, 0x30000] : List W64).map
      (fun x => trapOf (resolve (mapped 0x2000F) x 8 true false)) =
        [some 0x34, some 0x34, some 0x36, some 0x35, some 0x31] ∧
    (withA [(2, 0x10004)]).apReady (.amoAdd ⟨0, 1, 2, 3⟩) 0 = true ∧ (formCheck (withA [(2, 0x10004)]) 0x10004 8).toOption.isSome = true ∧
    okAnd (resolve hosted 0x20008 8 true true) (fun p => unsupported (.amo 1 1 0) p.1) = true := by decide +kernel

/-- Context F with an access under way to some bytes. -/
def waiting (op : MemOp) (ks : List Nat) : State := base.updCtx .f fun c => { c with pending := some ⟨op, 0, ks, 0, [], false⟩ }

/-- The access meets the hypotheses of its completion, of every part or of one. -/
def servable (s : State) (whole : Bool) : Bool :=
  match (s.ctx .f).pending with
  | some q => q.placed s == some q && decide (q.since ≤ s.now) && q.due s != [] && (q.due s == q.rest) == whole &&
      s.pkg.boot.state != 10 && (q.cause s).isNone
  | none => false

theorem wit_accesses_complete : ([.load 1 3, .store [1, 2, 3, 4, 5, 6, 7, 8], .amo 4 1 5, .cas 1 0 5] : List MemOp).all (fun op =>
    servable (waiting op (keysFrom 0x40 8)) true) = true ∧
    servable (waiting (.store [1, 2, 3, 4, 5, 6, 7, 8]) (keysFrom 0x3C 4 ++ keysFrom (spadKey 0 0) 4)) false = true ∧
    (base.all.find? fun r => r.bind.e == 0) = some base.r := by decide +kernel

theorem wit_prefetch : base.apReady (.pref 0 1 0) 0 = true := by decide +kernel

/-- AP-produced streams in registers 3 and 4 (a ring at granule 8, of size code 2), consumed by the access processor and by
E; 64 bytes are claimed in the first, committed in the second. -/
def produced : State :=
  withSt (withSt (withA [(1, 1), (2, 0x10008), (5, 0)]) 3 { ring 8 1 2 8 with claimed := 1, landed := 64 }) 4
    { ring 8 1 2 16 with claimed := 1, committed := 1 }

theorem wit_claim : produced.apReady (.sClaim ⟨0, 3, 1⟩) 0 = true ∧ (produced.stream 3).apProduced = true ∧
    (produced.areg 1).toNat ≤ (produced.stream 3).size ∧ produced.roomStart 3 = 3 := by decide +kernel

theorem wit_commits : ([(.sCommit ⟨0, 3, 1⟩, false), (.sCommitEl ⟨0, 3, 1⟩, true), (.sCommitEnd ⟨0, 3, 1⟩, false),
    (.sCommitElEnd ⟨0, 3, 1⟩, true)] : List (Instr × Bool)).all (fun i => produced.apReady i.1 0 &&
      decide ((produced.stream 3).commitSize i.2 (produced.areg 1).toNat ≤ (produced.stream 3).claimedBytes)) = true := by
  decide +kernel

theorem wit_await_retire : produced.apReady (.sAwait ⟨0, 4, 1⟩) 0 = true ∧ produced.apConsumes 4 = true ∧
    produced.awaitedAt 4 + 1 ≤ (produced.stream 4).size ∧ (produced.areg 1).toNat = 1 ∧
    1 ≤ awaitable (produced.streamStart 4) (produced.headAt 4) (produced.awaitedAt 4) ∧
    ringCause produced.slotted (produced.stream 4) (produced.headAt 4).count 1 = none ∧
    produced.apReady (.sRetire ⟨0, 4, 5⟩) 0 = true ∧ (produced.areg 5).toNat ≤ produced.awaitedAt 4 := by decide +kernel

theorem wit_marks : produced.headOpen 4 = true ∧ produced.apReady (.sMark ⟨0, 4⟩) 0 = true ∧
    produced.apReady (.sMarkRel ⟨0, 4⟩) 0 = true ∧ produced.apReady (.sRewind ⟨0, 4⟩) 0 = true ∧
    ((withSt produced 4 { produced.stream 4 with
      heads := (produced.stream 4).heads.set 0 { produced.headAt 4 with markValid := true } }).headAt 4).markValid = true := by
  decide +kernel

theorem wit_stream_words : produced.apReady (.sPat ⟨0, 5, 1, 2⟩ 4) 0 = true ∧ (produced.stream 5).isOpen = false ∧
    produced.apReady (.sGo ⟨0, 4⟩) 0 = true ∧
    (withSt produced 5 (ring 3 0 2 24)).apReady (.sAddr ⟨0, 5, 1, 2⟩ 3) 0 = true ∧ (ring 3 0 2 24).kind = 3 ∧
    produced.apReady (.sData ⟨0, 3, 1, 5⟩ 3) 0 = true ∧ (produced.areg 5).toNat + sizeBytes 3 ≤ (produced.stream 3).claimedBytes := by
  decide +kernel

/-- The control and ring words of a stream that the access processor fills and E reads, in registers 1 and 2. -/
def opening : State := withA [(1, 8 + 2 * 256), (2, 0x30008)]

theorem wit_opens : opening.apReady (.sOpen ⟨0, 3, 1, 2⟩) 0 = true ∧ opening.apReady (.sOpenH ⟨0, 3, 1, 2⟩) 0 = true ∧
    okAnd (openChecks opening.slotted 3 (openReg (8 + 2 * 256) 0x30008 (opening.stream 3).src false)) (fun _ => true) = true := by
  decide +kernel

theorem wit_fork : produced.apReady (.sFork ⟨0, 6⟩ 3 1 1) 0 = true ∧ (produced.stream 6).isOpen = false ∧
    ((produced.stream 3).heads[(1 : Fin 4)]).enabled = false ∧
    okAnd (sideChecks produced.slotted (forkAlias produced 6 3 1 1) false false false (produced.stream 3).esize) (fun u =>
      okAnd (sideChecks u (forkAlias produced 6 3 1 1) false false false (produced.stream 3).esize) fun _ => true) = true := by
  decide +kernel

theorem wit_closes : produced.apReady (.sClose ⟨0, 3⟩) 0 = true ∧ produced.apReady (.sCloseW ⟨0, 3⟩) 0 = true ∧
    (∀ m, ¬((produced.stream m).kind = 10 ∧ (produced.stream m).peerSt = 3)) ∧ produced.r.undelivered 3 = false ∧
    (produced.stream 3).holds = 0 := by decide +kernel

theorem wit_stream_status : produced.apReady (.sStat ⟨0, 3⟩ 1 15) 0 = true ∧
    (produced.streamStart 3).opaqueWord 2 = false := by decide +kernel

/-- The queues hold something. -/
def queued : State := base.updR fun r => { r with yq := [5], start := { r.start with yq := 1 } }

theorem wit_queues : queued.apReady (.xqPush 0 1) 0 = true ∧ queued.r.start.xq < 32 ∧ queued.apReady (.yqPop 0 1) 0 = true ∧
    queued.r.yq = [5] ∧ queued.r.start.yq ≠ 0 ∧ queued.apReady (.fmtPush 0 1) 0 = true := by decide +kernel

/-- The same state with bytes at a virtual address of its page, and with an address register naming them. -/
def withBlock (f : List Byte) : State :=
  { withA [(1, 0xFE00000000000000), (2, 0x10000)] with mem := base.mem.writeGranules (spadKey 0 0 / 64) f }

/-- A copy block: 64 bytes from the page's start to its second granule, one row. -/
def copyBlock : List Byte :=
  leBytes 8 0x10000 ++ leBytes 8 0x10040 ++ leBytes 8 0 ++ leBytes 4 64 ++ leBytes 2 0 ++ [0, 0] ++ List.replicate 32 0

/-- A gather block: its index array X at the page's third granule, one source row. -/
def gatherBlock : List Byte :=
  leBytes 8 0x10000 ++ leBytes 8 0x10040 ++ leBytes 8 0x10080 ++ leBytes 4 64 ++ leBytes 2 0 ++ [0, 0] ++
    leBytes 8 0 ++ leBytes 4 1 ++ List.replicate 20 0

theorem wit_engine_commands : ([(copyBlock, .copy, .cpAsync ⟨0, 0, 1, 2⟩ 5 false), (gatherBlock, .gather, .gxRows ⟨0, 0, 1, 2⟩ true false),
    (gatherBlock, .scatter, .sxRows ⟨0, 0, 1, 2⟩ false false)] : List (List Byte × CmdKind × Instr)).all (fun x =>
      (withBlock x.1).apReady x.2.2 0 &&
        okAnd (checkBlock (withBlock x.1).slotted x.2.1 ((withBlock x.1).areg 1)) (fun p =>
          decide (p.2.r.followOf 5 + p.2.r.inFlightTag 5 + 1 ≤ 255) &&
          okAnd (claimRecord p.2 none) fun q => okAnd (takeSlot q.1 x.2.1.pool) fun _ => true)) = true := by decide +kernel

/-- A command may also claim a record of an engine's ring. -/
theorem wit_engine_record : okAnd (claimRecord (withSt base 7 (ring 9 1 5 32)) (some 7)) (fun p => p.2 == 0) = true ∧
    (ring 9 1 5 32).policy ≠ 2 := by decide +kernel

theorem wit_chains : (withA [(1, 64)]).apReady (.cpChain ⟨0, 3, 1⟩ 7) 0 = true ∧ ((withA [(1, 64)]).r.chains[(7 : Fin 8)]).busy = false ∧
    ((withA [(1, 64)]).areg 1).toNat % 64 = 0 ∧ base.apReady (.cpFence 0) 0 = true ∧ base.apReady (.cpFenceAll 0) 0 = true ∧
    base.r.cmds = [] := by decide +kernel

/-- An object-table entry 15 of a tensor at the page's start, its header at the page's second granule; handle 2 is loaded. -/
def handled : State :=
  { base with mem := (base.mem.write (keysFrom (0x60000 + 64 * 15) 32)
      ([1, 3, 0, 0, 0, 0, 0, 0] ++ leBytes 8 0x10000 ++ leBytes 8 4096 ++ leBytes 8 0x10040)) }.updR fun r =>
    { r with h := r.h.set 2 (some ⟨List.replicate 64 0, 15, true, true, 0x10000, 4096, false⟩) }

theorem wit_handles : handled.apReady (.hLoad 0 1 15) 0 = true ∧ handled.r.pinned 1 = false ∧ (15 : Nat) < handled.part.oents ∧
    regionWaits handled (handled.part.otab + 64 * 15) = false ∧ handled.pkg.unmapped (handled.part.otab + 64 * 15) = false ∧
    handled.mem.isBad ((handled.part.otab + 64 * 15) / 64) = false ∧ tensorEntry (objectEntry handled 15) = true ∧
    okAnd (resolve handled.slotted (le64 (objectEntry handled 15) 24) 64 true false) (fun p =>
      !unsupported (.header 1 (entryHandle (objectEntry handled 15) 15)) p.1) = true ∧
    handled.apReady (.hLoadNone 0 1 0) 0 = true ∧ handled.apReady (.hGet 0 1 2 9) 0 = true ∧ (handled.r.h[(2 : Fin 16)]).isSome = true := by
  decide +kernel

theorem wit_sync : okAnd (checkScope (withA [(1, 0x10040)]).slotted (scopeWord 4 0)) (fun _ => true) = true ∧
    (withA [(1, 0x10040)]).apReady (.syncAcq 0 2 1 4 0) 0 = true ∧ (withA [(1, 0x10040)]).apReady (.syncRel 0 1 4 0) 0 = true ∧
    okAnd (apSync (withA [(1, 0x10040)]).slotted 0x10040 4 false) (fun p =>
      decide ((base.mem.wordAt p.1 - (withA [(1, 0x10040)]).areg 2).toNat < 2 ^ 63)) = true ∧
    okAnd (apSync (withA [(1, 0x10040)]).slotted 0x10040 4 true) (fun _ => true) = true ∧
    base.apReady (.syncFence 0 4 0) 0 = true ∧ base.apReady (.syncLaunchEarly 0) 0 = true ∧
    (∃ l ∈ base.launches, l.id = base.r.bind.launch) := by decide +kernel

/-- A residency in group 3 of its launch, alone. -/
def grouped : State :=
  { base with launches := [{ launch0 with groups := [⟨3, 0, 0, 0, [⟨0, 0, 0, 0, 0, 0, 0, 0⟩]⟩] }] }.updR fun r =>
    { r with bind := { r.bind with gmem := 0x100000003 } }

theorem wit_barriers : grouped.r.member 3 = true ∧ (grouped.group 3).isSome = true ∧
    ((grouped.group 3).bind fun x => x.part grouped.r.bind.lcore) = some ⟨0, 0, 0, 0, 0, 0, 0, 0⟩ ∧
    grouped.apReady (.barArrive 0 3) 0 = true ∧ grouped.apReady (.barWait 0 3) 0 = true ∧ grouped.r.groupSlot 3 = some 0 ∧
    bit grouped.r.start.bovr 15 = false ∧ grouped.apReady (.barExpect 0 1 3) 0 = true := by decide +kernel

/-- A task record at the page's start, and one in the deque. -/
def tasked : State :=
  { withA [(1, 0x10000)] with
    launches := [{ launch0 with outstanding := 1, outStart := 1, affinity := List.replicate 256 0 }] }.updR fun r =>
    { r with deque := [.zero], task := { r.task with inTask := true } }

theorem wit_tasks : tasked.r.bind.frame = false ∧ (∃ l ∈ tasked.launches, l.id = tasked.r.bind.launch) ∧
    tasked.apReady (.taskSpawn 0 1) 0 = true ∧
    okAnd (resolve tasked.slotted (tasked.areg 1) 64 true false) (fun p =>
      !(p.1.any fun k => storeOf k == .peer) && (p.2.mem.readCause (granulesOf (checkable p.1))).isNone &&
        hasRoom p.2 (placeOf p.2 (taskOfBytes (tasked.mem.gather p.1)).affinity tasked.r.bind.lcore)) = true ∧
    base.apReady (.taskNext 0) 0 = true ∧ base.launch.outStart = 0 ∧ tasked.apReady (.taskNext 0) 0 = true ∧
    tasked.ap = .f ∧ tasked.launch.outStart ≠ 0 ∧ tasked.r.deque = [.zero] ∧ (0 : Nat) < tasked.r.bind.fetchSize ∧
    tasked.apReady (.taskDone 0) 0 = true ∧ tasked.r.task.inTask = true := by decide +kernel

/-- A full future at byte 128 of the share, an empty one at byte 192. -/
def futured (a : W64) : State :=
  { withA [(1, a), (2, 0xFE00000000000000)] with mem := base.mem.setFull (spadKey 0 128 / 64) true }

theorem wit_futures : okAnd (futureKey (futured 0xFE00000000000080).slotted 0xFE00000000000080) (fun k =>
      (futured 0xFE00000000000080).mem.isFull (k.1 / 64) && ((futured 0xFE00000000000080).mem.readCause [k.1 / 64]).isNone &&
        (futured 0xFE00000000000080).launch.filled.all fun p => p.1 != k.2) = true ∧
    (futured 0xFE00000000000080).apReady (.futRead ⟨0, 3, 1⟩ 7) 0 = true ∧
    okAnd (futureKey (futured 0xFE000000000000C0).slotted 0xFE000000000000C0) (fun k =>
      !(futured 0xFE000000000000C0).mem.isFull (k.1 / 64)) = true ∧
    (futured 0xFE000000000000C0).apReady (.futFill ⟨0, 2, 1⟩) 0 = true ∧ (futured 0xFE000000000000C0).mem.wf = true ∧
    localOffset (futured 0xFE000000000000C0).slotted ((futured 0xFE000000000000C0).areg 2) 64 = some 0 := by decide +kernel

/-- A frame launch of one block, released or waited for. -/
def framed (waited released : Bool) (tick : W64) : State :=
  { base with
    tick := tick
    launches := [{ launch0 with
      frameMode := true, frames := ⟨100, 0, 0, 0, true, true, true, 0, 0, 0, [⟨0, 10, 50, 0, waited, released⟩]⟩ }] }.updR fun r =>
    { r with bind := { r.bind with frame := true } }

theorem wit_timetable : (framed false true 20).apReady (.ttWait 0 0) 0 = true ∧
    (framed false true 20).launch.frames.blocks[0]? = some ⟨0, 10, 50, 0, false, true⟩ ∧
    (framed true true 50).apReady (.ttDone 0 0) 0 = true ∧ (framed true true 51).apReady (.ttDone 0 0) 0 = true ∧
    (framed true true 50).launch.frames.base + 50 = (framed true true 50).tick.toNat := by decide +kernel

/-- The slip log of the late block begins at an address. -/
def late (slog : W64) : State :=
  { framed true true 51 with launches := (framed true true 51).launches.map fun l => { l with slog := slog } }

/-- Its record goes to the page, to no page, and to a stack whose region table is being installed. -/
theorem wit_slip : (late 0x10000).launch.slipsDue = [] ∧ (late 0x10000).part.record ≠ [] ∧
    okAnd (translateSpan (late 0x10000).slotted 0x10000 16 false true) (fun p =>
      ((late 0x10000).mem.readCause (partialOf (checkable p.1))).isNone) = true ∧
    trapOf (translateSpan (late 0x30000).slotted 0x30000 16 false true) = some 0x31 ∧
    (let s := { late 0x10000 with pkg := { (late 0x10000).pkg with regions := Vector.replicate 8 { RegionTable.reset with pending := true } } }
     match translateSpan s.slotted 0x10000 16 false true with | .error .block => true | _ => false) = true := by decide +kernel

/-- An event stands to be posted, n of them are unconsumed, and some are lost. -/
def eventful (n lost : W64) : State := { base with mem := base.mem.fill 0x50000 (leBytes 8 n.toNat) }.updPart 0 fun p =>
  { p with events := [⟨0, 0, 0, 2, 0, 0, 7⟩], eventsLost := lost }

theorem wit_events : ([(0, 0), (1022, 0), (1023, 0), (1021, 2), (1022, 2)] : List (W64 × W64)).all (fun x =>
      let s := eventful x.1 x.2
      (s.mem.word64 0x50000 - s.mem.word64 0x50008) == x.1 && (s.pkg.parts[(0 : Fin 8)]).evr == 0x50000 && !regionWaits s 0x50000) = true := by
  decide +kernel

/-- Gauze block 2 with one tile and its tables at granule 16 of the share, and tile 0 decided. -/
def gauzed : State :=
  let b : GBlock := ⟨0, 0, 64, 8, 1, 1024, 0⟩
  { base with mem := base.mem.poke (b.recKey 0 0 18) 0xFF }.updR fun r => { r with gz := { r.gz with
      blocks := r.gz.blocks.set 2 (some b), issued := r.gz.issued.set 2 (some b) } }

theorem wit_skip_test : gauzed.apReady (.skipTest 0 1 1 2) 0 = true ∧
    (match gauzed.r.gz.blocks[(2 : Fin 64)] with
     | some b => decide ((gauzed.areg 1).toNat < b.tiles) && b.decidedAt gauzed.mem gauzed.entry 0 &&
        !(granulesOf [b.recKey gauzed.entry 0 18, b.mapKey gauzed.entry 0]).any gauzed.mem.isBad
     | none => false) = true := by decide +kernel

/-- The partition's alarm ring holds 16 records. -/
def alarmed : State := base.updPart 0 fun p => { p with ar := ⟨0x70004, 15, 0⟩ }

theorem wit_alarms : alarmed.apReady (.alarmSet ⟨0, 1, 2⟩ 0x81) 0 = true ∧ alarmed.apReady (.alarmClr ⟨0, 1, 2⟩ 0) 0 = true ∧
    (0x81 : BitVec 8) &&& ~~~alarmed.part.pins = 0 ∧ alarmed.part.alarmsFull = false ∧ regionWaits alarmed (ringKey 0x70004 32 15) = false ∧
    alarmed.mem.readCause (partialOf (checkable (keysFrom (ringKey 0x70004 32 15) 32))) = none := by decide +kernel

theorem wit_control_registers : ([0x010, 0x020, 0x025, 0x026, 0x030, 0x031, 0x032, 0x000, 0x00B] : List (BitVec 11)).all (fun n =>
      (base.apRegister n.toNat).isSome && base.apReady (.csrR 0 1 n) 0 && base.apReady (.csrW 0 1 n) 0) = true ∧
    base.apRegister 0x040 = none ∧ base.apRegister 0x027 = none ∧ base.apReady (.csrR 0 1 0x040) 0 = true ∧
    (base.updCtx base.ap fun c => { c with loops := [⟨0, 4, 7, 2⟩, ⟨0, 8, 5, 1⟩] }).apRegister 0x020 = some 0x0000000500000001 ∧
    (base.updCtx base.ap fun c => { c with loops := [⟨0, 4, 7, 2⟩, ⟨0, 8, 5, 1⟩] }).apRegister 0x022 = some 0 := by decide +kernel

theorem wit_system : base.apReady (.halt 0) 0 = true ∧ base.apReady (.yield 0) 0 = true ∧ base.apReady (.trap 0 7) 0 = true ∧
    base.apReady (.traceMark 0 1 0x7FF) 0 = true ∧ base.tracing 3 0 = false ∧ base.r.ep.status ≠ .halted ∧
    (framed false true 20).launch.frameMode = true := by decide +kernel

/-! ### The execute processor -/

/-- E-set fields: destination, operands a, b, c, type, function, extra. -/
def ef (d a b c : BitVec 8) (ty : BitVec 5) (fn : BitVec 6) (x : BitVec 8) : EF := ⟨0, false, d, a, b, c, ty, fn, x⟩

/-- Branches and marks of every context are traced into a ring with the given tail, n records lost before. -/
def branchTraced (tail n : W64) : State :=
  { base.updR fun r => { r with watch := { r.watch with trace := ⟨0x90000, 8, 0xA, 7, n⟩ } } with
    mem := base.mem.write (keysFrom 0x90000 8) (leBytes 8 tail.toNat) }

/-- The records that a ring holds. -/
def ringUse (s : State) : Nat := (s.mem.word64 0x90000 - s.mem.word64 0x90008).toNat

theorem wit_branch_traced : [(branchTraced 251 0), (branchTraced 252 0), (branchTraced 250 3), (branchTraced 251 3)].all (fun s =>
      s.tracing 1 0 && s.tracing 3 0 && s.tracing 1 2 && s.apReady (.b 0 5) 0 && s.apReady (.call 0 5) 0 && s.apReady (.jr ⟨0, 1, 2⟩) 0 &&
        s.apReady (.traceMark 0 1 0x7FF) 0 && s.eReady (.eb (ef 0xFF 0xFF 0xFF 0xFF 0 0 0))) = true ∧
    ringUse (branchTraced 251 0) = 251 ∧ ringUse (branchTraced 252 0) = 252 ∧ ringUse (branchTraced 250 3) = 250 := by
  decide +kernel

/-- Whether a vector instruction is ready, its operands can be read and its destination reserved. -/
def vecReady (s : State) (i : Instr) : Bool :=
  match vecOp s.eSlot i with
  | some o => s.eReady i && okAnd (readAll s.eSlot o.ks) fun p => okAnd (reserveDest p.2 o.f (.vec (o.op p.1))) fun _ => true
  | none => false

/-- The same of a scalar instruction. -/
def scalarReady (s : State) (i : Instr) : Bool :=
  match scalarOp s.eSlot i with
  | some o => s.eReady i && okAnd (readScalars s.eSlot o.ks) fun p => okAnd (reserveDest p.2 o.f (.sc (o.op p.1))) fun _ => true
  | none => false

def vecInstrs : List Instr :=
  [.vadd (ef 2 0 1 0xFF 0 0 0), .vsub (ef 2 0 1 0xFF 0 0 0), .vmul (ef 2 0 1 0xFF 0 0 0), .vfma (ef 2 0 1 1 0 0 0),
   .vfms (ef 2 0 1 1 0 0 0), .vmin (ef 2 0 1 0xFF 0 0 0), .vmax (ef 2 0 1 0xFF 0 0 0), .vabs (ef 2 0 0xFF 0xFF 0 0 0),
   .vneg (ef 2 0 0xFF 0xFF 0 0 0), .vsfu (ef 2 0 0xFF 0xFF 0 0 0), .viadd (ef 2 0 1 0xFF 4 1 0), .visub (ef 2 0 1 0xFF 5 0 0),
   .vimul (ef 2 0 1 0xFF 4 0 0), .vimad (ef 2 0 1 1 4 0 0), .vand (ef 2 0 1 0xFF 4 0 0), .vor (ef 2 0 1 0xFF 4 0 0),
   .vxor (ef 2 0 1 0xFF 4 0 0), .vshl (ef 2 0 1 0xFF 4 0 0), .vshr (ef 2 0 0xFF 0xFF 4 0 31), .vsra (ef 2 0 1 0xFF 4 0 0),
   .vimin (ef 2 0 1 0xFF 4 0 0), .vimax (ef 2 0 1 0xFF 5 0 0), .vshuf (ef 2 0 1 1 0 0 0), .vbcast (ef 2 0 0xFF 0xFF 0 0 63),
   .vslideDn (ef 2 0 1 0xFF 0 0 1), .vslideUp (ef 2 0 1 0xFF 0 0 1), .vsel (ef 2 0 1 0xFF 0 0 3), .vkeyPack (ef 2 0 1 0xFF 5 0 8),
   .vkeyHash (ef 2 0 1 0xFF 5 0 16), .vred (ef 2 0 0xFF 0xFF 0 0 0), .vscan (ef 2 0 0xFF 0xFF 0 0 0), .vmov (ef 2 0 0xFF 0xFF 0 0 0),
   .vli (ef 2 0xFF 0xFF 0xFF 0 0 0) 5]
def scalarInstrs : List Instr :=
  [.sadd (ef 0x60 0x61 0x62 0xFF 4 0 0), .smul (ef 0x60 0x61 0x62 0xFF 0 0 0), .sfma (ef 0x60 0x61 0x62 0x63 4 0 0),
   .smov (ef 0x60 0x61 0xFF 0xFF 0 0 0), .sli (ef 0x60 0xFF 0xFF 0xFF 0 0 0) 5, .mpop (ef 0x60 0xE3 0xFF 0xFF 5 0 0)]

theorem wit_vector_ops : vecInstrs.all (vecReady base) = true := by decide +kernel
theorem wit_scalar_ops : scalarInstrs.all (scalarReady base) = true := by decide +kernel

/-- The types of a conversion, its operands read, and its destination reserved for lanes that each clause gives. -/
def converts (f : EF) (src dst : Nat) (ks : List (BitVec 8)) (n : Nat) (v : EVal) : Bool :=
  okAnd (base.eSlot.typeAt dst) fun d => okAnd (base.eSlot.typeAt src) fun t => okAnd (readAll base.eSlot ks) fun p =>
    okAnd (reserveDest (p.2.drew f t d n) f v) fun _ => true

/-- Conversions between F32 (code 0) and F16 (code 2), under RNE and, drawing from the generator, under SR: one witness for
each clause. -/
theorem wit_conversions : base.eReady (.vcvt (ef 2 0 0xFF 0xFF 2 0 0)) = true ∧ base.eReady (.vcvt (ef 2 0 0xFF 0xFF 2 5 0)) = true ∧
    ([0, 5] : List (BitVec 6)).all (fun r => converts (ef 2 0 0xFF 0xFF 2 r 0) 0 2 [0] 64 (.vec (Lanes.fill 0))) = true ∧
    base.eReady (.vpack (ef 2 0 0xFF 1 2 0 0x20)) = true ∧ converts (ef 2 0 0xFF 1 2 0 0x20) 0 2 [0, 1] 64 (.vec (Lanes.fill 0)) = true ∧
    base.eReady (.vunpack (ef 2 0 0xFF 0xFF 0 0 0x22)) = true ∧
    converts (ef 2 0 0xFF 0xFF 0 0 0x22) 2 0 [0] 64 (.vec (Lanes.fill 0)) = true ∧ base.eSlot.elemBits 2 = 16 ∧
    base.eReady (.scvt (ef 0x60 0x61 0xFF 0xFF 2 0 0)) = true ∧
    okAnd (readScalars base.eSlot [0x61]) (fun p => okAnd (reserveDest p.2 (ef 0x60 0x61 0xFF 0xFF 2 0 0) (.sc 0)) fun _ => true) = true := by
  decide +kernel

/-- E in a pipelined loop of two stages. -/
def piped : State := base.updE fun e => { e with m := e.m.set 8 (BitVec.allOnes 64), loops := [⟨8, 24, 3, 1, some ⟨2, 0, 3, 0⟩⟩] }

theorem wit_masks : base.eReady (.vcmp (ef 0xE3 0 1 0xFF 0 0 0)) = true ∧ base.eReady (.mlog (ef 0xE3 0xE1 0xE2 0xFF 0 6 0)) = true ∧
    base.eReady (.scmp (ef 0xE3 0x60 0x61 0xFF 0 0 0)) = true ∧ base.eSlot.r.ep.stageMask 3 = false ∧
    piped.eReady (.mlog (ef 0xE8 0xE1 0xE2 0xFF 0 6 0)) = true ∧ piped.eReady (.scmp (ef 0xE8 0x60 0x61 0xFF 0 0 0)) = true ∧
    okAnd (readScalars piped.eSlot [0x60, 0x61]) (fun p => p.2.r.ep.stageMask 8) = true ∧ piped.eSlot.r.ep.stageMask 8 = true ∧
    okAnd (readAll base.eSlot [0, 1]) (fun _ => true) = true ∧ okAnd (readScalars base.eSlot [0x60, 0x61]) (fun _ => true) = true := by
  decide +kernel

/-- A result of context E, vector or scalar, on its way to a destination. -/
def onWay (d : EDest) (vec : Bool) (g : W64) : InFlight := ⟨1, d, if vec then .vec (Lanes.fill 7) else .sc 7, g, some 2⟩

/-- Each kind of destination has a result of its kind, and a port has room reserved for one. -/
theorem wit_delivery : (onWay (.vreg 63) true 1).val = .vec (Lanes.fill 7) ∧ (onWay (.sreg 31) false 1).val = .sc 7 ∧
    (⟨1, .mask 15, .mask 7, 0, none⟩ : InFlight).val = .mask 7 ∧
    [EDest.none, .yq, .push 5, .jport 3].all (fun d => (onWay d true 5).whole.isSome && (onWay d false 0).whole == some (.sc 0)) = true ∧
    (let r : StreamReg := { ring 7 1 2 24 with claimed := 8, committed := 1, tpos := 3, reserved := 256 }
     r.kind = 7 ∧ max 4 r.esize ≤ r.reserved ∧ 256 ≤ r.reserved) := by
  decide +kernel

/-- Damask is configured in direct F32 mode, xq holds a word, Gauze block 2 is configured. -/
def configured : State :=
  { gauzed with phase := .ep }.updR fun r => { r with
    xq := [5], start := { r.start with xq := 1 }, dm := { r.dm with cfg := some ⟨0, false, false, 1, none⟩, issued := some ⟨0, false, false, 1, none⟩ } }

theorem wit_scalar_reads : configured.eReady (.xqPop (ef 0x60 0xFF 0xFF 0xFF 0 0 3)) = true ∧ configured.eSlot.r.xq = [5] ∧ configured.eSlot.r.start.xq = 1 ∧
    configured.eReady (.ecsrR (ef 0x60 0xFF 0xFF 0xFF 0 0 0x51)) = true ∧ (configured.eSlot.eRegister 0x051).isSome = true ∧
    configured.eReady (.ecsrR (ef 0x60 0xFF 0xFF 0xFF 0 0 0x20)) = true ∧ configured.eSlot.eRegister 0x020 = none ∧
    piped.eRegister 0x076 = some 0x49 ∧ piped.eRegister 0x070 = some 0x0000000300000001 ∧
    configured.eSlot.r.mx.queue = [] ∧ configured.eReady (.jLook (ef 0x60 0x61 0x62 0xFF 0 0 0)) = true ∧
    configured.eReady (.jLookP (ef 0x60 0x61 0x62 0xFF 0 0 0)) = true ∧
    okAnd (readScalars configured.eSlot [0x61, 0x62]) (fun p =>
      okAnd (lookUp p.2 ⟨0, false, false, 1, none⟩ 0 0) fun _ => true) = true ∧
    configured.eReady (.jStat (ef 0x60 0xFF 0xFF 0xFF 0 5 0)) = true ∧ base.eReady (.jStat (ef 0x60 0xFF 0xFF 0xFF 0 3 0)) = true ∧
    base.eSlot.r.dm.issued = none ∧ (configured.eSlot.r.gz.issued[(2 : Fin 64)]).isSome = true ∧ configured.eSlot.r.gz.ops = [] ∧
    configured.eReady (.gMapR (ef 0x60 0xFF 0x62 0xFF 0 0 2)) = true ∧ configured.eReady (.gMapStep (ef 0x60 0xFF 0xFF 0xFF 0 0 2)) = true ∧
    configured.eReady (.gMapTile (ef 0x60 0xFF 0x62 0xFF 0 0 2)) = true ∧ configured.eSlot.mem.bad = [] ∧
    okAnd (reserveDest configured.eSlot (ef 0x60 0xFF 0xFF 0xFF 0 0 2) (.sc 0)) (fun _ => true) = true := by decide +kernel

/-- Streams of E: register 4 is an operand stream with 256 bytes available, 5 a ring that E pushes to, 6 a stream that a unit
of the matrix pipe takes. -/
def streamed : State :=
  withSt (withSt (withSt { configured with phase := .ep } 4 { ring 8 0 2 16 with claimed := 4, committed := 4 }) 5 (ring 7 1 2 24))
    6 { ring 8 7 5 32 with claimed := 4, committed := 4 }

theorem wit_queue_and_control : streamed.eReady (.yqPush (ef 0xFF 0x61 0xFF 0xFF 0 0 0)) = true ∧
    okAnd (readScalars streamed.eSlot [0x61]) (fun p => p.2.yqRoom) = true ∧ streamed.eReady (.sDrop (ef 0xFF 0x84 0xFF 0xFF 0 0 4)) = true ∧
    okAnd (ePort streamed.eSlot 4) (fun p => okAnd (popAll streamed.eSlot 4 (4 * (streamed.eSlot.stream p.1).esize) false) fun _ => true) = true ∧
    ([0x010, 0x040, 0x048, 0x050, 0x051, 0x000] : List Nat).all (fun n => (streamed.eSlot.eRegister n).isSome &&
      streamed.eReady (.ecsrW (ef 0xFF 0x61 0xFF 0xFF 0 (BitVec.ofNat 6 (n / 256)) (BitVec.ofNat 8 (n % 256))))) = true ∧
    streamed.eReady (.ecsrW (ef 0xFF 0x61 0xFF 0xFF 0 8 0x48)) = true ∧
    okAnd (readScalars (streamed.updE fun e => { e with s := e.s.set 1 (BitVec.ofNat 32 streamed.spillBase) }).eSlot [0x61]) (fun p =>
      p.1 == [BitVec.ofNat 32 p.2.spillBase]) = true ∧ streamed.spillBase % 256 = 0 ∧
    streamed.eReady (.mxWait (ef 0xFF 0xFF 0xFF 0xFF 0 0 0)) = true ∧ streamed.eReady (.jWait (ef 0xFF 0xFF 0xFF 0xFF 0 0 0)) = true := by
  decide +kernel

theorem wit_allotment : base.eReady (.vallot (ef 0xFF 0xFF 0xFF 0xFF 0 0 8)) = true ∧ base.eReady (.vshrink (ef 0xFF 0xFF 0xFF 0xFF 0 0 8)) = true ∧
    base.eReady (.vallot (ef 0xFF 0xFF 0xFF 0xFF 0 0 64)) = true ∧ base.eSlot.r.ep.vregs = 64 ∧
    (base.updE fun e => { e with vregs := 8 }).eReady (.vallot (ef 0xFF 0xFF 0xFF 0xFF 0 0 64)) = true ∧
    64 - 8 ≤ (base.updE fun e => { e with vregs := 8 }).eSlot.freeRegs ∧
    base.eReady (.vpushm (ef 0xFF 0xFF 0xFF 0xFF 0 7 56)) = true ∧
    base.eSlot.r.ep.vsp.toNat + 256 * 8 ≤ base.eSlot.spillBase + 16384 ∧
    (base.updE fun e => { e with vsp := e.vsp + 256 }).eReady (.vpopm (ef 0xFF 0xFF 0xFF 0xFF 0 0 63)) = true ∧
    base.spillBase + 256 ≤ (base.updE fun e => { e with vsp := e.vsp + 256 }).eSlot.r.ep.vsp.toNat := by decide +kernel

/-- E about to run code placed at its PC. -/
def loopCode (bs : List Byte) : State := { atCode false bs with phase := .ep }

theorem wit_ep_control : base.eReady (.eb (ef 0xFF 0xFF 0xFF 0xFF 0 0 0)) = true ∧ base.eReady (.eb (ef 0xFF 0xFF 0 1 0 2 0xF)) = true ∧
    base.eSlot.r.ep.mask 15 ≠ BitVec.allOnes 64 ∧ base.eReady (.eb (ef 0xFF 0xFF 0 1 0 3 1)) = true ∧
    (loopCode []).eReady (.eloop (ef 0xFF 0xFF 0 0 0 0 0)) = true ∧ (loopCode []).eReady (.eloop (ef 0xFF 0x61 0xFF 0xFF 0 0 0)) = true ∧
    (loopCode []).eReady (.eloopPipe (ef 0xFF 0xFF 0 3 0 1 1)) = true ∧ (scanBody (loopCode []).eSlot 2 8).isSome = true ∧
    (match scanBody (loopCode []).eSlot 2 8 with | some (hs, _, _) => hs.any (pipeForbids 2) | none => true) = false ∧
    okAnd (readScalars (loopCode []).eSlot [0x61]) (fun _ => true) = true ∧
    staticCause (.estage (ef 0xFF 0xFF 0xFF 0xFF 0 0 1)) = none ∧ (piped.updE EpCtx.refill).r.ep.piped = true ∧
    (base.updE EpCtx.refill).r.ep.piped = false := by decide +kernel

theorem wit_ep_ends : base.eReady (.ehalt (ef 0xFF 0xFF 0xFF 0xFF 0 0 0)) = true ∧
    base.eReady (.etrap (ef 0xFF 0xFF 0xFF 0xFF 0 0 7)) = true := by decide +kernel

/-- A plain level that ends with a pipelined one of two stages, at its last execution. -/
theorem test_ep_levels : (eAdvance false 24 base.r.ep.m [⟨16, 24, 2, 1, none⟩, ⟨8, 24, 3, 2, some ⟨2, 0, 3, 2⟩⟩]).loops =
      [⟨8, 24, 3, 3, some ⟨2, 0, 3, 3⟩⟩] ∧
    (eAdvance false 24 base.r.ep.m [⟨8, 24, 3, 3, some ⟨2, 0, 3, 3⟩⟩]).loops = [] ∧
    (eAdvance true 24 base.r.ep.m [⟨8, 24, 9, 2, some ⟨1, 0, 9, 1⟩⟩]).loops = [⟨8, 24, 9, 2, some ⟨1, 0, 2, 2⟩⟩] := by decide +kernel

/-- The contexts have halted; register 6 drains an address queue of n addresses, itself its source. -/
def ending (n : Nat) : State := withSt (base.updR fun r => { r with
  f := { r.f with status := .halted }, d := { r.d with status := .halted }, ep := { r.ep with status := .halted } }) 6
    { ring 3 4 2 24 with addrs := List.replicate n 0x10000 }

theorem wit_settle : (ending 0).r.stage = .running ∧ (ending 0).finished = true ∧ (ending 1).finished = false ∧
    (ending 0).launch.n = 1 ∧ (ending 0).launch.finished = false ∧ (ending 0).launch.earlyFired = false ∧
    ((ending 0).stream 6).isOpen = true ∧ ((ending 0).stream 6).sink = 4 ∧ (ending 0).r.undelivered 6 = false ∧
    (ending 0).r.headOf 6 = (6, 0) := by decide +kernel

/-- Context F of the only core is about to take a task, D has halted, and a task remains that nothing can bring. -/
def starved : State :=
  { atCode true (leBytes 4 0xEC000800) with launches := [{ launch0 with outstanding := 1 }] }.updR fun r => { r with d := { r.d with status := .halted } }

theorem wit_deadlock : starved.deadlocked = true ∧ starved.peer 0 = some starved.r ∧ base.deadlocked = false := by decide +kernel

/-- Damask is configured in mode m, both units' streams hold records of its size, and scalars hold small counts. -/
def joined (m : Fin 4) : State :=
  let c : JCfg := ⟨m, false, false, 1, none⟩
  let rec0 (k g : Nat) : StreamReg := { ring k 7 c.recordCode g with claimed := 4, committed := 4 }
  (withSt (withSt (withSt streamed 8 (rec0 8 40)) 9 (rec0 8 44)) 10 { ring 7 1 c.recordCode 48 with claimed := 0 }).updR fun r => { r with
    dm := { r.dm with cfg := some c, issued := some c }
    mx := { r.mx with wdesc := r.mx.wdesc.set 1 ⟨true, true, 0, 512, 0, 2, 0, 1, 1⟩ }
    ep := { r.ep with s := (r.ep.s.set 1 0x10001).set 2 64 } }

/-- Whether a command's checks pass. -/
def enters (s : State) (i : Instr) : Bool :=
  match cmdOperands i with
  | some ks => s.eReady i && okAnd (readScalars s.eSlot ks) fun p =>
      (cmdOf s.eSlot p.2 i p.1).isSome && decide (p.2.r.mx.queue.length < 16)
  | none => false
def commands : List (Fin 4 × Instr) :=
  [(0, .wload (ef 0xFF 0x86 0x60 0x61 2 0 1)), (0, .wloadSc (ef 0xFF 0x86 0x60 0x62 0 0 0)), (1, .mxDot (ef 0xC3 0x86 0x60 0x60 2 1 0)),
    (1, .mxDots (ef 0xC3 0x86 0x60 0x60 2 1 0)), (0, .rndSet (ef 0xFF 0xFF 0xFF 0xFF 0 5 0)), (0, .jCfg (ef 0xFF 0xFF 0xFF 0xFF 0 0 0)),
    (0, .jClear (ef 0xFF 0xFF 0xFF 0xFF 0 0 0)), (0, .jAcc (ef 0xFF 0x88 0x62 0xFF 0 0 0)), (2, .jMerge (ef 0xFF 0x88 0x89 0xFF 0 0 0)),
    (0, .jDrain (ef 0xC3 0xFF 0x60 0x62 0 0 0)), (2, .jDrain (ef 0x8A 0xFF 0xFF 0xFF 0 0 0)), (2, .jDraino (ef 0x8A 0xFF 0x60 0x60 0 0 0))]

theorem wit_commands : commands.all (fun x => enters (joined x.1) x.2) = true := by decide +kernel

/-- E about to act on Gauze: scalars 0 to 4 configure a block of one tile, stream 4 holds 1024 bytes, stream 5 takes pushes. -/
def sparse (tiles : W32) : State :=
  (withSt streamed 4 { ring 8 0 6 64 with ring := 0xF0040, claimed := 16, committed := 16 }).updE fun e => { e with s := (e.s.set 2 tiles).set 3 1 }

theorem wit_gauze : (sparse 0).eReady (.gCfg (ef 0xFF 0xFF 0xFF 0x60 0 0 2)) = true ∧
    blockOk (fun j => (sparse 0).eSlot.r.ep.s[Fin.ofNat 32 (0x60 + j)]) ((sparse 0).r.bind.banks * 131072) = true ∧
    (sparse 0).eSlot.r.gz.ops.length < 16 ∧ ((sparse 0).eSlot.r.gz.issued[(2 : Fin 64)]).isSome = true ∧
    (sparse 0).eReady (.gStep (ef 0xFF 0xFF 0xFF 0xFF 0 0 2)) = true ∧ (sparse 0).eReady (.gKeep (ef 0xFF 0x84 0x60 0xFF 0 0 2)) = true ∧
    (sparse 0).eReady (.gMapW (ef 0xFF 0x60 0x60 0xFF 0 0 2)) = true ∧ (sparse 0).eReady (.gSig (ef 0xFF 0xA4 0x60 0xFF 2 0 2)) = true ∧
    (sparse 0).eReady (.gReuse (ef 0x85 0xFF 0x60 0xFF 0 0 2)) = true ∧
    okAnd (popAll (sparse 0).eSlot 4 256 false) (fun p => okAnd (readScalars p.2 [0x60]) fun q => q.1 == [0]) = true ∧
    okAnd (popAll (sparse 0).eSlot 4 1024 true) (fun p => okAnd (readScalars p.2 [0x60]) fun q =>
      !q.2.r.gz.decided.contains (2, 0)) = true ∧ okAnd ((sparse 0).eSlot.typeAt 2) (fun _ => true) = true ∧
    (match (sparse 0).eSlot.r.gz.issued[(2 : Fin 64)] with
     | some b => decide (0 < b.tiles) && b.ob == 256 && bit ((sparse 0).eSlot.mem.byte (b.recKey 0 0 18)) 1
     | none => false) = true ∧
    (sparse 0).eSlot.mem.bad = [] ∧ ((sparse 0).eSlot.streamStart 5).kind = 7 ∧ ((sparse 0).eSlot.reserve 5 256).isSome = true := by decide +kernel

theorem wit_selectors : streamed.r.ep.b[(0 : Fin 16)] = none ∧ (streamed.updE fun e => { e with b := e.b.set 15 (some (.sc 7)) }).r.ep.b[(15 : Fin 16)] = some (.sc 7) ∧
    (streamed.updE fun e => { e with b := e.b.set 0 (some (.vec (Lanes.fill 7))) }).r.ep.b[(0 : Fin 16)] = some (.vec (Lanes.fill 7)) ∧
    streamed.r.xq = [5] ∧ streamed.r.start.xq ≠ 0 ∧ streamed.r.portOf 4 = (4, 0) ∧ (streamed.streamStart 4).isOpen = true ∧
    (streamed.streamStart 4).sink = 0 ∧ 256 ≤ availBytes (streamed.streamStart 4) (streamed.headNow (4, 0)) ∧
    takenCause streamed (streamed.streamStart 4) (streamed.headNow (4, 0)) 256 = none ∧
    takenCause streamed (streamed.streamStart 4) (streamed.headNow (4, 0)) 4 = none ∧
    (let s := withSt streamed 4 { ring 8 0 2 16 with claimed := 2, committed := 2, ended := true }
     availBytes (s.streamStart 4) (s.headNow (4, 0)) = 128 ∧ takenCause s (s.streamStart 4) (s.headNow (4, 0)) 128 = none) ∧
    (let s := withSt streamed 4 { ring 8 0 0 16 with claimed := 1, committed := 1, tpos := 3, ended := true }
     availBytes (s.streamStart 4) (s.headNow (4, 0)) = 3 ∧ takenCause s (s.streamStart 4) (s.headNow (4, 0)) 3 = none) ∧
    (streamed.updR fun r => { r with dm := { r.dm with drainq := List.replicate 256 7 } }).r.dm.drainq.length = 256 := by decide +kernel

/-! ### Events of a residency's units -/

/-- Register 4 fetches one element at the page's start; 5 has landed a granule; 6 drains a committed granule to an address of
the page; 7 sends one to core 1, in whose register 3 it arrives. -/
def sided : State :=
  let far : Residency := { Residency.bare with bind := { Residency.bare.bind with e := 2, lcore := 1, n := 2 } }
  let r3 : StreamReg := { ring 4 0 2 8 with control := 4 + 2 * 256 + BitVec.ofNat 64 (7 * 2 ^ 42) }
  let r7 : StreamReg := { ring 8 5 2 28 with
    control := 8 + 5 * 16 + 2 * 256 + BitVec.ofNat 64 (2 ^ 26 + 3 * 2 ^ 42), claimed := 1, committed := 1 }
  withSt (withSt (withSt (withSt { base with others := [far.latch].map fun r => { r with st := r.st.set 3 r3, start := { r.start with st := r.st.set 3 r3 } } }
    4 { ring 3 0 2 16 with addrs := [0x10000] }) 5 { ring 3 0 2 20 with claimed := 1, landed := 64 })
    6 { ring 8 4 2 24 with claimed := 1, committed := 1, addrs := [0x10040] }) 7 r7

theorem wit_stream_sides : (sided.stream 4).fetches = true ∧ sided.sideRuns 4 = true ∧ (sided.stream 4).elements none 3 = none ∧
    (match (sided.withStartAddrs 4).elemAddr none 3 0 with | .ok (some x) => x == 0x10000 | _ => false) = true ∧
    (match claimNext sided 4 4 with
     | some s1 => okAnd (elemCheck s1 0x10000 4) (fun _ => true) && okAnd (sideRead s1 0x10000 4) fun _ => true
     | none => false) = true ∧
    0 < sided.committable 5 ∧ (sided.stream 6).drains = true ∧ (sided.streamStart 6).sinkRuns = true ∧ sided.r.portOf 6 = (6, 0) ∧
    (sided.stream 6).elements none (sided.stream 6).drainWay = none ∧
    (match drainAddr (sided.withStartAddrs 6) none 0 with | .ok (some x) => x == 0x10040 | _ => false) = true ∧
    okAnd (elemCheck sided 0x10040 4) (fun _ => true) = true ∧
    okAnd (takeBytes sided (6, 0) 4 false) (fun p => okAnd (resolve p.2 0x10040 4 false true) fun q =>
      (drainCause q.2 ((sided.stream 6).byteKeys 0 0 0 4) q.1).isNone) = true := by decide +kernel

theorem wit_remote_send : (sided.stream 7).sink = 5 ∧ (sided.stream 7).multicast = false ∧
    (match sided.peer (sided.stream 7).peerCore with | some c => takesFrom c (sided.stream 7).peerSt 0 7 && c.bind.e == 2 | none => false) = true ∧
    sided.r.portOf 7 = (7, 0) ∧ (sided.stream 7).sinkRuns = true ∧ (sided.streamStart 7).sinkRuns = true ∧
    sendBytes (sided.streamStart 7) (sided.headNow (7, 0)) false = 64 ∧ (match sided.peer 1 with | some c => (c.st[(3 : Fin 32)]).code == 2 | none => false) = true ∧
    (remotePut sided 2 3 (List.replicate 64 0) [.zero] false).isSome = true := by decide +kernel

/-- The same with register 7 sending to the members of group 3: core 1. -/
def casting : State := { withSt sided 7 { sided.stream 7 with
    control := 8 + 5 * 16 + 2 * 256 + BitVec.ofNat 64 (2 ^ 17 + 3 * 2 ^ 18 + 3 * 2 ^ 42) } with
  launches := [{ launch0 with groups := [⟨3, 0, 0, 0, [⟨1, 0, 0, 0, 0, 0, 0, 0⟩]⟩] }] }

theorem wit_multicast : (casting.stream 7).multicast = true ∧ (casting.stream 7).sink = 5 ∧ casting.r.portOf 7 = (7, 0) ∧
    (casting.group 3).map (fun g => g.members.map fun m => m.core) = some [1] ∧ (casting.stream 7).group = 3 ∧
    (casting.stream 7).sinkRuns = true ∧ (casting.streamStart 7).sinkRuns = true ∧
    sendBytes (casting.streamStart 7) (casting.headNow (7, 0)) false = 64 ∧
    (remoteAll casting 7 3 (List.replicate 64 0) [.zero] false [1]).isSome = true ∧
    (remoteAll casting 7 4 (List.replicate 64 0) [.zero] false [1]) = none := by decide +kernel

/-- The state of a decompressor source of a format and a width of containers. -/
def coded (format four code : Nat) : StreamReg :=
  { ring 5 0 code 16 with src := (Vector.replicate 6 0).set 0 (BitVec.ofNat 64 (format + 16 * four)) }

/-- Empty segments; a segment whose length is wrong; a delta-line block of width 0; the samples of the example of R103. -/
theorem wit_expand : ([0, 1] : List Nat).all (fun k =>
      (coded 0 k 0).srcBits 3 0 == 0 && (coded 0 k 0).srcBits 4 4 == k && (coded 0 k 0).count.isNone) = true ∧
    segmentSize 8 (List.replicate 16 0) = 16 ∧ segmentSound (List.replicate 16 0) = true ∧
    segmentSound (List.replicate 8 0 ++ [1]) = false ∧
    (coded 2 0 8).srcBits 3 0 = 2 ∧ (coded 2 0 8).code = 8 ∧ (4 + 12 + 63 * 0 + 7) / 8 = 2 ∧
    (deltaSamples 12 4 [0x83, 0x3E, 0x33, 0x00]) = [1000, 1003, 1001, 1001] := by decide +kernel

/-- Register 4 expands what register 6 gives: codebook-16, n elements of one byte. -/
def expanding (n : W64) (d : Decoder) : State :=
  withSt (withSt base 6 { ring 8 6 0 24 with claimed := 1, committed := 1 }) 4 { ring 5 0 0 16 with
    control := 5 + BitVec.ofNat 64 (6 * 2 ^ 42), src := ((Vector.replicate 6 0).set 0 1).set 1 n, dec := d }

theorem wit_decompress : (expanding 0 ⟨[], [7], 0⟩).sideRuns 4 = true ∧ ((expanding 0 ⟨[], [7], 0⟩).stream 4).sourceRuns = true ∧ ((expanding 0 ⟨[], [7], 0⟩).stream 4).deliverable = 1 ∧
    ((expanding 0 ⟨[], [7], 0⟩).claim 4 (((expanding 0 ⟨[], [7], 0⟩).stream 4).claimFor 1)).isSome = true ∧
    ((expanding 0 ⟨[], [7], 0⟩).stream 4).count = none ∧ ((expanding 1 .idle).stream 4).deliverable = 0 ∧
    okAnd (inputHead (expanding 1 .idle) 4) (fun p =>
      let i := inputSeen (expanding 1 .idle) 4 p
      match ((expanding 1 .idle).stream 4).expand i.last i.bytes with | .out _ _ => true | _ => false) = true ∧
    ((expanding 1 ⟨[], [], 1⟩).stream 4).count = some 1 := by decide +kernel

theorem wit_page_walk : (base.updR fun r => { r with walks := [0x10000] }).r.walks = [0x10000] ∧
    walkWaits base.mem base.pkg (coreOf base.entry) base.r.bind.part 0x10000 true false = false := by decide +kernel

/-- One copy command of the residency, at a stage. -/
def commanded (st : CmdStatus) : State := base.updR fun r => { r with
  cmds := [⟨5, .copy, .f, 0, 0, copyBlock, 0, 9, false, none, 0, st, 0, 0, 0, 0, false, []⟩] }

theorem wit_engine_start : (match (commanded .waiting).r.cmds.find? fun c => c.id == 5 && c.status == .waiting with
    | some c => okAnd (c.acquired (commanded .waiting)) (fun p => p.1 && (c.run p.2).2.2.isNone) &&
        c.group.isNone && !blkFlag c.fields 0 && decide (blkRows c.fields = 1) && okAnd (c.rowSource 0) (· == 0x10000) && okAnd (c.rowTarget 0) (· == 0x10040) &&
        decide (pieceLen 0x10000 0x10040 64 = 64) &&
        okAnd (resolve (commanded .waiting) 0x10000 64 true false) (fun p => okAnd (resolve p.2 0x10040 64 false true) fun q =>
          (pieceCause (peerCause c.kind c.fields) q.2 p.1 q.1).isNone && q.1.all fun k => storeOf k != .peer)
    | none => false) = true := by decide +kernel

theorem wit_engine_finish : (match (commanded .written).r.cmds.find? fun c => c.id == 5 with
    | some c => okAnd (c.release (commanded .written)) (fun _ => true) && c.stream.isNone | none => false) = true ∧
    ((commanded (.cancelled 3)).r.cmds.find? fun c => c.id == 5).isSome = true := by decide +kernel

/-- A transfer record at the page's start, of 64 bytes from that page, in use or not; channel 0 comes to it. -/
def chained (flags : Byte) : State :=
  { hosted with mem := base.mem.write (keysFrom 0x20000 32) (leBytes 8 0 ++ leBytes 8 0x20000 ++ leBytes 8 0x10080 ++ leBytes 4 64 ++ [flags, 0, 0, 0]) }.updR fun r =>
    { r with chains := r.chains.set 0 ⟨0x10000, true, [], none, 0, false⟩ }

theorem wit_chain_fetch : ([0, 1] : List Byte).all (fun b => ((chained b).r.chains[(0 : Fin 8)]).runs true && !((chained b).r.chains[(0 : Fin 8)]).stamped &&
    okAnd (resolve (chained b) 0x10000 64 true false) (fun p => p.1.all (fun k => storeOf k == .hbm) &&
      !(granulesOf p.1).any (chained b).mem.isBad &&
      (bit (byteAt ((chained b).mem.gather p.1) 28) 0 == decide (b = 1)) &&
      (b == 0 || okAnd (recordOk p.2 ((chained b).mem.gather p.1)) fun q => q.1))) = true := by decide +kernel

/-- Channel 0 runs that record, which ends with a release and an event too where `flags` is 7. -/
def chainRuns (flags : Byte) : State := (chained 1).updR fun r => { r with
  chains := r.chains.set 0 ⟨0x10000, true, leBytes 8 0 ++ leBytes 8 0x20000 ++ leBytes 8 0x10080 ++ leBytes 4 64 ++ [flags, 0, 0, 0] ++
    leBytes 8 0x100C0 ++ List.replicate 24 0, none, 0, false⟩ }

theorem wit_chain_done : ([1, 7] : List Byte).all (fun b => let s := chainRuns b
    decide ((s.r.chains[(0 : Fin 8)]).offset ≤ (le32 (s.r.chains[(0 : Fin 8)]).record 24).toNat) && (s.r.chains[(0 : Fin 8)]).runs false &&
    (copyRun (some 0x44) none 64 s 0x20000 0x10080 64).2.2.isNone && bit (byteAt (s.r.chains[(0 : Fin 8)]).record 28) 2 == (b == 7) &&
    okAnd (writeStatus s 0x10000 [0, 0, 0, 0]) (fun u => b == 1 || okAnd (chainRelease u 0x100C0) fun _ => true)) = true := by decide +kernel

/-! ### The command queue and Gauze at work -/

/-- A command of the queue. -/
def queueEntry (op : QOp) (started : Bool) : QEntry := ⟨9, 0x10, op, started, false, none, 0, 0, 0, 0, 0, none, [], [], [], 0⟩

/-- One command in the queue; Damask is configured in mode m; stream 8 holds 1024 bytes of the size code given for a unit. -/
def working (m : Fin 4) (code : Nat) (op : QOp) (started : Bool) : State :=
  (withSt (joined m) 8 { ring 8 7 code 80 with ring := 0xF0050, claimed := 16, committed := 16 }).updR fun r => { r with
    fq := [0], start := { r.start with fq := 1, nextQ := 10 }
    mx := { r.mx with queue := [queueEntry op started] } }

theorem wit_result_delivery : streamed.r.ep.status = .running ∧ (streamed.updE fun e => { e with occupied := 3 }).r.ep.occupied ≠ 0 ∧
    (base.updE fun e => { e with status := .halted, inflight := [⟨1, .vreg 63, .vec (Lanes.fill 7), 1, none⟩] }).r.ep.status = .halted := by
  decide +kernel

theorem wit_command_start : ([(0, .rnd 5), (0, .lfsr false 0), (0, .lfsr true 7), (2, .jcfg ⟨3, true, false, 8, none⟩), (0, .jclear),
    (0, .wload 2 8 0 1 0 1 1), (1, .dot 1 8 0 1 0 0)] : List (Fin 4 × QOp)).all (fun x =>
      let s := working x.1 5 x.2 false
      nextStart s.r == some (queueEntry x.2 false) && s.r.start.fq == 1 &&
        match (queueEntry x.2 false).tile with
        | some t => (tileCause s t 0).isNone && aSizeOk s t.st && decide (t.mt ≠ 0) && arrayPrefers s && t.tag == 0
        | none => true) = true := by decide +kernel

theorem wit_k_step : (let s := working 1 5 (.dot 1 8 0 1 0 0) true
    let q := queueEntry (.dot 1 8 0 1 0 0) true
    tileReady s && (arrayServes s).1 && (runningQ (arrayServes s).2 (fun q => q.tile.isSome) == some q) &&
      match q.tile, (arrayServes s).2.r.dm.cfg with
      | some x, some c => okAnd (nextA (arrayServes s).2 q x) fun p =>
          (match fetchPanel p.2 ((arrayServes s).2.r.mx.wdesc[x.w]) q.ks q.nb with | .ok _ => true | .error _ => false) &&
          okAnd (stepTarget p.2 q x c) fun y => y.1.place.isSome && decide ((y.1.read y.2 c).length = 128)
      | _, _ => false) = true := by decide +kernel

theorem wit_stream_copy : ([.wload 2 8 0 0 0 1 1, .wloadSc 8 0 100] : List QOp).all (fun op =>
    let s := working 0 5 op true
    let q := queueEntry op true
    (runningQ s QEntry.isLoad == some q) && okAnd (copyLength s q) (fun n => n == some (if op == .wloadSc 8 0 100 then 100 else 512)) &&
      okAnd (unitTake s 8 64 false) fun p => p.1.length == 64) = true := by decide +kernel

/-- Key (1, 2) is held in place 3 of a hash store, or is not. -/
def accumulating (held : Bool) : State := (working 2 4 (.jacc 8 (some 4)) true).updR fun r => { r with
  dm := { r.dm with store := if held then [⟨0, 0, [0x3F800000]⟩] else [] } }

theorem wit_accumulate : [true, false].all (fun h =>
    let s := accumulating h
    (runningQ s QEntry.isAcc == some (queueEntry (.jacc 8 (some 4)) true)) &&
      match s.r.dm.cfg with
      | some c => okAnd (unitTake s 8 c.itemBytes false) fun p => okAnd (itemOf c p.1) fun x =>
          okAnd (locate c s.r.bind.jsh s.r.dm.store x.1) fun f => match f with | .hit _ => h | .fresh _ => !h | .full => false
      | none => false) = true := by decide +kernel

theorem wit_drain_entry : (let s := working 0 4 (.jdrain none 5 3) true
    (runningQ s QEntry.isDrain == some (queueEntry (.jdrain none 5 3) true)) && (queueEntry (.jdrain none 5 3) true).out.isNone &&
      match s.r.dm.cfg with
      | some c => (match drainNext s (queueEntry (.jdrain none 5 3) true) c with
          | some e => decide (max s.r.start.drainq s.r.dm.drainq.length + (c.record e.key e.vals).length ≤ 1024) | none => false)
      | none => false) = true := by decide +kernel

theorem wit_command_finish : (({ working 0 5 (.wload 2 8 0 0 0 1 1) true with mem := base.mem }.updQ 9 fun q => { q with ran := true }).r.mx.queue.find?
    fun (q : QEntry) => q.ran && q.fault.isNone).isSome = true := by decide +kernel

theorem wit_gauze_complete : (match gauzed.r.gz.blocks[(2 : Fin 64)] with
    | some b => ([.sig 2 0 1 2 3 4, .mapW 2 0 7, .step 2, .keep 2 0 [], .cfg 2 b] : List GOp).all fun o =>
        (o.target gauzed.r.gz == some b) && !o.isReuse && (base.mem.readCause (o.reads b base.entry)).isNone &&
          decide (b.offset % 64 = 0) && decide (0 < b.tiles)
    | none => false) = true := by decide +kernel

/-! ### Time and records -/

/-- A frame launch whose period has begun or not, with one block, at a tick. -/
def timed (fixed begun : Bool) (num : Nat) (tick : W64) : State :=
  { base with
    tick := tick
    launches := [{ launch0 with
      frameMode := true, frames := { (framed true false 0).launch.frames with
        fixed := fixed, begun := begun, num := num, base := 10, blocks := [⟨0, 10, 50, 0, false, false⟩] } }] }

theorem wit_frames : (timed true false 0 10).launch.frames.base ≤ (timed true false 0 10).tick.toNat ∧
    (timed true false 0 10).launch.frames.fixed = true ∧ (timed true false 0 10).launch.frames.begun = false ∧
    (timed true true 1 120).launch.frames.begun = true ∧ (∀ b ∈ (timed true true 1 120).launch.frames.blocks, 0 = b.frame) ∧
    ((timed true true 0 20).launches.find? fun x => x.id.toNat == 0 && x.frameMode && !x.finished).isSome = true ∧
    (timed true true 0 20).launch.frames.blocks[0]? = some ⟨0, 10, 50, 0, false, false⟩ ∧
    (timed true true 0 20).launch.frames.base + 10 ≤ (timed true true 0 20).tick.toNat ∧
    (if base.pkg.boot.clock = 1200 then 12 else 32) ≤ ({ base with subtick := 32 } : State).subtick := by decide +kernel

/-- The partition has a completion record and a fault record to write, and rings for them. -/
def recording : State := base.updPart 0 fun p => { p with
  cr := ⟨0x80001, 0, 0⟩
  completions := [List.replicate 32 1]
  faults := [⟨0x20, 0, 2, 0, 0, 0, 0, 0, 0, 0, 0, 0, 0, .ep, none⟩] }

theorem wit_records : ((recording.pkg.parts[(0 : Fin 8)]).completions = [List.replicate 32 1]) ∧
    bits (recording.pkg.parts[(0 : Fin 8)]).cr.base 3 0 ≠ 0 ∧ ((0 : W16) - 0).toNat < 2 ^ bits (recording.pkg.parts[(0 : Fin 8)]).cr.base 3 0 ∧
    ((recording.pkg.parts[(0 : Fin 8)]).faults.find? fun r => r.seq.isNone).isSome = true ∧
    (recording.pkg.parts[(0 : Fin 8)]).record.isEmpty = false ∧
    (recording.mem.word64 (recording.pkg.parts[(0 : Fin 8)]).fq - recording.mem.word64 ((recording.pkg.parts[(0 : Fin 8)]).fq + 8)).toNat < 256 := by
  decide +kernel

/-- F is sampled in each cycle, and stamped in each tick. -/
def traced : State := base.updR fun r => { r with watch := { r.watch with trace := ⟨0x90000, 8, BitVec.ofNat 64 (5 + 2 ^ 16 + 2 ^ 32), 1, 0⟩ } }

theorem wit_trace : traced.r.traced = true ∧ traced.r.watch.trace.lost = 0 ∧ traced.tracing 0 0 = true ∧ (∀ k : Fin 3, traced.tracing 2 k.val = decide (k = 0)) ∧
    bits traced.r.watch.trace.control 31 16 = 1 ∧ bits traced.r.watch.trace.control 63 32 = 1 ∧ traced.subtick = 0 ∧
    (traced.mem.word64 0x90000 - traced.mem.word64 0x90008).toNat < 2 ^ traced.r.watch.trace.k - 4 := by decide +kernel

/-- A residency that has not moved for 5 ticks, watched for a limit. -/
def still (armed : Bool) (limit : W32) : State :=
  { base with subtick := 1, pkg := { base.pkg with fw := { base.pkg.fw with wdog := Vector.replicate 2 limit } } }.updR fun r =>
    { r with watch := { r.watch with idle := 5, moved := false, armed := armed } }

theorem wit_watchdog : (still true 5).r.watched = true ∧ (still true 5).r.watch.moved = false ∧ (still true 5).r.watch.armed = true ∧
    ((still true 5).pkg.fw.wdog[(Fin.ofNat 2 (dieOf (still true 5).entry))]).toNat = 5 ∧
    ((still true 6).pkg.fw.wdog[(Fin.ofNat 2 (dieOf (still true 6).entry))]).toNat = 6 ∧ (still false 0).r.watch.armed = false ∧
    ((still true 5).updWatch fun w => { w with moved := true }).r.watch.moved = true := by decide +kernel

/-! ### Launches -/

/-- Queue 0 of the partition holds a descriptor of tag 7 that names 272 bytes at virtual address 0x200000; one page-table
granule at 0x100000 serves levels 4, 3 and 2 and maps that page onto itself; there an image of one core: code sections of zero
bytes, a launch record with a1 = 77, one task record. -/
def offered : State :=
  let cells : List Host.Cell := [(458752, 0x07), (458770, 0x20), (458776, 0x10), (458777, 0x01), (1048576, 0x01), (1048578, 0x10), (1048584, 0x0F),
    (1048586, 0x20), (2097152, 0x4B), (2097153, 0x54), (2097154, 0x52), (2097155, 0x58), (2097156, 0x01), (2097158, 0x05),
    (2097160, 0x10), (2097161, 0x01), (2097168, 0xCF), (2097169, 0x0B), (2097216, 0x01), (2097220, 0x30), (2097224, 0x04),
    (2097232, 0x02), (2097236, 0x30), (2097240, 0x04), (2097248, 0x03), (2097252, 0x30), (2097256, 0x08), (2097264, 0x04),
    (2097268, 0x90), (2097272, 0x80), (2097280, 0x07), (2097284, 0xD0), (2097288, 0x40), (2097308, 0x01), (2097312, 0x4D),
    (2097409, 0x01), (2097410, 0x01), (2097411, 0x01), (2097412, 0x01)]
  let chk : List (Nat × Check) := [(7168, ⟨0xB308, 0⟩), (16384, ⟨0xE2B7, 0⟩), (32768, ⟨0xC17E, 0⟩), (32769, ⟨0x7327, 0⟩),
    (32770, ⟨0xEE11, 0⟩), (32772, ⟨0xA578, 0⟩)]
  { base with
    r := .absent, launches := [], mem := ⟨cells, [], chk, [], []⟩
    pkg := { base.pkg with
      tlb := [], parts := base.pkg.parts.set 0 { base.pkg.parts[(0 : Fin 8)] with lq := base.pkg.parts[(0 : Fin 8)].lq.set 0 ⟨0x70001, 0, 1⟩ } } }

/-- The page-table granule as the walk reads it. -/
theorem offered_table : inRanges (offered.pkg.parts[(0 : Fin 8)]).ranges 0x100000 0x100000 = true ∧
    inRanges (offered.pkg.parts[(0 : Fin 8)]).ranges 0x100000 4096 = true ∧ offered.mem.readCause [0x4000] = none ∧
    offered.mem.word64 0x100000 = 0x100001 ∧ offered.mem.word64 0x100008 = 0x20000F ∧
    (offered.pkg.parts[(0 : Fin 8)]).root = 0x100000 ∧ offered.pkg.tlb = [] ∧
    offered.pkg.unmapped 0x100000 = false ∧ offered.pkg.unmapped 0x100008 = false := by decide +kernel

theorem offered_indices : ∀ i : Fin 272, levelIndex 4 (0x200000 + BitVec.ofNat 64 i.val).toNat = 0 ∧
    levelIndex 3 (0x200000 + BitVec.ofNat 64 i.val).toNat = 0 ∧ levelIndex 2 (0x200000 + BitVec.ofNat 64 i.val).toNat = 1 ∧
    alignDown (0x200000 + BitVec.ofNat 64 i.val).toNat 0x200000 = 0x200000 ∧
    (0x200000 + BitVec.ofNat 64 i.val).toNat = 0x200000 + i.val := by decide +kernel

/-- A walk that finds the leaf of a level-2 page, each table's entry read at its place. -/
theorem walk_level2 {pkg : Package} {m : Memory} {rs : List (Nat × Nat)} {va u x : W64} {t : Nat}
    (ht : inRanges rs t 0x100000 = true ∧ inRanges rs t 4096 = true)
    (hi : levelIndex 4 va.toNat = 0 ∧ levelIndex 3 va.toNat = 0 ∧ levelIndex 2 va.toNat = 1 ∧ alignDown va.toNat 0x200000 = 0x200000)
    {t8 g : Nat} (h8 : t + 8 = t8 ∧ t / 64 = g ∧ t8 / 64 = g) (hc : m.readCause [g] = none)
    (hn : pkg.unmapped t = false ∧ pkg.unmapped t8 = false)
    (hm : m.word64 t = u ∧ m.word64 t8 = x)
    (hu : bit u 0 = true ∧ bit u 1 = false ∧ pteMalformed 4 u = false ∧ pteMalformed 3 u = false ∧ pteAddr u = t)
    (hx : bit x 0 = true ∧ bit x 1 = true ∧ pteMalformed 2 x = false ∧ bit x 2 = true ∧ bit x 3 = true) :
    walk pkg m rs va 4 t = .ok ⟨pteAddr x, 0x200000, 0x200000, true, true, auxOf t8 2⟩ := by
  simp only [walk, tableSize, levelShift, hi, hu, hx, hm, ht, h8, hc, hn, Nat.mul_zero, Nat.add_zero, Nat.mul_one, Nat.reducePow]
  simp

theorem offered_frame : frameAllowed (offered.pkg.parts[(0 : Fin 8)]) 0x200000 0x200000 = true := by decide +kernel
theorem offered_region : ∀ i : Fin 272, (regionOf offered.pkg (0x200000 + i.val)).isNone = false := by decide +kernel

/-- Bytes that translate to consecutive keys, each readable, are read as they stand. -/
theorem readVirtual_eq {s : State} {p : Fin 8} : ∀ (n k : Nat) (va : W64), (∀ i, i < n → storeOf (k + i) ≠ .peer ∧
      s.mem.readCause (granulesOf (checkable [k + i])) = none ∧
      ∃ ts, translate s.mem { s.pkg with tlb := [] } 0 p (va + BitVec.ofNat 64 i) true false = .ok (k + i, ts)) →
    readVirtual s p n va = some (s.mem.bytes k n)
  | 0, _, _, _ => rfl
  | n + 1, k, va, h => by
    obtain ⟨hs, hc, ts, ht⟩ := h 0 (Nat.zero_lt_succ n)
    rw [show va + BitVec.ofNat 64 0 = va from BitVec.add_zero va, Nat.add_zero] at ht
    rw [Nat.add_zero] at hs hc
    have ih := readVirtual_eq n (k + 1) (va + 1) (fun i hi => by
      have := h (i + 1) (Nat.succ_lt_succ hi)
      rwa [BitVec.ofNat_add, BitVec.add_comm (BitVec.ofNat 64 i), ← BitVec.add_assoc, ← Nat.add_assoc, Nat.add_right_comm] at this)
    simp only [readVirtual, ht, hc, ih, Option.isSome_none, Bool.or_false, beq_iff_eq, hs, if_false, Option.map_some]
    simp only [Memory.bytes, List.range_succ_eq_map, List.map_cons, List.map_map, Nat.add_zero]
    refine congrArg some (congrArg _ (List.map_congr_left fun i _ => ?_))
    rw [Function.comp, Nat.succ_eq_add_one, Nat.add_assoc, Nat.add_comm 1]

theorem offered_granules : ∀ i : Fin 5, offered.mem.readCause [0x8000 + i.val] = none := by decide +kernel

theorem offered_readable (i : Nat) (hi : i < 272) : offered.mem.readCause (granulesOf (checkable [0x200000 + i])) = none := by
  have hk : storeOf (0x200000 + i) = .hbm := by
    rw [storeOf, if_neg (by omega), if_pos (by omega)]
  have hc : checkable [0x200000 + i] = [0x200000 + i] := by simp [checkable, hk]
  have hd : ∀ g : Nat, [g].eraseDups = [g] := fun g => rfl
  have h := offered_granules ⟨i / 64, by omega⟩
  rw [hc, granulesOf, List.map_cons, List.map_nil, show (0x200000 + i) / 64 = 0x8000 + i / 64 by omega, hd]
  exact h

theorem leafCheck_ok {pkg : Package} {p : Partition} {f b n k : Nat} {x va : W64} (hf : frameAllowed p f n = true)
    (hk : f + (va.toNat - b) = k) (hr : (regionOf pkg k).isNone = false) : leafCheck pkg p ⟨f, b, n, true, true, x⟩ va true false = .ok k := by
  simp [leafCheck, Package.unmapped, hf, hk, hr]

theorem offered_nat (i : Nat) (hi : i < 272) : (0x200000 + BitVec.ofNat 64 i).toNat = 0x200000 + i := (offered_indices ⟨i, hi⟩).2.2.2.2
theorem offered_reg (i : Nat) (hi : i < 272) : (regionOf offered.pkg (0x200000 + i)).isNone = false := offered_region ⟨i, hi⟩
theorem offered_cancel (i : Nat) (hi : i < 272) : 0x200000 + ((0x200000 + BitVec.ofNat 64 i).toNat - 0x200000) = 0x200000 + i := by
  rw [offered_nat i hi, Nat.add_sub_cancel_left]
theorem offered_leaf (i : Nat) (hi : i < 272) : leafCheck offered.pkg (offered.pkg.parts[(0 : Fin 8)])
    ⟨0x200000, 0x200000, 0x200000, true, true, auxOf 0x100008 2⟩ (0x200000 + BitVec.ofNat 64 i) true false = .ok (0x200000 + i) :=
  leafCheck_ok offered_frame (offered_cancel i hi) (offered_reg i hi)

theorem translate_walk {m : Memory} {pkg : Package} {c : Nat} {p : Fin 8} {va : W64} {lf : Leaf} {k : Nat} (ht : pkg.tlb = [])
    (hw : walk pkg m (pkg.parts[p]).ranges va 4 (pkg.parts[p]).root = .ok lf) (hl : leafCheck pkg (pkg.parts[p]) lf va true false = .ok k) :
    ∃ ts, Machine.translate m pkg c p va true false = .ok (k, ts) := by
  simp only [Machine.translate, ht, tlbFind, List.find?_nil, hw, hl]
  exact ⟨_, rfl⟩

theorem offered_entries : (bit (0x100001 : W64) 0 = true ∧ bit (0x100001 : W64) 1 = false ∧ pteMalformed 4 (0x100001 : W64) = false ∧
    pteMalformed 3 (0x100001 : W64) = false ∧ pteAddr (0x100001 : W64) = 0x100000) ∧
    (bit (0x20000F : W64) 0 = true ∧ bit (0x20000F : W64) 1 = true ∧ pteMalformed 2 (0x20000F : W64) = false ∧
    bit (0x20000F : W64) 2 = true ∧ bit (0x20000F : W64) 3 = true) ∧ pteAddr (0x20000F : W64) = 0x200000 := by decide +kernel

theorem offered_walk (i : Fin 272) : walk offered.pkg offered.mem (offered.pkg.parts[(0 : Fin 8)]).ranges (0x200000 + BitVec.ofNat 64 i.val) 4
    (offered.pkg.parts[(0 : Fin 8)]).root = .ok ⟨0x200000, 0x200000, 0x200000, true, true, auxOf 0x100008 2⟩ := by
  obtain ⟨r4, r3, c, w0, w1, rt, _, u0, u1⟩ := offered_table
  obtain ⟨i4, i3, i2, al, _⟩ := offered_indices i
  obtain ⟨e0, e1, e2⟩ := offered_entries
  rw [rt, ← e2]
  exact walk_level2 ⟨r4, r3⟩ ⟨i4, i3, i2, al⟩ ⟨rfl, rfl, rfl⟩ c ⟨u0, u1⟩ ⟨w0, w1⟩ e0 e1

theorem offered_translates (i : Nat) (hi : i < 272) : ∃ ts,
    Machine.translate offered.mem offered.pkg 0 0 (0x200000 + BitVec.ofNat 64 i) true false = .ok (0x200000 + i, ts) :=
  translate_walk offered_table.2.2.2.2.2.2.1 (offered_walk ⟨i, hi⟩) (offered_leaf i hi)

/-- The firmware reads the image as it stands. -/
theorem offered_image : readVirtual offered 0 272 0x200000 = some (offered.mem.bytes 0x200000 272) :=
  readVirtual_eq 272 0x200000 0x200000 fun i hi => ⟨by rw [storeOf, if_neg (by omega), if_pos (by omega)]; decide, offered_readable i hi,
    offered_translates i hi⟩

theorem wit_descriptor_taken : (let d := offered.mem.bytes (ringKey 0x70001 128 0) 128
    let f := offered.mem.bytes 0x200000 272
    offered.inService = true ∧ (offered.pkg.parts[(0 : Fin 8)]).state = .active ∧ ((offered.pkg.parts[(0 : Fin 8)]).lq[(0 : Fin 4)]) = ⟨0x70001, 0, 1⟩ ∧
    (offered.pkg.parts[(0 : Fin 8)]).ring 0x70001 128 ≠ 0 ∧ regionWaits offered (ringKey 0x70001 128 0) = false ∧ refusal offered 0 d = none ∧ readVirtual offered 0 (le64 d 24).toNat (le64 d 16) = some f ∧
    predecessor offered 0 (byteAt d 5).toNat (le32 d 8) = some (true, 0) ∧ recCores (imgSection f 4) = 1 ∧
    placeOk offered 0 d f 1 [0] 0x1000000 = true ∧ offered.launches = []) := by
  have h : (let d := offered.mem.bytes (ringKey 0x70001 128 0) 128
      let f := offered.mem.bytes 0x200000 272
      offered.inService = true ∧ (offered.pkg.parts[(0 : Fin 8)]).state = .active ∧ ((offered.pkg.parts[(0 : Fin 8)]).lq[(0 : Fin 4)]) = ⟨0x70001, 0, 1⟩ ∧
      (offered.pkg.parts[(0 : Fin 8)]).ring 0x70001 128 ≠ 0 ∧ regionWaits offered (ringKey 0x70001 128 0) = false ∧ predecessor offered 0 (byteAt d 5).toNat (le32 d 8) = some (true, 0) ∧ recCores (imgSection f 4) = 1 ∧
      placeOk offered 0 d f 1 [0] 0x1000000 = true ∧ offered.launches = [] ∧ (le64 d 24).toNat = 272 ∧ le64 d 16 = 0x200000 ∧
      descriptorOk d = true ∧ imageOk f 272 = true ∧ handlesOk offered 0 f = true ∧
      coresOffered offered.pkg.boot (bit (byteAt d 4) 0) = 192 ∧ offered.blocksHeld + (imgBlocks f).length = 0) := by decide +kernel
  obtain ⟨h1, h2, h3, r1, r2, h4, h5, h6, h7, h8, h9, h10, h11, h12, h13, h14⟩ := h
  refine ⟨h1, h2, h3, r1, r2, ?_, by rw [h8, h9]; exact offered_image, h4, h5, h6, h7⟩
  simp only [refusal, h4, h5, h7, h8, h9, h10, h11, h12, h13, h14, offered_image]
  rfl

/-- A bind record for entry 0: a whole core for logical core 0 of launch 9, its mailbox at 0x300000, a save area at 0x400000. -/
def bindRec0 (op : Byte) : List Byte :=
  [op, 0, 0, 0, 0, 0, 0, 4, 4, 4, 2, 4, 2, 8, 0, 0] ++ leBytes 4 9 ++ leBytes 2 0 ++ leBytes 2 1 ++ leBytes 8 0 ++ leBytes 8 0x300000 ++
    leBytes 8 0x400000 ++ List.replicate 16 0

/-- Entry 0 in a state, its record of an operation; no residency, or the running one. -/
def slot0 (op : Byte) (state : Nat) (bound : Bool) : State :=
  { base with
    r := if bound then base.r else .absent
    pkg := { base.pkg with slots := base.pkg.slots.set 0 { base.pkg.slots[(0 : Fin 416)] with record := bindRec0 op, state := state } } }

theorem wit_bind : bindReject (slot0 1 0 false) 0 (bindRec0 1) false = none ∧ bindReject (slot0 1 2 true) 0 (bindRec0 1) false = some 3 ∧
    recordNames 0 (bindRec0 2) = true ∧ ((slot0 3 2 true).pkg.slots[(0 : Fin 416)]).state = 2 ∧ (slot0 3 2 true).entry = 0 ∧
    (((slot0 2 2 true).updR fun r => { r with stage := .done }).resAt 0).isSome = true := by decide +kernel

/-- The save area holds the header of that residency. -/
def savedArea : State := { slot0 4 0 false with
  mem := base.mem.fill 0x400000 ([0x4B, 0x53, 0x56, 0x31, 1, 0, 0, 0] ++ leBytes 4 9 ++ leBytes 2 0 ++ leBytes 2 1 ++ [4, 4, 4, 2, 4, 2] ++
    List.replicate 10 0 ++ leBytes 8 0x1000000) }

theorem wit_restore : bindReject savedArea 0 (bindRec0 4) true = none ∧ headerAgrees (savedArea.mem.bytes 0x400000 256) (bindRec0 4) = true ∧
    savedArea.others = [] ∧ savedArea.r.bind.e ≠ 0 ∧
    (let img := (le64 (savedArea.mem.bytes 0x400000 256) 32).toNat
     let n := (savedArea.mem.word64 (img + 8)).toNat
     inRanges [(savedArea.pkg.parts[(0 : Fin 8)]).priv] img n = true ∧
       savedArea.mem.readCause (granulesOf (keysFrom img n)) = none ∧ (bindOf 0 (bindRec0 4)).fits (savedArea.mem.bytes img n) = true) := by decide +kernel

/-- The residency's mailbox at 0x300000 names the image at 0x200000; the privileged range holds both. -/
def mailed (stage : ResStage) : State :=
  { base with mem := { offered.mem with
      cells := offered.mem.cells ++ [(0x300002, 0x20), (0x300008, 0x10), (0x300009, 0x01)], chk := offered.mem.chk ++ [((0xC000 : Nat), (⟨31163, 0⟩ : Check))] }
              pkg := { package0 with parts := package0.parts.set 0 { Partition.free with
                state := .active, record := record0.take 40 ++ leBytes 8 0 ++ leBytes 8 0x2000000 ++ record0.drop 56 } } }.updR
    fun r => { r with stage := stage, bind := { r.bind with mbox := 0x300000, apim := 4096, epim := 4096 } }

theorem wit_overlay : codeFits (mailed .loading) (offered.mem.bytes 0x200000 272) = true ∧
    imageWaits (mailed .loading) = false ∧
    imageCopy (mailed .loading) = some (offered.mem.bytes 0x200000 272) ∧
    alignUp (imgSection (offered.mem.bytes 0x200000 272) 1).length 64 + (imgSection (offered.mem.bytes 0x200000 272) 2).length ≤ 65536 ∧
    (imgSection (offered.mem.bytes 0x200000 272) 3).length ≤ 131072 ∧ mayApply (mailed .loaded) = true ∧
    recHandles (imgSection (offered.mem.bytes 0x200000 272) 4) = 0 ∧ recStreams (imgSection (offered.mem.bytes 0x200000 272) 4) = 0 := by decide +kernel

theorem wit_run : (((base.updR fun r => { r with stage := .held }).all.filter fun r => r.stage == .held && r.bind.launch == 0).length = 1) ∧
    base.r.bind.n = 1 := by decide +kernel

/-- The residency is being saved since cycle 0. -/
def leaving (ep : CtxStatus) : State :=
  { base with pkg := { base.pkg with fw := { base.pkg.fw with saveLimit := 0 } } }.updR fun r => { r with
    stage := .saving, watch := { r.watch with saveReq := some 0 }, ep := { r.ep with status := ep } }

theorem wit_save : (leaving .running).r.eAtRest = false ∧ 0 + (leaving .running).pkg.fw.saveLimit.toNat ≤ (leaving .running).now ∧
    (leaving .halted).r.saveReady = true ∧ (leaving .halted).r.f.wake ≤ (leaving .halted).now ∧
    (leaving .halted).r.d.wake ≤ (leaving .halted).now ∧ (leaving .halted).entry < 416 ∧
    rangeWaits (leaving .halted) (leaving .halted).r.bind.save.toNat (98304 * 64) = false ∧ (leaving .running).r.watch.forced = false := by decide +kernel

/-! ### Services -/

/-- The partition's oldest service request is given. -/
def requested (f : List Byte) (r : FaultRec) : State :=
  { base with mem := (base.mem.fill 0x40010 (leBytes 8 1)).fill (0x40000 + 20480) f }.updPart 0 fun p => { p with faults := [r] }

/-- A posted record of sequence number 5 that stopped an item. -/
def posted (cause : Cause) (kind : Nat) (it : Item) : FaultRec := ⟨cause, kind, 0, 0, 0, 0, 0, 0, 0, 0, 0, 0, 0, it, some 5⟩

/-- A request to act on the record of sequence number 5. -/
def actRequest (op : Byte) (arg : W64) : List Byte := [op, 0, 0, 0, 0, 0, 0, 0] ++ leBytes 8 5 ++ leBytes 8 arg.toNat ++ List.replicate 40 0

theorem wit_requests : ([(actRequest 1 0, posted 0x20 0 (.ap .f)), (actRequest 1 0, posted 0x72 0 (.ap .d)), (actRequest 1 0, posted 0x20 0 .ep),
    (actRequest 1 0, posted 0x73 0 .ep), (actRequest 1 0, posted 0x79 0 .ep), (actRequest 2 8, posted 0x20 0 (.ap .f)), (actRequest 3 0x44, posted 0x44 1 (.engine 5)),
    (actRequest 1 0, posted 0x44 1 (.engine 5)), (actRequest 1 0, posted 0x44 1 (.chain 0)), (actRequest 1 0, posted 0x50 1 (.queue 5)),
    (actRequest 1 0, posted 0x5B 1 .gauze), (actRequest 1 0, posted 0x40 2 (.stream 3)), (actRequest 1 0, posted 0x7A 3 .whole),
    (actRequest 2 8, posted 0x20 0 .ep), (actRequest 3 0, posted 0x40 2 (.stream 3)), (actRequest 3 0, posted 0x50 1 (.queue 5)),
    (actRequest 3 0, posted 0x5B 1 .gauze), (actRequest 3 0x44, posted 0x44 1 (.chain 0)), (actRequest 2 8, posted 0x7A 3 .whole),
    (actRequest 3 0, posted 0x20 0 .ep), (actRequest 2 2, posted 0x20 0 .ep)] : List (List Byte × FaultRec)).all (fun x =>
      let s := requested x.1 x.2
      s.pendingHere x.2 && nextRequest s 0 == some (0x40000 + 20480, x.1) && le64 x.1 24 == 0 && le64 x.1 32 == 0 &&
        (((s.pkg.parts[(0 : Fin 8)]).faults.find? fun r => r.seq == some (le64 x.1 8)) == some x.2) &&
        recordByToken s (tokenOf 0 5) == (0, some x.2)) = true ∧ (8 : Nat) < (base.r.section .f).2 ∧ (8 : Nat) < base.r.bind.epSize := by
  decide +kernel

/-- A chain channel that stands at a record, kept or to be read again, can be cancelled. -/
theorem wit_cancel_chain : [true, false].all (fun kept =>
    let s := (requested (actRequest 3 0x44) (posted 0x44 1 (.chain 0))).updChain 0 fun c => { c with
      ptr := 0x10000, busy := true, record := if kept then List.replicate 64 1 else [], faulted := some 0x44 }
    s.pendingHere (posted 0x44 1 (.chain 0)) && okAnd (resolve s 0x10000 64 true false) (fun _ => true) &&
      okAnd (writeStatus s 0x10000 [0, 0x44]) (fun _ => true)) = true := by decide +kernel

/-- A BAR.WAIT on group 7 has overrun: the record holds its word. -/
theorem wit_overrun_record : (let r : FaultRec := { posted 0x60 0 (.ap .f) with detail := 0xE8000807 }
    let s := (requested (actRequest 1 0) r).updR fun x => { x with bind := { x.bind with gmem := 0x2_00000700 } }
    s.pendingHere r = true ∧ decodeABytes (leBytes 4 r.detail.toNat) = .ok (.barWait 0 7) ∧ s.r.groupSlot 7 = some 1 ∧
    ((s.pkg.parts[(0 : Fin 8)]).faults.find? fun x => x.seq == some 5) = some r) := by decide +kernel

/-- A notice of a forced save is posted. -/
theorem wit_notice : recordPending (requested (actRequest 1 0) (posted 0x78 4 .whole)) 0 (posted 0x78 4 .whole) = true := by
  decide +kernel

theorem wit_shootdown : base.pkg.fw.sdPart = none ∧ ((0x10000 : W64) ≠ 0 ∧ (0x20000 : W64).toNat % 65536 = 0) ∧
    (let f : List Byte := [4, 0, 0, 0, 0, 0, 0, 0] ++ leBytes 8 0 ++ leBytes 8 0x20000 ++ leBytes 8 0x10000 ++ List.replicate 32 0
     nextRequest (requested f (posted 0 0 .ep)) 0 = some (0x40000 + 20480, f) ∧ le64 f 8 = 0) ∧
    pinsHeld { base with pkg := { base.pkg with fw := { base.pkg.fw with sdPart := some 0 } } } 0 = 0 := by decide +kernel

theorem wit_trace_request : (let f : List Byte := [5, 0, 0, 0, 0, 0, 0, 0] ++ leBytes 4 0 ++ leBytes 2 0 ++ [7, 0] ++ leBytes 8 0x90008 ++ leBytes 8 2 ++ List.replicate 32 0
    nextRequest (requested f (posted 0 0 .ep)) 0 = some (0x40000 + 20480, f) ∧ base.r.stage ≠ .free ∧ base.r.bind.part = 0 ∧
    base.r.bind.launch = le32 f 8 ∧ base.r.bind.lcore = le16 f 12 ∧ traceOk base 0 (le64 f 16) (le64 f 24) (byteAt f 14) = true) := by decide +kernel

theorem wit_stop : ((slot0 3 2 true).pkg.slots[(0 : Fin 416)]).state = 2 ∧ (slot0 3 2 true).r.f.status ≠ .halted ∧
    (slot0 3 2 true).r.d.status ≠ .halted ∧ (slot0 3 2 true).r.ep.status ≠ .halted := by decide +kernel

theorem wit_host_timeout : (((base.updCtx .f fun c => { c with pending := some ⟨.load 1 3, 0x20000, keysFrom (2 ^ 48) 8, 0, [], false⟩ }).ctx .f).pending).isSome = true ∧
    storeOf (2 ^ 48) = .host ∧ base.entry = 0 ∧ base.r.stage ≠ .free := by decide +kernel

/-! ### Privileged registers -/

theorem wit_owner : base.responds = true ∧ base.pkg.owner = 1 ∧ linkedMaster base 1 = false ∧ linkedMaster base 3 = true ∧
    ({ base with pkg := { base.pkg with owner := 0 } } : State).pkg.owner = 0 ∧ base.byMaster 1 0 = true ∧ base.byOwner 1 = true := by decide +kernel

/-- The partition's record lies at PART_ADDR, or a record that the device refuses. -/
def creating (state : PartState) (f : List Byte) : State :=
  { base with mem := base.mem.write (keysFrom 0x20000 256) f, pkg := { base.pkg with
    partAddr := 0x20000, parts := base.pkg.parts.set 0 { base.pkg.parts[(0 : Fin 8)] with state := state } } }

theorem wit_create : createResult (creating .free record0) 0 ((creating .free record0).mem.bytes 0x20000 256) = 0 ∧
    createResult (creating .active record0) 0 record0 ≠ 0 := by decide +kernel

theorem wit_regrant : ((creating .active record0).pkg.parts[(0 : Fin 8)]).state = .active ∧ partRecordOk (creating .active record0) 0 record0 = true ∧
    withoutGrants record0 = withoutGrants ((creating .active record0).pkg.parts[(0 : Fin 8)]).record ∧
    (activeParts (creating .active record0) 0).any (grantsClash { (creating .active record0).pkg.parts[(0 : Fin 8)] with record := record0 }) = false ∧
    grantInUse (creating .active record0) 0 record0 = false ∧
    ((creating .destroying record0).pkg.parts[(0 : Fin 8)]).completions = [] := by decide +kernel

theorem wit_regions : stackReached base 1 2 = true ∧ stackServed base.pkg.boot 2 = true ∧ (base.pkg.regions[(2 : Fin 8)]).pending = false ∧
    shadowOk (base.pkg.regions[(2 : Fin 8)]) = true ∧ oldGeneration base 2 = false ∧
    ((0 : W64).setWidth 16 - ((base.pkg.parts[(0 : Fin 8)]).lq[(0 : Fin 4)]).head).toNat ≤
      2 ^ bits ((base.pkg.parts[(0 : Fin 8)]).lq[(0 : Fin 4)]).base 3 0 ∧
    2 ≤ 2 ^ bits ((offered.pkg.parts[(0 : Fin 8)]).lq[(0 : Fin 4)]).base 3 0 ∧
    2 ^ bits ((offered.pkg.parts[(0 : Fin 8)]).lq[(0 : Fin 4)]).base 3 0 <
      ((5 : W64).setWidth 16 - ((offered.pkg.parts[(0 : Fin 8)]).lq[(0 : Fin 4)]).head).toNat ∧ offered.byMaster 1 0 = true ∧
    bits (5 : W64) 33 32 = 0 := by
  decide +kernel

/-! ### The world outside -/

/-- Stream 3 takes frames of one granule of channel 0. -/
def ingesting (g : Ingest) (claimed : BitVec 24) : State :=
  withSt base 3 { ring 6 1 2 8 with
    control := 6 + 16 + 2 * 256 + 4096, src := (Vector.replicate 6 0).set 0 32, claimed := claimed, ing := g }

theorem wit_ingest : ingestAt (ingesting ⟨false, false, 0, 0, 0, none⟩ 0) 0 = some (0, 3) ∧
    ((ingesting ⟨false, false, 0, 0, 0, none⟩ 0).stream 3).frameLen = 1 ∧ ingestHeld (ingesting ⟨false, false, 0, 0, 0, none⟩ 0) 3 = false ∧
    1 ≤ (ingesting ⟨false, false, 0, 0, 0, none⟩ 0).roomStart 3 ∧ (ingesting ⟨false, false, 0, 0, 0, none⟩ 4).roomStart 3 < 1 ∧
    ((ingesting ⟨false, false, 0, 0, 0, none⟩ 4).stream 3).room < 1 ∧ ((ingesting ⟨false, false, 0, 0, 0, none⟩ 4).stream 3).policy ≠ 2 ∧
    ingestAt (ingesting ⟨true, true, 1, 0, 0, none⟩ 1) 0 = some (0, 3) ∧ ingestAt (ingesting ⟨false, true, 1, 0, 0, some 64⟩ 1) 0 = some (0, 3) := by decide +kernel

/-- The same under DROP_OLDEST, its ring full of frames that are committed or not; or held. -/
def ingestFull (committed : BitVec 24) (held : Bool) : State :=
  let s := ingesting ⟨false, false, 0, 0, 0, none⟩ 4
  withSt s 3 { s.stream 3 with control := 6 + 16 + 2 * 256 + 8192, committed := committed, fpend := held }

theorem wit_ingest_full : ingestAt (ingestFull 4 false) 0 = some (0, 3) ∧ ((ingestFull 4 false).stream 3).policy = 2 ∧
    (ingestFull 4 false).roomStart 3 < 1 ∧
    1 ≤ ((ingestFull 4 false).dropBy 3 ((ingestFull 4 false).streamStart 3).frameUnit 1).roomStart 3 ∧
    ((ingestFull 0 false).dropBy 3 ((ingestFull 0 false).streamStart 3).frameUnit 1).roomStart 3 < 1 ∧
    ingestAt (ingestFull 4 true) 0 = some (0, 3) ∧ ingestHeld (ingestFull 4 true) 3 = true := by decide +kernel

theorem wit_window : windowAllowed base 1 0x20000 64 = true ∧ windowWaits base 0x20000 = false ∧ windowAllowed base 2 0x20000 64 = false ∧
    base.mem.readCause (granulesOf (keysFrom 0x20000 64)) = none ∧ base.pkg.boot.state ≠ 10 := by decide +kernel

/-- A peer may reach a page of HBM. -/
def exporting : State := { base with pkg := { base.pkg with links := { base.pkg.links with
  slv := base.pkg.links.slv.set 2 { base.pkg.links.slv[(2 : Fin 8)] with up := true, expBase := 0x20000, expLen := 0x10000 } } } }

theorem wit_peer : exportKey exporting 2 64 8 = some 0x20040 ∧ windowWaits exporting 0x20040 = false ∧ 0x20040 % 64 = 0 ∧
    partialOf (keysFrom 0x20040 8) = [0x801] ∧ exporting.mem.readCause [0x801] = none := by decide +kernel

theorem wit_bring_up : State.reset.pkg.boot.state = 0 ∧ fwImageOk { base.pkg.boot with fwAddr := 0x1000000000000, fwLen := 0x10000 } = true ∧
    base.pkg.boot.fwBusy = false ∧ base.inService = true ∧ base.pkg.boot.bridge.getLsbD 15 = true ∧ base.pkg.boot.retired.getLsbD 15 = false ∧
    base.pkg.boot.retired ||| BitVec.ofNat 16 (2 ^ 15) ≠ base.pkg.boot.bridge ∧ (0x7FFF : W16) ||| BitVec.ofNat 16 (2 ^ 15) = base.pkg.boot.bridge := by
  decide +kernel

/-! ### Words written out from the encodings of 06_encoding.md, field by field -/

/-- What an A-set word written as a number decodes to. -/
def readA (w : Nat) (i : Instr) : Bool := match decodeABytes (leBytes 4 w) with | .ok j => j == i | .error _ => false

/-- What an E-set word and its literal decode to. -/
def readE (w l : Nat) (i : Instr) : Bool := match decodeEBytes (leBytes 8 w ++ leBytes 8 l) with | .ok j => j == i | .error _ => false

-- op, g, d, a, b, fn (R175, R181)
theorem test_decode_arithmetic : readA 0b000001_011_00100_00101_00110_00000001 (.sub ⟨3, 4, 5, 6⟩) = true ∧
    readA 0b000010_011_00100_00100_0000000001000 (.addi ⟨3, 4, 4, 8⟩) = true ∧
    readA 0b001100_000_00001_00010_000101_111111_0 (.bfx ⟨0, 1, 2, 5, 63⟩) = true ∧
    readA 0b001100_000_00001_00010_000101_111111_1 (.bfxS ⟨0, 1, 2, 5, 63⟩) = true := by decide +kernel

-- op, g, t, f, c, a, immediate (R175); op, g, d, a, b, n (R225)
theorem test_decode_predicates : readA 0b010001_000_001_010_1011_00100_11111111 (.cmpi 0 1 2 11 4 (-1)) = true ∧
    readA 0b001110_000_00001_00010_00011_00000_111 (.sel ⟨0, 1, 2, 3⟩ 7) = true := by decide +kernel

-- op, g, offset in words (R175); op, g, c or n, l (R176)
theorem test_decode_transfers : readA 0b010011_001_11111111111111111111110 (.b 1 (-2)) = true ∧
    readA 0b010110_000_00011_000000_011100000001 (.loop 0 3 0x701) = true ∧
    readA 0b010111_000_00000000000101_000000011 (.loopi 0 5 3) = true := by decide +kernel

-- op, g, d, a, size, offset (R175, R179)
theorem test_decode_memory : readA 0b011000_000_00001_00010_011_1111111111 (.ld ⟨0, 1, 2, 3, -1⟩) = true ∧
    readA 0b011101_000_00001_00010_00011_00001000 (.amoSwap ⟨0, 1, 2, 3⟩) = true ∧
    readA 0b011110_000_00001_00010_00011_00000000 (.cas ⟨0, 1, 2, 3⟩) = true := by decide +kernel

-- op, g, st, a, b, fn (R175, R256)
theorem test_decode_streams : readA 0b100000_000_00011_00001_00010_00000000 (.sOpen ⟨0, 3, 1, 2⟩) = true ∧
    readA 0b100101_000_00011_00001_00000_00000000 (.sClaim ⟨0, 3, 1⟩) = true ∧
    readA 0b101101_000_00011_00001_00000_0000_1111 (.sStat ⟨0, 3⟩ 1 15) = true ∧
    readA 0b101110_000_00000_00001_00000_00000000 (.xqPush 0 1) = true := by decide +kernel

theorem test_decode_engines_and_handles : readA 0b110000_000_00000_00001_00010_0000101_1 (.cpAsync ⟨0, 0, 1, 2⟩ 5 true) = true ∧
    readA 0b110111_000_00001_0_0010_00000_00001001 (.hGet 0 1 2 9) = true := by decide +kernel

-- op, g, d, a, fn, imm11 (R175, R181)
theorem test_decode_groups : readA 0b111001_000_00010_00001_00_100_00000000 (.syncAcq 0 2 1 4 0) = true ∧
    readA 0b111010_000_00000_00001_10_000_00000011 (.barExpect 0 1 3) = true ∧
    readA 0b111011_000_00000_00001_00_00000000000 (.taskSpawn 0 1) = true ∧
    readA 0b111100_000_00010_00001_01_00000000000 (.futFill ⟨0, 2, 1⟩) = true ∧
    readA 0b111101_000_00000_00000_01_0_0000000111 (.ttDone 0 7) = true ∧
    readA 0b111110_000_00_001_00001_00_00000_000010 (.skipTest 0 1 1 2) = true ∧
    readA 0b111110_000_00001_00000_10_00000010000 (.csrR 0 1 0x010) = true ∧
    readA 0b111111_000_00000_00000_10_00000000_111 (.trap 0 7) = true := by decide +kernel

-- op, g, nw, d, a, b, c, ty, fn, x (R183)
theorem test_decode_vector : readE 0b00000100_0010_0_00000001_00000010_10000100_00000001_00000_000000_00000000 0
      (.vfma ⟨2, false, 0x01, 0x02, 0x84, 0x01, 0, 0, 0⟩) = true ∧
    readE 0b00100000_0000_0_11100011_00000000_00000001_11111111_00000_001011_00000000 0
      (.vcmp ⟨0, false, 0xE3, 0, 1, 0xFF, 0, 11, 0⟩) = true ∧
    readE 0b00101000_0000_0_00000010_00000000_11111111_11111111_00010_000000_00000000 0
      (.vcvt ⟨0, false, 2, 0, 0xFF, 0xFF, 2, 0, 0⟩) = true ∧
    readE 0b00101011_0000_1_00000010_00000000_11111111_11111111_00000_000000_00000000 0
      (.vred ⟨0, true, 2, 0, 0xFF, 0xFF, 0, 0, 0⟩) = true ∧
    readE 0b00101101_0000_0_00000010_00000000_00000001_00000001_00000_000000_00000000 0
      (.vshuf ⟨0, false, 2, 0, 1, 1, 0, 0, 0⟩) = true := by decide +kernel

theorem test_decode_scalar : readE 0b00111000_0000_0_01100000_01100001_01100010_11111111_00100_000000_00000000 0
      (.sadd ⟨0, false, 0x60, 0x61, 0x62, 0xFF, 4, 0, 0⟩) = true ∧
    readE 0b11110000_0000_0_00000010_11111111_11111111_11111111_00000_000000_00000000 0x123456789ABCDEF0
      (.vli ⟨0, false, 2, 0xFF, 0xFF, 0xFF, 0, 0, 0⟩ 0x123456789ABCDEF0) = true ∧
    readE 0b01000010_0000_0_11111111_01100001_11111111_11111111_00000_000000_00000000 0
      (.yqPush ⟨0, false, 0xFF, 0x61, 0xFF, 0xFF, 0, 0, 0⟩) = true := by decide +kernel

theorem test_decode_control : readE 0b01001000_0000_0_11111111_11111111_11111111_11111111_00000_000000_00001000 0
      (.vallot ⟨0, false, 0xFF, 0xFF, 0xFF, 0xFF, 0, 0, 8⟩) = true ∧
    readE 0b01010011_0000_0_11111111_11111111_11111111_11111111_00000_000000_00000000 0
      (.ehalt ⟨0, false, 0xFF, 0xFF, 0xFF, 0xFF, 0, 0, 0⟩) = true := by decide +kernel

theorem test_decode_units : readE 0b01100001_0000_0_11000011_10000110_01100000_01100000_00010_000001_00000000 0
      (.mxDot ⟨0, false, 0xC3, 0x86, 0x60, 0x60, 2, 1, 0⟩) = true ∧
    readE 0b01110010_0000_0_11111111_10001000_01100010_11111111_00000_000000_00000000 0
      (.jAcc ⟨0, false, 0xFF, 0x88, 0x62, 0xFF, 0, 0, 0⟩) = true ∧
    readE 0b10000001_0000_0_11111111_10100100_01100000_11111111_00010_000000_00000010 0
      (.gSig ⟨0, false, 0xFF, 0xA4, 0x60, 0xFF, 2, 0, 2⟩) = true := by decide +kernel

/-- The refusals of R182 and R192: opcodes and functions that no instruction has. -/
theorem test_decode_refuses : ([0x00000000, 0x3C000000, 0x7C000000, 0xCC000000, 0x04000013, 0x74000009] : List Nat).all (fun w =>
      match decodeABytes (leBytes 4 w) with | .error c => c == 0x01 | .ok _ => false) = true ∧
    ([0x00, 0x0B, 0x1C, 0x23, 0x32, 0x3E, 0x43, 0x4C, 0x54, 0x65, 0x79, 0x86, 0x94, 0xEF, 0xF2, 0xFF] : List Nat).all (fun op =>
      match decodeE (op * 2 ^ 56) 0 with | .error c => c == 0x01 | .ok _ => false) = true := by decide +kernel

/-! ### Ill-formed instructions, one for each check -/

-- size code 7 (R179), a sign-extending store (R179), condition 12 (R178), a function that VSFU does not have (R193)
theorem test_unassigned_refused : ([.ld ⟨0, 1, 2, 7, 0⟩, .st ⟨0, 1, 2, 4, 0⟩, .cmp 0 1 2 12 3 4,
    .vsfu ⟨0, false, 2, 0, 0xFF, 0xFF, 0, 9, 0⟩] : List Instr).all (fun i => !i.wellFormed && staticCause i == some 0x01) = true := by
  decide +kernel

-- an fn bit and an x bit that VADD does not use, nw with a port as destination (R185)
theorem test_reserved_refused : ([.vadd ⟨0, false, 2, 0, 1, 0xFF, 0, 1, 0⟩, .vadd ⟨0, false, 2, 0, 1, 0xFF, 0, 0, 1⟩,
    .vadd ⟨0, true, 0x84, 0, 1, 0xFF, 0, 0, 0⟩] : List Instr).all (fun i => !i.wellFormed && staticCause i == some 0x02) = true := by
  decide +kernel

-- a reserved selector, an absent operand, a third operand that VADD does not take, a latch as destination (R184, R185)
theorem test_selectors_refused : ([.vadd ⟨0, false, 2, 0x50, 1, 0xFF, 0, 0, 0⟩, .vadd ⟨0, false, 2, 0xFF, 1, 0xFF, 0, 0, 0⟩,
    .vadd ⟨0, false, 2, 0, 1, 3, 0, 0, 0⟩, .vadd ⟨0, false, 0x40, 0, 1, 0xFF, 0, 0, 0⟩] : List Instr).all
      (fun i => !i.wellFormed && staticCause i == some 0x03) = true := by decide +kernel

theorem test_well_formed : ([.ld ⟨0, 1, 2, 6, 0⟩, .cmp 0 1 2 11 3 4, .vadd ⟨0, false, 2, 0, 1, 0xFF, 0, 0, 0⟩] : List Instr).all
    Instr.wellFormed = true := by decide +kernel

/-! ### Steps -/

-- wrap to 64 bits (R12, R220): all ones and 1
theorem test_add_wraps : goes (.add ⟨0, 1, 2, 3⟩) (withA [(2, -1), (3, 1), (1, 7)]) (fun t => (t.ctx .f).a[(1 : Fin 32)] == 0 && (t.ctx .f).pc == 4) = true := by
  decide +kernel

-- a division by zero gives all ones and the dividend (R220)
theorem test_divide_by_zero : goes (.divu ⟨0, 1, 2, 3⟩) (withA [(2, 9)]) (fun t => (t.ctx .f).a[(1 : Fin 32)] == -1) = true ∧
    goes (.remu ⟨0, 1, 2, 3⟩) (withA [(2, 9)]) (fun t => (t.ctx .f).a[(1 : Fin 32)] == 9) = true := by decide +kernel

-- the 18-bit immediate from bit 13 up, zero-extended (R222)
theorem test_lui : goes (.lui 0 1 0x20000) base (fun t => (t.ctx .f).a[(1 : Fin 32)] == 0x40000000) = true := by decide +kernel

-- TRAP 7 parks with cause 0x77 at its own PC (R250)
theorem test_trap : goes (.trap 0 7) base (fun t => (t.ctx .f).status == .parked 0x77 && (t.ctx .f).pc == 0) = true := by decide +kernel

end Sys2Proof.Tests
end

section
/-! SUPPORT. Which operation issues an instruction, what an exception leaves and files (R14, R418), where an instruction leaves
its context (R232), and what memory reads after a write (R3). -/

namespace Sys2Proof.Machine

/-! ### Which operation issues an instruction -/

/-- An outcome is that of the issue of an A-set instruction with some body. -/
def ApIssues (i : Instr) (g : Guard) (s : State) (o : Host.Outcome State Fault Refusal) : Prop :=
  ∃ body, o = apIssue i g s body

/-- An outcome is that of the issue of an E-set instruction with some body. -/
def EIssues (i : Instr) (s : State) (o : Host.Outcome State Fault Refusal) : Prop := ∃ body, o = eIssue i s body

theorem ApIssues.intro (i : Instr) (g : Guard) (s : State) (body : State → Except Stop (State × Flow)) :
    ApIssues i g s (apIssue i g s body) := ⟨body, rfl⟩
theorem apPure_issues (i : Instr) (g : Guard) (s : State) (f : State → State) : ApIssues i g s (apPure i g s f) := ⟨_, rfl⟩
theorem alu_issues (i : Instr) (f : RRR) (op : W64 → W64 → W64) (s : State) : ApIssues i f.g s (alu i f op s) :=
  apPure_issues ..
theorem alu1_issues (i : Instr) (f : RR) (op : W64 → W64) (s : State) : ApIssues i f.g s (alu1 i f op s) := apPure_issues ..
theorem aluImm_issues (i : Instr) (f : RI) (op : W64 → W64 → W64) (s : State) : ApIssues i f.g s (aluImm i f op s) :=
  apPure_issues ..
theorem aluSh_issues (i : Instr) (f : RSh) (op : W64 → Nat → W64) (s : State) : ApIssues i f.g s (aluSh i f op s) :=
  apPure_issues ..
theorem amo_issues (i : Instr) (f : RRR) (fn : Fin 9) (s : State) : ApIssues i f.g s (amo i f fn s) := ⟨_, rfl⟩
theorem apStream_issues (i : Instr) (g : Guard) (s : State) (body : State → Except Stop State) :
    ApIssues i g s (apStream i g s body) := ⟨_, rfl⟩
theorem apBar_issues (i : Instr) (g : Guard) (s : State) (f : State → Except Stop State) :
    ApIssues i g s (apBar i g s f) := ⟨_, rfl⟩

/-- Every A-set instruction but HALT, which adds what completes with it, is issued under its guard. -/
theorem exec_issues_ap {i : Instr} {g : Guard} (h : guardOf i = some g) (hh : ∀ n, i ≠ .halt n) (s : State) :
    ApIssues i g s (exec i s) := by
  cases i
  case halt n => exact absurd rfl (hh n)
  all_goals cases h
  all_goals dsimp only [exec]
  case add | sub | mul | mulh | mulhu | divu | remu | and | or | xor | shl | shr | sra | min | max | minu | maxu =>
    exact alu_issues ..
  case clz | popc => exact alu1_issues ..
  case addi | andi | ori | xori | muli => exact aluImm_issues ..
  case shli | shri | srai => exact aluSh_issues ..
  case amoAdd | amoAnd | amoOr | amoXor | amoMin | amoMax | amoMinu | amoMaxu | amoSwap => exact amo_issues ..
  case lui | madd | bfx | bfxS | bfi | sel | cmp | cmpi | plog | pref | yield | traceMark => exact apPure_issues ..
  case sOpen | sOpenH | sPat | sGo | sAddr | sData | sClaim | sCommit | sCommitEl | sCommitEnd | sCommitElEnd | sAwait | sRetire |
      sMark | sMarkRel | sRewind | sFork | sClose | sCloseW | sStat => exact apStream_issues ..
  case barArrive | barWait | barExpect => exact apBar_issues ..
  all_goals exact ApIssues.intro ..

theorem EIssues.intro (i : Instr) (s : State) (body : State → Except Stop (State × EFlow)) :
    EIssues i s (eIssue i s body) := ⟨body, rfl⟩
theorem eVec1_issues (i : Instr) (f : EF) (lat cls : Nat) (op : Lanes → Lanes) (s : State) :
    EIssues i s (eVec1 i f lat cls op s) := ⟨_, rfl⟩
theorem eVec2_issues (i : Instr) (f : EF) (lat cls : Nat) (op : Lanes → Lanes → Lanes) (s : State) :
    EIssues i s (eVec2 i f lat cls op s) := ⟨_, rfl⟩
theorem eVec3_issues (i : Instr) (f : EF) (lat cls : Nat) (op : Lanes → Lanes → Lanes → Lanes) (s : State) :
    EIssues i s (eVec3 i f lat cls op s) := ⟨_, rfl⟩
theorem eShift_issues (i : Instr) (f : EF) (op : W32 → Nat → W32) (s : State) : EIssues i s (eShift i f op s) := by
  unfold eShift
  split
  · exact eVec1_issues ..
  · exact eVec2_issues ..
theorem eSc2_issues (i : Instr) (f : EF) (lat cls : Nat) (op : W32 → W32 → W32) (s : State) :
    EIssues i s (eSc2 i f lat cls op s) := ⟨_, rfl⟩
theorem eRead_issues (i : Instr) (f : EF) (lat cls : Nat) (op : State → Except Stop (W32 × State)) (s : State) :
    EIssues i s (eRead i f lat cls op s) := ⟨_, rfl⟩
theorem gauzeRead_issues (i : Instr) (f : EF) (s : State) (op : State → GBlock → Except Stop (W32 × State)) :
    EIssues i s (gauzeRead i f s op) := eRead_issues ..
theorem eAct_issues (i : Instr) (s : State) (op : State → Except Stop State) : EIssues i s (eAct i s op) := ⟨_, rfl⟩

/-- Every E-set instruction is issued by E, but for ESTAGE, which takes no slot in a pipelined body, and EHALT, which adds what
completes with it. -/
theorem exec_issues_e {i : Instr} (h : i.isE = true) (hh : ∀ f, i ≠ .ehalt f) (hs : ∀ f, i ≠ .estage f) (s : State) :
    EIssues i s (exec i s) := by
  cases i
  case ehalt f => exact absurd rfl (hh f)
  case estage f => exact absurd rfl (hs f)
  all_goals cases h
  all_goals dsimp only [exec]
  case vabs | vneg | vsfu | vbcast | vmov => exact eVec1_issues ..
  case vadd | vsub | vmul | vmin | vmax | viadd | visub | vimul | vand | vor | vxor | vimin | vimax | vslideDn | vslideUp |
      vkeyPack | vkeyHash => exact eVec2_issues ..
  case vfma | vfms | vimad | vshuf => exact eVec3_issues ..
  case vshl | vshr | vsra => exact eShift_issues ..
  case sadd | smul => exact eSc2_issues ..
  case mpop | smov | sli | xqPop | ecsrR | jLook | jLookP | jStat => exact eRead_issues ..
  case gMapR | gMapStep | gMapTile => exact gauzeRead_issues ..
  case yqPush | vallot | vshrink | vpushm | vpopm | ecsrW | sDrop | wload | wloadSc | mxDot | mxDots | rndSet | mxWait | jCfg |
      jClear | jAcc | jMerge | jDrain | jDraino | jWait | gCfg | gSig | gReuse | gKeep | gMapW | gStep => exact eAct_issues ..
  all_goals exact EIssues.intro ..

/-! ### A record that is filed (R14, R418, R419) -/

/-- The record that the residency in focus hands to the device (R418). -/
def State.faultRec (s : State) (kind unit index : Nat) (pc : W32) (detail : W64) (t : Trap) (item : Item) : FaultRec where
  cause := t.cause
  kind := kind
  unit := unit
  entry := s.entry
  launch := s.r.bind.launch
  lcore := s.r.bind.lcore
  index := index
  pc := pc
  addr := t.addr
  detail := detail
  tick := s.tick
  cycle := s.cycle
  aux := t.aux
  item := item
  seq := none

/-- A record that is filed stands among those that wait. -/
theorem mem_fileRecord (a : FaultRec) (l : List FaultRec) : a ∈ fileRecord a l := by
  induction l with
  | nil => simp [fileRecord]
  | cons b l ih =>
    unfold fileRecord
    split
    · exact List.mem_cons_of_mem _ ih
    · exact List.mem_cons_self

/-- A partition reads what was last put in its place. -/
@[simp] theorem State.updPart_parts_same (s : State) (p : Fin 8) (f : Partition → Partition) :
    (s.updPart p f).pkg.parts[p] = f s.pkg.parts[p] := by simp [State.updPart]

theorem State.record_mem (s : State) (kind unit index : Nat) (pc : W32) (detail : W64) (t : Trap) (item : Item) :
    s.faultRec kind unit index pc detail t item ∈ (s.record kind unit index pc detail t item).part.faults := by
  show _ ∈ ((State.updPart _ _ _).pkg.parts[s.r.bind.part]).faults
  rw [State.updPart_parts_same]
  exact mem_fileRecord ..

/-- Filing a record changes the package alone. -/
theorem State.record_eq (s : State) (kind unit index : Nat) (pc : W32) (detail : W64) (t : Trap) (item : Item) :
    s.record kind unit index pc detail t item =
      { s with pkg := (s.record kind unit index pc detail t item).pkg } := rfl

/-- Counting a soft error changes the package alone. -/
theorem State.softError_eq (s : State) (c : Cause) : s.softError c = { s with pkg := (s.softError c).pkg } := by
  unfold State.softError
  split <;> rfl
@[simp] theorem State.softError_part (s : State) (c : Cause) : (s.softError c).part = s.part := by
  unfold State.softError
  split <;> rfl

/-! ### Taking an exception (R14) -/

/-- An exception of an AP context parks it, and changes nothing else but the package. -/
theorem State.park_eq (s : State) (c : ApId) (t : Trap) :
    s.park c t = { s.updCtx c (fun x => { x with status := .parked t.cause }) with pkg := (s.park c t).pkg } :=
  State.softError_eq ..

/-- The record that an exception of an AP context files. -/
theorem State.park_mem (s : State) (c : ApId) (t : Trap) :
    s.faultRec 0 (ctxNo c) 0xFF (s.ctx c).pc (BitVec.ofNat 64 (s.apWord c)) t (.ap c) ∈ (s.park c t).part.faults := by
  unfold State.park
  rw [State.softError_part]
  cases c
  · exact State.record_mem ..
  · exact State.record_mem ..

/-- The registers of a context that is parked are those it had. -/
theorem State.park_ctx (s : State) (c : ApId) (t : Trap) :
    (s.park c t).ctx c = { s.ctx c with status := .parked t.cause } := by
  rw [State.park_eq]
  cases c <;> rfl

@[simp] theorem State.park_ap (s : State) (c : ApId) (t : Trap) : (s.park c t).ap = s.ap := by
  rw [State.park_eq]
  exact State.updCtx_ap ..

@[simp] theorem State.park_memory (s : State) (c : ApId) (t : Trap) : (s.park c t).mem = s.mem := by
  rw [State.park_eq]
  exact State.updCtx_mem ..

/-- An exception in the slot of the issuing context leaves its place and its registers. -/
theorem State.slotted_park_place (s : State) (t : Trap) : (s.slotted.park s.ap t).place = s.place := by
  unfold State.place
  rw [State.park_ap, State.slotted_ap, State.park_ctx, State.slotted_ctx]
  rfl

theorem State.slotted_park_regs (s : State) (t : Trap) : s.allRegsKept (s.slotted.park s.ap t) := by
  refine ⟨fun n => ?_, fun n => ?_⟩
  · unfold State.areg
    rw [State.park_ap, State.slotted_ap, State.park_ctx, State.slotted_ctx]
    rfl
  · unfold State.apred
    rw [State.park_ap, State.slotted_ap, State.park_ctx, State.slotted_ctx]
    rfl

/-- An owned slot does not move the word at the PC. -/
theorem State.apWord_slot (s : State) (c : ApId) : (s.updCtx c ApCtx.slot).apWord c = s.apWord c := by cases c <;> rfl
@[simp] theorem State.slotted_apWord (s : State) : s.slotted.apWord s.ap = s.apWord s.ap := s.apWord_slot s.ap

/-- An owned slot changes nothing of what a record holds. -/
@[simp] theorem State.slotted_faultRec (s : State) (kind unit index : Nat) (pc : W32) (detail : W64) (t : Trap) (item : Item) :
    s.slotted.faultRec kind unit index pc detail t item = s.faultRec kind unit index pc detail t item := by
  simp [State.faultRec, State.slotted]

/-- An exception of context E parks it with empty latches, and changes nothing else but the package. -/
theorem State.parkE_eq (s : State) (t : Trap) :
    s.parkE t = { s.updE (fun e => { e with status := .parked t.cause, b := Vector.replicate 16 none, atSwitch := false }) with
      pkg := (s.parkE t).pkg } :=
  State.softError_eq ..

/-- The record that an exception of context E files. -/
theorem State.parkE_mem (s : State) (t : Trap) :
    s.faultRec 0 2 0xFF s.r.ep.pc s.eWord t .ep ∈ (s.parkE t).part.faults := by
  rw [State.parkE, State.softError_part]
  exact State.record_mem ..

theorem State.parkE_status (s : State) (t : Trap) : (s.parkE t).r.ep.status = .parked t.cause := by rw [State.parkE_eq]; rfl

/-- An instruction that nothing keeps from executing takes the exception that its body raises. -/
theorem apIssue_trap {i : Instr} {g : Guard} {s : State} {body : State → Except Stop (State × Flow)} {t : Trap}
    (h : s.apReady i g = true) (hb : body s.slotted = .error (.trap t)) :
    apIssue i g s body = .next (s.slotted.park s.ap t) := by
  simp only [State.apReady, State.settled, Bool.and_eq_true, beq_iff_eq, Bool.not_eq_true'] at h
  obtain ⟨⟨hc, hg⟩, hr⟩ := h
  rw [← State.slotted_apred] at hg
  unfold apIssue
  simp only [hc]
  rw [← State.slotted]
  simp only [hg, State.slotted_ap, hr, hb]
  rfl

/-! ### Where an instruction leaves its context (R232) -/

@[simp] theorem State.slotted_place (s : State) : s.slotted.place = s.place := by simp [State.place]
@[simp] theorem State.setA_place (s : State) (d : AReg) (v : W64) : (s.setA d v).place = s.place := by
  simp only [State.place, State.setA, State.updCtx_ap, State.ctx_updCtx, ApCtx.put]
  split <;> rfl
theorem State.pastIt_congr {s t : State} (h : t.place = s.place) : t.pastIt = s.pastIt := by
  simp only [State.place, Prod.mk.injEq] at h
  simp only [State.pastIt, State.apc, h.1, h.2]

/-- An instruction that completes in its slot leaves its context past itself. -/
theorem State.finish_next_place (s : State) (i : Instr) : (s.finish i .next).place = s.pastIt := by
  rw [State.finish_place]
  rfl

/-! ### Bytes in memory (R3) -/

@[simp] theorem length_leBytes (k n : Nat) : (leBytes k n).length = k := by
  induction k generalizing n with
  | zero => rfl
  | succ k ih => rw [leBytes, List.length_cons, ih]
theorem leNat_leBytes (k n : Nat) : leNat (leBytes k n) = n % 256 ^ k := by
  induction k generalizing n with
  | zero => simp [leBytes, leNat, Nat.mod_one]
  | succ k ih =>
    rw [leBytes, leNat, ih, BitVec.toNat_ofNat, show 256 ^ (k + 1) = 256 * 256 ^ k from Nat.pow_succ', Nat.mod_mul]

@[simp] theorem mem_keysFrom {k n x : Nat} : x ∈ keysFrom k n ↔ k ≤ x ∧ x < k + n := by
  simp only [keysFrom, List.mem_map, List.mem_range]
  exact ⟨by rintro ⟨i, hi, rfl⟩; omega, fun h => ⟨x - k, by omega, by omega⟩⟩
@[simp] theorem length_keysFrom (k n : Nat) : (keysFrom k n).length = n := by simp [keysFrom]
theorem nodup_keysFrom (k n : Nat) : (keysFrom k n).Nodup := List.nodup_range.map fun _ _ => Nat.add_left_cancel
theorem Memory.bytes_eq_gather (m : Memory) (k n : Nat) : m.bytes k n = m.gather (keysFrom k n) := by
  simp [Memory.bytes, Memory.gather, keysFrom]

/-- Memory holds the bytes just written from a key on. -/
theorem Memory.bytes_write {m : Memory} (h : m.wf = true) (k : Nat) {n : Nat} {bs : List Byte} (hl : bs.length = n) :
    (m.write (keysFrom k n) bs).bytes k n = bs := by
  rw [Memory.bytes_eq_gather, Memory.gather_write h (nodup_keysFrom ..) (by rw [length_keysFrom, hl])]

/-- A write leaves bytes that it does not reach. -/
theorem Memory.bytes_write_disjoint {m : Memory} {k n : Nat} {ks : List Nat} (bs : List Byte)
    (hd : ∀ x ∈ keysFrom k n, x ∉ ks) : (m.write ks bs).bytes k n = m.bytes k n := by
  simp only [Memory.bytes_eq_gather, Memory.gather]
  exact List.map_congr_left fun x hx => Memory.byte_write_ne bs (hd x hx)

/-- A word reads what was last written to it. -/
theorem Memory.word64_write {m : Memory} (h : m.wf = true) (k : Nat) (w : W64) :
    (m.write (keysFrom k 8) (leBytes 8 w.toNat)).word64 k = w := by
  rw [Memory.word64, Memory.bytes_write h k (length_leBytes ..), le64, List.drop_zero, List.take_of_length_le (by simp),
    leNat_leBytes, Nat.mod_eq_of_lt (show w.toNat < 256 ^ 8 from w.isLt), BitVec.ofNat_toNat, BitVec.setWidth_eq]

/-- What a write leaves alone. -/
theorem Memory.keptBut_write (m : Memory) (ks : List Nat) (bs : List Byte) : m.keptBut (m.write ks bs) ks :=
  fun _ hx => Memory.byte_write_ne bs hx
theorem Memory.keptBut.trans {m m' m'' : Memory} {ks ks' : List Nat} (h : m.keptBut m' ks) (h' : m'.keptBut m'' ks') :
    m.keptBut m'' (ks ++ ks') := fun x hx => by
  rw [List.mem_append, not_or] at hx
  rw [h' x hx.2, h x hx.1]

/-! ### Launches -/

theorem State.updLaunch_eq (s : State) (id : W32) (f : Launch → Launch) :
    s.updLaunch id f = { s with launches := s.launches.map fun l => if l.id = id then f l else l } := by
  simp only [State.updLaunch, beq_iff_eq]

end Sys2Proof.Machine
end

section
/-! PROOF. The causes of an instruction's own fields (R14, R197): O5. -/

namespace Sys2Proof.Machine

/-! ### A drained pipelined level begins its next run (R326) -/

theorem stageMasks_plain {p : Pipe} {n : Fin 16} (h : ¬(8 ≤ n.val ∧ n.val < 8 + p.stages)) (on : Bool) (m : Vector W64 16) :
    (stageMasks p on m)[n] = m[n] := by
  simp [stageMasks, h]

/-- What the refill of a drained level leaves: everything but the loop levels and their stage masks. -/
theorem EpCtx.refill_eq (e : EpCtx) : e.refill = { e with loops := e.refill.loops, m := e.refill.m } := by
  unfold EpCtx.refill
  split
  · split
    · dsimp only
      split <;> rfl
    · rfl
  · rfl

@[simp] theorem EpCtx.refill_pc (e : EpCtx) : e.refill.pc = e.pc := by rw [e.refill_eq]
@[simp] theorem EpCtx.refill_v (e : EpCtx) : e.refill.v = e.v := by rw [e.refill_eq]
@[simp] theorem EpCtx.refill_s (e : EpCtx) : e.refill.s = e.s := by rw [e.refill_eq]
@[simp] theorem EpCtx.refill_f (e : EpCtx) : e.refill.f = e.f := by rw [e.refill_eq]
@[simp] theorem EpCtx.refill_inflight (e : EpCtx) : e.refill.inflight = e.inflight := by rw [e.refill_eq]

/-- The refill neither opens nor ends a level. -/
theorem EpCtx.refill_loops_nil (e : EpCtx) : e.refill.loops = [] ↔ e.loops = [] := by
  unfold EpCtx.refill
  split
  · rename_i l ls hl
    split
    · dsimp only
      split <;> simp [hl]
    · rfl
  · rfl

/-- The masks after a refill: as before, or with the stage masks of a pipelined level in their places. -/
theorem EpCtx.refill_m (e : EpCtx) : e.refill.m = e.m ∨
    ∃ l ∈ e.loops, ∃ p, l.pipe = some p ∧ ∃ q : Pipe, q.stages = p.stages ∧ e.refill.m = stageMasks q true e.m := by
  unfold EpCtx.refill
  split
  · rename_i l ls hl
    split
    · rename_i p hp
      dsimp only
      split
      · exact .inr ⟨l, by simp [hl], p, hp, { p with base := p.stop, stop := l.count, exec := 0 }, rfl, rfl⟩
      · exact .inl rfl
    · exact .inl rfl
  · exact .inl rfl

/-- The refill changes stage masks alone. -/
theorem State.refill_plainMask {s : State} {n : Fin 16} (h : s.plainMask n) : s.r.ep.refill.m[n] = s.r.ep.m[n] := by
  obtain hm | ⟨l, hl, p, hp, q, hq, hm⟩ := s.r.ep.refill_m
  · rw [hm]
  · rw [hm]
    exact stageMasks_plain (hq ▸ h l hl p hp) ..

/-- The refill leaves the word at E's PC. -/
@[simp] theorem State.eWord_refill (s : State) : (s.updE EpCtx.refill).eWord = s.eWord := by
  have h := s.r.ep.refill_eq
  simp only [State.eWord, State.eWordAt, State.updE_r_ep, State.updE_r_bind, State.updE_mem, State.updE_free, State.entry,
    EpCtx.refill_loops_nil, ne_eq]
  rw [h]

/-! ### Causes of an instruction's own fields (R14, R197) -/

/-- An A-set instruction whose fields raise a cause parks its context, guarded off or not. -/
theorem exec_static_ap {i : Instr} {g : Guard} {c : Cause} (hg : guardOf i = some g) (hc : staticCause i = some c) (s : State) :
    exec i s = .next (s.slotted.park s.ap ⟨c, 0, 0⟩) := by
  have hh : ∀ n, i ≠ .halt n := by rintro n rfl; cases hc
  obtain ⟨body, hb⟩ := exec_issues_ap hg hh s
  rw [hb, apIssue_static hc]

/-- An EHALT whose issue parks E completes nothing. -/
theorem exec_ehalt_of_parked {f : EF} {s t : State} {c : Cause} (h : ∀ body, eIssue (.ehalt f) s body = .next t)
    (ht : t.r.ep.status = .parked c) : exec (.ehalt f) s = .next t := by
  dsimp only [exec, execEhalt]
  rw [h]
  simp [ht]

/-- No level that is not pipelined withholds an instruction (R325). -/
theorem State.withheld_of_not_piped {s : State} (h : s.r.ep.piped = false) : s.withheld = false := by
  unfold EpCtx.piped at h
  unfold State.withheld
  split
  · rename_i l ls hl
    rw [hl] at h
    split
    · rename_i p hp
      simp [hp] at h
    · rfl
  · rfl

/-- No format word decides about an ESTAGE. -/
theorem eCause_estage (s : State) (f : EF) : eCause s (.estage f) = staticCause (.estage f) := by
  unfold eCause
  cases staticCause (.estage f) <;> rfl

/-- An ESTAGE with a bad field raises its cause in every stage (log 112). -/
theorem exec_estage_cause {f : EF} {s : State} {c : Cause} (hc : eCause (s.updE EpCtx.refill) (.estage f) = some c) :
    exec (.estage f) s = .next ((s.updE EpCtx.refill).parkE ⟨c, 0, 0⟩) := by
  dsimp only [exec, execEstage]
  split
  · rw [eCause_estage] at hc
    rw [hc]
  · rename_i hp
    exact eIssue_cause (State.withheld_of_not_piped (by simpa using hp)) hc

/-- An E-set instruction whose fields raise a cause parks E, unless its stage withholds it. -/
theorem exec_cause_e {i : Instr} {c : Cause} {s : State} (hi : i.isE = true) (hc : eCause (s.updE EpCtx.refill) i = some c)
    (hw : (s.updE EpCtx.refill).withheld = false ∨ ∃ f, i = .estage f) :
    exec i s = .next ((s.updE EpCtx.refill).parkE ⟨c, 0, 0⟩) := by
  by_cases hs : ∃ f, i = .estage f
  · obtain ⟨f, rfl⟩ := hs
    exact exec_estage_cause hc
  · replace hw := hw.resolve_right hs
    by_cases hh : ∃ f, i = .ehalt f
    · obtain ⟨f, rfl⟩ := hh
      exact exec_ehalt_of_parked (fun _ => eIssue_cause hw hc) (State.parkE_status ..)
    · obtain ⟨body, hb⟩ := exec_issues_e hi (fun f h => hh ⟨f, h⟩) (fun f h => hs ⟨f, h⟩) s
      rw [hb, eIssue_cause hw hc]

/-- Settles O5: the issue of an instruction with a cause in its fields does nothing but take the exception (`exec_static_ap`,
`exec_cause_e`), and an exception only parks its context and files its record. -/
theorem fieldCausesPark : Obligations.FieldCausesPark := by
  unfold Obligations.FieldCausesPark
  refine ⟨fun i g c s hg hc => ?_, fun i c s u hi hu hc hw => ?_⟩
  · have hx := s.slotted.park_mem s.ap ⟨c, 0, 0⟩
    rw [State.slotted_faultRec, State.slotted_apWord, State.slotted_ctx, ApCtx.slot_pc] at hx
    refine ⟨_, _, exec_static_ap hg hc s, ?_, s.slotted_park_place _, s.slotted_park_regs _, ?_, hx, rfl, rfl, ?_, rfl, rfl,
      rfl, rfl, rfl, rfl, rfl, rfl⟩
    · rw [State.park_ctx]
    · rw [State.park_memory, State.slotted_mem]
    · cases s.ap <;> rfl
  · subst hu
    have ht := exec_cause_e hi hc hw
    have hx := (s.updE EpCtx.refill).parkE_mem ⟨c, 0, 0⟩
    have he := (s.updE EpCtx.refill).parkE_eq ⟨c, 0, 0⟩
    generalize (s.updE EpCtx.refill).parkE ⟨c, 0, 0⟩ = t at ht hx he
    obtain ⟨k, rfl⟩ : ∃ k, t = { (s.updE EpCtx.refill).updE (fun e =>
      { e with status := .parked c, b := Vector.replicate 16 none, atSwitch := false }) with pkg := k } := ⟨_, he⟩
    exact ⟨_, _, ht, rfl, s.r.ep.refill_pc, rfl, hx, rfl, rfl, rfl, rfl, rfl, rfl, rfl, s.r.ep.refill_pc, s.eWord_refill,
      rfl, rfl, rfl, rfl, rfl, rfl, rfl, s.r.ep.refill_inflight, s.r.ep.refill_v, s.r.ep.refill_s, s.r.ep.refill_f, rfl,
      fun n hn => State.refill_plainMask hn⟩

end Sys2Proof.Machine
end

section
/-! PROOF. The control registers of the access processor (R216 to R219): O38. -/

namespace Sys2Proof.Machine

/-! ### Control registers (R216 to R219) -/

/-- The fields of resid (R29). -/
theorem State.resid_eq (s : State) : s.resid = BitVec.ofNat 64 (s.entry % 2 + 2 * s.plan +
    (if s.r.start.beside.isSome || s.sibling.isSome then 2 ^ 3 else 0) + (if s.r.bind.frame then 2 ^ 4 else 0)) := by
  unfold State.resid resOf
  cases (s.r.start.beside.isSome || s.sibling.isSome) <;> cases s.r.bind.frame <;> simp [Nat.mul_comm]

/-- The fields of cap_core (R30). -/
theorem capCore_eq (b : Boot) : capCore b =
    if b.loaded then
      BitVec.ofNat 64 (b.clock.toNat + 2 ^ 16 * (if b.reduced then 96 else 192) + (if b.reduced then 2 ^ 24 else 0) +
        (if !b.reduced then 2 ^ 25 else 0) + (if !b.reduced then 2 ^ 26 else 0))
    else 0 := by
  unfold capCore
  cases b.reduced <;> simp

/-- fnum reads zero outside frame mode and before the first frame (R54). -/
theorem frameNumber_eq (frame begun : Bool) (n : Nat) : (if frame then BitVec.ofNat 64 (if begun then n else 0) else 0) =
    if frame = true ∧ begun = true then BitVec.ofNat 64 n else 0 := by
  cases frame <;> cases begun <;> rfl

/-- The words of the shared registers, by number. -/
theorem sharedCsr_eq (s : State) (n : Nat) : sharedCsr s n = s.sharedWord n := by
  unfold sharedCsr State.sharedWord
  simp only [State.resid_eq, capCore_eq, Nat.mul_comm s.r.bind.banks, frameNumber_eq, BitVec.ofNat_toNat]
  rfl

/-- The words of the registers that the issuing context reads, by number. -/
theorem apCsr_eq (s : State) (n : Nat) : apCsr s (s.ctx s.ap) n = s.apRegister n := by
  unfold apCsr State.apRegister
  dsimp only
  by_cases hl : 0x020 ≤ n ∧ n ≤ 0x025
  · rw [if_pos hl, if_pos ⟨hl.1, by omega⟩]
    unfold levelOf loopWord
    cases (s.ctx s.ap).loops.reverse[n - 0x020]? with
    | none => rfl
    | some e => simp [Nat.mul_comm]
  · have hl' : ¬(0x020 ≤ n ∧ n < 0x026) := fun h => hl ⟨h.1, by omega⟩
    rw [if_neg hl, if_neg hl', sharedCsr_eq]
    by_cases h0 : n = 0x026
    · subst h0; rfl
    by_cases h1 : n = 0x030
    · subst h1; rfl
    by_cases h2 : n = 0x031
    · subst h2; rfl
    by_cases h3 : n = 0x032
    · subst h3; rfl
    simp [h0, h1, h2, h3]

theorem State.sharedWord_updCtx (s : State) (c : ApId) (f : ApCtx → ApCtx) (n : Nat) :
    (s.updCtx c f).sharedWord n = s.sharedWord n := by cases c <;> rfl

/-- An owned slot changes no register that a context reads. -/
theorem State.slotted_apRegister (s : State) (n : Nat) : s.slotted.apRegister n = s.apRegister n := by
  have h := s.sharedWord_updCtx s.ap ApCtx.slot
  unfold State.apRegister
  rw [State.slotted_ap, State.slotted_ctx]
  simp only [State.slotted, h]
  rfl

/-- What the body of CSR.R and CSR.W finds under a number. -/
theorem apCsr_slotted (s : State) (n : Nat) : apCsr s.slotted (s.slotted.ctx s.slotted.ap) n = s.apRegister n := by
  rw [apCsr_eq, State.slotted_apRegister]

/-! ### The clearing writes of bovr (R166) -/

/-- Field j of a word of four 16-bit fields. -/
theorem bits_field (w : W64) (j : Fin 4) : bits w (16 * j.val + 15) (16 * j.val) = (w.extractLsb' (16 * j.val) 16).toNat := by
  rw [bits, fld, show 16 * j.val + 15 + 1 - 16 * j.val = 16 by omega, BitVec.extractLsb'_toNat, Nat.shiftRight_eq_div_pow]

/-- A mask of whole fields. -/
theorem fieldMask_field : ∀ (p : Fin 4 → Bool) (j : Fin 4),
    ((if p 0 then 0xFFFF else 0) ||| (if p 1 then 0xFFFF0000 else 0) ||| (if p 2 then 0xFFFF00000000 else 0) |||
      (if p 3 then 0xFFFF000000000000 else 0) : W64).extractLsb' (16 * j.val) 16 = if p j then BitVec.allOnes 16 else 0 := by
  decide

/-- The complement of a word, field by field. -/
theorem not_field (w : W64) (j : Fin 4) : (~~~w).extractLsb' (16 * j.val) 16 = ~~~(w.extractLsb' (16 * j.val) 16) := by
  ext i hi
  have : 16 * j.val + i < 64 := by omega
  simp [this]

/-- A write to bovr clears the fields whose pend bit is 1 in the value, and leaves the others. -/
theorem bovr_cleared (b v : W64) (j : Fin 4) : bits (b &&& ~~~bovrMask v) (16 * j.val + 15) (16 * j.val) =
    if bit v (16 * j.val + 15) = true then 0 else bits b (16 * j.val + 15) (16 * j.val) := by
  have hm : (bovrMask v).extractLsb' (16 * j.val) 16 = _ := fieldMask_field (fun k => bit v (16 * k.val + 15)) j
  rw [bits_field, bits_field, BitVec.extractLsb'_and, not_field, hm]
  split
  · rw [BitVec.not_allOnes, BitVec.and_zero, BitVec.toNat_zero]
  · show (b.extractLsb' (16 * j.val) 16 &&& BitVec.allOnes 16).toNat = _
    rw [BitVec.and_allOnes]

/-- bovr after a write of v to shared register n (R166). -/
def bovrAfter (n : Nat) (v b : W64) : W64 := if n = 0x010 then b &&& ~~~bovrMask v else b

/-- What a write of a shared register changes: bovr, and that only by its own number. -/
theorem writeShared_eq (s : State) (n : Nat) (v : W64) :
    writeShared s n v = s.updR fun r => { r with bovr := bovrAfter n v r.bovr } := by
  unfold writeShared bovrAfter
  split <;> rfl
@[simp] theorem writeShared_ap (s : State) (n : Nat) (v : W64) : (writeShared s n v).ap = s.ap := by rw [writeShared_eq]; rfl
@[simp] theorem writeShared_ctx (s : State) (n : Nat) (v : W64) (c : ApId) : (writeShared s n v).ctx c = s.ctx c := by
  rw [writeShared_eq]; rfl

/-- The fields of bovr after a write. -/
theorem bovrAfter_field (n : Nat) (v b : W64) (j : Fin 4) : bits (bovrAfter n v b) (16 * j.val + 15) (16 * j.val) =
    if n = 0x010 ∧ bit v (16 * j.val + 15) = true then 0 else bits b (16 * j.val + 15) (16 * j.val) := by
  unfold bovrAfter
  by_cases hn : n = 0x010
  · simp only [hn, if_true, bovr_cleared, true_and]
  · simp only [hn, if_false, false_and]

/-- What an instruction whose body changes bovr alone leaves: everything else. -/
theorem State.finish_onlyBovr (s : State) (i : Instr) (fl : Flow) (f : W64 → W64) (t : State)
    (ht : t = (s.slotted.updR fun r => { r with bovr := f r.bovr }).finish i fl) :
    t = (s.takeIssue t).updR fun r => { r with bovr := t.r.bovr } := by
  subst ht
  unfold State.takeIssue State.finish State.issued State.slotted
  cases h : s.ap <;> simp [State.updCtx, State.updR, State.move, State.ctx, h, TaskState.noting]

/-! ### CSR.R and CSR.W (R219) -/

/-- CSR.R and CSR.W of a number that is no register raise 0x09. -/
theorem exec_csr_unassigned {i : Instr} {g : Guard} {d a : AReg} {n : BitVec 11} {s : State}
    (hi : i = .csrR g d n ∨ i = .csrW g a n) (hr : s.apReady i g = true) (hn : s.apRegister n.toNat = none) :
    exec i s = .next (s.slotted.park s.ap ⟨0x09, 0, 0⟩) := by
  obtain rfl | rfl := hi
  · dsimp only [exec, execCsrR]
    apply apIssue_trap hr
    simp only [apCsr_slotted, hn, raise]
  · dsimp only [exec, execCsrW]
    apply apIssue_trap hr
    simp only [apCsr_slotted, hn, raise]

/-- CSR.R of a register reads its word. -/
theorem exec_csrR {g : Guard} {d : AReg} {n : BitVec 11} {s : State} {v : W64} (hr : s.apReady (.csrR g d n) g = true)
    (hv : s.apRegister n.toNat = some v) : exec (.csrR g d n) s = .next ((s.slotted.setA d v).finish (.csrR g d n) .next) := by
  dsimp only [exec, execCsrR]
  apply apIssue_ok hr
  simp only [apCsr_slotted, hv]

/-- CSR.W of a register writes the shared ones by their rule, and changes no other. -/
theorem exec_csrW {g : Guard} {a : AReg} {n : BitVec 11} {s : State} {v : W64} (hr : s.apReady (.csrW g a n) g = true)
    (hv : s.apRegister n.toNat = some v) :
    exec (.csrW g a n) s = .next ((writeShared s.slotted n.toNat (s.areg a)).finish (.csrW g a n) .next) := by
  dsimp only [exec, execCsrW]
  apply apIssue_ok hr
  simp only [apCsr_slotted, hv, State.slotted_areg]

/-- Settles O38: the body of CSR.R and CSR.W finds the register of `State.apRegister`, and only bovr takes a write. -/
theorem controlRegistersComplete : Obligations.ControlRegistersComplete := by
  unfold Obligations.ControlRegistersComplete
  refine ⟨fun i g d a n s hi hr hn => ?_, fun g d a n s v hv => ⟨fun hr => ?_, fun hr => ?_⟩⟩
  · refine ⟨_, exec_csr_unassigned hi hr hn, ?_, s.slotted_park_place _, s.slotted_park_regs _, ?_⟩
    · rw [State.park_ctx]
    · rw [State.park_memory, State.slotted_mem]
  · have hs : s.slotted.setA d v = s.updCtx s.ap fun c => c.slot.put d v := by simp [State.slotted, State.setA]
    refine ⟨_, exec_csrR hr hv, ?_, ⟨fun k hk => ?_, fun k => ?_⟩, ?_, ?_⟩
    · simp
    · simp only [State.finish_areg, State.areg_setA, State.slotted_areg, if_neg hk]
      split
      · rename_i h0; subst h0; rfl
      · rfl
    · simp
    · rw [State.finish_next_place]
      exact State.pastIt_congr (by simp)
    · rw [hs]
      exact State.finish_onlyCtx ..
  · have hw := writeShared_eq s.slotted n.toNat (s.areg a)
    refine ⟨_, exec_csrW hr hv, ⟨fun k => ?_, fun k => ?_⟩, ?_, fun j => ?_,
      State.finish_onlyBovr _ _ _ (bovrAfter n.toNat (s.areg a)) _ (by rw [hw])⟩
    · rw [State.finish_areg, State.areg, writeShared_ap, writeShared_ctx]
      exact s.slotted_areg k
    · rw [State.finish_apred, State.apred, writeShared_ap, writeShared_ctx]
      exact s.slotted_apred k
    · rw [State.finish_next_place]
      exact State.pastIt_congr (by simp [State.place])
    · rw [State.finish_r_bovr, hw, State.updR_r, bovrAfter_field, State.slotted, State.updCtx_r_bovr]

end Sys2Proof.Machine
end

section
/-! PROOF. Time, records, traces and the watchdog (R48 to R51, R246, R396, R418, R425, R435): O56. -/

namespace Sys2Proof.Machine

/-! ### Frames (R48 to R51) -/

theorem exec_frameTick {s : State} (h : (if s.pkg.boot.clock = 1200 then 12 else 32) ≤ s.subtick) :
    exec .frameTick s = .next { s with tick := s.tick + 1, subtick := 0 } := by
  dsimp only [exec, execFrameTick]
  exact if_neg (Nat.not_lt.2 h)

/-- Whether a launch is the one that a frame event names (R50). -/
def Launch.keepsFrames (launch : Nat) (x : Launch) : Bool := x.id.toNat == launch && x.frameMode && !x.finished

/-- The launch that a frame event names. -/
def State.frameLaunch (s : State) (launch : Nat) : Option Launch := s.launches.find? (Launch.keepsFrames launch)

/-- FRAME_START of frame 0 (R50). -/
theorem exec_frameStart_first {s : State} {l : Launch} (hl : s.frameLaunch l.id.toNat = some l) (hf : l.frames.fixed = true)
    (hb : l.frames.begun = false) (ht : l.frames.base ≤ s.tick.toNat) :
    exec (.frameStart l.id.toNat) s = .next (s.updFrames l.id fun f => { f with begun := true }) := by
  unfold State.frameLaunch Launch.keepsFrames at hl
  dsimp only [exec, execFrameStart]
  rw [hl]
  simp [hf, hb, ht]

/-- FRAME_START of the frame after a complete one (R50). -/
theorem exec_frameStart_next {s : State} {l : Launch} (hl : s.frameLaunch l.id.toNat = some l) (hf : l.frames.fixed = true)
    (hb : l.frames.begun = true) (hd : ∀ b ∈ l.frames.blocks, l.frames.num < b.frame)
    (ht : max (l.frames.base + l.frames.period) (l.frames.last + 1) ≤ s.tick.toNat) :
    exec (.frameStart l.id.toNat) s = .next (s.updFrames l.id fun f =>
      { f with num := f.num + 1, base := max (l.frames.base + l.frames.period) (l.frames.last + 1) }) := by
  have hn : l.frames.next = some (max (l.frames.base + l.frames.period) (l.frames.last + 1)) := by
    rw [Frames.next, if_pos (by simpa using hd)]
  unfold State.frameLaunch Launch.keepsFrames at hl
  dsimp only [exec, execFrameStart]
  rw [hl]
  simp only [hf, hb, hn, ht, Bool.not_true, Bool.false_eq_true, if_false, if_true]

/-- A launch with its frame state changed, if it has the id. -/
def Launch.reframed (id : W32) (f : Frames → Frames) (x : Launch) : Launch :=
  if x.id == id then { x with frames := f x.frames } else x
theorem Launch.keepsFrames_reframed (launch : Nat) (id : W32) (f : Frames → Frames) (x : Launch) :
    (x.reframed id f).keepsFrames launch = x.keepsFrames launch := by
  unfold Launch.reframed
  split <;> rfl

/-- A change of a launch's frame state keeps it the launch that its frame events name. -/
theorem State.frameLaunch_updFrames {s : State} {l : Launch} (hl : s.frameLaunch l.id.toNat = some l) (f : Frames → Frames) :
    (s.updFrames l.id f).frameLaunch l.id.toNat = some { l with frames := f l.frames } := by
  show (s.launches.map (Launch.reframed l.id f)).find? (Launch.keepsFrames l.id.toNat) = _
  rw [List.find?_map, show Launch.keepsFrames l.id.toNat ∘ Launch.reframed l.id f = Launch.keepsFrames l.id.toNat from
    funext fun x => Launch.keepsFrames_reframed .., ← State.frameLaunch, hl, Option.map_some, Launch.reframed,
    if_pos (beq_self_eq_true _)]

/-- The blocks of a launch after the release of block b at a tick (R50). -/
def Frames.released (f : Frames) (b tick : Nat) : Frames :=
  { f with blocks := f.blocks.mapIdx fun i x => if i = b && f.releases x tick then { x with released := true } else x }

theorem Frames.released_eq {f : Frames} {b tick : Nat} {x : Block} (hx : f.blocks[b]? = some x) (hr : f.releases x tick = true) :
    f.released b tick = { f with blocks := f.blocks.set b { x with released := true } } := by
  unfold Frames.released
  congr 1
  apply List.ext_getElem?
  intro i
  rw [List.getElem?_mapIdx, List.getElem?_set]
  by_cases hi : b = i
  · subst hi
    have hlt : b < f.blocks.length := (List.getElem?_eq_some_iff.1 hx).1
    simp only [hx, Option.map_some, decide_true, hr, Bool.and_self, if_true, hlt]
  · have : ¬i = b := fun h => hi h.symm
    simp [hi, this]

/-- BLOCK_RELEASE of a launch in frame mode (R50, R51). -/
theorem exec_blockRelease {s : State} {l : Launch} (hl : s.frameLaunch l.id.toNat = some l) (b : BitVec 10) :
    exec (.blockRelease l.id.toNat b) s = .next (s.updFrames l.id fun f => f.released b.toNat s.tick.toNat) := by
  unfold State.frameLaunch Launch.keepsFrames at hl
  dsimp only [exec, execBlockRelease]
  rw [hl]
  rfl

/-! ### Pins (R246) -/

/-- The pins that some changes name, bit by bit. -/
theorem pinsOf_getLsbD (l : List PinChange) (set : Bool) (j : Nat) :
    (pinsOf l set).getLsbD j = l.any fun c => (c.set == set) && c.pins.getLsbD j := by
  have hf : ∀ (l : List PinChange) (m : BitVec 8),
      (l.foldl (fun m c => m ||| c.pins) m).getLsbD j = (m.getLsbD j || l.any fun c => c.pins.getLsbD j) := by
    intro l
    induction l with
    | nil => simp
    | cons c l ih => intro m; simp [ih, Bool.or_assoc]
  rw [pinsOf, hf, List.any_filter]
  simp

/-! ### Completion and fault records (R396, R399, R418, R419) -/

theorem length_stamped {c : List Byte} (h : c.length = 32) (tick : W64) : (stamped c tick).length = 32 := by
  simp [stamped, h]
theorem length_faultBytes (p : Fin 8) (r : FaultRec) (seq : W64) : (faultBytes p r seq).length = 64 := by simp [faultBytes]

/-- COMPLETION_RECORD_WRITE while the ring has room (R396). -/
theorem exec_completionRecordWrite {s : State} {p : Fin 8} {x : Partition} {c : List Byte} {cs : List (List Byte)}
    (hx : x = s.pkg.parts[p]) (hc : x.completions = c :: cs) (hl : c.length = 32)
    (hr : (x.cr.tail - x.cr.head).toNat < x.ring x.cr.base 32)
    (hw : regionWaits s (ringKey x.cr.base 32 x.cr.tail.toNat) = false) :
    exec (.completionRecordWrite p) s = .next
      { s.setPart p { x with completions := cs, cr := { x.cr with tail := x.cr.tail + 1 } } with
        mem := s.mem.write (keysFrom (ringKey x.cr.base 32 x.cr.tail.toNat) 32) (stamped c s.tick) } := by
  subst hx
  dsimp only [exec, execCompletionRecordWrite]
  rw [hc]
  simp only [hr, hw, decide_true, Bool.not_false, Bool.and_self, if_true, State.devWrite, length_stamped hl]
  rfl

/-- Numbering the first record that waits numbers that one. -/
theorem mem_numberFirst {l : List FaultRec} {r : FaultRec} (h : l.find? (fun r => r.seq.isNone) = some r) (n : W64) :
    { r with seq := some n } ∈ numberFirst n l := by
  induction l with
  | nil => cases h
  | cons a l ih =>
    rw [List.find?_cons] at h
    unfold numberFirst
    cases ha : a.seq with
    | none =>
      simp only [ha, Option.isNone_none, Option.some.injEq] at h
      simp [h]
    | some q =>
      simp only [ha, Option.isNone_some] at h
      simp [ih h]
@[simp] theorem length_numberFirst (n : W64) (l : List FaultRec) : (numberFirst n l).length = l.length := by
  induction l with
  | nil => rfl
  | cons a l ih =>
    unfold numberFirst
    split
    · rw [List.length_cons, List.length_cons, ih]
    · rfl

/-- The memory after a fault record is posted with number n in the fault area at k (R417, R419). -/
def Memory.posted (m : Memory) (p : Fin 8) (r : FaultRec) (k : Nat) (n : W64) : Memory :=
  (m.write (keysFrom (k + 4096 + 64 * (n.toNat % 256)) 64) (faultBytes p r n)).write (keysFrom k 8) (leBytes 8 (n + 1).toNat)

/-- FAULT_RECORD_POST while the queue has room (R419). -/
theorem exec_faultRecordPost {s : State} {p : Fin 8} {x : Partition} {r : FaultRec} {n : W64} (hx : x = s.pkg.parts[p])
    (hr : x.faults.find? (fun r => r.seq.isNone) = some r) (he : x.record.isEmpty = false) (hw : regionWaits s x.fq = false)
    (hn : n = s.mem.word64 x.fq) (hq : (n - s.mem.word64 (x.fq + 8)).toNat < 256) :
    exec (.faultRecordPost p) s = .next
      { s.setPart p { x with faults := numberFirst n x.faults } with
        mem := s.mem.posted p r x.fq n
        launches := s.launches.map fun l => if l.id = r.launch then { l with faults := l.faults + 1 } else l } := by
  subst hx hn
  dsimp only [exec, execFaultRecordPost]
  rw [hr]
  simp only [he, hw, Bool.or_self, Bool.false_eq_true, if_false, hq, if_true, State.devWrite, length_faultBytes, length_leBytes]
  rw [State.updLaunch_eq]
  rfl

/-- What posting a record leaves in memory. -/
theorem Memory.posted_record {m : Memory} (h : m.wf = true) (p : Fin 8) (r : FaultRec) (k : Nat) (n : W64) :
    (m.posted p r k n).bytes (k + 4096 + 64 * (n.toNat % 256)) 64 = faultBytes p r n := by
  rw [Memory.posted, Memory.bytes_write_disjoint, Memory.bytes_write h _ (length_faultBytes ..)]
  intro x hx
  simp only [mem_keysFrom] at hx ⊢
  omega
theorem Memory.posted_tail {m : Memory} (h : m.wf = true) (p : Fin 8) (r : FaultRec) (k : Nat) (n : W64) :
    (m.posted p r k n).word64 k = n + 1 := Memory.word64_write (Memory.write_wf _ _ h) ..
theorem Memory.posted_kept (m : Memory) (p : Fin 8) (r : FaultRec) (k : Nat) (n : W64) :
    m.keptBut (m.posted p r k n) (keysFrom (k + 4096 + 64 * (n.toNat % 256)) 64 ++ keysFrom k 8) :=
  Memory.keptBut.trans (Memory.keptBut_write _ _ _) (Memory.keptBut_write _ _ _)

/-! ### Trace samples (R435, R436) -/

/-- A record that finds room is appended (R436). -/
theorem traceWrite_room {s : State} (rec_ : List Byte) (hl : s.r.watch.trace.lost = 0)
    (hr : (s.mem.word64 s.r.watch.trace.base.toNat - s.mem.word64 (s.r.watch.trace.base.toNat + 8)).toNat <
      2 ^ s.r.watch.trace.k - 4) : traceWrite s rec_ = traceAppend s rec_ := by
  simp only [traceWrite, hl, hr, if_true]

/-- TRACE_PC_SAMPLE of a traced context in its core cycle (R435). -/
theorem exec_tracePcSample {s : State} {c : Fin 3} (ht : s.r.traced = true) (hc : s.tracing 0 c.val = true)
    (hp : bits s.r.watch.trace.control 31 16 ≠ 0) (hn : s.now % bits s.r.watch.trace.control 31 16 = 0) :
    exec (.tracePcSample c) s = .next (traceWrite s (traceRecord 1 c.val 0 (pcAndCycles s c).1 (pcAndCycles s c).2)) := by
  dsimp only [exec, execTracePcSample]
  simp only [ht, hc, hn, ne_eq, hp, not_false_eq_true, decide_true, Bool.and_self, if_true]

/-- A context that is not traced gets no time stamp. -/
theorem timeStamp_off {s : State} {c : Fin 3} (h : s.tracing 2 c.val = false) : timeStamp s c = s := by simp [timeStamp, h]
theorem timeStamp_on {s : State} {c : Fin 3} (h : s.tracing 2 c.val = true) : timeStamp s c =
    traceWrite s (traceRecord 3 c.val 0 ((pcAndCycles s c).2.toNat % 2 ^ 32) s.tick) := by simp [timeStamp, h]

/-- Appending a record leaves the trace configuration. -/
theorem tracing_traceAppend (s : State) (rec_ : List Byte) (b c : Nat) :
    (traceAppend s rec_).tracing b c = s.tracing b c := rfl

/-- Where one context alone is traced, the time stamps of all contexts are its own, if that finds room. -/
theorem foldl_timeStamp {s : State} {c : Fin 3} {rec_ : List Byte} (h : ∀ k : Fin 3, s.tracing 2 k.val = decide (k = c))
    (hs : timeStamp s c = traceAppend s rec_) : (List.finRange 3).foldl timeStamp s = traceAppend s rec_ := by
  have before : ∀ k, k ≠ c → timeStamp s k = s := fun k hk => timeStamp_off (by rw [h, decide_eq_false hk])
  have after : ∀ k, k ≠ c → timeStamp (traceAppend s rec_) k = traceAppend s rec_ := fun k hk =>
    timeStamp_off (by rw [tracing_traceAppend, h, decide_eq_false hk])
  show timeStamp (timeStamp (timeStamp s 0) 1) 2 = _
  match c with
  | 0 => rw [hs, after 1 (by decide), after 2 (by decide)]
  | 1 => rw [before 0 (by decide), hs, after 2 (by decide)]
  | 2 => rw [before 0 (by decide), before 1 (by decide), hs]

/-- TRACE_TIME_STAMP in the first core cycle of a time-stamp period (R435). -/
theorem exec_traceTimeStamp {s : State} (ht : s.r.traced = true) (hp : bits s.r.watch.trace.control 63 32 ≠ 0)
    (hs : s.subtick = 0) (hn : s.tick.toNat % bits s.r.watch.trace.control 63 32 = 0) :
    exec .traceTimeStamp s = .next ((List.finRange 3).foldl timeStamp s) := by
  dsimp only [exec, execTraceTimeStamp]
  simp only [ht, hs, hn, ne_eq, hp, not_false_eq_true, decide_true, Bool.and_self, if_true]

/-! ### The watchdog (R425) -/

theorem exec_watchdog_moved {s : State} (hm : s.r.watch.moved = true) : exec .watchdogExpire s =
    .next (s.updWatch fun w => { w with moved := false, idle := 0, armed := true }) := by
  dsimp only [exec, execWatchdogExpire]
  rw [if_pos hm]

theorem exec_watchdog_unwatched {s : State} (hm : s.r.watch.moved = false) (hw : s.r.watched = false) :
    exec .watchdogExpire s = .next (s.updWatch fun w => { w with idle := 0 }) := by
  dsimp only [exec, execWatchdogExpire]
  simp only [hm, hw, Bool.false_eq_true, if_false, Bool.not_false, if_true]

/-- Ticks that the residency in focus has not moved for, this core cycle's own counted (R425). -/
def State.idleNow (s : State) : Nat := if s.subtick = 0 then s.r.watch.idle + 1 else s.r.watch.idle
/-- The limit of the watchdog of the die in focus (R425). -/
def State.watchLimit (s : State) : Nat := (s.pkg.fw.wdog[(Fin.ofNat 2 (dieOf s.entry))]).toNat

/-- Whether the watchdog of the residency in focus, if that stands still, expires in this core cycle (R425). -/
def State.watchEnds (s : State) : Bool := s.r.watch.armed && s.watchLimit ≠ 0 && s.watchLimit ≤ s.idleNow

theorem State.watchEnds_iff (s : State) : s.watchEnds = true ↔
    s.r.watch.armed = true ∧ s.watchLimit ≠ 0 ∧ s.watchLimit ≤ s.idleNow := by simp [State.watchEnds, and_assoc]

/-- A watchdog that does not expire counts on. -/
theorem exec_watchdog_waits {s : State} (hm : s.r.watch.moved = false) (hw : s.r.watched = true) (he : s.watchEnds = false) :
    exec .watchdogExpire s = .next (s.updWatch fun w => { w with idle := s.idleNow }) := by
  dsimp only [exec, execWatchdogExpire]
  simp only [hm, hw, Bool.false_eq_true, if_false, Bool.not_true]
  exact if_neg (ne_true_of_eq_false he)

/-- A watchdog that expires files its record, and is disarmed until the residency moves. -/
theorem exec_watchdog_expires {s : State} (hm : s.r.watch.moved = false) (hw : s.r.watched = true) (he : s.watchEnds = true) :
    exec .watchdogExpire s = .next
      ((s.updWatch fun w => { w with idle := s.idleNow, armed := false }).record 3 0xFF 0xFF 0 0 ⟨0x7A, 0, 0⟩ .whole) := by
  dsimp only [exec, execWatchdogExpire]
  simp only [hm, hw, Bool.false_eq_true, if_false, Bool.not_true]
  exact if_pos he

/-! ### Time and records together -/

/-- Settles O56: what each event does where its condition holds (the `exec_` lemmas above), and what that leaves in memory and
among the records. -/
theorem timeAndRecordsComplete : Obligations.TimeAndRecordsComplete := by
  unfold Obligations.TimeAndRecordsComplete
  refine ⟨fun s h => exec_frameTick h,
    fun s l hl => ⟨fun hf hb ht => exec_frameStart_first hl hf hb ht, ?_, ?_⟩, fun s => ?_,
    fun s p x hx => ⟨?_, ?_⟩, fun s c base ht hl hbase hroom => ⟨?_, ?_⟩, fun s n limit hn hlim => ⟨?_, ?_, ?_, ?_⟩⟩
  · rintro a hf hb hd rfl ht
    exact exec_frameStart_next hl hf hb hd ht
  · intro b x hx hb hn hr ht
    have hrel : l.frames.releases x s.tick.toNat = true := by simp [Frames.releases, hb, hn, hr, ht]
    refine ⟨_, exec_blockRelease hl b, rfl, ?_⟩
    rw [← Frames.released_eq hx hrel]
    exact State.frameLaunch_updFrames hl fun f => f.released b.toNat s.tick.toNat
  · refine ⟨_, rfl, fun j hj => ?_, rfl, rfl⟩
    simp only [BitVec.getLsbD_or, BitVec.getLsbD_and, BitVec.getLsbD_not, pinsOf_getLsbD, List.any_filter, hj, decide_true,
      Bool.true_and, beq_true, beq_false, Bool.and_assoc]
    exact Bool.or_comm ..
  · rintro c cs ks hc hlen hr hw rfl
    exact ⟨_, exec_completionRecordWrite hx hc hlen hr hw, rfl, Memory.keptBut_write _ _ _, rfl⟩
  · rintro r n k hm hr he hw hn hq rfl
    exact ⟨_, { x with faults := numberFirst n x.faults }, exec_faultRecordPost hx hr he hw hn hq, Memory.posted_record hm ..,
      Memory.posted_tail hm .., Memory.posted_kept _ _ _ _ _, mem_numberFirst hr n, length_numberFirst .., rfl⟩
  · intro hc hp hn
    subst hbase
    exact ⟨_, exec_tracePcSample ht hc hp hn, traceWrite_room _ hl hroom⟩
  · intro hc hp hs hn
    subst hbase
    have hon : s.tracing 2 c.val = true := by rw [hc c, decide_eq_true rfl]
    exact ⟨_, exec_traceTimeStamp ht hp hs hn, foldl_timeStamp hc ((timeStamp_on hon).trans (traceWrite_room _ hl hroom))⟩
  · exact fun hm => exec_watchdog_moved hm
  · exact fun hm hw => exec_watchdog_unwatched hm hw
  · subst hn hlim
    intro hm hw h
    refine exec_watchdog_waits hm hw (Bool.eq_false_iff.2 fun he => ?_)
    obtain ⟨ha, h0, hle⟩ := s.watchEnds_iff.1 he
    obtain hna | hz | hlt := h
    · rw [ha] at hna
      cases hna
    · exact h0 hz
    · exact Nat.not_lt.2 hle hlt
  · subst hn hlim
    intro hm hw ha h0 hle
    exact ⟨_, _, exec_watchdog_expires hm hw (s.watchEnds_iff.2 ⟨ha, h0, hle⟩), rfl, State.record_mem .., rfl, rfl, rfl,
      rfl, rfl, ⟨rfl, rfl, rfl⟩, rfl⟩

end Sys2Proof.Machine
end

section
/-! SUPPORT. The launch in focus after a change (R26), what an instruction leaves whose body keeps its context or changes launches
and memory alone (R232), and a granule that is written whole with its check value (R114). -/

namespace Sys2Proof.Machine

/-! ### The launch in focus -/

/-- A change of the launch in focus that keeps its id is read back. -/
theorem State.launch_updMine {s : State} (h : ∃ l ∈ s.launches, l.id = s.r.bind.launch) {f : Launch → Launch}
    (hf : ∀ l, (f l).id = l.id) : (s.updMine f).launch = f s.launch := by
  obtain ⟨l, hl⟩ : ∃ l, s.launches.find? (fun l => l.id == s.r.bind.launch) = some l := by
    rw [← Option.isSome_iff_exists, List.find?_isSome]
    simpa using h
  have hid : l.id = s.r.bind.launch := by simpa using List.find?_some hl
  have hp : ((fun l : Launch => l.id == s.r.bind.launch) ∘ fun l => if l.id == s.r.bind.launch then f l else l) =
      fun l => l.id == s.r.bind.launch := by
    funext l
    dsimp only [Function.comp]
    split
    · rw [hf]
    · rfl
  show ((s.launches.map fun l => if l.id == s.r.bind.launch then f l else l).find? fun l => l.id == s.r.bind.launch).getD _ = _
  rw [List.find?_map, hp, State.launch, hl]
  simp [hid]

/-- A launch that has groups is one that the package holds. -/
theorem State.holds_launch {s : State} {n : Nat} {x : Group} (h : s.group n = some x) :
    ∃ l ∈ s.launches, l.id = s.r.bind.launch := by
  by_contra hn
  have hl : s.launches.find? (fun l => l.id == s.r.bind.launch) = none := by
    rw [List.find?_eq_none]
    simpa using hn
  rw [State.group, State.launch, hl] at h
  cases h

/-- The issue of an instruction leaves the launch in focus. -/
@[simp] theorem State.finish_launch (s : State) (i : Instr) (fl : Flow) : (s.finish i fl).launch = s.launch := by
  simp [State.launch]
@[simp] theorem State.updMine_ctx (s : State) (f : Launch → Launch) (c : ApId) : (s.updMine f).ctx c = s.ctx c := by
  cases c <;> rfl
@[simp] theorem State.slotted_launch (s : State) : s.slotted.launch = s.launch := by simp [State.slotted]
@[simp] theorem State.slotted_r_bind (s : State) : s.slotted.r.bind = s.r.bind := by simp [State.slotted]
@[simp] theorem State.slotted_r_start (s : State) : s.slotted.r.start = s.r.start := by simp [State.slotted]
@[simp] theorem State.slotted_r_task (s : State) : s.slotted.r.task = s.r.task := by simp [State.slotted]
@[simp] theorem State.slotted_launches (s : State) : s.slotted.launches = s.launches := by simp [State.slotted]

/-! ### What an instruction leaves -/

/-- A body that keeps its context leaves every register and predicate. -/
theorem State.finish_allRegsKept {s u : State} (ha : u.ap = s.ap) (hc : u.ctx s.ap = s.slotted.ctx s.ap) (i : Instr) (fl : Flow) :
    s.allRegsKept (u.finish i fl) := by
  refine ⟨fun n => ?_, fun n => ?_⟩
  · rw [State.finish_areg, ← s.slotted_areg, State.areg, State.areg, ha, hc, State.slotted_ap]
  · rw [State.finish_apred, ← s.slotted_apred, State.apred, State.apred, ha, hc, State.slotted_ap]

/-- A body that keeps its context, in an instruction that completes in its slot, leaves it past that. -/
theorem State.finish_next_pastIt {s u : State} (ha : u.ap = s.ap) (hc : u.ctx s.ap = s.slotted.ctx s.ap) (i : Instr) :
    (u.finish i .next).place = s.pastIt := by
  rw [State.finish_next_place]
  apply State.pastIt_congr
  rw [← s.slotted_place, State.place, State.place, ha, hc, State.slotted_ap]

/-- A state with its memory and its launches changed. -/
def State.withLaunches (s : State) (m : Memory) (ls : List Launch) : State := { s with mem := m, launches := ls }

@[simp] theorem State.withLaunches_mem (s : State) (m : Memory) (ls : List Launch) : (s.withLaunches m ls).mem = m := rfl
@[simp] theorem State.withLaunches_launches (s : State) (m : Memory) (ls : List Launch) :
    (s.withLaunches m ls).launches = ls := rfl
@[simp] theorem State.withLaunches_r (s : State) (m : Memory) (ls : List Launch) : (s.withLaunches m ls).r = s.r := rfl
@[simp] theorem State.withLaunches_ap (s : State) (m : Memory) (ls : List Launch) : (s.withLaunches m ls).ap = s.ap := rfl
@[simp] theorem State.withLaunches_ctx (s : State) (m : Memory) (ls : List Launch) (c : ApId) :
    (s.withLaunches m ls).ctx c = s.ctx c := by cases c <;> rfl

theorem State.launch_withLaunches (s : State) (m : Memory) : (s.withLaunches m s.launches).launch = s.launch := rfl

/-- A change of the launch in focus changes launches alone. -/
theorem State.updMine_withLaunches (s : State) (m : Memory) (ls : List Launch) (f : Launch → Launch) :
    (s.withLaunches m ls).updMine f = s.withLaunches m ((s.withLaunches m ls).updMine f).launches := rfl

/-- A body that changes memory and launches leaves everything else. -/
theorem State.finish_onlyLaunches (s : State) (m : Memory) (ls : List Launch) (i : Instr) (fl : Flow) :
    s.onlyLaunches ((s.slotted.withLaunches m ls).finish i fl) := by
  unfold State.onlyLaunches State.takeIssue State.finish State.issued State.slotted State.withLaunches
  cases h : s.ap <;> simp [State.updCtx, State.updR, State.move, State.ctx, h, TaskState.noting]

/-- What a body that changes memory and launches leaves in all. -/
theorem State.finish_launches_kept {s u : State} {m : Memory} {ls : List Launch} (hu : u = s.slotted.withLaunches m ls)
    (i : Instr) :
    s.allRegsKept (u.finish i .next) ∧ (u.finish i .next).place = s.pastIt ∧ s.onlyLaunches (u.finish i .next) ∧
      (u.finish i .next).mem = m := by
  subst hu
  exact ⟨State.finish_allRegsKept (by simp) (by simp) .., State.finish_next_pastIt (by simp) (by simp) _,
    State.finish_onlyLaunches .., by simp⟩

/-- What a body that writes one register leaves of the others. -/
theorem State.finish_setA_regsKept (s : State) (d : AReg) (v : W64) (i : Instr) (fl : Flow) :
    s.regsKept ((s.slotted.setA d v).finish i fl) d := by
  refine ⟨fun k hk => ?_, fun k => ?_⟩
  · simp only [State.finish_areg, State.areg_setA, State.slotted_areg, if_neg hk]
    split
    · rename_i h0; subst h0; rfl
    · rfl
  · simp

/-- What a body that writes one register leaves: everything but its context. -/
theorem State.finish_setA_onlyCtx (s : State) (d : AReg) (v : W64) (i : Instr) (fl : Flow) :
    s.onlyCtx ((s.slotted.setA d v).finish i fl) := by
  have hs : s.slotted.setA d v = s.updCtx s.ap fun c => c.slot.put d v := by simp [State.slotted, State.setA]
  rw [hs]
  exact State.finish_onlyCtx ..

/-- What follows a part of a body that has succeeded. -/
theorem ok_bind {α β : Type} (x : α) (f : α → Except Stop β) : (Except.ok x >>= f) = f x := rfl

/-! ### A granule written whole (R112, R114) -/

theorem Memory.bytes_succ (m : Memory) (k n : Nat) : m.bytes k (n + 1) = m.byte k :: m.bytes (k + 1) n := by
  simp [Memory.bytes, List.range_succ_eq_map, Nat.add_comm, Nat.add_left_comm]

/-- Bytes written from a key on leave every byte outside them. -/
theorem Memory.byte_fill_ne (bs : List Byte) {m : Memory} {k x : Nat} (h : x ∉ keysFrom k bs.length) :
    (m.fill k bs).byte x = m.byte x := by
  induction bs generalizing m k with
  | nil => rfl
  | cons b bs ih =>
    simp only [mem_keysFrom, List.length_cons] at h
    rw [Memory.fill, ih (by rw [mem_keysFrom]; omega), Memory.byte_poke_ne _ (by omega)]

/-- Memory holds the bytes written from a key on. -/
theorem Memory.bytes_fill (bs : List Byte) {m : Memory} (h : m.wf = true) (k : Nat) :
    (m.fill k bs).bytes k bs.length = bs := by
  induction bs generalizing m k with
  | nil => rfl
  | cons b bs ih =>
    rw [List.length_cons, Memory.bytes_succ, Memory.fill, ih (Memory.poke_wf k b h),
      Memory.byte_fill_ne bs (by rw [mem_keysFrom]; omega), Memory.byte_poke h, if_pos rfl]

@[simp] theorem Memory.length_granule (m : Memory) (g : Nat) : (m.granule g).length = 64 := by
  simp [Memory.granule, Memory.bytes]

@[simp] theorem Memory.granule_setFull (m : Memory) (g : Nat) (b : Bool) (x : Nat) :
    (m.setFull g b).granule x = m.granule x := by simp [Memory.granule, Memory.bytes]
@[simp] theorem Memory.chkOf_setFull (m : Memory) (g : Nat) (b : Bool) (x : Nat) : (m.setFull g b).chkOf x = m.chkOf x := rfl

/-- A granule reads what it was written with. -/
theorem Memory.granule_writeGranule {m : Memory} (h : m.wf = true) (g : Nat) {bs : List Byte} (hl : bs.length = 64) (c : Check) :
    (m.writeGranule g bs c).granule g = bs := by
  show (m.fill (64 * g) (bs.take 64)).bytes (64 * g) 64 = bs
  rw [List.take_of_length_le (Nat.le_of_eq hl), ← hl]
  exact Memory.bytes_fill bs h _

/-- The check value beside a granule is the one that its producer supplied. -/
theorem Memory.chkOf_writeGranule {m : Memory} (h : m.wf = true) (g : Nat) (bs : List Byte) (c : Check) :
    (m.writeGranule g bs c).chkOf g = c := by
  have hw : ((m.fill (64 * g) (bs.take 64)).mend g).wf = true := Memory.mend_wf _ (Memory.fill_wf _ _ h)
  exact (kvGet_kvSet (f := Memory.blankChk _) (Memory.wf_iff.1 hw).2.2.1).trans (if_pos rfl)

/-- A granule written whole leaves every byte of the others. -/
theorem Memory.keptBut_writeGranule (m : Memory) (g : Nat) {bs : List Byte} (hl : bs.length = 64) (c : Check) :
    m.keptBut (m.writeGranule g bs c) (keysFrom (64 * g) 64) := fun x hx => by
  show (m.fill (64 * g) (bs.take 64)).byte x = m.byte x
  rw [List.take_of_length_le (Nat.le_of_eq hl)]
  exact Memory.byte_fill_ne bs (hl ▸ hx)

/-- The full/empty bit reads what was last written to it. -/
theorem Memory.isFull_setFull {m : Memory} (h : m.wf = true) (g : Nat) (b : Bool) : (m.setFull g b).isFull g = b :=
  (kvGet_kvSet (f := m.blankFull) (Memory.wf_iff.1 h).2.1).trans (if_pos rfl)

end Sys2Proof.Machine
end

section
/-! PROOF. Barriers: arrive, wait, expect (R26, R47, R163 to R165): O33. -/

namespace Sys2Proof.Machine

/-! ### Groups of the launch in focus (R44, R45) -/

@[simp] theorem State.slotted_group (s : State) (n : Nat) : s.slotted.group n = s.group n := by simp [State.group]
@[simp] theorem State.finish_group (s : State) (i : Instr) (fl : Flow) (n : Nat) : (s.finish i fl).group n = s.group n := by
  simp [State.group]
@[simp] theorem State.slotted_member (s : State) (n : Nat) : s.slotted.r.member n = s.r.member n := by simp [Residency.member]
@[simp] theorem State.slotted_groupSlot (s : State) (n : Nat) : s.slotted.r.groupSlot n = s.r.groupSlot n := by
  simp [Residency.groupSlot]

@[simp] theorem State.updGroup_mem (s : State) (n : Nat) (f : Group → Group) : (s.updGroup n f).mem = s.mem := rfl
@[simp] theorem State.updGroup_ap (s : State) (n : Nat) (f : Group → Group) : (s.updGroup n f).ap = s.ap := rfl
@[simp] theorem State.updGroup_ctx (s : State) (n : Nat) (f : Group → Group) (c : ApId) : (s.updGroup n f).ctx c = s.ctx c :=
  State.updMine_ctx ..

/-- A change of a group that keeps its number is read back. -/
theorem State.group_updGroup {s : State} {n : Nat} {x : Group} (hx : s.group n = some x) {f : Group → Group}
    (hf : ∀ y, (f y).num = y.num) : (s.updGroup n f).group n = some (f x) := by
  have hn : x.num = n := by simpa using List.find?_some hx
  have hp : ((fun y : Group => y.num == n) ∘ fun y => if y.num = n then f y else y) = fun y => y.num == n := by
    funext y
    dsimp only [Function.comp]
    split
    · rw [hf]
    · rfl
  have hl : (s.updGroup n f).launch.groups = s.launch.groups.map fun y => if y.num = n then f y else y := by
    unfold State.updGroup
    rw [State.launch_updMine (State.holds_launch hx)]
    exact fun _ => rfl
  rw [State.group, hl, List.find?_map, hp, ← State.group, hx, Option.map_some, if_pos hn]

/-! ### The end of a phase (R164, R165, log 49) -/

/-- Noting an overrun changes bovr alone. -/
theorem overrun_eq (g : Nat) (m : BarMember) (id : W32) (r : Residency) :
    overrun g m id r = { r with bovr := (overrun g m id r).bovr } := by
  unfold overrun
  split
  · split <;> rfl
  · rfl

/-- Noting the overruns of some members changes bovr alone. -/
theorem foldl_overrun_eq (g : Nat) (id : W32) (l : List BarMember) (r : Residency) :
    ∃ b, l.foldl (fun r m => overrun g m id r) r = { r with bovr := b } := by
  induction l generalizing r with
  | nil => exact ⟨r.bovr, rfl⟩
  | cons m l ih =>
    obtain ⟨b, hb⟩ := ih (overrun g m id r)
    exact ⟨b, by rw [List.foldl_cons, hb, overrun_eq]⟩

/-- A member's part of a group, with what is owed to it on its return where it is on no core (log 49). -/
def State.owing (s : State) (m : BarMember) : BarMember :=
  if s.stands m.core then m else { m with owed := m.owed + (m.recv - m.exp0).toNat }

/-- A residency after its members' overruns in a group have been noted: one that is saved takes none (log 49). -/
def Group.noting (x : Group) (g : Nat) (id : W32) (r : Residency) : Residency :=
  if r.stage == .held then r else x.members.foldl (fun r m => overrun g m id r) r

theorem Group.noting_eq (x : Group) (g : Nat) (id : W32) (r : Residency) : ∃ b, x.noting g id r = { r with bovr := b } := by
  unfold Group.noting
  split
  · exact ⟨r.bovr, rfl⟩
  · exact foldl_overrun_eq ..

/-- The end of a complete phase: overruns are noted, and the group goes on to its next phase. -/
theorem State.barrierEnd_done {s : State} {n : Nat} {x : Group} (hx : s.group n = some x) (hd : x.phaseDone = true) :
    s.barrierEnd n = { s with
        r := x.noting n s.r.bind.launch s.r
        others := s.others.map (x.noting n s.r.bind.launch) }.updGroup n fun y =>
      Group.advance { y with members := y.members.map s.owing } := by
  unfold State.barrierEnd
  rw [hx]
  dsimp only
  rw [if_pos hd]
  rfl

theorem State.barrierEnd_open {s : State} {n : Nat} {x : Group} (hx : s.group n = some x) (hd : x.phaseDone = false) :
    s.barrierEnd n = s := by
  unfold State.barrierEnd
  rw [hx]
  dsimp only
  rw [if_neg (by simp [hd])]

/-- The end of a phase changes launches and the words bovr of residencies alone. -/
theorem State.barrierEnd_eq (s : State) (n : Nat) :
    ∃ b os ls, s.barrierEnd n = { s with r := { s.r with bovr := b }, others := os, launches := ls } := by
  cases hx : s.group n with
  | none =>
    refine ⟨s.r.bovr, s.others, s.launches, ?_⟩
    unfold State.barrierEnd
    rw [hx]
  | some x =>
    cases hd : x.phaseDone with
    | false => exact ⟨s.r.bovr, s.others, s.launches, State.barrierEnd_open hx hd⟩
    | true =>
      obtain ⟨b, hb⟩ := x.noting_eq n s.r.bind.launch s.r
      exact ⟨b, _, _, by rw [State.barrierEnd_done hx hd, hb]; rfl⟩
theorem State.barrierCheck_eq (s : State) (n : Nat) :
    ∃ b os ls, s.barrierCheck n = { s with r := { s.r with bovr := b }, others := os, launches := ls } := by
  obtain ⟨b, os, ls, h⟩ := s.barrierEnd_eq n
  obtain ⟨b', os', ls', h'⟩ := (s.barrierEnd n).barrierEnd_eq n
  exact ⟨b', os', ls', by rw [State.barrierCheck, h', h]⟩

@[simp] theorem State.barrierCheck_mem (s : State) (n : Nat) : (s.barrierCheck n).mem = s.mem := by
  obtain ⟨_, _, _, h⟩ := s.barrierCheck_eq n
  rw [h]
@[simp] theorem State.barrierCheck_ap (s : State) (n : Nat) : (s.barrierCheck n).ap = s.ap := by
  obtain ⟨_, _, _, h⟩ := s.barrierCheck_eq n
  rw [h]
@[simp] theorem State.barrierCheck_ctx (s : State) (n : Nat) (c : ApId) : (s.barrierCheck n).ctx c = s.ctx c := by
  obtain ⟨_, _, _, h⟩ := s.barrierCheck_eq n
  rw [h]
  cases c <;> rfl

/-! ### A group but for what is owed to its members -/

/-- A member's part without what is owed to it. -/
def BarMember.unowed (m : BarMember) : BarMember := { m with owed := 0 }
/-- A group without what is owed to members on no core: what the phases of a barrier depend on (log 49). -/
def Group.unowed (x : Group) : Group := { x with members := x.members.map BarMember.unowed }
/-- A member's part when a phase ends: what `Group.advance` makes of each (R164). -/
def BarMember.advance (m : BarMember) : BarMember := { m with exp0 := m.exp1, exp1 := m.exp2, exp2 := 0, recv := 0 }

theorem Group.advance_members (x : Group) : x.advance.members = x.members.map BarMember.advance := rfl
theorem Group.phaseDone_unowed (x : Group) : x.unowed.phaseDone = x.phaseDone := by
  simp only [Group.phaseDone, Group.unowed, List.isEmpty_map, List.all_map]
  rfl
theorem Group.advance_unowed (x : Group) : x.unowed.advance = x.advance.unowed := by
  simp [Group.advance, Group.unowed, BarMember.unowed, Function.comp_def]
theorem Group.unowed_owing (s : State) (x : Group) : Group.unowed { x with members := x.members.map s.owing } = x.unowed := by
  have h : BarMember.unowed ∘ s.owing = BarMember.unowed := by
    funext m
    dsimp only [Function.comp, State.owing]
    split <;> rfl
  simp [Group.unowed, h]

/-- A group of which a complete phase has ended. -/
theorem State.group_barrierEnd {s : State} {n : Nat} {x : Group} (hx : s.group n = some x) (hd : x.phaseDone = true) :
    ∃ z, (s.barrierEnd n).group n = some z ∧ z.unowed = x.advance.unowed := by
  have hx' : ({ s with
      r := x.noting n s.r.bind.launch s.r
      others := s.others.map (x.noting n s.r.bind.launch) } : State).group n = some x := by
    obtain ⟨b, hb⟩ := x.noting_eq n s.r.bind.launch s.r
    rw [hb]
    exact hx
  rw [State.barrierEnd_done hx hd]
  refine ⟨_, State.group_updGroup hx' fun _ => rfl, ?_⟩
  rw [← Group.advance_unowed, Group.unowed_owing, Group.advance_unowed]

/-- A group of which a complete phase has ended, and the next where that was then complete too. -/
theorem State.group_barrierCheck {s : State} {n : Nat} {x : Group} (hx : s.group n = some x) (hd : x.phaseDone = true) :
    ∃ z, (s.barrierCheck n).group n = some z ∧
      z.unowed = (if x.advance.phaseDone then x.advance.advance else x.advance).unowed := by
  obtain ⟨y, hy, he⟩ := State.group_barrierEnd hx hd
  have hdone : y.phaseDone = x.advance.phaseDone := by rw [← y.phaseDone_unowed, he, Group.phaseDone_unowed]
  unfold State.barrierCheck
  rw [← hdone]
  cases hyd : y.phaseDone with
  | false => exact ⟨y, by rw [State.barrierEnd_open hy hyd, hy], he⟩
  | true =>
    obtain ⟨z, hz, hze⟩ := State.group_barrierEnd hy hyd
    exact ⟨z, hz, by rw [hze, ← Group.advance_unowed, he, Group.advance_unowed]; rfl⟩

/-- What two groups that differ only in what is owed share. -/
theorem Group.eq_of_unowed {x y : Group} (h : x.unowed = y.unowed) :
    x.phase = y.phase ∧ x.num = y.num ∧ x.master = y.master ∧
      x.members.map BarMember.unowed = y.members.map BarMember.unowed := by
  simp only [Group.unowed, Group.mk.injEq] at h
  obtain ⟨hnum, hmaster, hphase, -, hmembers⟩ := h
  exact ⟨hphase, hnum, hmaster, hmembers⟩
theorem BarMember.eq_of_unowed {a b : BarMember} (h : a.unowed = b.unowed) : a.core = b.core ∧ a.arrived = b.arrived ∧
    a.waited = b.waited ∧ a.recv = b.recv ∧ a.exp0 = b.exp0 ∧ a.exp1 = b.exp1 ∧ a.exp2 = b.exp2 := by
  simp only [BarMember.unowed, BarMember.mk.injEq] at h
  obtain ⟨hcore, harrived, hwaited, h0, h1, h2, hrecv, -⟩ := h
  exact ⟨hcore, harrived, hwaited, hrecv, h0, h1, h2⟩

/-- The parts that correspond in two groups that differ only in what is owed. -/
theorem Group.part_of_unowed {x y : Group} (h : x.unowed = y.unowed) {k : Nat} {b : BarMember} (hb : y.members[k]? = some b) :
    ∃ b', x.members[k]? = some b' ∧ b'.unowed = b.unowed := by
  obtain ⟨-, -, -, hm⟩ := Group.eq_of_unowed h
  have hk := congrArg (fun l => l[k]?) hm
  simp only [List.getElem?_map, hb] at hk
  exact Option.map_eq_some_iff.1 hk

/-- What the end of a phase leaves of a group and of its members' parts: expectations of later phases come one phase nearer. -/
theorem Group.advanced {y z : Group} (h : z.unowed = y.advance.unowed) :
    z.phase = y.phase + 1 ∧ z.num = y.num ∧ z.master = y.master ∧ z.members.length = y.members.length ∧
      ∀ (k : Nat) (b : BarMember), y.members[k]? = some b → ∃ b', z.members[k]? = some b' ∧
        b'.core = b.core ∧ b'.arrived = b.arrived ∧ b'.waited = b.waited ∧ b'.recv = 0 ∧
        b'.exp0 = b.exp1 ∧ b'.exp1 = b.exp2 ∧ b'.exp2 = 0 := by
  obtain ⟨hphase, hnum, hmaster, hm⟩ := Group.eq_of_unowed h
  refine ⟨hphase, hnum, hmaster, by simpa [Group.advance_members] using congrArg List.length hm, fun k b hb => ?_⟩
  obtain ⟨b', hb', he⟩ := Group.part_of_unowed h (k := k) (b := b.advance) (by simp [Group.advance_members, hb])
  exact ⟨b', hb', BarMember.eq_of_unowed he⟩

/-- What the end of one or two phases leaves of a group and of its members' parts. -/
theorem Group.ended {y z : Group} (h : z.unowed = (if y.advance.phaseDone then y.advance.advance else y.advance).unowed) :
    z.phase = y.phase + (if y.advance.phaseDone then 2 else 1) ∧ z.num = y.num ∧ z.master = y.master ∧
      z.members.length = y.members.length ∧
      ∀ (k : Nat) (b : BarMember), y.members[k]? = some b → ∃ b', z.members[k]? = some b' ∧
        b'.core = b.core ∧ b'.arrived = b.arrived ∧ b'.waited = b.waited ∧ b'.recv = 0 ∧
        (y.advance.phaseDone = false → b'.exp0 = b.exp1 ∧ b'.exp1 = b.exp2 ∧ b'.exp2 = 0) := by
  cases hd : y.advance.phaseDone with
  | false =>
    rw [hd] at h
    obtain ⟨hphase, hnum, hmaster, hlen, hparts⟩ := Group.advanced h
    refine ⟨hphase, hnum, hmaster, hlen, fun k b hb => ?_⟩
    obtain ⟨b', hb', hcore, harrived, hwaited, hrecv, hexp⟩ := hparts k b hb
    exact ⟨b', hb', hcore, harrived, hwaited, hrecv, fun _ => hexp⟩
  | true =>
    rw [hd] at h
    obtain ⟨hphase, hnum, hmaster, hlen, hparts⟩ := Group.advanced (y := y.advance) h
    refine ⟨hphase, hnum, hmaster, by simpa [Group.advance_members] using hlen, fun k b hb => ?_⟩
    obtain ⟨b', hb', hcore, harrived, hwaited, hrecv, -⟩ := hparts k b.advance (by simp [Group.advance_members, hb])
    exact ⟨b', hb', hcore, harrived, hwaited, hrecv, nofun⟩

/-! ### BAR.ARRIVE, BAR.WAIT and BAR.EXPECT (R163, R164, R287) -/

/-- A member's part when its core declares v bytes while a phase is the oldest: they are expected in the oldest phase at which it
has not arrived (R164). -/
def BarMember.expect (phase : Nat) (v : W64) (m : BarMember) : BarMember :=
  if m.arrived ≤ phase then { m with exp0 := m.exp0 + v }
  else if m.arrived = phase + 1 then { m with exp1 := m.exp1 + v }
  else { m with exp2 := m.exp2 + v }

section
variable {s : State} {n : Nat} {x : Group} {m : BarMember}

/-- BAR.ARRIVE of a member that is at most one phase ahead (R47, R163). -/
theorem barArrive_ok (hm : s.r.member n = true) (hx : s.group n = some x) (hp : x.part s.r.bind.lcore = some m)
    (ha : m.arrived ≤ x.phaseStart + 1) : barArrive s n = .ok ((s.updGroup n fun x =>
      x.updPart s.r.bind.lcore fun m => { m with arrived := m.arrived + 1 }).barrierCheck n) := by
  simp only [barArrive, need, await, hm, hx, hp, ha, decide_true, if_true]
  rfl

/-- BAR.WAIT of a member whose phase was complete at the start of the core cycle, without an overrun (R163, R165). -/
theorem barWait_ok {j : Nat} (hm : s.r.member n = true) (hx : s.group n = some x) (hp : x.part s.r.bind.lcore = some m)
    (hj : s.r.groupSlot n = some j) (hw : m.waited = m.arrived ∨ m.arrived ≤ x.phaseStart)
    (hb : bit s.r.start.bovr (16 * j + 15) = false) : barWait s n = .ok (s.updGroup n fun x =>
      x.updPart s.r.bind.lcore fun m => { m with waited := m.arrived }) := by
  have hw' : (m.waited == m.arrived || decide (m.arrived ≤ x.phaseStart)) = true := by simpa using hw
  simp only [barWait, need, await, hm, hx, hp, hj, hw', hb, Bool.not_false, if_true]
  rfl

/-- BAR.EXPECT of a member, of less than 2^32 bytes (R164). -/
theorem barExpect_ok {v : W64} (hm : s.r.member n = true) (hv : v.toNat < 2 ^ 32) :
    barExpect s n v = .ok (s.updGroup n fun x => x.updPart s.r.bind.lcore (BarMember.expect x.phase v)) := by
  simp only [barExpect, need, hm, hv, decide_true, if_true]
  show Except.ok _ = _
  congr 2
  funext x
  congr 1
  funext m
  unfold BarMember.expect
  by_cases h0 : m.arrived ≤ x.phase
  · rw [if_pos h0, Nat.sub_eq_zero_of_le h0]
    rfl
  · rw [if_neg h0]
    by_cases h1 : m.arrived = x.phase + 1
    · rw [if_pos h1, show m.arrived - x.phase = 1 by omega]
      rfl
    · obtain ⟨k, hk⟩ : ∃ k, m.arrived - x.phase = k + 2 := ⟨m.arrived - x.phase - 2, by omega⟩
      rw [if_neg h1, hk]
      rfl

end

/-- A barrier instruction that nothing keeps from executing does what its operation does. -/
theorem apBar_ok {i : Instr} {g : Guard} {s u : State} {f : State → Except Stop State} (hr : s.apReady i g = true)
    (hf : f s.slotted = .ok u) : apBar i g s f = .next (u.finish i .next) := by
  apply apIssue_ok hr
  rw [hf]
  rfl

/-- BAR.ARRIVE, BAR.WAIT and BAR.EXPECT do what their operations do in the state whose slot has passed. -/
theorem exec_barArrive {g : Guard} {n : BitVec 8} {s u : State} (hr : s.apReady (.barArrive g n) g = true)
    (h : barArrive s.slotted n.toNat = .ok u) : exec (.barArrive g n) s = .next (u.finish (.barArrive g n) .next) := by
  dsimp only [exec, execBarArrive]
  exact apBar_ok hr h
theorem exec_barWait {g : Guard} {n : BitVec 8} {s u : State} (hr : s.apReady (.barWait g n) g = true)
    (h : barWait s.slotted n.toNat = .ok u) : exec (.barWait g n) s = .next (u.finish (.barWait g n) .next) := by
  dsimp only [exec, execBarWait]
  exact apBar_ok hr h
theorem exec_barExpect {g : Guard} {a : AReg} {n : BitVec 8} {s u : State} (hr : s.apReady (.barExpect g a n) g = true)
    (h : barExpect s.slotted n.toNat (s.areg a) = .ok u) :
    exec (.barExpect g a n) s = .next (u.finish (.barExpect g a n) .next) := by
  rw [← s.slotted_areg] at h
  dsimp only [exec, execBarExpect]
  exact apBar_ok hr h

/-- A change of one group changes launches alone. -/
theorem State.updGroup_eq (s : State) (n : Nat) (f : Group → Group) :
    s.updGroup n f = s.withLaunches s.mem (s.updGroup n f).launches := rfl

/-- Settles O33: an arrival leaves its context and ends what phases it completes (`State.group_barrierCheck`, `Group.ended`);
a wait and an expectation change the member's own part of the group alone. -/
theorem barriersComplete : Obligations.BarriersComplete := by
  unfold Obligations.BarriersComplete
  intro g a n s x m hm hx hp
  have hm' : s.slotted.r.member n.toNat = true := by rw [State.slotted_member, hm]
  have hx' : s.slotted.group n.toNat = some x := by rw [State.slotted_group, hx]
  have hp' : x.part s.slotted.r.bind.lcore = some m := by rw [State.slotted_r_bind, hp]
  rw [← State.slotted_r_bind]
  refine ⟨fun hr ha => ?_, fun j hr hj hw hb => ?_, fun hr hv => ?_⟩
  · have hy := State.group_updGroup hx' (f := fun x => x.updPart s.slotted.r.bind.lcore fun m =>
      { m with arrived := m.arrived + 1 }) fun _ => rfl
    refine ⟨_, _, exec_barArrive hr (barArrive_ok hm' hx' hp' ha), State.finish_allRegsKept (by simp) (by simp) ..,
      State.finish_next_pastIt (by simp) (by simp) _, by simp, rfl, fun hd => ?_, fun hd => ?_⟩
    · rw [State.finish_group, State.barrierCheck_of_open, hy]
      intro z hz
      rw [hy] at hz
      obtain rfl := Option.some.inj hz
      exact hd
    · obtain ⟨z, hz, he⟩ := State.group_barrierCheck hy hd
      exact ⟨z, by rw [State.finish_group, hz], Group.ended he⟩
  · obtain ⟨hregs, hplace, honly, hmem⟩ := State.finish_launches_kept (State.updGroup_eq s.slotted n.toNat fun x =>
      x.updPart s.slotted.r.bind.lcore fun m => { m with waited := m.arrived }) (.barWait g n)
    refine ⟨_, exec_barWait hr (barWait_ok hm' hx' hp' (by simpa using hj) hw (by simpa using hb)), hregs, hplace, honly,
      hmem.trans s.slotted_mem, ?_⟩
    rw [State.finish_group]
    exact State.group_updGroup hx' fun _ => rfl
  · obtain ⟨hregs, hplace, honly, hmem⟩ := State.finish_launches_kept (State.updGroup_eq s.slotted n.toNat fun x =>
      x.updPart s.slotted.r.bind.lcore (BarMember.expect x.phase (s.areg a))) (.barExpect g a n)
    refine ⟨_, exec_barExpect hr (barExpect_ok hm' hv), hregs, hplace, honly, hmem.trans s.slotted_mem, ?_⟩
    rw [State.finish_group]
    exact State.group_updGroup hx' fun _ => rfl

end Sys2Proof.Machine
end

section
/-! PROOF. Futures: read and fill (R26, R65, R292 to R294): O35. -/

namespace Sys2Proof.Machine

/-! ### Memory after a fill (R294) -/

/-- Memory after the future of key k has been filled from granule g, with its check value (R294). -/
def Memory.futureFilled (m : Memory) (k g : Nat) : Memory :=
  (m.writeGranule (k / 64) (m.granule g) (m.chkOf g)).setFull (k / 64) true

theorem Memory.granule_futureFilled {m : Memory} (h : m.wf = true) (k g : Nat) :
    (m.futureFilled k g).granule (k / 64) = m.granule g := by
  rw [Memory.futureFilled, Memory.granule_setFull, Memory.granule_writeGranule h _ (Memory.length_granule ..)]
theorem Memory.chkOf_futureFilled {m : Memory} (h : m.wf = true) (k g : Nat) :
    (m.futureFilled k g).chkOf (k / 64) = m.chkOf g := by
  rw [Memory.futureFilled, Memory.chkOf_setFull, Memory.chkOf_writeGranule h]
theorem Memory.isFull_futureFilled {m : Memory} (h : m.wf = true) (k g : Nat) :
    (m.futureFilled k g).isFull (k / 64) = true := by
  rw [Memory.futureFilled, Memory.isFull_setFull (Memory.writeGranule_wf _ _ _ h)]
theorem Memory.keptBut_futureFilled (m : Memory) (k g : Nat) :
    m.keptBut (m.futureFilled k g) (keysFrom (64 * (k / 64)) 64) := fun x hx => by
  rw [Memory.futureFilled, Memory.byte_setFull, Memory.keptBut_writeGranule _ _ (Memory.length_granule ..) _ x hx]

/-! ### FUT.READ and FUT.FILL (R292 to R294) -/

section
variable {f : RR} {s : State} {k id : Nat}

/-- FUT.READ of a future that was full at the start of the core cycle, where no task has had a side effect (R64, R65, R293). -/
theorem exec_futRead {w : Fin 8} (hk : futureKey s.slotted (s.areg f.a) = .ok (k, id))
    (hr : s.apReady (.futRead f w) f.g = true) (hm : s.r.bind.frame = false)
    (ht : s.ap = .f → s.r.task.inTask = true → s.r.task.sideEffect = false) (hf : s.mem.isFull (k / 64) = true)
    (hs : ∀ p ∈ s.launch.filled, p.1 ≠ id) (hc : s.mem.readCause [k / 64] = none) :
    exec (.futRead f w) s = .next ((s.slotted.setA f.d (s.mem.word64 (k + 8 * w.val))).finish (.futRead f w) .next) := by
  have hfull : futureFull s.slotted k id = true := by simpa [futureFull, hf] using hs
  have hside : ((s.ap == .f && s.r.task.inTask) && s.r.task.sideEffect) = false := by
    rw [Bool.eq_false_iff]
    intro h
    simp only [Bool.and_eq_true, beq_iff_eq] at h
    obtain ⟨⟨hap, hin⟩, hse⟩ := h
    rw [ht hap hin] at hse
    cases hse
  dsimp only [exec, execFutRead]
  apply apIssue_ok hr
  simp only [taskMode, need, State.slotted_r_bind, hm, State.slotted_areg, hk, State.slotted_ap, State.slotted_r_task, hside,
    Bool.not_false, if_true, ok_bind, hfull, State.slotted_mem, hc]
  rfl

/-- A launch in which core c has filled future id in this core cycle (R62, R65). -/
def Launch.noteFill (id c : Nat) (l : Launch) : Launch := { l with filled := l.filled ++ [(id, c)] }

theorem Launch.noteFill_id (id c : Nat) (l : Launch) : (Launch.noteFill id c l).id = l.id := rfl

/-- The state after core c has filled future id with the granule g, of key k (R65, R294). -/
def State.futureFilled (s : State) (k g id c : Nat) : State :=
  (s.withLaunches (s.mem.futureFilled k g) s.launches).updMine (Launch.noteFill id c)

/-- Filling a future changes memory and launches alone. -/
theorem State.futureFilled_eq (s : State) (k g id c : Nat) : s.futureFilled k g id c =
    s.withLaunches (s.mem.futureFilled k g) (s.futureFilled k g id c).launches := by
  unfold State.futureFilled
  exact State.updMine_withLaunches ..
theorem State.launch_futureFilled {s : State} (h : ∃ l ∈ s.launches, l.id = s.r.bind.launch) (k g id c : Nat) :
    (s.futureFilled k g id c).launch = Launch.noteFill id c s.launch := by
  unfold State.futureFilled
  rw [State.launch_updMine (by simpa using h) (Launch.noteFill_id id c), State.launch_withLaunches]

/-- FUT.FILL of an empty future from a local source (R294). -/
theorem exec_futFill {o : Nat} (hk : futureKey s.slotted (s.areg f.a) = .ok (k, id))
    (hr : s.apReady (.futFill f) f.g = true) (ho : localOffset s.slotted (s.areg f.d) 64 = some o) (ha : o % 64 = 0)
    (he : s.mem.isFull (k / 64) = false) (hb : s.mem.isBad (spadKey s.entry o / 64) = false) :
    exec (.futFill f) s = .next
      ((s.slotted.futureFilled k (spadKey s.entry o / 64) id s.r.bind.lcore).finish (.futFill f) .next) := by
  dsimp only [exec, execFutFill]
  apply apIssue_ok hr
  simp only [need, State.slotted_areg, hk, ho, ha, State.slotted_mem, State.slotted_entry, State.slotted_r_bind, he, hb,
    decide_true, Bool.not_false, if_true, ok_bind, State.futureFilled]
  rfl

end

/-- Settles O35: a read writes its register alone; a fill writes the future's granule and its full bit, and notes the fill with
the launch. -/
theorem futuresComplete : Obligations.FuturesComplete := by
  unfold Obligations.FuturesComplete
  intro f w s k id hk
  refine ⟨fun hr hm ht hf hs hc => ?_, fun o hr hw ho ha he hb => ?_⟩
  · refine ⟨_, exec_futRead hk hr hm ht hf hs hc, ?_, State.finish_setA_regsKept .., ?_, State.finish_setA_onlyCtx ..⟩
    · simp [Memory.word64]
    · rw [State.finish_next_place]
      exact State.pastIt_congr (by simp)
  · obtain ⟨hregs, hplace, honly, hmem⟩ := State.finish_launches_kept
      (State.futureFilled_eq s.slotted k (spadKey s.entry o / 64) id s.r.bind.lcore) (.futFill f)
    rw [s.slotted_mem] at hmem
    refine ⟨_, exec_futFill hk hr ho ha he hb, ?_, ?_, ?_, ?_, hregs, hplace, honly, fun h => ?_⟩
    · rw [hmem, Memory.granule_futureFilled hw]
    · rw [hmem, Memory.chkOf_futureFilled hw]
    · rw [hmem, Memory.isFull_futureFilled hw]
    · rw [hmem]
      exact Memory.keptBut_futureFilled _ _ _
    · rw [State.finish_launch, State.launch_futureFilled (by simpa using h), Launch.noteFill, s.slotted_launch]

end Sys2Proof.Machine
end

section
/-! PROOF. A step in a slot runs the instruction at the PC (R40, R173, R191, R298, R325): O4; the values of package reset: O6. -/

namespace Sys2Proof.Machine

/-! ### The instruction of a slot (R173, R191, R298) -/

/-- The turn of an AP context that may fetch is the instruction that the bytes at its PC decode to. -/
theorem apTurn_fetch {s : State} {c : ApId} {i : Instr} (hst : s.r.stage = .running) (hr : (s.ctx c).status = .running)
    (hn : (s.ctx c).pending = none) (hq : (s.ctx c).stopReq = false) (hw : (s.ctx c).wake ≤ s.now)
    (hlen : (s.ctx c).pc.toNat + 4 ≤ (s.r.section c).2)
    (hbad : s.mem.isBad (apimKey s.entry ((s.r.section c).1 + (s.ctx c).pc.toNat) / 64) = false)
    (hd : decodeABytes (s.mem.bytes (apimKey s.entry ((s.r.section c).1 + (s.ctx c).pc.toNat)) 4) = .ok i) :
    apTurn s c = .run i s := by
  have hw' : ¬ s.now < (s.ctx c).wake := Nat.not_lt.2 hw
  have hlen' : ¬ (s.r.section c).2 < (s.ctx c).pc.toNat + 4 := Nat.not_lt.2 hlen
  simp [apTurn, hst, hr, hn, hq, hw', hlen', hbad, hd]

theorem eight_le_wordLen (w : W64) : 8 ≤ wordLen w := by
  unfold wordLen
  split <;> decide

/-- The fetch of E gives the instruction that the words at its PC decode to, and the slot to it or past it. -/
theorem eFetch_ok {s t : State} {i : Instr} (hlen : s.r.ep.pc.toNat + wordLen s.eWord ≤ s.r.bind.epSize)
    (hbad : s.r.ep.buffered = true ∨
      (granulesOf (keysFrom (epimKey s.entry s.r.ep.pc.toNat) (wordLen s.eWord))).any s.mem.isBad = false)
    (hd : decodeE s.eWord.toNat (if wordLen s.eWord = 16 then (s.eWordAt (s.r.ep.pc.toNat + 8)).toNat else 0) = .ok i) :
    eFetch s t = .run i (if bits s.eWord 63 56 = 0x52 ∧ s.r.ep.refill.piped = true then s else t) := by
  have h8 := eight_le_wordLen s.eWord
  have hfirst : ¬ s.r.bind.epSize < s.r.ep.pc.toNat + 8 := by omega
  have hrest : ¬ s.r.bind.epSize < s.r.ep.pc.toNat + wordLen s.eWord := by omega
  have hread : (!s.r.ep.buffered &&
      (granulesOf (keysFrom (epimKey s.entry s.r.ep.pc.toNat) (wordLen s.eWord))).any s.mem.isBad) = false := by
    obtain h | h := hbad <;> rw [h]
    · rfl
    · exact Bool.and_false _
  unfold eFetch
  simp only [hfirst, hrest, hread, hd, decide_false, Bool.or_self, Bool.false_eq_true, if_false, Bool.and_eq_true,
    decide_eq_true_eq]

/-- The turn of context E, where nothing holds it up, is its fetch. -/
theorem epTurn_fetch {s t : State} (hst : s.r.stage = .running) (hr : s.r.ep.status = .running) (ho : s.r.ep.occupied = 0)
    (hq : s.r.ep.stopReq = false) : epTurn s t = eFetch s t := by
  simp [epTurn, Residency.reuseDue, hst, hr, ho, hq]

/-- Settles O4: the owner of the slot is the context whose turn it is, and nothing keeps it from its fetch. -/
theorem stepRunsTheDecodedInstruction : Obligations.StepRunsTheDecodedInstruction := by
  unfold Obligations.StepRunsTheDecodedInstruction
  refine fun s i hp hst => ⟨fun c hph hown hr hn hq hw hlen hbad hd => ?_, ?_⟩
  · have ht : apTurn { s with phase := .ep, ap := c } c = .run i { s with phase := .ep, ap := c } := by
      cases c <;> exact apTurn_fetch hst hr hn hq hw hlen hbad hd
    simp only [step, turnOf, hp, hph, hown, Bool.not_true, Bool.false_eq_true, if_false, ht]
  · rintro _ hph hown hr ho hq rfl hlen hbad hd
    simp only [step, turnOf, hp, hph, hown, Bool.not_true, Bool.false_eq_true, if_false, if_true, epTurn_fetch hst hr ho hq,
      eFetch_ok hlen hbad hd]

/-! ### Package reset (R388, R392, R400, R455) -/

@[simp] theorem Package.reset_parts (p : Fin 8) : Package.reset.parts[p] = .free := Vector.getElem_replicate _
@[simp] theorem Package.reset_slots (e : Fin 416) : Package.reset.slots[e] = .free := Vector.getElem_replicate _

/-- Settles O6: every partition and every slot-table entry is free at reset; the other values stand as given. -/
theorem resetValues : Obligations.ResetValues := by
  unfold Obligations.ResetValues
  refine ⟨rfl, rfl, rfl, rfl, rfl, rfl, rfl, rfl, rfl, rfl, fun p => ?_, fun e => ?_, rfl, rfl, rfl, rfl⟩
  · exact congrArg Partition.state (Package.reset_parts p)
  · exact congrArg Slot.state (Package.reset_slots e)

end Sys2Proof.Machine
end

section
/-! SUPPORT. What resolving an address changes (R105, R413). -/

namespace Sys2Proof.Machine

/-- A state with its memory and its TLBs changed. -/
def State.withTlb (s : State) (m : Memory) (ts : List TlbEntry) : State := { s with mem := m, pkg := { s.pkg with tlb := ts } }

@[simp] theorem State.withTlb_mem (s : State) (m : Memory) (ts : List TlbEntry) : (s.withTlb m ts).mem = m := rfl
@[simp] theorem State.withTlb_r (s : State) (m : Memory) (ts : List TlbEntry) : (s.withTlb m ts).r = s.r := rfl
@[simp] theorem State.withTlb_ap (s : State) (m : Memory) (ts : List TlbEntry) : (s.withTlb m ts).ap = s.ap := rfl
@[simp] theorem State.withTlb_launches (s : State) (m : Memory) (ts : List TlbEntry) :
    (s.withTlb m ts).launches = s.launches := rfl
@[simp] theorem State.withTlb_launch (s : State) (m : Memory) (ts : List TlbEntry) : (s.withTlb m ts).launch = s.launch := rfl
@[simp] theorem State.withTlb_part (s : State) (m : Memory) (ts : List TlbEntry) : (s.withTlb m ts).part = s.part := rfl

/-- A translation changes the TLBs alone. -/
theorem translateSpan_eq {s u : State} {va : W64} {n : Nat} {r w : Bool} {ks : List Nat}
    (h : translateSpan s va n r w = .ok (ks, u)) : u = s.withTlb s.mem u.pkg.tlb := by
  unfold translateSpan at h
  dsimp only at h
  split at h
  · cases h
  split at h
  · cases h
  split at h
  · split at h
    · cases h
    · cases h
      rfl
  split at h
  · cases h
  split at h
  · cases h
  split at h
  · cases h
  · cases h
    rfl

/-- Resolving an address changes the TLBs alone. -/
theorem resolve_eq {s u : State} {x : W64} {n : Nat} {r w : Bool} {ks : List Nat} (h : resolve s x n r w = .ok (ks, u)) :
    u = s.withTlb s.mem u.pkg.tlb := by
  unfold resolve at h
  split at h
  · cases h
  · cases h
    rfl
  · exact translateSpan_eq h

/-- What resolving an address leaves. -/
theorem resolve_kept {s u : State} {x : W64} {n : Nat} {r w : Bool} {ks : List Nat} (h : resolve s x n r w = .ok (ks, u)) :
    u.mem = s.mem ∧ u.r = s.r ∧ u.ap = s.ap ∧ u.launches = s.launches := by
  rw [resolve_eq h]
  exact ⟨rfl, rfl, rfl, rfl⟩

theorem State.ctx_congr {s u : State} (h : u.r = s.r) (c : ApId) : u.ctx c = s.ctx c := by
  cases c <;> simp only [State.ctx, h]
theorem State.launch_congr {s u : State} (hr : u.r = s.r) (hl : u.launches = s.launches) : u.launch = s.launch := by
  simp only [State.launch, hr, hl]

end Sys2Proof.Machine
end

section
/-! PROOF. Tasks: spawn, next and done (R56 to R62, R288 to R291): O34. -/

namespace Sys2Proof.Machine

/-! ### The record that F takes (R57, R290) -/

theorem ApCtx.loadTask_pred (c : ApCtx) (t : TaskRec) (n : Guard) : (c.loadTask t).pred n = c.pred n := rfl

/-- The affinity of a record goes to a1. -/
theorem ApCtx.loadTask_affinity (c : ApCtx) (t : TaskRec) : (c.loadTask t).get 1 = t.affinity := by
  simp [ApCtx.get, ApCtx.loadTask]

/-- The arguments of a record go to a2 to a7. -/
theorem ApCtx.loadTask_args (c : ApCtx) (t : TaskRec) (k : Fin 6) :
    (c.loadTask t).get (Fin.ofNat 32 (k.val + 2)) = t.args[k] := by
  match k with
  | 0 | 1 | 2 | 3 | 4 | 5 => simp [ApCtx.get, ApCtx.loadTask]

/-- A record leaves the other registers. -/
theorem ApCtx.loadTask_other (c : ApCtx) (t : TaskRec) {n : AReg} (hn : n = 0 ∨ 7 < n.val) :
    (c.loadTask t).get n = c.get n := by
  obtain rfl | hn := hn
  · rfl
  · have h (k : Nat) (hk : k ≤ 7) : k ≠ n.val := by omega
    simp only [ApCtx.get, ApCtx.loadTask, Fin.getElem_fin, Vector.getElem_set, h 1, h 2, h 3, h 4, h 5, h 6, h 7,
      Nat.reduceLeDiff, if_false]

/-- The note of a side effect that the issue of an instruction leaves (R64). -/
@[simp] theorem State.finish_r_task (s : State) (i : Instr) (fl : Flow) :
    (s.finish i fl).r.task = s.r.task.noting (sideEffecting i && s.ap == .f) := by
  simp only [State.finish, State.issued, State.updCtx_r_task, State.move_r_task, State.updR_r]
  rfl

/-! ### TASK.SPAWN, TASK.NEXT and TASK.DONE (R289 to R291) -/

/-- A launch with one more record spawned in this core cycle (R62). -/
def Launch.spawn (c : Nat) (t : TaskRec) (l : Launch) : Launch :=
  { l with spawned := l.spawned ++ [⟨c, t, .none⟩], outstanding := l.outstanding + 1 }
/-- A launch with one task fewer outstanding. -/
def Launch.endTask (l : Launch) : Launch := { l with outstanding := l.outstanding - 1 }

theorem Launch.spawn_id (c : Nat) (t : TaskRec) (l : Launch) : (l.spawn c t).id = l.id := rfl
theorem Launch.endTask_id (l : Launch) : l.endTask.id = l.id := rfl

/-- TASK.SPAWN of a record that finds room (R59, R289). -/
theorem exec_taskSpawn {g : Guard} {a : AReg} {s u : State} {ks : List Nat} {t : TaskRec} (hm : s.r.bind.frame = false)
    (hr : s.apReady (.taskSpawn g a) g = true) (ha : (s.areg a).toNat % 64 = 0)
    (hk : resolve s.slotted (s.areg a) 64 true false = .ok (ks, u)) (hp : (ks.any fun k => storeOf k == .peer) = false)
    (hc : u.mem.readCause (granulesOf (checkable ks)) = none) (ht : t = { taskOfBytes (u.mem.gather ks) with dep := 0 })
    (hroom : hasRoom u (placeOf u t.affinity u.r.bind.lcore) = true) :
    exec (.taskSpawn g a) s = .next
      ((u.updMine (Launch.spawn (placeOf u t.affinity u.r.bind.lcore) t)).finish (.taskSpawn g a) .next) := by
  subst ht
  dsimp only [exec, execTaskSpawn]
  apply apIssue_ok hr
  simp only [taskMode, need, State.slotted_r_bind, hm, State.slotted_areg, ha, hk, hp, hc, decide_true, Bool.not_false, if_true,
    ok_bind, hroom]
  rfl

/-- TASK.NEXT falls through where no task remains (R290). -/
theorem exec_taskNext_through {g : Guard} {s : State} (hm : s.r.bind.frame = false) (hr : s.apReady (.taskNext g) g = true)
    (hf : s.ap = .f) (ho : s.launch.outStart = 0) :
    exec (.taskNext g) s = .next ((s.updCtx s.ap ApCtx.slot).finish (.taskNext g) .next) := by
  dsimp only [exec, execTaskNext]
  apply apIssue_ok hr
  simp only [taskMode, need, State.slotted_r_bind, hm, State.slotted_ap, hf, State.slotted_launch, ho, Bool.not_false, if_true,
    ok_bind, beq_self_eq_true]
  rw [← hf]
  rfl

/-- The state in which F has taken the newest record of its deque, the rest being xs (R290). -/
def State.tookTask (s : State) (x : TaskRec) (xs : List TaskRec) : State := enterTask (s.updR fun r => { r with deque := xs }) x

@[simp] theorem State.tookTask_mem (s : State) (x : TaskRec) (xs : List TaskRec) : (s.tookTask x xs).mem = s.mem := rfl
@[simp] theorem State.tookTask_ap (s : State) (x : TaskRec) (xs : List TaskRec) : (s.tookTask x xs).ap = s.ap := rfl
@[simp] theorem State.tookTask_deque (s : State) (x : TaskRec) (xs : List TaskRec) : (s.tookTask x xs).r.deque = xs := rfl
theorem State.tookTask_ctx (s : State) (x : TaskRec) (xs : List TaskRec) :
    (s.tookTask x xs).ctx .f = (s.ctx .f).loadTask x := rfl
theorem State.tookTask_task (s : State) (x : TaskRec) (xs : List TaskRec) :
    (s.tookTask x xs).r.task = ⟨true, (s.ctx .f).pc, false, x, ((s.ctx .f).loadTask x).a, ((s.ctx .f).loadTask x).q, []⟩ := rfl

/-- TASK.NEXT pops the newest record of its own deque (R61, R290). -/
theorem exec_taskNext_pop {g : Guard} {s : State} {x : TaskRec} {xs : List TaskRec} (hm : s.r.bind.frame = false)
    (hr : s.apReady (.taskNext g) g = true) (hf : s.ap = .f) (ho : s.launch.outStart ≠ 0) (hd : s.r.deque = x :: xs)
    (hx : x.entry.toNat % 4 = 0) (hs : x.entry.toNat < s.r.bind.fetchSize) :
    exec (.taskNext g) s = .next ((s.slotted.tookTask x xs).finish (.taskNext g) (.call x.entry.toNat)) := by
  have hd' : s.slotted.r.deque = x :: xs := by simpa [State.slotted] using hd
  have hs' : ¬ (s.slotted.tookTask x xs).r.bind.fetchSize ≤ x.entry.toNat := by
    simpa [State.tookTask, enterTask] using hs
  dsimp only [exec, execTaskNext]
  apply apIssue_ok hr
  simp only [taskMode, need, State.slotted_r_bind, hm, State.slotted_ap, hf, State.slotted_launch, ho, hd', Bool.not_false,
    if_true, if_false, ok_bind, beq_self_eq_true, takeRecord]
  rw [← State.tookTask, if_neg (by simp [hx, hs'])]

/-- The state in which F has ended its task (R291). -/
def State.doneTask (s : State) : State :=
  (s.updR fun r => { r with task := { r.task with inTask := false } }).updMine Launch.endTask

@[simp] theorem State.doneTask_mem (s : State) : s.doneTask.mem = s.mem := rfl
@[simp] theorem State.doneTask_ap (s : State) : s.doneTask.ap = s.ap := rfl

/-- TASK.DONE in a task (R291). -/
theorem exec_taskDone {g : Guard} {s : State} (hm : s.r.bind.frame = false) (hr : s.apReady (.taskDone g) g = true)
    (hf : s.ap = .f) (ht : s.r.task.inTask = true) :
    exec (.taskDone g) s = .next (s.slotted.doneTask.finish (.taskDone g) (.call s.r.task.dispatch.toNat)) := by
  dsimp only [exec, execTaskDone]
  apply apIssue_ok hr
  simp only [taskMode, need, State.slotted_r_bind, hm, State.slotted_ap, hf, State.slotted_r_task, ht, Bool.not_false, if_true,
    ok_bind, beq_self_eq_true, Bool.and_self]
  rfl

/-- Settles O34: a spawn keeps its context and notes the record with the launch; TASK.NEXT falls through, or enters the record
that it pops; TASK.DONE goes back to the dispatch loop. -/
theorem tasksComplete : Obligations.TasksComplete := by
  unfold Obligations.TasksComplete
  intro g a s hm hl
  refine ⟨?_, fun hr hf ho => ?_, fun x xs hr hf ho hd hx hs => ?_, fun hr hf ht => ?_⟩
  · rintro ks u t hr ha hk hp hc ht hroom
    obtain ⟨hmem, hur, hap, hls⟩ := resolve_kept hk
    rw [s.slotted_mem] at hmem
    rw [s.slotted_ap] at hap
    have hbind : u.r.bind = s.r.bind := by rw [hur, s.slotted_r_bind]
    rw [← hmem] at ht ⊢
    rw [← hbind] at hroom ⊢
    replace hap (f : Launch → Launch) : (u.updMine f).ap = s.ap := hap
    have hctx (f : Launch → Launch) : (u.updMine f).ctx s.ap = s.slotted.ctx s.ap := by
      rw [State.updMine_ctx, State.ctx_congr hur]
    have hlaunch (c : Nat) (x : TaskRec) : (u.updMine (Launch.spawn c x)).launch = s.launch.spawn c x := by
      rw [State.launch_updMine (by simpa [hls, hbind] using hl) (Launch.spawn_id c x), State.launch_congr hur hls,
        s.slotted_launch]
    refine ⟨_, exec_taskSpawn hm hr ha hk hp hc ht hroom, ?_, ?_, ?_, ?_, ?_⟩
    · exact State.finish_allRegsKept (hap _) (hctx _) ..
    · exact State.finish_next_pastIt (hap _) (hctx _) _
    · rw [State.finish_mem, State.updMine_mem]
    · rw [State.finish_launch, hlaunch]
      rfl
    · rw [State.finish_launch, hlaunch]
      rfl
  · refine ⟨_, exec_taskNext_through hm hr hf ho, State.finish_allRegsKept (by simp) rfl .., ?_, State.finish_onlyCtx ..⟩
    exact State.finish_next_pastIt (by simp) rfl _
  · have hslot : s.slotted.ctx .f = (s.ctx s.ap).slot := by rw [← hf, State.slotted_ctx]
    have hctx : (s.slotted.tookTask x xs).ctx (s.slotted.tookTask x xs).ap = (s.ctx s.ap).slot.loadTask x := by
      rw [State.tookTask_ap, State.slotted_ap, hf, State.tookTask_ctx, hslot, hf]
    have htask := s.slotted.tookTask_task x xs
    have hreg (n : AReg) : ((s.slotted.tookTask x xs).finish (.taskNext g) (.call x.entry.toNat)).areg n =
        ((s.ctx s.ap).slot.loadTask x).get n := by rw [State.finish_areg, State.areg, hctx]
    refine ⟨_, exec_taskNext_pop hm hr hf ho hd hx hs, ?_, ?_, ?_, ?_, ?_, ?_, ?_, fun k => ?_, fun n hn => ?_, fun n => ?_, ?_⟩
    · rw [State.finish_r_deque, State.tookTask_deque]
    · rw [State.finish_place, hctx]
      simp [ApCtx.flow, ApCtx.loadTask]
    · rw [State.finish_r_task, htask]
      rfl
    · rw [State.finish_r_task, htask, hslot]
      rfl
    · rw [State.finish_r_task, htask]
      rfl
    · rw [State.finish_r_task, htask]
      rfl
    · rw [hreg, ApCtx.loadTask_affinity]
    · rw [hreg, ApCtx.loadTask_args]
    · rw [hreg, ApCtx.loadTask_other _ _ hn]
      rfl
    · rw [State.finish_apred, State.apred, hctx, ApCtx.loadTask_pred]
      rfl
    · rw [State.finish_mem, State.tookTask_mem, State.slotted_mem]
  · have hctx : ∀ c, s.slotted.doneTask.ctx c = s.slotted.ctx c := fun c => by cases c <;> rfl
    refine ⟨_, exec_taskDone hm hr hf ht, State.finish_allRegsKept (u := s.slotted.doneTask) s.slotted_ap (hctx _) ..,
      ?_, ?_, ?_, ?_⟩
    · rw [State.finish_place, State.doneTask_ap, hctx, s.slotted_ap, State.slotted_ctx]
      simp [ApCtx.flow]
    · rw [State.finish_r_task]
      rfl
    · rw [State.finish_launch, State.doneTask, State.launch_updMine (by simpa using hl) Launch.endTask_id]
      exact congrArg (fun l => l.outstanding - 1) s.slotted_launch
    · rw [State.finish_mem, State.doneTask_mem, State.slotted_mem]

end Sys2Proof.Machine
end

section
/-! PROOF. The timetable, slips, events and SKIP.TEST (R49, R51 to R53, R295, R296, R427): O36. -/

namespace Sys2Proof.Machine

@[simp] theorem State.setQ_place (s : State) (d : Guard) (v : Bool) : (s.setQ d v).place = s.place := by
  simp only [State.place, State.setQ, State.updCtx_ap, State.ctx_updCtx, ApCtx.putPred]
  split <;> rfl

@[simp] theorem State.finish_part (s : State) (i : Instr) (fl : Flow) : (s.finish i fl).part = s.part := by
  simp [State.part]

@[simp] theorem State.slotted_tick (s : State) : s.slotted.tick = s.tick := by simp [State.slotted]
@[simp] theorem State.slotted_cycle (s : State) : s.slotted.cycle = s.cycle := by simp [State.slotted]
@[simp] theorem State.slotted_part (s : State) : s.slotted.part = s.part := by simp [State.slotted]

/-! ### Blocks of the launch in focus (R49, R51) -/

/-- A launch with block b of its timetable changed. -/
def Launch.updBlock (b : Nat) (f : Block → Block) (l : Launch) : Launch :=
  { l with frames := { l.frames with blocks := l.frames.blocks.mapIdx fun i x => if i = b then f x else x } }
/-- A launch whose current frame has its latest TT.DONE at a tick (R51). -/
def Launch.doneAt (tick : Nat) (l : Launch) : Launch := { l with frames := { l.frames with last := tick } }
/-- A launch with one slip more (R52). -/
def Launch.slipped (l : Launch) : Launch := { l with frames := { l.frames with slips := l.frames.slips + 1 } }
/-- A launch with the slip records that wait. -/
def Launch.owing (d : List SlipDue) (l : Launch) : Launch := { l with slipsDue := d }

theorem Launch.updBlock_id (b : Nat) (f : Block → Block) (l : Launch) : (l.updBlock b f).id = l.id := rfl
theorem Launch.doneAt_id (tick : Nat) (l : Launch) : (l.doneAt tick).id = l.id := rfl
theorem Launch.slipped_id (l : Launch) : l.slipped.id = l.id := rfl
theorem Launch.owing_id (d : List SlipDue) (l : Launch) : (l.owing d).id = l.id := rfl

@[simp] theorem Launch.slipped_slipsDue (l : Launch) : l.slipped.slipsDue = l.slipsDue := rfl
@[simp] theorem Launch.owing_slipsDue (d : List SlipDue) (l : Launch) : (l.owing d).slipsDue = d := rfl

theorem Launch.getElem?_updBlock {l : Launch} {b : Nat} {x : Block} (h : l.frames.blocks[b]? = some x) (f : Block → Block) :
    (l.updBlock b f).frames.blocks[b]? = some (f x) := by
  simp [Launch.updBlock, h]

/-- A launch that has blocks is one that the package holds. -/
theorem State.holds_launch_of_block {s : State} {b : Nat} {x : Block} (h : s.launch.frames.blocks[b]? = some x) :
    ∃ l ∈ s.launches, l.id = s.r.bind.launch := by
  by_contra hn
  have hl : s.launches.find? (fun l => l.id == s.r.bind.launch) = none := by
    rw [List.find?_eq_none]
    simpa using hn
  rw [State.launch, hl] at h
  cases h

/-- The block that a timetable instruction names, where its own core runs that (R51). -/
theorem ttBlock_ok {s : State} {b : Nat} {x : Block} (hm : s.r.bind.frame = true) (hx : s.launch.frames.blocks[b]? = some x)
    (hc : x.core = s.r.bind.lcore) : ttBlock s b = .ok x := by
  simp only [ttBlock, need, hm, hx, hc, decide_true, if_true]
  rfl

/-! ### Slip records (R53) -/

/-- The write of a slip record changes memory and the TLBs alone. -/
theorem slipWrite_eq {s t : State} {e : Nat} {k : W64} {f : List Byte} (h : slipWrite s e k f = some t) :
    t = s.withTlb t.mem t.pkg.tlb := by
  unfold slipWrite at h
  dsimp only at h
  split at h
  · cases h
  · cases h
    rfl
  · rename_i ks u hu
    split at h
    · cases h
      rfl
    · cases h
      rw [translateSpan_eq hu]
      rfl

theorem writeSlips_nil (s : State) : writeSlips s [] = s.updMine (Launch.owing []) := rfl
theorem writeSlips_cons_some {s t : State} {x : SlipDue} (h : slipWrite s x.entry x.addr x.bytes = some t) (l : List SlipDue) :
    writeSlips s (x :: l) = writeSlips t l := by rw [writeSlips, h]
theorem writeSlips_cons_none {s : State} {x : SlipDue} (h : slipWrite s x.entry x.addr x.bytes = none) (l : List SlipDue) :
    writeSlips s (x :: l) = s.updMine (Launch.owing (x :: l)) := by
  rw [writeSlips, h]
  rfl

/-- Writing slip records changes memory, the TLBs and which records wait. -/
theorem writeSlips_eq (l : List SlipDue) (s : State) : ∃ m ts d,
    writeSlips s l = (s.withTlb m ts).updMine (Launch.owing d) := by
  induction l generalizing s with
  | nil => exact ⟨_, _, [], rfl⟩
  | cons x l ih =>
    cases h : slipWrite s x.entry x.addr x.bytes with
    | none => exact ⟨_, _, x :: l, writeSlips_cons_none h l⟩
    | some t =>
      obtain ⟨m, ts, d, hd⟩ := ih t
      refine ⟨m, ts, d, ?_⟩
      rw [writeSlips_cons_some h, hd, slipWrite_eq h]
      rfl

/-- The write of a slip record by the core in focus (R53, R409). -/
theorem slipWrite_ok {s u : State} {k : W64} {f : List Byte} {ks : List Nat}
    (h : translateSpan s k 16 false true = .ok (ks, u)) : slipWrite s s.entry k f =
      if s.mem.readCause (partialOf (checkable ks)) = none then
        some { u with mem := (s.mem.write ks f).bumped s.launch.compl.toNat }
      else some s := by
  have hu : u.mem = s.mem ∧ u.r = s.r := by rw [translateSpan_eq h]; exact ⟨rfl, rfl⟩
  obtain ⟨hmem, hur⟩ := hu
  unfold slipWrite
  have : (s.updR fun r => { r with bind := { r.bind with e := s.entry } }) = s := rfl
  rw [this]
  dsimp only
  rw [h]
  dsimp only
  rw [hmem]
  cases s.mem.readCause (partialOf (checkable ks)) with
  | none => 
    simp only [Option.isSome_none, Bool.false_eq_true, if_false, if_true, State.bump, State.devWrite, Memory.bumped, length_leBytes, ← hur]
  | some c => rfl
theorem slipWrite_trap {s : State} {k : W64} {f : List Byte} {y : Trap}
    (h : translateSpan s k 16 false true = .error (.trap y)) : slipWrite s s.entry k f = some s := by
  unfold slipWrite
  have : (s.updR fun r => { r with bind := { r.bind with e := s.entry } }) = s := rfl
  rw [this]
  dsimp only
  rw [h]
theorem slipWrite_block {s : State} {k : W64} {f : List Byte}
    (h : translateSpan s k 16 false true = .error .block) : slipWrite s s.entry k f = none := by
  unfold slipWrite
  have : (s.updR fun r => { r with bind := { r.bind with e := s.entry } }) = s := rfl
  rw [this]
  dsimp only
  rw [h]

/-! ### Events (R427) -/

theorem mem_fileEvent (a : Event) (l : List Event) : a ∈ fileEvent a l := by
  induction l with
  | nil => simp [fileEvent]
  | cons b l ih =>
    unfold fileEvent
    split
    · exact List.mem_cons_of_mem _ ih
    · exact List.mem_cons_self

/-- Noting an event changes the package alone. -/
theorem State.event_eq (s : State) (unit kind : Nat) (detail : W64) :
    s.event unit kind detail = { s with pkg := (s.event unit kind detail).pkg } := by
  unfold State.event
  split <;> rfl

/-- The event that a partition with a record notes. -/
theorem State.event_mem {s : State} (h : s.part.record ≠ []) (unit kind : Nat) (detail : W64) :
    ⟨s.cycle, s.entry, unit, kind, s.r.bind.lcore, s.r.bind.launch, detail⟩ ∈ (s.event unit kind detail).part.events := by
  unfold State.event
  rw [if_neg (by simpa using h)]
  show _ ∈ ((State.updPart _ _ _).pkg.parts[s.r.bind.part]).events
  rw [State.updPart_parts_same]
  exact mem_fileEvent ..

/-- An event that is put into the event area (R427). -/
theorem putEvent_mem (s : State) (p : Fin 8) (kind lcore : Nat) (launch : W32) (detail : W64) :
    (putEvent s p kind lcore launch detail).mem = s.mem.evented (s.pkg.parts[p]).evr
      (s.mem.word64 (s.pkg.parts[p]).evr).toNat p kind lcore launch s.tick detail := by
  simp only [putEvent, Memory.evented, State.devWrite, List.length_append, length_leBytes, BitVec.ofNat_toNat, BitVec.setWidth_eq]

@[simp] theorem State.devWrite_pkg (s : State) (k : Nat) (bs : List Byte) : (s.devWrite k bs).pkg = s.pkg := rfl
@[simp] theorem State.devWrite_tick (s : State) (k : Nat) (bs : List Byte) : (s.devWrite k bs).tick = s.tick := rfl
@[simp] theorem putEvent_pkg (s : State) (p : Fin 8) (kind lcore : Nat) (launch : W32) (detail : W64) :
    (putEvent s p kind lcore launch detail).pkg = s.pkg := by simp only [putEvent, State.devWrite_pkg]
@[simp] theorem putEvent_tick (s : State) (p : Fin 8) (kind lcore : Nat) (launch : W32) (detail : W64) :
    (putEvent s p kind lcore launch detail).tick = s.tick := by simp only [putEvent, State.devWrite_tick]

/-- The events of a partition that have not found room since the last event of kind 4, and the state of its event area
decide how an event is posted (R427). -/
theorem postEvent_room {p : Fin 8} {s : State} {e : Event} (hl : (s.pkg.parts[p]).eventsLost = 0)
    (hr : (s.mem.word64 (s.pkg.parts[p]).evr - s.mem.word64 ((s.pkg.parts[p]).evr + 8)).toNat < 1023) :
    postEvent p s e = putEvent s p e.kind e.lcore e.launch e.detail := by
  unfold postEvent
  dsimp only
  rw [if_pos (by rw [Bool.and_eq_true, decide_eq_true_eq, decide_eq_true_eq]; exact ⟨hl, hr⟩)]

theorem postEvent_after_loss {p : Fin 8} {s : State} {e : Event} (hl : (s.pkg.parts[p]).eventsLost ≠ 0)
    (hr : (s.mem.word64 (s.pkg.parts[p]).evr - s.mem.word64 ((s.pkg.parts[p]).evr + 8)).toNat + 2 ≤ 1023) :
    postEvent p s e = putEvent ((putEvent s p 4 0xFFFF 0 (s.pkg.parts[p]).eventsLost).updPart p
      fun x => { x with eventsLost := 0 }) p e.kind e.lcore e.launch e.detail := by
  unfold postEvent
  dsimp only
  rw [if_neg (by rw [Bool.and_eq_true, decide_eq_true_eq]; exact fun h => hl h.1),
    if_pos (by rw [Bool.and_eq_true, decide_eq_true_eq, decide_eq_true_eq]; exact ⟨hl, hr⟩)]

theorem postEvent_full {p : Fin 8} {s : State} {e : Event}
    (h : ((s.pkg.parts[p]).eventsLost = 0 ∧
        1023 ≤ (s.mem.word64 (s.pkg.parts[p]).evr - s.mem.word64 ((s.pkg.parts[p]).evr + 8)).toNat) ∨
      ((s.pkg.parts[p]).eventsLost ≠ 0 ∧
        1023 < (s.mem.word64 (s.pkg.parts[p]).evr - s.mem.word64 ((s.pkg.parts[p]).evr + 8)).toNat + 2)) :
    postEvent p s e = s.updPart p fun x => { x with eventsLost := x.eventsLost + 1 } := by
  unfold postEvent
  dsimp only
  simp only [Bool.and_eq_true, decide_eq_true_eq]
  obtain ⟨hl, hu⟩ | ⟨hl, hu⟩ := h
  · rw [if_neg fun h => Nat.not_lt.2 hu h.2, if_neg fun h => h.1 hl]
  · rw [if_neg fun h => hl h.1, if_neg fun h => Nat.not_le.2 hu h.2]

/-- The events of a core cycle are posted at its end, if no table is pending (R427). -/
theorem State.postEvents_one {s : State} {p : Fin 8} {e : Event} (he : (s.pkg.parts[p]).events = [e])
    (hw : regionWaits s (s.pkg.parts[p]).evr = false) :
    s.postEvents p = postEvent p (s.updPart p fun x => { x with events := [] }) e := by
  rw [State.postEvents, if_neg (ne_true_of_eq_false hw), he]
  rfl

/-- The posting of an event leaves those that wait. -/
theorem postEvent_events (p : Fin 8) (s : State) (e : Event) :
    ((postEvent p s e).pkg.parts[p]).events = (s.pkg.parts[p]).events := by
  unfold postEvent
  dsimp only
  split
  · rfl
  split
  · simp only [putEvent_pkg, State.updPart_parts_same]
  · rw [State.updPart_parts_same]

/-- What the posting of the one event of a core cycle leaves of the event area and of the count of lost events (R427). -/
theorem State.postEvents_outcomes {s : State} {p : Fin 8} {e : Event} {n used : Nat} (he : (s.pkg.parts[p]).events = [e])
    (hw : regionWaits s (s.pkg.parts[p]).evr = false) (hn : n = (s.mem.word64 (s.pkg.parts[p]).evr).toNat)
    (hused : used = (s.mem.word64 (s.pkg.parts[p]).evr - s.mem.word64 ((s.pkg.parts[p]).evr + 8)).toNat) :
    ((s.postEvents p).pkg.parts[p]).events = [] ∧
    ((s.pkg.parts[p]).eventsLost = 0 → used < 1023 →
      (s.postEvents p).mem = s.mem.evented (s.pkg.parts[p]).evr n p e.kind e.lcore e.launch s.tick e.detail ∧
      ((s.postEvents p).pkg.parts[p]).eventsLost = 0) ∧
    ((s.pkg.parts[p]).eventsLost ≠ 0 → used + 2 ≤ 1023 → ((s.postEvents p).pkg.parts[p]).eventsLost = 0 ∧
      ∃ m, m = s.mem.evented (s.pkg.parts[p]).evr n p 4 0xFFFF 0 s.tick (s.pkg.parts[p]).eventsLost ∧
        (s.postEvents p).mem = m.evented (s.pkg.parts[p]).evr (m.word64 (s.pkg.parts[p]).evr).toNat p e.kind e.lcore
          e.launch s.tick e.detail) ∧
    (((s.pkg.parts[p]).eventsLost = 0 ∧ 1023 ≤ used) ∨ ((s.pkg.parts[p]).eventsLost ≠ 0 ∧ 1023 < used + 2) →
      (s.postEvents p).mem = s.mem ∧ ((s.postEvents p).pkg.parts[p]).eventsLost = (s.pkg.parts[p]).eventsLost + 1) := by
  rw [State.postEvents_one he hw]
  have hparts : (s.updPart p fun x => { x with events := [] }).pkg.parts[p] = { s.pkg.parts[p] with events := [] } :=
    State.updPart_parts_same ..
  generalize hu : (s.updPart p fun x => { x with events := [] }) = u at hparts ⊢
  have hmem : u.mem = s.mem := by rw [← hu, State.updPart_mem]
  have htick : u.tick = s.tick := by rw [← hu, State.updPart_tick]
  have hevr : (u.pkg.parts[p]).evr = (s.pkg.parts[p]).evr := by rw [hparts]; rfl
  have hlost : (u.pkg.parts[p]).eventsLost = (s.pkg.parts[p]).eventsLost := by rw [hparts]
  rw [← hmem, ← hevr] at hused
  refine ⟨?_, fun h0 hr => ?_, fun h0 hr => ?_, fun h => ?_⟩
  · rw [postEvent_events, hparts]
  · rw [postEvent_room (hlost.trans h0) (hused ▸ hr), putEvent_mem, hmem, hevr, htick, hn]
    exact ⟨rfl, hlost.trans h0⟩
  · rw [postEvent_after_loss (fun h => h0 (hlost.symm.trans h)) (hused ▸ hr)]
    generalize hm : putEvent u p 4 0xFFFF 0 (u.pkg.parts[p]).eventsLost = m
    have hpkg : m.pkg = u.pkg := by rw [← hm, putEvent_pkg]
    refine ⟨?_, m.mem, ?_, ?_⟩
    · rw [putEvent_pkg, State.updPart_parts_same]
    · rw [← hm, putEvent_mem, hmem, hevr, hlost, htick, hn]
    · rw [putEvent_mem, State.updPart_mem, State.updPart_parts_same, State.updPart_tick, hpkg, ← hm, putEvent_tick, htick]
      rw [show ∀ y : Partition, ({ y with eventsLost := 0 } : Partition).evr = y.evr from fun _ => rfl, hevr]
  · rw [postEvent_full (by rw [hlost, ← hused]; exact h), State.updPart_mem, State.updPart_parts_same, hlost]
    exact ⟨hmem, rfl⟩

/-! ### TT.WAIT, TT.DONE and SKIP.TEST (R51, R52, R295, R296) -/

/-- A block for whose release its core has waited. -/
def Block.wait (x : Block) : Block := { x with waited := true }
/-- A block that its core has ended: it goes on to its next frame. -/
def Block.done (x : Block) : Block := { x with frame := x.frame + 1, waited := false, released := false }

/-- TT.WAIT of a block that is released (R51, R295). -/
theorem exec_ttWait {g : Guard} {b : BitVec 10} {s : State} {x : Block} (hm : s.r.bind.frame = true)
    (hx : s.launch.frames.blocks[b.toNat]? = some x) (hc : x.core = s.r.bind.lcore) (hr : s.apReady (.ttWait g b) g = true)
    (hw : x.waited = false) (hrel : x.released = true) :
    exec (.ttWait g b) s = .next ((s.slotted.updMine (Launch.updBlock b.toNat Block.wait)).finish (.ttWait g b) .next) := by
  dsimp only [exec, execTtWait]
  apply apIssue_ok hr
  rw [ttBlock_ok (by simpa using hm) (by simpa using hx) (by simpa using hc)]
  simp only [need, await, hw, hrel, Bool.not_false, if_true, ok_bind]
  rfl

/-- The end of a block at the tick of a state, with what its lateness leaves (R51, R52). -/
def State.endBlock (s : State) (b : Nat) : State :=
  (s.updMine (Launch.updBlock b Block.done)).updMine (Launch.doneAt s.tick.toNat)

/-- TT.DONE of a block that its core has waited for (R51, R52, R295). -/
theorem exec_ttDone {g : Guard} {b : BitVec 10} {s u : State} {x : Block} (hm : s.r.bind.frame = true)
    (hx : s.launch.frames.blocks[b.toNat]? = some x) (hc : x.core = s.r.bind.lcore) (hr : s.apReady (.ttDone g b) g = true)
    (hw : x.waited = true) (hu : u = if s.launch.frames.base + x.deadline < s.tick.toNat then
      slip s.slotted b.toNat x (s.launch.frames.base + x.deadline) else s.slotted) (ht : u.tick = s.tick) :
    exec (.ttDone g b) s = .next ((u.endBlock b.toNat).finish (.ttDone g b) .next) := by
  dsimp only [exec, execTtDone]
  apply apIssue_ok hr
  rw [ttBlock_ok (by simpa using hm) (by simpa using hx) (by simpa using hc)]
  simp only [need, hw, if_true, ok_bind, State.slotted_launch, State.slotted_tick, ← hu, State.endBlock, ht]
  rfl

/-- The slip record of a late block, and its place in the slip log (R53). -/
def State.slipDue (s : State) (b : Nat) (x : Block) (deadline : Nat) : SlipDue :=
  ⟨s.entry, x.core, s.launch.slog + BitVec.ofNat 64 (16 * (s.launch.frames.slips.toNat % 256)),
    slipRecord x.frame b x.core (s.tick.toNat - deadline)⟩

/-- The state after a late block's record has been written, as far as that can be, and the slip is counted (R52, R53). -/
def State.slipNoted (s : State) (b : Nat) (x : Block) (deadline : Nat) : State :=
  (writeSlips s (s.launch.slipsDue ++ [s.slipDue b x deadline])).updMine Launch.slipped

@[simp] theorem State.slotted_slipDue (s : State) (b : Nat) (x : Block) (deadline : Nat) :
    s.slotted.slipDue b x deadline = s.slipDue b x deadline := by simp [State.slipDue]

theorem slip_eq (s : State) (b : Nat) (x : Block) (deadline : Nat) : slip s b x deadline =
    (s.slipNoted b x deadline).event (match s.ap with | .f => 0 | .d => 1) 2 (BitVec.ofNat 64 x.frame) := rfl

/-- What a slip changes: memory, the TLBs, and of its launch the count of slips and the records that wait. -/
theorem State.slipNoted_eq (s : State) (b : Nat) (x : Block) (deadline : Nat) : ∃ m ts d,
    s.slipNoted b x deadline =
      ((s.withTlb m ts).updMine (Launch.owing d)).updMine Launch.slipped := by
  obtain ⟨m, ts, d, h⟩ := writeSlips_eq (s.launch.slipsDue ++ [s.slipDue b x deadline]) s
  exact ⟨m, ts, d, by rw [State.slipNoted, h]⟩

/-- A change of a launch that keeps its id keeps it among those that the package holds. -/
theorem State.holds_updMine {s : State} (h : ∃ l ∈ s.launches, l.id = s.r.bind.launch) {f : Launch → Launch}
    (hf : ∀ l, (f l).id = l.id) : ∃ l ∈ (s.updMine f).launches, l.id = (s.updMine f).r.bind.launch := by
  obtain ⟨l, hm, hid⟩ := h
  exact ⟨f l, List.mem_map.2 ⟨l, hm, by rw [if_pos (by simpa using hid)]⟩, (hf l).trans hid⟩

/-- The launch in focus after the end of a block. -/
theorem State.launch_endBlock {s : State} (h : ∃ l ∈ s.launches, l.id = s.r.bind.launch) (b : Nat) :
    (s.endBlock b).launch = (s.launch.updBlock b Block.done).doneAt s.tick.toNat := by
  rw [State.endBlock, State.launch_updMine (State.holds_updMine h (Launch.updBlock_id b _)) (Launch.doneAt_id _),
    State.launch_updMine h (Launch.updBlock_id b _)]

/-- The launch in focus with one slip more, and the records that wait. -/
theorem State.launch_owing_slipped {s : State} (h : ∃ l ∈ s.launches, l.id = s.r.bind.launch) (d : List SlipDue) :
    ((s.updMine (Launch.owing d)).updMine Launch.slipped).launch = (s.launch.owing d).slipped := by
  rw [State.launch_updMine (State.holds_updMine h (Launch.owing_id d)) Launch.slipped_id,
    State.launch_updMine h (Launch.owing_id d)]

/-- The launch in focus after a slip. -/
theorem State.launch_slipNoted {s : State} (h : ∃ l ∈ s.launches, l.id = s.r.bind.launch) (b : Nat) (x : Block)
    (deadline : Nat) : ∃ d, (s.slipNoted b x deadline).launch = (s.launch.owing d).slipped := by
  obtain ⟨m, ts, d, hd⟩ := s.slipNoted_eq b x deadline
  exact ⟨d, by rw [hd, State.launch_owing_slipped (s := s.withTlb m ts) h, State.withTlb_launch]⟩

/-- SKIP.TEST of a decided tile (R296). -/
theorem exec_skipTest {g p : Guard} {a : AReg} {b : Fin 64} {s : State} {blk : GBlock}
    (hr : s.apReady (.skipTest g p a b) g = true) (hb : s.r.gz.blocks[b] = some blk) (ht : (s.areg a).toNat < blk.tiles)
    (hbad : ((granulesOf [blk.recKey s.entry (s.areg a).toNat 18, blk.mapKey s.entry ((s.areg a).toNat / 8)]).any
      s.mem.isBad) = false) (hd : blk.decidedAt s.mem s.entry (s.areg a).toNat = true) :
    exec (.skipTest g p a b) s = .next
      ((s.slotted.setQ p (blk.mapBit s.mem s.entry (s.areg a).toNat)).finish (.skipTest g p a b) .next) := by
  have hb' : s.slotted.r.gz.blocks[b] = some blk := by simpa [State.slotted] using hb
  dsimp only [exec, execSkipTest]
  apply apIssue_ok hr
  rw [hb']
  simp only [need, await, State.slotted_areg, State.slotted_entry, State.slotted_mem, ht, hbad, hd, decide_true, Bool.not_false,
    if_true, ok_bind]
  rfl

/-- The end of a block leaves everything but the launch. -/
theorem State.endBlock_eq (s : State) (b : Nat) :
    s.endBlock b = s.withLaunches s.mem (s.endBlock b).launches := rfl

/-- What a slip leaves beside memory and its launch. -/
theorem State.slip_kept (s : State) (b : Nat) (x : Block) (deadline : Nat) :
    (slip s b x deadline).ap = s.ap ∧ (slip s b x deadline).r = s.r ∧ (slip s b x deadline).tick = s.tick ∧
      (slip s b x deadline).mem = (s.slipNoted b x deadline).mem ∧
      (slip s b x deadline).launches = (s.slipNoted b x deadline).launches := by
  obtain ⟨m, ts, d, hd⟩ := s.slipNoted_eq b x deadline
  rw [slip_eq, State.event_eq, hd]
  exact ⟨rfl, rfl, rfl, rfl, rfl⟩

theorem State.slipNoted_kept (s : State) (b : Nat) (x : Block) (deadline : Nat) :
    (s.slipNoted b x deadline).r = s.r ∧
      ((∃ l ∈ s.launches, l.id = s.r.bind.launch) → ∃ l ∈ (s.slipNoted b x deadline).launches, l.id = s.r.bind.launch) := by
  obtain ⟨m, ts, d, hd⟩ := s.slipNoted_eq b x deadline
  rw [hd]
  exact ⟨rfl, fun h => State.holds_updMine (State.holds_updMine (s := s.withTlb m ts) h (Launch.owing_id d)) Launch.slipped_id⟩

/-- The event of a slip (R52). -/
theorem State.slip_event {s : State} {b : Nat} {x : Block} {deadline : Nat} (h : s.part.record ≠ []) :
    ⟨s.cycle, s.entry, (match s.ap with | .f => 0 | .d => 1), 2, s.r.bind.lcore, s.r.bind.launch, BitVec.ofNat 64 x.frame⟩ ∈
      (slip s b x deadline).part.events := by
  obtain ⟨m, ts, d, hd⟩ := s.slipNoted_eq b x deadline
  rw [slip_eq, hd]
  exact State.event_mem (s := ((s.withTlb m ts).updMine (Launch.owing d)).updMine Launch.slipped) h ..

/-- A slip whose record is written or discarded, where no record waits before it (R53). -/
theorem State.slipNoted_written {s t : State} (h : ∃ l ∈ s.launches, l.id = s.r.bind.launch) (hd : s.launch.slipsDue = [])
    {b : Nat} {x : Block} {deadline : Nat}
    (hw : slipWrite s s.entry (s.slipDue b x deadline).addr (s.slipDue b x deadline).bytes = some t) :
    (s.slipNoted b x deadline).mem = t.mem ∧ (s.slipNoted b x deadline).launch.slipsDue = [] := by
  have ht : ∃ l ∈ t.launches, l.id = t.r.bind.launch := by
    rw [slipWrite_eq hw]
    exact h
  rw [State.slipNoted, hd, List.nil_append, writeSlips_cons_some (x := s.slipDue b x deadline) hw, writeSlips_nil]
  exact ⟨rfl, by rw [State.launch_owing_slipped ht, Launch.slipped_slipsDue, Launch.owing_slipsDue]⟩

/-- A slip whose record waits for a region table (R409). -/
theorem State.slipNoted_waits {s : State} (h : ∃ l ∈ s.launches, l.id = s.r.bind.launch) (hd : s.launch.slipsDue = [])
    {b : Nat} {x : Block} {deadline : Nat}
    (hw : slipWrite s s.entry (s.slipDue b x deadline).addr (s.slipDue b x deadline).bytes = none) :
    (s.slipNoted b x deadline).mem = s.mem ∧ (s.slipNoted b x deadline).launch.slipsDue = [s.slipDue b x deadline] := by
  rw [State.slipNoted, hd, List.nil_append, writeSlips_cons_none (x := s.slipDue b x deadline) hw]
  exact ⟨rfl, by rw [State.launch_owing_slipped h, Launch.slipped_slipsDue, Launch.owing_slipsDue]⟩

/-- TT.DONE of a late block: what it leaves of its context and its launch, and the slip (R51 to R53). -/
theorem exec_ttDone_late {g : Guard} {b : BitVec 10} {s : State} {x : Block} (hm : s.r.bind.frame = true)
    (hx : s.launch.frames.blocks[b.toNat]? = some x) (hc : x.core = s.r.bind.lcore) (hr : s.apReady (.ttDone g b) g = true)
    (hw : x.waited = true) (hlt : s.launch.frames.base + x.deadline < s.tick.toNat) :
    ∃ t v, exec (.ttDone g b) s = .next t ∧ v = s.slotted.slipNoted b.toNat x (s.launch.frames.base + x.deadline) ∧
      s.allRegsKept t ∧ t.place = s.pastIt ∧ t.mem = v.mem ∧
      t.launch = (v.launch.updBlock b.toNat Block.done).doneAt s.tick.toNat ∧
      (s.part.record ≠ [] → ⟨s.cycle, s.entry, (match s.ap with | .f => 0 | .d => 1), 2, s.r.bind.lcore, s.r.bind.launch,
        BitVec.ofNat 64 x.frame⟩ ∈ t.part.events) := by
  have hl := State.holds_launch_of_block hx
  obtain ⟨hap, hur, hut, hmem, hls⟩ := s.slotted.slip_kept b.toNat x (s.launch.frames.base + x.deadline)
  obtain ⟨hvr, hvl⟩ := s.slotted.slipNoted_kept b.toNat x (s.launch.frames.base + x.deadline)
  have ht := exec_ttDone hm hx hc hr hw (if_pos hlt).symm (hut.trans s.slotted_tick)
  have hev := State.slip_event (s := s.slotted) (b := b.toNat) (x := x) (deadline := s.launch.frames.base + x.deadline)
  rw [s.slotted_part, s.slotted_cycle, s.slotted_entry, s.slotted_ap, s.slotted_r_bind] at hev
  generalize slip s.slotted b.toNat x (s.launch.frames.base + x.deadline) = u at *
  have hap' : (u.endBlock b.toNat).ap = s.ap := hap.trans s.slotted_ap
  have hctx : (u.endBlock b.toNat).ctx s.ap = s.slotted.ctx s.ap := State.ctx_congr (u := u.endBlock b.toNat) hur _
  have hlu : ∃ l ∈ u.launches, l.id = u.r.bind.launch := by
    rw [hls, hur]
    exact hvl (by simpa using hl)
  refine ⟨_, _, ht, rfl, State.finish_allRegsKept hap' hctx .., State.finish_next_pastIt hap' hctx _, ?_, ?_, ?_⟩
  · rw [State.finish_mem, ← hmem]
    rfl
  · rw [State.finish_launch, State.launch_endBlock hlu, hut, s.slotted_tick, State.launch_congr (hur.trans hvr.symm) hls]
  · rw [State.finish_part]
    exact hev

/-- What a slip leaves of memory and of the waiting records, where none waits before it (R53, R409). -/
theorem State.slipNoted_outcomes {s : State} (h : ∃ l ∈ s.launches, l.id = s.r.bind.launch) (hd : s.launch.slipsDue = [])
    (b : Nat) (x : Block) (deadline : Nat) {k : W64} {f : List Byte} (hk : s.slipDue b x deadline = ⟨s.entry, x.core, k, f⟩) :
    (∀ ks u, translateSpan s k 16 false true = .ok (ks, u) → (s.slipNoted b x deadline).launch.slipsDue = [] ∧
      (s.mem.readCause (partialOf (checkable ks)) = none →
        (s.slipNoted b x deadline).mem = (s.mem.write ks f).bumped s.launch.compl.toNat ∧
          s.mem.keptBut (s.slipNoted b x deadline).mem (ks ++ keysFrom s.launch.compl.toNat 8)) ∧
      (s.mem.readCause (partialOf (checkable ks)) ≠ none → (s.slipNoted b x deadline).mem = s.mem)) ∧
    (∀ y, translateSpan s k 16 false true = .error (.trap y) →
      (s.slipNoted b x deadline).mem = s.mem ∧ (s.slipNoted b x deadline).launch.slipsDue = []) ∧
    (translateSpan s k 16 false true = .error .block →
      (s.slipNoted b x deadline).mem = s.mem ∧ (s.slipNoted b x deadline).launch.slipsDue = [⟨s.entry, x.core, k, f⟩]) := by
  have hw (t : State) (ht : slipWrite s s.entry k f = some t) :=
    State.slipNoted_written (t := t) (b := b) (x := x) (deadline := deadline) h hd (by rw [hk]; exact ht)
  refine ⟨fun ks u hu => ?_, fun y hy => hw s (slipWrite_trap hy), fun hb => ?_⟩
  · by_cases hc : s.mem.readCause (partialOf (checkable ks)) = none
    · obtain ⟨hmem, hdue⟩ := hw _ ((slipWrite_ok hu).trans (if_pos hc))
      refine ⟨hdue, fun _ => ⟨hmem, ?_⟩, fun hn => absurd hc hn⟩
      rw [hmem]
      exact Memory.keptBut.trans (Memory.keptBut_write _ _ _) (Memory.keptBut_write _ _ _)
    · obtain ⟨hmem, hdue⟩ := hw _ ((slipWrite_ok hu).trans (if_neg hc))
      exact ⟨hdue, fun h => absurd h hc, fun _ => hmem⟩
  · have := State.slipNoted_waits (b := b) (x := x) (deadline := deadline) h hd (by rw [hk]; exact slipWrite_block hb)
    rwa [hk] at this

/-- Settles O36: the end of a late block notes its slip (`exec_ttDone_late`), whose record is written, discarded or waits
(`State.slipNoted_outcomes`); an event is posted as the room in its area says (the `postEvent_` lemmas). -/
theorem timetableAndSkipComplete : Obligations.TimetableAndSkipComplete := by
  unfold Obligations.TimetableAndSkipComplete
  refine ⟨fun g b s x hm hx hc => ⟨fun hr hw hrel => ?_, fun hr hw hle => ?_, fun hr hw hlt => ?_⟩,
    fun s p e k n used x hxp he hk hn hused hw => ?_, fun g p a b s blk hr hb ht hbad hd => ?_⟩
  · have hl := State.holds_launch_of_block hx
    obtain ⟨hregs, hplace, honly, hmem⟩ := State.finish_launches_kept
      (State.updMine_withLaunches s.slotted s.slotted.mem s.slotted.launches (Launch.updBlock b.toNat Block.wait)) (.ttWait g b)
    refine ⟨_, exec_ttWait hm hx hc hr hw hrel, hregs, hplace, honly, hmem.trans s.slotted_mem, ?_⟩
    rw [State.finish_launch, State.launch_updMine (by simpa using hl) (Launch.updBlock_id b.toNat _), s.slotted_launch]
    exact Launch.getElem?_updBlock hx _
  · have hl := State.holds_launch_of_block hx
    obtain ⟨hregs, hplace, honly, hmem⟩ := State.finish_launches_kept (s.slotted.endBlock_eq b.toNat) (.ttDone g b)
    have hlaunch : ((s.slotted.endBlock b.toNat).finish (.ttDone g b) .next).launch =
        (s.launch.updBlock b.toNat Block.done).doneAt s.tick.toNat := by
      rw [State.finish_launch, State.launch_endBlock (by simpa using hl), s.slotted_launch, s.slotted_tick]
    refine ⟨_, exec_ttDone hm hx hc hr hw (if_neg (Nat.not_lt.2 hle)).symm s.slotted_tick, hregs, hplace, honly,
      hmem.trans s.slotted_mem, ?_, ?_, ?_⟩
    · rw [hlaunch]; rfl
    · rw [hlaunch]; rfl
    · rw [hlaunch]
      exact Launch.getElem?_updBlock hx _
  · have hl := State.holds_launch_of_block hx
    obtain ⟨t, v, ht, hv, hregs, hplace, hmem, hlaunch, hev⟩ := exec_ttDone_late hm hx hc hr hw hlt
    obtain ⟨d, hd⟩ := State.launch_slipNoted (s := s.slotted) (by simpa using hl) b.toNat x
      (s.launch.frames.base + x.deadline)
    rw [← hv, s.slotted_launch] at hd
    refine ⟨t, ht, hregs, hplace, ?_, ?_, ?_, fun hrec => ⟨_, hev hrec, rfl⟩, ?_⟩
    · rw [hlaunch]; rfl
    · rw [hlaunch, hd]; rfl
    · rw [hlaunch]
      exact Launch.getElem?_updBlock (l := v.launch) (by rw [hd]; exact hx) _
    · intro k f hdue hk hf
      have hout := State.slipNoted_outcomes (s := s.slotted) (by simpa using hl) (by simpa using hdue) b.toNat x
        (s.launch.frames.base + x.deadline) (k := k) (f := f) (by rw [State.slotted_slipDue, State.slotted_entry, hk, hf]; rfl)
      rw [← hv, s.slotted_mem, s.slotted_entry, s.slotted_launch] at hout
      rw [hmem, hlaunch]
      exact hout
  · subst hxp hk
    exact State.postEvents_outcomes he hw hn hused
  · have hs : s.slotted.setQ p (blk.mapBit s.mem s.entry (s.areg a).toNat) =
        s.updCtx s.ap fun c => c.slot.putPred p (blk.mapBit s.mem s.entry (s.areg a).toNat) := by
      simp [State.slotted, State.setQ]
    refine ⟨_, exec_skipTest hr hb ht hbad hd, fun n => ?_, ?_, ?_, fun n => ?_⟩
    · rw [State.finish_areg, State.areg_setQ, State.slotted_areg]
    · rw [State.finish_next_place]
      apply State.pastIt_congr
      rw [State.setQ_place, State.slotted_place]
    · rw [hs]
      exact State.finish_onlyCtx ..
    · rw [State.finish_apred, State.apred_setQ, State.slotted_apred]

end Sys2Proof.Machine
end

section
/-! PROOF. What an access of the access processor leaves when its memory serves it (R35, R110, R111, R140, R237, R240, R241): O18. -/

namespace Sys2Proof.Machine

/-! ### The bank that serves a byte of a share (R107, R110, R111) -/

theorem shareOf_spadKey {e o : Nat} (he : e < 416) (ho : o < 2 ^ 22) : shareOf (spadKey e o) = some e := by
  have hlo : ¬ spadKey e o < spadKey 0 0 := by unfold spadKey; omega
  have hhi : ¬ spadKey 416 0 ≤ spadKey e o := by unfold spadKey; omega
  have hs : (spadKey e o - spadKey 0 0) / 2 ^ 22 = e := by unfold spadKey; omega
  simp only [shareOf, hlo, hhi, hs, decide_false, Bool.or_self, Bool.false_eq_true, if_false]

theorem bankNo_spadKey {r : Residency} {e o : Nat} (hr : r.bind.e = e) (ho : o < 2 ^ 22) :
    bankNo r (spadKey e o) = 32 * (e / 2) + ((if e % 2 = 0 then 0 else 32 - r.bind.banks) + o / 64 % r.bind.banks) := by
  have hs : (spadKey e o - spadKey 0 0) % 2 ^ 22 = o := by unfold spadKey; omega
  rw [bankNo, hs, hr]
  rfl

/-! ### What an access stores (R237, R240, R241) -/

/-- Where what is chosen from equal values is equal, ties may go either way. -/
theorem ite_le_eq_ite_lt {α β : Type} [LinearOrder α] {a b : α} {x y : β} (h : a = b → x = y) :
    (if a ≤ b then x else y) = if a < b then x else y := by
  obtain hlt | heq | hgt := lt_trichotomy a b
  · rw [if_pos hlt.le, if_pos hlt]
  · rw [h heq, ite_self, ite_self]
  · rw [if_neg hgt.not_ge, if_neg hgt.not_gt]

theorem amoOp_eq (fn : Fin 9) (old y : W64) : amoOp fn old y = atomicResult fn old y := by
  match fn with
  | 0 | 1 | 2 | 3 | 8 => rfl
  | 4 => exact ite_le_eq_ite_lt fun h => BitVec.eq_of_toInt_eq h
  | 5 => exact ite_le_eq_ite_lt fun h => (BitVec.eq_of_toInt_eq h).symm
  | 6 => exact ite_le_eq_ite_lt fun h => BitVec.eq_of_toNat_eq h
  | 7 => exact ite_le_eq_ite_lt fun h => (BitVec.eq_of_toNat_eq h).symm

theorem MemReq.writes_eq (q : MemReq) (m : Memory) : q.writes m = q.stores (q.seen m) := by
  unfold MemReq.writes MemReq.stores
  cases q.op <;> simp only [amoOp_eq]

/-- What the parts of an access that are performed leave in memory. -/
theorem MemReq.store_memory (q : MemReq) (m : Memory) (l : List Nat) :
    match q.stores (q.seen m) with
    | some bs => q.store m l = m.write (q.keysAt l) (l.map fun i => bs.getD i 0) ∧ m.keptBut (q.store m l) (q.keysAt l)
    | none => q.store m l = m := by
  unfold MemReq.store
  rw [q.writes_eq m]
  cases q.stores (q.seen m) with
  | some bs => exact ⟨rfl, Memory.keptBut_write _ _ _⟩
  | none => rfl

/-! ### The end of an access (R111, R237) -/

/-- A context whose access has ended goes on from the next instruction, when it may. -/
def ApCtx.resumed (x : ApCtx) (wake : Nat) : ApCtx := { x.unpend.flow .next with wake := wake }

/-- The context to which an access that ends gives what it has read. -/
def MemReq.given (q : MemReq) (old : List Byte) (x : ApCtx) : ApCtx :=
  match q.loads old with
  | some (d, v) => x.put d v
  | none => x

/-- The handle registers after an access that ends (R283). -/
def MemReq.handles (q : MemReq) (old : List Byte) (hs : Vector (Option Handle) 16) : Vector (Option Handle) 16 :=
  match q.op with
  | .header h v => hs.set h (some { v with hdr := old })
  | _ => hs

@[simp] theorem ApCtx.resumed_get (x : ApCtx) (w : Nat) (n : AReg) : (x.resumed w).get n = x.get n := rfl
@[simp] theorem ApCtx.resumed_pred (x : ApCtx) (w : Nat) (n : Guard) : (x.resumed w).pred n = x.pred n := rfl
theorem ApCtx.resumed_place (x : ApCtx) (w : Nat) : ((x.resumed w).pc, (x.resumed w).loops) =
    (BitVec.ofNat 32 (loopAdvance (x.pc.toNat + 4) x.loops).1, (loopAdvance (x.pc.toNat + 4) x.loops).2) := rfl
@[simp] theorem ApCtx.put_pc (x : ApCtx) (d : AReg) (v : W64) : (x.put d v).pc = x.pc := by unfold ApCtx.put; split <;> rfl
@[simp] theorem ApCtx.put_loops (x : ApCtx) (d : AReg) (v : W64) : (x.put d v).loops = x.loops := by
  unfold ApCtx.put; split <;> rfl

/-- What an access gives is a register value or nothing. -/
theorem MemReq.given_get (q : MemReq) (old : List Byte) (x : ApCtx) (n : AReg) : (q.given old x).get n =
    match q.loads old with
    | some (d, v) => if n = 0 then 0 else if n = d then v else x.get n
    | none => x.get n := by
  unfold MemReq.given
  cases q.loads old with
  | none => rfl
  | some p => exact ApCtx.get_put ..
theorem MemReq.given_kept (q : MemReq) (old : List Byte) (x : ApCtx) : (∀ n, (q.given old x).pred n = x.pred n) ∧
    (q.given old x).pc = x.pc ∧ (q.given old x).loops = x.loops := by
  unfold MemReq.given
  cases q.loads old with
  | none => exact ⟨fun _ => rfl, rfl, rfl⟩
  | some p => exact ⟨fun _ => ApCtx.pred_put .., ApCtx.put_pc .., ApCtx.put_loops ..⟩

/-- The state after a memory has served context c: the context, the handle registers, memory, and the banks that have served in
the core cycle. -/
def State.served (s : State) (c : ApId) (x : ApCtx) (hs : Vector (Option Handle) 16) (m : Memory) (bs : List Nat) : State :=
  { (s.updCtx c fun _ => x).updR fun r => { r with h := hs, watch := { r.watch with moved := true } } with
    mem := m, banks := s.banks ++ bs }

theorem State.served_mem (s : State) (c : ApId) (x : ApCtx) (hs : Vector (Option Handle) 16) (m : Memory) (bs : List Nat) :
    (s.served c x hs m bs).mem = m := rfl
theorem State.served_h (s : State) (c : ApId) (x : ApCtx) (hs : Vector (Option Handle) 16) (m : Memory) (bs : List Nat) :
    (s.served c x hs m bs).r.h = hs := rfl
theorem State.served_ctx (s : State) (c : ApId) (x : ApCtx) (hs : Vector (Option Handle) 16) (m : Memory) (bs : List Nat) :
    (s.served c x hs m bs).ctx c = x := by cases c <;> rfl

section
variable {c : ApId} {s : State} {p q : MemReq}

/-- Which parts of an access are performed in a core cycle: none before its memory may serve it, and none of a request that is
lost with the bridge (R111, R455). -/
theorem exec_memoryRequest (hp : (s.ctx c).pending = some p) (hq : p.placed s = some q) (hs : q.since ≤ s.now) (hl : q.due s ≠ [])
    (hb : s.pkg.boot.state = 10 → q.crosses s.entry = false) (hc : q.cause s = none) :
    exec (.memoryRequestComplete c) s = .next (if q.due s = q.rest then
      { q.complete s c with
        mem := q.store s.mem (q.due s), banks := s.banks ++ (q.keysAt (q.due s)).filterMap s.bankHolding }
    else ({ s with
      mem := q.store s.mem (q.due s), banks := s.banks ++ (q.keysAt (q.due s)).filterMap s.bankHolding }.updCtx c fun x =>
        { x with pending := some (q.performed s.mem (q.due s)) }).move) := by
  have hready : (decide (s.now < q.since) || (q.due s).isEmpty || (s.pkg.boot.state == 10 && q.crosses s.entry)) = false := by
    simpa [hl, Nat.not_lt.2 hs] using hb
  dsimp only [exec, execMemoryRequestComplete]
  rw [hp]
  dsimp only [Option.bind_some]
  rw [hq]
  dsimp only
  rw [hready, hc]
  dsimp only
  rw [if_neg Bool.false_ne_true, apply_ite Host.Outcome.next]

/-- The last parts of an access end it. -/
theorem exec_memoryRequest_last (hp : (s.ctx c).pending = some p) (hq : p.placed s = some q) (hs : q.since ≤ s.now)
    (hl : q.due s ≠ []) (hb : s.pkg.boot.state = 10 → q.crosses s.entry = false) (hc : q.cause s = none) (hr : q.due s = q.rest) :
    exec (.memoryRequestComplete c) s = .next (s.served c
      ((q.given (q.seen s.mem) (s.ctx c)).resumed (s.now + match q.op with | .store _ => 1 | _ => 3))
      (q.handles (q.seen s.mem) s.r.h) (q.store s.mem (q.due s)) ((q.keysAt (q.due s)).filterMap s.bankHolding)) := by
  rw [exec_memoryRequest hp hq hs hl hb hc, if_pos hr]
  unfold MemReq.complete MemReq.give MemReq.given MemReq.handles MemReq.loads
  cases q.op <;> dsimp only <;> rw [State.updCtx_updCtx] <;> cases c <;> rfl

/-- Before the last parts of an access, its context waits for the rest. -/
theorem exec_memoryRequest_part (hp : (s.ctx c).pending = some p) (hq : p.placed s = some q) (hs : q.since ≤ s.now)
    (hl : q.due s ≠ []) (hb : s.pkg.boot.state = 10 → q.crosses s.entry = false) (hc : q.cause s = none) (hr : q.due s ≠ q.rest) :
    exec (.memoryRequestComplete c) s = .next (s.served c { s.ctx c with pending := some (q.performed s.mem (q.due s)) }
      s.r.h (q.store s.mem (q.due s)) ((q.keysAt (q.due s)).filterMap s.bankHolding)) := by
  rw [exec_memoryRequest hp hq hs hl hb hc, if_neg hr]
  cases c <;> rfl

end

/-- Settles O18: the parts that are due are stored (`MemReq.store_memory`); the last of them end the access, which gives its
context what it has read (`MemReq.given_get`). -/
theorem accessesComplete : Obligations.AccessesComplete := by
  unfold Obligations.AccessesComplete
  refine ⟨?_, fun s r e o b he ho hr hb => ?_⟩
  · rintro c s p q l old hp hq hs rfl hl rfl hb hc
    have hm := q.store_memory s.mem (q.due s)
    have hframe (x : ApCtx) (hs : Vector (Option Handle) 16) (m : Memory) (bs : List Nat) : s.served c x hs m bs =
        s.served c ((s.served c x hs m bs).ctx c) (s.served c x hs m bs).r.h (s.served c x hs m bs).mem bs := by
      rw [State.served_ctx, State.served_h, State.served_mem]
    by_cases hlast : q.due s = q.rest
    · obtain ⟨hpred, hpc, hloops⟩ := q.given_kept (q.seen s.mem) (s.ctx c)
      refine ⟨_, exec_memoryRequest_last hp hq hs hl hb hc hlast, hm, hframe .., fun h => absurd hlast h, fun _ => ?_⟩
      rw [State.served_ctx, State.served_h]
      refine ⟨rfl, rfl, ?_, fun n => ?_, fun n => ?_, rfl⟩
      · rw [ApCtx.resumed_place, hpc, hloops]
      · exact (ApCtx.resumed_get ..).trans (q.given_get ..)
      · rw [ApCtx.resumed_pred, hpred]
    · refine ⟨_, exec_memoryRequest_part hp hq hs hl hb hc hlast, hm, hframe .., fun _ => ⟨rfl, ?_⟩, fun h => absurd h hlast⟩
      rw [State.served_ctx]
      rfl
  · have hre : r.bind.e = e := by simpa using List.find?_some hr
    have hbank := bankNo_spadKey hre ho
    rw [← hb] at hbank
    refine ⟨?_, ?_⟩
    · rw [State.bankHolding, shareOf_spadKey he ho, Option.bind_some, hr, Option.map_some, hbank]
    · rw [State.serving, shareOf_spadKey he ho]
      dsimp only
      rw [hr]
      dsimp only
      rw [hbank, inPhase, show (s.now + (32 * (e / 2) + b)) % 8 = (s.now + b) % 8 by omega]
      rfl

end Sys2Proof.Machine
end

section
/-! PROOF. What ends E, and what completes with a context (R37, R38, R66, R169, R327, R328): O49. -/

namespace Sys2Proof.Machine

/-! ### Whether a residency has completed (R37) -/

theorem State.settle_of_not_finished {s : State} (h : s.r.stage ≠ .running ∨ s.finished = false) : s.settle = s := by
  have : ¬ (s.r.stage == .running && s.finished) = true := by
    obtain h | h := h <;> simp [h]
  rw [State.settle, if_neg this]

theorem Residency.halted_iff (r : Residency) :
    r.halted = true ↔ r.f.status = .halted ∧ r.d.status = .halted ∧ r.ep.status = .halted := by
  simp [Residency.halted, and_assoc]

theorem State.slipping_eq_false (s : State) : s.slipping = false ↔ ∀ x ∈ s.launch.slipsDue, x.core ≠ s.r.bind.lcore := by
  simp [State.slipping]

theorem State.finished_iff (s : State) : s.finished = true ↔ s.r.f.status = .halted ∧ s.r.d.status = .halted ∧
    s.r.ep.status = .halted ∧ s.r.cmds = [] ∧ (∀ k : Fin 8, (s.r.chains[k]).busy = false) ∧ s.r.mx.queue = [] ∧
    s.r.ep.inflight = [] ∧ (∀ x ∈ s.launch.slipsDue, x.core ≠ s.r.bind.lcore) ∧
    ∀ n, s.draining n = false ∧ s.expanding n = false := by
  have hc : s.r.chains.toList.all (fun c => !c.busy) = true ↔ ∀ k : Fin 8, (s.r.chains[k]).busy = false := by
    simp [Fin.forall_iff]
  simp only [State.finished, Bool.and_eq_true, Residency.halted_iff, List.isEmpty_iff, hc, Bool.not_eq_true', s.slipping_eq_false,
    List.all_eq_true, List.mem_finRange, forall_const, and_assoc]

/-! ### Whether a drain still has elements to write (R37) -/

/-- Rings stand behind a drain at least as deep as its own. -/
theorem State.ringDepth_succ (s : State) : ∃ k, s.ringDepth = k + 1 :=
  ⟨32 * s.others.length + 31, by simp [State.ringDepth, State.all]; omega⟩

/-- A stream that is closed or has ended, and an ingest ring, bring nothing. -/
theorem State.fed_over {s : State} {n : SReg} (h : (s.stream n).isOpen = false ∨ (s.stream n).ended = true ∨ (s.stream n).kind = 6)
    (k : Nat) : s.fed k n = false := by
  cases k with
  | zero => rfl
  | succ k =>
    rw [State.fed]
    obtain h | h | h := h <;> simp [h]

/-- A pattern, a handle or an address queue brings what its fetch side has left. -/
theorem State.fed_fetch {s : State} {n : SReg} (ho : (s.stream n).isOpen = true) (he : (s.stream n).ended = false)
    (hlo : 1 ≤ (s.stream n).kind) (hhi : (s.stream n).kind ≤ 3) (k : Nat) : s.fed (k + 1) n =
      (decide ((s.stream n).landed ≠ 0 ∨ (s.stream n).exhausted = false) &&
        decide ((s.stream n).kind ≠ 3 ∨ (s.stream n).addrs ≠ [])) := by
  have hk : (s.stream n).kind = 1 ∨ (s.stream n).kind = 2 ∨ (s.stream n).kind = 3 := by omega
  rw [State.fed]
  have ha : (!(s.stream n).addrs.isEmpty) = decide ((s.stream n).addrs ≠ []) := by
    cases (s.stream n).addrs <;> simp
  obtain hk | hk | hk := hk <;> simp [hk, ho, he, StreamReg.bringing, Bool.decide_or, ha]

theorem State.not_draining {s : State} {n : SReg} (h : (s.stream n).isOpen = false ∨ (s.stream n).sink < 2 ∨ 4 < (s.stream n).sink) :
    s.draining n = false := by
  unfold State.draining
  obtain h | h | h := h
  · simp [h]
  · simp [Nat.not_le.2 h]
  · simp [Nat.not_le.2 h]

/-- A drain to memory has what is committed to write, and what its stream's source is yet to bring. -/
theorem State.draining_eq {s : State} {n : SReg} (ho : (s.stream n).isOpen = true) (hlo : 2 ≤ (s.stream n).sink)
    (hhi : (s.stream n).sink ≤ 4) : s.draining n = (s.r.undelivered n || s.fed s.ringDepth (s.r.headOf n).1) := by
  simp [State.draining, ho, hlo, hhi]

/-! ### The end of a launch (R37, R38, R169) -/

/-- A launch of which core c has completed. -/
def Launch.completed (c : Nat) (l : Launch) : Launch :=
  { l with complete := if c ∈ l.complete then l.complete else c :: l.complete }
/-- A launch whose early trigger has fired. -/
def Launch.firedEarly (l : Launch) : Launch := { l with earlyFired := true }
/-- A launch that has ended. -/
def Launch.ended (l : Launch) : Launch := { l with finished := true, groups := [], parked := [], held0 := [], held1 := [] }

theorem Launch.completed_id (c : Nat) (l : Launch) : (l.completed c).id = l.id := rfl
theorem Launch.firedEarly_id (l : Launch) : l.firedEarly.id = l.id := rfl
theorem Launch.ended_id (l : Launch) : l.ended.id = l.id := rfl

/-- Whether the early trigger of a launch is to fire (R38). -/
def Launch.fires (l : Launch) : Bool :=
  decide ((∀ c, c < l.n → c ∈ l.early ∨ c ∈ l.complete) ∧ l.earlyFired = false ∧ l.n ≠ 0)
/-- Whether a launch ends: every residency of it has completed (R169). -/
def Launch.ends (l : Launch) : Bool := decide (l.complete.length = l.n ∧ l.finished = false)

theorem Launch.fires_eq (l : Launch) : l.fires = (l.allEarly && !l.earlyFired && decide (l.n ≠ 0)) := by
  rw [Bool.eq_iff_iff]
  simp only [Launch.fires, Launch.allEarly, decide_eq_true_eq, Bool.and_eq_true, List.all_eq_true, List.mem_range,
    Bool.or_eq_true, List.contains_iff_mem, Bool.not_eq_true', and_assoc]

theorem State.fireEarly_eq (s : State) : s.fireEarly =
    if s.launch.fires then (s.bump s.launch.link.toNat).updMine Launch.firedEarly else s := by
  rw [Launch.fires_eq]
  rfl

@[simp] theorem State.bump_mem (s : State) (k : Nat) : (s.bump k).mem = s.mem.bumped k := by
  simp only [State.bump, State.devWrite, Memory.bumped, length_leBytes]

/-- The state in which the residency in focus is counted as completed for its launch (R37). -/
def State.counted (s : State) : State :=
  (s.updR fun r => { r with stage := .done }).updMine (Launch.completed s.r.bind.lcore)

/-- The end of a launch of which all residencies have completed (R169). -/
def State.endIfComplete (s : State) : State :=
  if s.launch.ends then (s.bump s.launch.compl.toNat).endLaunch s.launch 0 else s

theorem State.settle_finished {s : State} (hr : s.r.stage = .running) (hf : s.finished = true) :
    s.settle = s.counted.fireEarly.endIfComplete := by
  have hc : (s.updR fun r => { r with stage := .done }).updMine (fun l =>
      { l with complete := if l.complete.contains s.r.bind.lcore then l.complete else s.r.bind.lcore :: l.complete }) =
      s.counted := by
    simp only [List.contains_iff_mem]
    rfl
  unfold State.settle
  rw [if_pos (by simp [hr, hf])]
  dsimp only
  rw [hc, State.endIfComplete, Launch.ends, Bool.decide_and]
  simp

/-- The launch in focus is the one that its residency is bound to. -/
theorem State.launch_id {s : State} (h : ∃ l ∈ s.launches, l.id = s.r.bind.launch) : s.launch.id = s.r.bind.launch := by
  obtain ⟨l, hl⟩ : ∃ l, s.launches.find? (fun l => l.id == s.r.bind.launch) = some l := by
    rw [← Option.isSome_iff_exists, List.find?_isSome]
    simpa using h
  rw [State.launch, hl]
  simpa using List.find?_some hl

theorem State.holds_counted {s : State} (h : ∃ l ∈ s.launches, l.id = s.r.bind.launch) :
    ∃ l ∈ s.counted.launches, l.id = s.counted.r.bind.launch :=
  State.holds_updMine (s := s.updR fun r => { r with stage := .done }) h (Launch.completed_id s.r.bind.lcore)

theorem State.launch_counted {s : State} (h : ∃ l ∈ s.launches, l.id = s.r.bind.launch) :
    s.counted.launch = s.launch.completed s.r.bind.lcore :=
  State.launch_updMine (s := s.updR fun r => { r with stage := .done }) h (Launch.completed_id s.r.bind.lcore)

/-- What the early trigger leaves: a state whose launch in focus notes that it has fired. -/
theorem State.fireEarly_spec {s : State} (h : ∃ l ∈ s.launches, l.id = s.r.bind.launch) :
    s.fireEarly.mem = (if s.launch.fires then s.mem.bumped s.launch.link.toNat else s.mem) ∧ s.fireEarly.r = s.r ∧
      s.fireEarly.others = s.others ∧ s.fireEarly.pkg = s.pkg ∧
      s.fireEarly.launch = { s.launch with earlyFired := s.launch.earlyFired || s.launch.fires } ∧
      ∃ l ∈ s.fireEarly.launches, l.id = s.fireEarly.r.bind.launch := by
  rw [State.fireEarly_eq]
  cases hf : s.launch.fires with
  | false => simpa using h
  | true =>
    refine ⟨s.bump_mem _, rfl, rfl, rfl, ?_, State.holds_updMine (s := s.bump _) h Launch.firedEarly_id⟩
    rw [if_pos rfl, State.launch_updMine (s := s.bump _) h Launch.firedEarly_id, Bool.or_true]
    rfl

/-- What the end of the launch in focus leaves: its completion record is queued. -/
theorem State.endIfComplete_spec {s : State} {p : Fin 8} (h : ∃ l ∈ s.launches, l.id = s.r.bind.launch)
    (hp : s.launch.part = p) :
    s.endIfComplete.mem = (if s.launch.ends then s.mem.bumped s.launch.compl.toNat else s.mem) ∧
      s.endIfComplete.r = s.r ∧ s.endIfComplete.others = s.others ∧
      s.endIfComplete.launch = (if s.launch.ends then s.launch.ended else s.launch) ∧
      (s.endIfComplete.pkg.parts[p]).completions =
        (s.pkg.parts[p]).completions ++ (if s.launch.ends then [completionRecord s.launch 0] else []) := by
  subst hp
  unfold State.endIfComplete
  cases he : s.launch.ends with
  | false => simp
  | true =>
    simp only [if_true]
    have hl : ((s.bump s.launch.compl.toNat).endLaunch s.launch 0).launch = s.launch.ended := by
      show ((s.bump s.launch.compl.toNat).updLaunch s.launch.id Launch.ended).launch = _
      rw [State.launch_id h]
      exact State.launch_updMine (s := s.bump _) h Launch.ended_id
    refine ⟨s.bump_mem _, rfl, rfl, hl, ?_⟩
    rw [State.endLaunch, State.updPart_parts_same]
    rfl

/-- The completion record of a launch that has completed, byte by byte (R399). -/
theorem completionRecord_zero (l : Launch) : completionRecord l 0 =
    leBytes 4 l.tag.toNat ++ [0, 0] ++ leBytes 2 l.n ++ leBytes 8 0 ++ leBytes 4 l.frames.slips.toNat ++
      leBytes 4 l.faults.toNat ++ leBytes 8 0 := by
  simp [completionRecord, leBytes]

/-- What the completion of a residency leaves of its launch, by what it was with this core among the completed ones. -/
theorem State.settle_spec {s : State} {l : Launch} (h : ∃ l ∈ s.launches, l.id = s.r.bind.launch) (hr : s.r.stage = .running)
    (hf : s.finished = true) (hl : l = s.launch.completed s.r.bind.lcore) :
    s.settle.mem = (if l.ends then
        (if l.fires then s.mem.bumped l.link.toNat else s.mem).bumped l.compl.toNat
      else if l.fires then s.mem.bumped l.link.toNat else s.mem) ∧
      s.settle.r = { s.r with stage := .done } ∧ s.settle.others = s.others ∧ s.settle.launch.complete = l.complete ∧
      s.settle.launch.earlyFired = (l.earlyFired || l.fires) ∧ s.settle.launch.finished = (l.finished || l.ends) ∧
      (s.settle.pkg.parts[l.part]).completions =
        (s.pkg.parts[l.part]).completions ++ (if l.ends then [completionRecord l 0] else []) := by
  rw [State.settle_finished hr hf]
  have hc : s.counted.launch = l := (State.launch_counted h).trans hl.symm
  obtain ⟨hm1, hr1, ho1, hp1, hl1, h1⟩ := State.fireEarly_spec (State.holds_counted h)
  obtain ⟨hm2, hr2, ho2, hl2, hq2⟩ := State.endIfComplete_spec h1 (p := l.part) (by rw [hl1, hc])
  rw [hc] at hm1 hl1
  have he : s.counted.fireEarly.launch.ends = l.ends := by rw [hl1]; rfl
  rw [he] at hm2 hl2 hq2
  refine ⟨?_, hr2.trans hr1, ho2.trans ho1, ?_, ?_, ?_, ?_⟩
  · rw [hm2, hm1, hl1]
    rfl
  · rw [hl2, hl1]
    cases l.ends <;> rfl
  · rw [hl2, hl1]
    cases l.ends <;> rfl
  · rw [hl2, hl1]
    cases l.ends
    · exact (Bool.or_false _).symm
    · exact (Bool.or_true _).symm
  · have hrec : completionRecord s.counted.fireEarly.launch 0 = completionRecord l 0 := by
      rw [hl1]
      rfl
    rw [hrec] at hq2
    exact hq2.trans (by rw [hp1]; rfl)

/-! ### The task deadlock (R66) -/

theorem ovfEmpty_iff (m : Memory) (k : W64) : ovfEmpty m k = true ↔ m.word64 k.toNat = m.word64 (k.toNat + 8) := by
  simp [ovfEmpty]

theorem State.deadlocked_iff (s : State) : s.deadlocked = true ↔ s.launch.frameMode = false ∧ s.launch.outstanding ≠ 0 ∧
    (s.all.filter fun r => r.bind.launch == s.launch.id && r.stage == .running).length = s.launch.n ∧ s.launch.n ≠ 0 ∧
    (∀ r ∈ s.all.filter fun r => r.bind.launch == s.launch.id && r.stage == .running,
      r.atTaskNext s.mem = true ∧ r.d.status = .halted ∧ r.deque = []) ∧ s.launch.spawned = [] ∧ s.launch.filled = [] ∧
    s.launch.held0 = [] ∧ s.launch.held1 = [] ∧
    s.mem.word64 s.launch.ovf0.toNat = s.mem.word64 (s.launch.ovf0.toNat + 8) ∧
    s.mem.word64 s.launch.ovf1.toNat = s.mem.word64 (s.launch.ovf1.toNat + 8) := by
  simp only [State.deadlocked, Bool.and_eq_true, Bool.not_eq_true', decide_eq_true_eq, List.all_eq_true, List.isEmpty_iff,
    ovfEmpty_iff, beq_iff_eq, and_assoc]

theorem State.checkDeadlock_of_not {s : State} (h : s.deadlocked = false) : s.checkDeadlock = s := by
  simp [State.checkDeadlock, h]

theorem State.within_own (s : State) {f : State → State} (hf : (f s).r.bind.e = s.r.bind.e) : s.within s.r.bind.e f = f s := by
  have h : s.focusOn s.r.bind.e = s := by rw [State.focusOn, if_pos rfl]
  rw [State.within, h, State.focusOn, if_pos hf]

/-- A deadlock whose logical core 0 stands in focus parks F there. -/
theorem State.checkDeadlock_of_focus {s : State} (h : s.deadlocked = true) (hp : s.peer 0 = some s.r) :
    s.checkDeadlock = s.park .f ⟨0x67, 0, 0⟩ := by
  rw [State.checkDeadlock, if_pos h, hp]
  exact s.within_own (by rw [State.park_eq]; rfl)

/-! ### EHALT and ETRAP (R327, R328) -/

theorem State.eReady_iff (s : State) (i : Instr) : s.eReady i = true ↔ (s.updE EpCtx.refill).withheld = false ∧
    staticCause i = none ∧ eLate (s.updE EpCtx.refill) i = none ∧ outsideAllotment s.eSlot i = false ∧
    namesEmptyLatch s.eSlot i = false := by
  simp only [State.eReady, Bool.and_eq_true, Bool.not_eq_true', beq_iff_eq, and_assoc]

/-- An instruction of E that nothing keeps from issuing does what its body does. -/
theorem eIssue_of_ready {i : Instr} {s s' : State} {body : State → Except Stop (State × EFlow)} {fl : EFlow}
    (h : s.eReady i = true) (hb : body s.eSlot = .ok (s', fl)) : eIssue i s body = .next (s'.eDone i fl) := by
  obtain ⟨hw, hc, hl, ho, he⟩ := (s.eReady_iff i).1 h
  exact eIssue_ok hw hc hl ho he hb

/-- An instruction of E that counts and then takes an exception parks E where its body stands. -/
theorem eIssue_trapAt {i : Instr} {s s' : State} {body : State → Except Stop (State × EFlow)} {t : Trap}
    (h : s.eReady i = true) (hb : body s.eSlot = .error (.trapAt t s')) : eIssue i s body = .next (s'.parkE t) := by
  obtain ⟨hw, hc, hl, ho, he⟩ := (s.eReady_iff i).1 h
  rw [State.eSlot] at ho he hb
  simp only [eIssue, eCause, hw, hc, hl, ho, he, hb, Bool.false_eq_true, if_false]

/-- E halted, past its EHALT. -/
def State.ehalted (s : State) : State := s.updE fun e => { e with status := .halted, pc := e.pc + 8 }

theorem exec_ehalt {f : EF} {s : State} (h : s.eReady (.ehalt f) = true) :
    exec (.ehalt f) s = .next ((s.eSlot.ehalted).eDone (.ehalt f) .set).settle := by
  have hx : exec (.ehalt f) s = execEhalt f s := rfl
  rw [hx, execEhalt, eIssue_of_ready h (s' := s.eSlot.ehalted) (fl := .set) rfl]
  rfl

theorem exec_etrap {f : EF} {s : State} (h : s.eReady (.etrap f) = true) :
    exec (.etrap f) s = .next ((s.eSlot.updE fun e => { e with einst := e.einst + 1 }).parkE ⟨0x70 + f.x, 0, 0⟩) := by
  have hx : exec (.etrap f) s = execEtrap f s := rfl
  rw [hx, execEtrap]
  exact eIssue_trapAt h rfl

/-! ### O49 -/

/-- Settles O49: what a residency that completes leaves follows from the end of its launch (`State.settle_spec`), whether it
completes from what its drains still have (`State.finished_iff`, `State.draining_eq`), and a deadlock parks F of logical core 0
(`State.checkDeadlock_of_focus`). -/
theorem epEndsComplete : Obligations.EpEndsComplete := by
  unfold Obligations.EpEndsComplete
  refine ⟨fun s => ⟨State.settle_of_not_finished, s.finished_iff, ?_⟩, ?_, ?_, ?_⟩
  · rintro n x y rfl rfl
    refine ⟨State.not_draining, fun ho hlo hhi => ⟨fun hu => ?_, fun hu => ⟨fun hy => ?_, fun hyo hye hylo hyhi => ?_⟩⟩⟩
    · rw [State.draining_eq ho hlo hhi, hu, Bool.true_or]
    · rw [State.draining_eq ho hlo hhi, hu, State.fed_over hy, Bool.or_self]
    · obtain ⟨k, hk⟩ := s.ringDepth_succ
      rw [State.draining_eq ho hlo hhi, hu, hk, State.fed_fetch hyo hye hylo hyhi, Bool.false_or]
  · intro s l fires ends m h hr hf hl hfires hends hm
    have hs := State.settle_spec h hr hf hl
    rw [completionRecord_zero] at hs
    rw [hm, hfires, hends]
    exact hs
  · rintro s l rs rfl rfl
    refine ⟨s.deadlocked_iff, State.checkDeadlock_of_not, fun h hp => ?_⟩
    rw [State.checkDeadlock_of_focus h hp]
    have hx := s.park_mem .f ⟨0x67, 0, 0⟩
    refine ⟨s.park_ctx .f ⟨0x67, 0, 0⟩, ?_, ?_, ?_, s.park_memory .f ⟨0x67, 0, 0⟩, _, hx, rfl, rfl, rfl, rfl, rfl⟩ <;>
      · rw [State.park_eq]
        rfl
  · rintro f s u rfl
    refine ⟨fun h => ⟨_, exec_ehalt h, rfl, rfl, rfl, rfl⟩, fun h => ⟨_, exec_etrap h, ?_⟩⟩
    rw [State.parkE_eq]
    exact ⟨rfl, rfl, rfl, rfl, rfl, rfl, rfl⟩

end Sys2Proof.Machine
end

section
/-! SUPPORT. The slot table (R400), bytes written where nothing is listed (log 2, R112), and the residency in focus (R26). -/

namespace Sys2Proof.Machine

/-! ### The slot table -/

theorem State.updSlot_same (s : State) (e : Fin 416) (f : Slot → Slot) :
    (s.updSlot e f).pkg.slots[e] = f s.pkg.slots[e] := by simp [State.updSlot]

theorem State.updSlot_ne (s : State) {h e : Fin 416} (hn : e ≠ h) (f : Slot → Slot) :
    (s.updSlot h f).pkg.slots[e] = s.pkg.slots[e] := by
  have : h.val ≠ e.val := fun he => hn (Fin.ext he.symm)
  simp [State.updSlot, this]

/-- An entry keeps what a change of any entry keeps. -/
theorem State.updSlot_kept {α : Type} (g : Slot → α) (s : State) (h e : Fin 416) {f : Slot → Slot} (hf : ∀ x, g (f x) = g x) :
    g (s.updSlot h f).pkg.slots[e] = g s.pkg.slots[e] := by
  by_cases he : e = h
  · subst he
    rw [State.updSlot_same, hf]
  · rw [State.updSlot_ne s he]

/-- The slot plan of a bind changes the slot table alone. -/
theorem planFor_eq (s : State) (e : Fin 416) (f : List Byte) :
    planFor s e f = { s with pkg := { s.pkg with slots := (planFor s e f).pkg.slots } } := by
  unfold planFor
  dsimp only
  split
  · rfl
  · split <;> rfl

/-! ### A residency that takes its place, and one that leaves it -/

@[simp] theorem State.install_pkg (s : State) (r : Residency) : (s.install r).pkg = s.pkg := by
  unfold State.install; split <;> rfl
@[simp] theorem State.install_mem (s : State) (r : Residency) : (s.install r).mem = s.mem := by
  unfold State.install; split <;> rfl

theorem State.install_free {s : State} (h : s.r.stage = .free) (r : Residency) : s.install r = { s with r := r } := by
  rw [State.install, if_pos (by rw [h]; rfl)]
theorem State.install_taken {s : State} (h : s.r.stage ≠ .free) (r : Residency) :
    s.install r = { s with others := s.others ++ [r] } := by
  rw [State.install, if_neg (by simpa using h)]

theorem State.mem_all_install (s : State) (r : Residency) : r ∈ (s.install r).all := by
  by_cases h : s.r.stage = .free
  · rw [State.install_free h]
    exact List.mem_cons_self
  · rw [State.install_taken h]
    exact List.mem_cons_of_mem _ (List.mem_append_right _ List.mem_cons_self)

theorem State.mem_others_install {s : State} {x : Residency} (h : x ∈ s.others) (r : Residency) : x ∈ (s.install r).others := by
  by_cases hf : s.r.stage = .free
  · rw [State.install_free hf]
    exact h
  · rw [State.install_taken hf]
    exact List.mem_append_left _ h

/-- The residencies without that of an entry. -/
def State.without (s : State) (e : Fin 416) : State :=
  if s.r.bind.e = e.val then { s with r := .absent } else { s with others := s.others.filter fun r => r.bind.e != e.val }

@[simp] theorem State.without_pkg (s : State) (e : Fin 416) : (s.without e).pkg = s.pkg := by
  unfold State.without; split <;> rfl
@[simp] theorem State.without_mem (s : State) (e : Fin 416) : (s.without e).mem = s.mem := by
  unfold State.without; split <;> rfl
@[simp] theorem State.without_vault (s : State) (e : Fin 416) : (s.without e).vault = s.vault := by
  unfold State.without; split <;> rfl

theorem State.without_own {s : State} {e : Fin 416} (h : s.entry = e.val) : s.without e = { s with r := .absent } := if_pos h
theorem State.without_other {s : State} {e : Fin 416} (h : s.entry ≠ e.val) :
    s.without e = { s with others := s.others.filter fun r => r.bind.e != e.val } := if_neg h

/-- An entry that names no residency. -/
def State.freed (s : State) (e : Fin 416) : State := (s.updSlot e fun x => { x with state := 0 }).without e

/-- Giving up an entry frees it, and at most forgets a slot plan besides. -/
theorem State.vacate_eq (s : State) (e : Fin 416) : ∃ h g, (∀ x : Slot, (g x).state = x.state) ∧
    s.vacate e = (s.freed e).updSlot h g := by
  have hid (t : State) : t = t.updSlot e id := by simp [State.updSlot]
  have hv : s.vacate e = if (s.freed e).all.any (fun r => r.stage != .free && coreOf r.bind.e == coreOf e.val) then s.freed e
      else (s.freed e).updSlot (Fin.ofNat 416 (2 * coreOf e.val)) fun x => { x with plan := 0 } := rfl
  rw [hv]
  split
  · exact ⟨e, id, fun _ => rfl, hid _⟩
  · exact ⟨_, fun x => { x with plan := 0 }, fun _ => rfl, rfl⟩

/-- The slot table and the residencies after an entry has been given up. -/
theorem State.vacate_spec (s : State) (e : Fin 416) : ((s.vacate e).pkg.slots[e]).state = 0 ∧ (s.vacate e).mem = s.mem ∧
    (s.vacate e).vault = s.vault ∧
    (s.entry = e.val → (s.vacate e).r = Residency.absent ∧ (s.vacate e).others = s.others) ∧
    (s.entry ≠ e.val → (s.vacate e).r = s.r ∧ (s.vacate e).others = s.others.filter fun r => r.bind.e != e.val) := by
  obtain ⟨h, g, hg, he⟩ := s.vacate_eq e
  rw [he]
  refine ⟨?_, State.without_mem .., State.without_vault .., fun hs => ?_, fun hs => ?_⟩
  · rw [State.updSlot_kept Slot.state _ h e hg, State.freed, State.without_pkg, State.updSlot_same]
  · rw [State.freed, State.without_own (s := s.updSlot e _) hs]
    exact ⟨rfl, rfl⟩
  · rw [State.freed, State.without_other (s := s.updSlot e _) hs]
    exact ⟨rfl, rfl⟩

@[simp] theorem State.forgetLaunch_r (s : State) (id : W32) : (s.forgetLaunch id).r = s.r := by
  unfold State.forgetLaunch; split <;> rfl
@[simp] theorem State.forgetLaunch_others (s : State) (id : W32) : (s.forgetLaunch id).others = s.others := by
  unfold State.forgetLaunch; split <;> rfl
@[simp] theorem State.forgetLaunch_pkg (s : State) (id : W32) : (s.forgetLaunch id).pkg = s.pkg := by
  unfold State.forgetLaunch; split <;> rfl
@[simp] theorem State.forgetLaunch_mem (s : State) (id : W32) : (s.forgetLaunch id).mem = s.mem := by
  unfold State.forgetLaunch; split <;> rfl

/-! ### The focus -/

/-- The residency in focus stays among all of them when another comes into focus. -/
theorem State.r_mem_focusOn (s : State) (e : Nat) : s.r ∈ (s.focusOn e).all := by
  unfold State.focusOn
  split
  · exact List.mem_cons_self
  · cases hf : s.others.find? fun r => r.bind.e == e with
    | none => exact List.mem_cons_self
    | some r =>
      have he : r.bind.e = e := by simpa using List.find?_some hf
      exact List.mem_cons_of_mem _ (List.mem_map.2 ⟨r, List.mem_of_find?_eq_some hf, if_pos he⟩)

theorem State.focusOn_pkg (s : State) (e : Nat) : (s.focusOn e).pkg = s.pkg := by
  unfold State.focusOn
  split
  · rfl
  · split <;> rfl

/-- A residency that has just taken its place comes into focus, where it is the only one of its entry. -/
theorem State.focusOn_install {s : State} {r : Residency} (h : ∀ x ∈ s.all, x.bind.e ≠ r.bind.e) :
    ((s.install r).focusOn r.bind.e).r = r := by
  by_cases hf : s.r.stage = .free
  · rw [State.install_free hf, State.focusOn, if_pos rfl]
  · have ho : s.others.find? (fun x => x.bind.e == r.bind.e) = none := by
      rw [List.find?_eq_none]
      exact fun x hx => by simpa using h x (List.mem_cons_of_mem _ hx)
    have hs : s.r.bind.e ≠ r.bind.e := h _ List.mem_cons_self
    rw [State.install_taken hf, State.focusOn, if_neg hs]
    dsimp only
    rw [List.find?_append, ho]
    simp

/-! ### Bytes written where nothing is listed -/

/-- No byte is listed for a key. -/
def Memory.unlisted (m : Memory) (k : Nat) : Prop := ∀ p ∈ m.cells, p.1 ≠ k

theorem kvGet_unlisted {d : Byte} {l : List (Nat × Byte)} {k : Nat} (h : ∀ p ∈ l, p.1 ≠ k) : kvGet d l k = d := by
  induction l with
  | nil => rfl
  | cons p l ih => rw [kvGet, if_neg (h p List.mem_cons_self), ih fun q hq => h q (List.mem_cons_of_mem _ hq)]

theorem kvGet_kvSet_unlisted {d v : Byte} {l : List (Nat × Byte)} {k : Nat} (h : ∀ p ∈ l, p.1 ≠ k) :
    kvGet d (kvSet d l k v) k = v := by
  induction l with
  | nil =>
    unfold kvSet
    split
    · next hv => exact hv.symm
    · exact if_pos rfl
  | cons p l ih =>
    have hp : p.1 ≠ k := h p List.mem_cons_self
    have hl : ∀ q ∈ l, q.1 ≠ k := fun q hq => h q (List.mem_cons_of_mem _ hq)
    unfold kvSet
    split
    · split
      · next hv => rw [kvGet, if_neg hp, kvGet_unlisted hl, hv]
      · exact if_pos rfl
    · rw [if_neg (Ne.symm hp), kvGet, if_neg hp, ih hl]

theorem kvSet_unlisted {d v : Byte} {l : List (Nat × Byte)} {k x : Nat} (hx : x ≠ k) (h : ∀ p ∈ l, p.1 ≠ x) :
    ∀ p ∈ kvSet d l k v, p.1 ≠ x := by
  induction l with
  | nil =>
    unfold kvSet
    split <;> simp [Ne.symm hx]
  | cons q l ih =>
    obtain ⟨hq, hl⟩ := List.forall_mem_cons.1 h
    unfold kvSet
    split
    · split
      · exact h
      · exact List.forall_mem_cons.2 ⟨Ne.symm hx, h⟩
    · split
      · split
        · exact hl
        · exact List.forall_mem_cons.2 ⟨Ne.symm hx, hl⟩
      · exact List.forall_mem_cons.2 ⟨hq, ih hl⟩

/-- A key reads the byte written to it where none was listed, whatever else the memory lists. -/
theorem Memory.byte_poke_unlisted {m : Memory} {k : Nat} (h : m.unlisted k) (b : Byte) : (m.poke k b).byte k = b :=
  kvGet_kvSet_unlisted h
theorem Memory.unlisted_poke {m : Memory} {k x : Nat} (h : m.unlisted x) (hx : x ≠ k) (b : Byte) : (m.poke k b).unlisted x :=
  kvSet_unlisted hx h

theorem Memory.unlisted_fill (bs : List Byte) {m : Memory} {k x : Nat} (h : m.unlisted x) (hx : x ∉ keysFrom k bs.length) :
    (m.fill k bs).unlisted x := by
  induction bs generalizing m k with
  | nil => exact h
  | cons b bs ih =>
    simp only [mem_keysFrom, List.length_cons] at hx
    exact ih (Memory.unlisted_poke h (by omega) b) (by rw [mem_keysFrom]; omega)

/-- Bytes written from a key on, where none was listed. -/
theorem Memory.byte_fill_unlisted (bs : List Byte) {m : Memory} {k j : Nat} (h : ∀ x ∈ keysFrom k bs.length, m.unlisted x)
    (hj : j < bs.length) : (m.fill k bs).byte (k + j) = bs.getD j 0 := by
  induction bs generalizing m k j with
  | nil => exact absurd hj (Nat.not_lt_zero _)
  | cons b bs ih =>
    simp only [mem_keysFrom, List.length_cons] at h hj
    cases j with
    | zero =>
      rw [Memory.fill, Memory.byte_fill_ne bs (by rw [mem_keysFrom]; omega)]
      exact Memory.byte_poke_unlisted (h k (by omega)) b
    | succ j =>
      rw [Memory.fill, show k + (j + 1) = k + 1 + j by omega, ih (fun x hx => ?_) (by omega)]
      · rfl
      · rw [mem_keysFrom] at hx
        exact Memory.unlisted_poke (h x (by omega)) (by omega) b

theorem keysFrom_succ (k n : Nat) : keysFrom k (n + 1) = k :: keysFrom (k + 1) n := by
  simp [keysFrom, List.range_succ_eq_map, Nat.add_comm, Nat.add_left_comm]

theorem Memory.pokes_keysFrom (bs : List Byte) (m : Memory) (k : Nat) :
    m.pokes ((keysFrom k bs.length).zip bs) = m.fill k bs := by
  induction bs generalizing m k with
  | nil => simp [Memory.fill, Memory.pokes]
  | cons b bs ih => rw [List.length_cons, keysFrom_succ, List.zip_cons_cons, Memory.pokes, Memory.fill, ih]

/-- Memory holds the bytes written from a key on where none was listed. -/
theorem Memory.bytes_write_unlisted {m : Memory} {k : Nat} {bs : List Byte} (h : ∀ x ∈ keysFrom k bs.length, m.unlisted x) :
    (m.write (keysFrom k bs.length) bs).bytes k bs.length = bs := by
  refine List.ext_getElem (by simp [Memory.bytes]) fun j hj hj' => ?_
  simp only [Memory.bytes, List.getElem_map, List.getElem_range, Memory.write, Memory.byte_rechecks, Memory.byte_mends,
    Memory.pokes_keysFrom]
  rw [Memory.byte_fill_unlisted bs h hj', List.getD_eq_getElem?_getD, List.getElem?_eq_getElem hj', Option.getD_some]

/-- Nothing is listed in what has been scrubbed. -/
theorem Memory.unlisted_scrub (m : Memory) {g n x : Nat} (hlo : 64 * g ≤ x) (hhi : x < 64 * (g + n)) : (m.scrub g n).unlisted x := by
  intro p hp he
  have := (List.mem_filter.1 hp).2
  rw [he] at this
  simp [hlo, hhi] at this

theorem Memory.unlisted_scrub_kept {m : Memory} {x : Nat} (h : m.unlisted x) (g n : Nat) : (m.scrub g n).unlisted x :=
  fun p hp => h p (List.mem_filter.1 hp).1

end Sys2Proof.Machine
end

section
/-! PROOF. Dispatch of a slot-table entry (R402, R404, R429, R433). -/

namespace Sys2Proof.Machine

/-! ### BIND (R402, R404) -/

theorem exec_bind_rejected {e : Fin 416} {s : State} {x : Byte} (hop : byteAt (s.pkg.slots[e]).record 0 = 1)
    (hr : bindReject s e (s.pkg.slots[e]).record false = some x) : exec (.bind e) s = .next (s.reject e x) := by
  have hx : exec (.bind e) s = execBind e s := rfl
  rw [hx, execBind]
  simp only [hop, hr]
  rfl

/-- The state that a bind leaves: the slot plan, the entry bound, its residency in its place. -/
def bound (s : State) (e : Fin 416) (f : List Byte) : State :=
  ((planFor s e f).updSlot e fun x => { x with state := 1 }).install (Residency.fresh (bindOf e f) (8 * (byteAt f 13).toNat))

theorem exec_bind_taken {e : Fin 416} {s : State} {f : List Byte} (hf : f = (s.pkg.slots[e]).record) (hop : byteAt f 0 = 1)
    (hr : bindReject s e f false = .none) : exec (.bind e) s = .next (bound s e f) := by
  subst hf
  have hx : exec (.bind e) s = execBind e s := rfl
  rw [hx, execBind]
  simp only [hop, hr]
  rfl

theorem bound_spec (s : State) (e : Fin 416) (f : List Byte) :
    Residency.fresh (bindOf e f) (8 * (byteAt f 13).toNat) ∈ (bound s e f).all ∧ ((bound s e f).pkg.slots[e]).state = 1 ∧
      (s.r.stage ≠ .free → (bound s e f).r = s.r) ∧ (∀ x ∈ s.others, x ∈ (bound s e f).others) ∧ (bound s e f).mem = s.mem := by
  have hp := planFor_eq s e f
  refine ⟨State.mem_all_install .., ?_, fun hs => ?_, fun x hx => State.mem_others_install ?_ _, ?_⟩
  · rw [bound, State.install_pkg, State.updSlot_same]
  · rw [bound, State.install_taken (by rw [hp]; exact hs), hp]
    rfl
  · rw [hp]
    exact hx
  · rw [bound, State.install_mem, hp]
    rfl

/-! ### UNBIND (R402, R433) -/

theorem exec_unbind_taken {e : Fin 416} {s : State} {r : Residency} (hop : byteAt (s.pkg.slots[e]).record 0 = 2)
    (hn : recordNames e (s.pkg.slots[e]).record = true) (h4 : (s.pkg.slots[e]).state ≠ 4) (hr : s.resAt e.val = some r)
    (hd : r.stage = .done ∨ r.stage = .held ∨ (s.pkg.parts[r.bind.part]).state = .destroying) :
    exec (.unbind e) s = .next ((s.vacate e).forgetLaunch r.bind.launch) := by
  have hx : exec (.unbind e) s = execUnbind e s := rfl
  have hg : (r.stage == .done || r.stage == .held || (s.pkg.parts[r.bind.part]).state == .destroying) = true := by
    simpa only [Bool.or_eq_true, beq_iff_eq, or_assoc] using hd
  have h4' : ((s.pkg.slots[e]).state == 4) = false := by simpa using h4
  rw [hx, execUnbind]
  simp only [hop, hn, h4', hr, hg]
  rfl

/-! ### SAVE (R402, R429) -/

theorem State.updAt_own {s : State} {e : Nat} (h : s.entry = e) (f : Residency → Residency) : s.updAt e f = s.updR f := if_pos h

theorem exec_save_taken {e : Fin 416} {s : State} (hop : byteAt (s.pkg.slots[e]).record 0 = 3)
    (hn : recordNames e (s.pkg.slots[e]).record = true) (h2 : (s.pkg.slots[e]).state = 2) (he : s.entry = e.val) :
    exec (.save e) s = .next ((s.updR fun r => { r with
      stage := .saving
      bind := { r.bind with save := le64 (s.pkg.slots[e]).record 40 }
      watch := { r.watch with saveReq := some s.now } }).updSlot e fun x => { x with state := 3 }) := by
  have hx : exec (.save e) s = execSave e s := rfl
  rw [hx, execSave]
  simp only [hop, hn, h2]
  rw [State.updAt_own he]
  rfl

/-! ### RESTORE (R433) -/

/-- The residency that a restore installs, held. -/
def heldForm (s : State) (e : Fin 416) (f : List Byte) : Residency :=
  let r := restored s (bindOf e f) (le64 f 40).toNat (8 * (byteAt f 13).toNat)
  { r with dm := restoredStore s (le64 f 40).toNat r }

/-- What its sequencer does once its residency stands in its place: scrub, copy, and fetch the bounds of handles again. -/
def reload (e : Fin 416) (f : List Byte) (img size : Nat) (t : State) : State :=
  let t1 := scrubShares t
  let m := t1.mem.moveGranules (((le64 f 40).toNat + 0x50000) / 64) (spadKey e.val 0 / 64) (2048 * (bindOf e f).banks)
  let m1 := (m.fill (wbufKey e.val 0) (m.bytes ((le64 f 40).toNat + 0x550000) (bindOf e f).wbuf)).fill (smemKey e.val 0)
    (m.bytes ((le64 f 40).toNat + 0x590000) (bindOf e f).smem)
  refreshHandles (loadCode { t1 with mem := m1 } (m1.bytes img size))

theorem exec_restore_taken {e : Fin 416} {s : State} {f : List Byte} {k img n : Nat} (hf : f = (s.pkg.slots[e]).record)
    (hop : byteAt f 0 = 4) (hr : bindReject s e f true = .none) (hk : k = (le64 f 40).toNat)
    (hh : headerAgrees (s.mem.bytes k 256) f = true) (himg : img = (le64 (s.mem.bytes k 256) 32).toNat)
    (hn : n = (s.mem.word64 (img + 8)).toNat)
    (hp : inRanges [(s.pkg.parts[(Fin.ofNat 8 (byteAt f 3).toNat)]).priv] img n = true)
    (hc : s.mem.readCause (granulesOf (keysFrom img n)) = .none) (hfit : (bindOf e f).fits (s.mem.bytes img n) = true) :
    exec (.restore e) s = .next ((((planFor s e f).updSlot e fun x => { x with state := 1 }).install (heldForm s e f)).within
      e.val (reload e f img n)) := by
  have hx : exec (.restore e) s = execRestore e s := rfl
  have hp' : inRanges [(s.pkg.parts[(bindOf e f).part]).priv] img n = true := hp
  rw [hx, execRestore]
  simp only [← hf, hop, hr, ← hk, hh, ← himg, ← hn, hp', hc, hfit]
  rw [hk]
  rfl

/-- What reloading keeps of a residency: every register but the handles, and of its bind all but where its code stands. -/
theorem reload_spec (e : Fin 416) (f : List Byte) (img n : Nat) (t : State) : (reload e f img n t).pkg = t.pkg ∧
    (reload e f img n t).others = t.others ∧
    (reload e f img n t).r = { t.r with bind := (reload e f img n t).r.bind, h := (reload e f img n t).r.h } ∧
    (reload e f img n t).r.bind.e = t.r.bind.e ∧ (reload e f img n t).r.bind.launch = t.r.bind.launch :=
  ⟨rfl, rfl, rfl, rfl, rfl⟩

/-- What a restore takes from the save area of the registers that R431 places in it. -/
theorem heldForm_spec (s : State) (e : Fin 416) (f : List Byte) {k : Nat} (hk : k = (le64 f 40).toNat) :
    (heldForm s e f).stage = .held ∧ (heldForm s e f).f.pc = le32 (s.mem.bytes (k + 0x1000) 0x800) 0x100 ∧
      (∀ i : Fin 32, (heldForm s e f).f.a[i] = le64 (s.mem.bytes (k + 0x1000) 0x800) (8 * i.val)) ∧
      (∀ i : Fin 32, (heldForm s e f).d.a[i] = le64 (s.mem.bytes (k + 0x1800) 0x800) (8 * i.val)) ∧
      ∀ i : Fin 32, (heldForm s e f).ep.s[i] = le32 (s.mem.bytes (k + 0x2000) 0x2000) (8 + 4 * i.val) := by
  rw [hk]
  exact ⟨rfl, rfl, fun i => Vector.getElem_ofFn .., fun i => Vector.getElem_ofFn .., fun i => Vector.getElem_ofFn ..⟩

theorem State.within_eq (s : State) (e : Nat) (g : State → State) : s.within e g = (g (s.focusOn e)).focusOn s.r.bind.e := rfl

/-- The state in which a restored residency has taken its place. -/
def restoring (s : State) (e : Fin 416) (f : List Byte) : State :=
  ((planFor s e f).updSlot e fun x => { x with state := 1 }).install (heldForm s e f)

/-- A restore leaves its residency, held, with the registers of the save area. -/
theorem restoring_spec {s : State} {e : Fin 416} (f : List Byte) (img n : Nat) (h : ∀ r ∈ s.all, r.bind.e ≠ e.val) :
    ∃ r ∈ ((restoring s e f).within e.val (reload e f img n)).all, r.bind.e = e.val ∧ r.bind.launch = le32 f 16 ∧
      r = { heldForm s e f with bind := r.bind, h := r.h } ∧
      (((restoring s e f).within e.val (reload e f img n)).pkg.slots[e]).state = 1 := by
  have hp := planFor_eq s e f
  have hall : ((planFor s e f).updSlot e fun x => { x with state := 1 }).all = s.all := by rw [hp]; rfl
  have hfocus : ((restoring s e f).focusOn e.val).r = heldForm s e f :=
    State.focusOn_install (r := heldForm s e f) fun x hx => h x (hall ▸ hx)
  obtain ⟨hk, -, hr, he, hl⟩ := reload_spec e f img n ((restoring s e f).focusOn e.val)
  rw [hfocus] at hr he hl
  rw [State.within_eq]
  refine ⟨_, State.r_mem_focusOn .., he, hl, hr, ?_⟩
  rw [State.focusOn_pkg, hk, State.focusOn_pkg, restoring, State.install_pkg, State.updSlot_same]

end Sys2Proof.Machine
end

section
/-! PROOF. Loading a residency and applying its launch record (R34 to R36, R404). -/

namespace Sys2Proof.Machine

/-! ### OVERLAY_LOAD -/

theorem exec_overlayLoad_taken {s : State} {f : List Byte} (hl : s.r.stage = .loading) (hw : imageWaits s = false)
    (hi : imageCopy s = some f) (hc : codeFits s f = true) :
    exec .overlayLoad s = .next ((loadCode (scrubShares s) f).updR fun r => { r with stage := .loaded }) := by
  have hx : exec .overlayLoad s = execOverlayLoad s := rfl
  rw [hx, execOverlayLoad]
  simp only [hl, hw, hi, hc]
  rfl

/-- The instruction memories of an entry are scrubbed whole. -/
theorem unlisted_apim_scrubShares (s : State) {j : Nat} (h : j < 65536) : (scrubShares s).mem.unlisted (apimKey s.entry j) := by
  have hs (m : Memory) : (m.scrub (apimKey s.entry 0 / 64) 1024).unlisted (apimKey s.entry j) :=
    Memory.unlisted_scrub m (by simp only [apimKey]; omega) (by simp only [apimKey]; omega)
  exact Memory.unlisted_scrub_kept (Memory.unlisted_scrub_kept (Memory.unlisted_scrub_kept (hs _) _ _) _ _) _ _

theorem unlisted_epim_scrubShares (s : State) {j : Nat} (h : j < 131072) : (scrubShares s).mem.unlisted (epimKey s.entry j) := by
  have hs (m : Memory) : (m.scrub (epimKey s.entry 0 / 64) 2048).unlisted (epimKey s.entry j) :=
    Memory.unlisted_scrub m (by simp only [epimKey]; omega) (by simp only [epimKey]; omega)
  exact Memory.unlisted_scrub_kept (Memory.unlisted_scrub_kept (hs _) _ _) _ _

theorem apimKey_add (e o j : Nat) : apimKey e (o + j) = apimKey e o + j := (Nat.add_assoc ..).symm
theorem epimKey_add (e o j : Nat) : epimKey e (o + j) = epimKey e o + j := (Nat.add_assoc ..).symm

theorem le_alignUp (n : Nat) : n ≤ alignUp n 64 := by
  unfold alignUp
  omega

/-- The instruction memories hold the code that has been copied into them. -/
theorem loadCode_scrubShares (s : State) (f : List Byte)
    (ha : alignUp (imgSection f 1).length 64 + (imgSection f 2).length ≤ 65536) (he : (imgSection f 3).length ≤ 131072) (j : Nat) :
    (j < (imgSection f 1).length → (loadCode (scrubShares s) f).mem.byte (apimKey s.entry j) = (imgSection f 1).getD j 0) ∧
    (j < (imgSection f 2).length → (loadCode (scrubShares s) f).mem.byte
      (apimKey s.entry (alignUp (imgSection f 1).length 64 + j)) = (imgSection f 2).getD j 0) ∧
    (j < (imgSection f 3).length → (loadCode (scrubShares s) f).mem.byte (epimKey s.entry j) = (imgSection f 3).getD j 0) := by
  have hle := le_alignUp (imgSection f 1).length
  have hm : (loadCode (scrubShares s) f).mem = (((scrubShares s).mem.fill (apimKey s.entry 0) (imgSection f 1)).fill
      (apimKey s.entry (alignUp (imgSection f 1).length 64)) (imgSection f 2)).fill (epimKey s.entry 0) (imgSection f 3) := rfl
  rw [hm]
  generalize alignUp (imgSection f 1).length 64 = base at ha hle
  generalize imgSection f 1 = a at ha hle
  generalize imgSection f 2 = d at ha
  generalize imgSection f 3 = p at he
  have hap {x : Nat} (h : x < 65536) : apimKey s.entry x ∉ keysFrom (epimKey s.entry 0) p.length := by
    simp only [mem_keysFrom, apimKey, epimKey]
    omega
  have hpa {x o n : Nat} (h : o + n ≤ 65536) : epimKey s.entry x ∉ keysFrom (apimKey s.entry o) n := by
    simp only [mem_keysFrom, apimKey, epimKey]
    omega
  refine ⟨fun hj => ?_, fun hj => ?_, fun hj => ?_⟩
  · rw [Memory.byte_fill_ne p (hap (by omega)), Memory.byte_fill_ne d (by simp only [mem_keysFrom, apimKey]; omega)]
    have h0 := apimKey_add s.entry 0 j
    rw [Nat.zero_add] at h0
    rw [h0]
    refine Memory.byte_fill_unlisted a (fun x hx => ?_) hj
    obtain ⟨y, hy, rfl⟩ := List.mem_map.1 hx
    have := List.mem_range.1 hy
    rw [← apimKey_add]
    exact unlisted_apim_scrubShares s (by omega)
  · rw [Memory.byte_fill_ne p (hap (by omega)), apimKey_add]
    refine Memory.byte_fill_unlisted d (fun x hx => ?_) hj
    obtain ⟨y, hy, rfl⟩ := List.mem_map.1 hx
    have := List.mem_range.1 hy
    rw [← apimKey_add]
    exact Memory.unlisted_fill a (unlisted_apim_scrubShares s (by omega)) (by simp only [mem_keysFrom, apimKey]; omega)
  · have h0 := epimKey_add s.entry 0 j
    rw [Nat.zero_add] at h0
    rw [h0]
    refine Memory.byte_fill_unlisted p (fun x hx => ?_) hj
    obtain ⟨y, hy, rfl⟩ := List.mem_map.1 hx
    have := List.mem_range.1 hy
    rw [← epimKey_add]
    exact Memory.unlisted_fill d (Memory.unlisted_fill a (unlisted_epim_scrubShares s (by omega)) (hpa (by omega))) (hpa ha)

/-! ### LAUNCH_RECORD_APPLY -/

/-- The state after the launch record has been applied whose handles and streams stand in s3. -/
def recordApplied (s s3 : State) (l : List Byte) : State :=
  ((initialRegs s3 l).updMine fun x => fixStart s.tick { x with applied := s.r.bind.lcore :: x.applied }).updSlot
    (Fin.ofNat 416 s.entry) fun x => { x with state := 2 }

theorem exec_launchRecordApply_taken {s s1 s2 s3 : State} {f l : List Byte} (hm : mayApply s = true) (hi : imageCopy s = some f)
    (hl : l = imgSection f 4) (h1 : loadHandles l (List.range (recHandles l)) s = .ok s1)
    (h2 : openStreams l false (List.range (recStreams l)) s1 = .ok s2)
    (h3 : openStreams l true (List.range (recStreams l)) s2 = .ok s3) :
    exec .launchRecordApply s = .next (recordApplied s s3 l) := by
  have hx : exec .launchRecordApply s = execLaunchRecordApply s := rfl
  rw [hx, execLaunchRecordApply]
  simp only [hm, hi, ← hl, h1, h2, h3, ok_bind]
  rfl

end Sys2Proof.Machine
end

section
/-! PROOF. RUN, forced saves and the end of a save (R429 to R433). -/

namespace Sys2Proof.Machine

/-! ### What completion and RUN leave of the package -/

/-- The slot table and the firmware's own values are as before. -/
def State.tablesKept (s t : State) : Prop := t.pkg.slots = s.pkg.slots ∧ t.pkg.fw = s.pkg.fw

theorem State.tablesKept.trans {s t u : State} (h : s.tablesKept t) (h' : t.tablesKept u) : s.tablesKept u :=
  ⟨h'.1.trans h.1, h'.2.trans h.2⟩

theorem State.tablesKept_fireEarly (s : State) : s.tablesKept s.fireEarly := by
  rw [State.fireEarly_eq]
  split <;> exact ⟨rfl, rfl⟩
theorem State.tablesKept_endIfComplete (s : State) : s.tablesKept s.endIfComplete := by
  unfold State.endIfComplete
  split <;> exact ⟨rfl, rfl⟩

theorem State.fireEarly_r (s : State) : s.fireEarly.r = s.r := by
  rw [State.fireEarly_eq]
  split <;> rfl
theorem State.endIfComplete_r (s : State) : s.endIfComplete.r = s.r := by
  unfold State.endIfComplete
  split <;> rfl

/-- The completion of a residency keeps the tables and the bind. -/
theorem State.settle_kept (s : State) : s.tablesKept s.settle ∧ s.settle.r.bind = s.r.bind := by
  by_cases h : s.r.stage = .running ∧ s.finished = true
  · rw [State.settle_finished h.1 h.2]
    have hc : s.tablesKept s.counted := ⟨rfl, rfl⟩
    refine ⟨(hc.trans s.counted.tablesKept_fireEarly).trans (State.tablesKept_endIfComplete _), ?_⟩
    rw [State.endIfComplete_r, State.fireEarly_r]
    rfl
  · rw [not_and_or, Bool.not_eq_true] at h
    rw [State.settle_of_not_finished h]
    exact ⟨⟨rfl, rfl⟩, rfl⟩

/-! ### Overruns that were owed (R165, R166) -/

/-- One group pays what it owes the core in focus. -/
def State.payGroup (c : Nat) (t : State) (x : Group) : State :=
  match x.part c, t.r.groupSlot x.num with
  | some m, some j =>
    if m.owed = 0 then t
    else (t.updR fun r => { r with bovr := addOverrun r.bovr j m.owed }).updGroup x.num fun y =>
      y.updPart c fun m => { m with owed := 0 }
  | _, _ => t

theorem State.payOverruns_eq (s : State) : s.payOverruns = s.launch.groups.foldl (State.payGroup s.r.bind.lcore) s := rfl

/-- t is s but for launches and the overruns of the residency in focus. -/
def State.paidFrom (s t : State) : Prop := t = { s with r := { s.r with bovr := t.r.bovr }, launches := t.launches }

theorem State.paidFrom.trans {s t u : State} (h : s.paidFrom t) (h' : t.paidFrom u) : s.paidFrom u := by
  unfold State.paidFrom at h h' ⊢
  rw [h', h]

theorem State.paidFrom_payGroup (c : Nat) (t : State) (x : Group) : t.paidFrom (t.payGroup c x) := by
  unfold State.payGroup
  split
  · split <;> rfl
  · rfl

theorem State.payGroup_unowed {c : Nat} {t : State} {x : Group} (h : ∀ m, x.part c = some m → m.owed = 0) : t.payGroup c x = t := by
  unfold State.payGroup
  split
  · next m j hm hj => rw [if_pos (h m hm)]
  · rfl

theorem foldl_payGroup_paidFrom (c : Nat) (xs : List Group) (t : State) : t.paidFrom (xs.foldl (State.payGroup c) t) := by
  induction xs generalizing t with
  | nil => rfl
  | cons x xs ih => exact (t.paidFrom_payGroup c x).trans (ih _)

theorem foldl_payGroup_unowed {c : Nat} {xs : List Group} (h : ∀ x ∈ xs, ∀ m, x.part c = some m → m.owed = 0) (t : State) :
    xs.foldl (State.payGroup c) t = t := by
  induction xs with
  | nil => rfl
  | cons x xs ih =>
    rw [List.foldl_cons, State.payGroup_unowed (h x List.mem_cons_self), ih fun y hy => h y (List.mem_cons_of_mem _ hy)]

theorem State.payOverruns_paidFrom (s : State) : s.paidFrom s.payOverruns := foldl_payGroup_paidFrom ..

/-! ### RUN (R433) -/

/-- A held residency starts. -/
def State.startHeld (t : State) (r : Residency) : State :=
  refile ((t.updAt r.bind.e fun x => { x with stage := .running }).updSlot (Fin.ofNat 416 r.bind.e) fun x => { x with state := 2 }) r

/-- It starts, and completes at once where its work was done. -/
def State.startRun (t : State) (r : Residency) : State := (t.startHeld r).within r.bind.e fun t => t.payOverruns.settle

/-- The state in which the firmware has noted that a launch runs. -/
def State.runNoted (s : State) (id : W32) : State :=
  { s with pkg := { s.pkg with fw := { s.pkg.fw with runLaunch := id, runStarted := true } } }

theorem exec_run_started {s : State} {id : W32} {n : Nat} {rs : List Residency} (hn : n ≠ 0) (hl : rs.length = n)
    (hb : ∀ r ∈ rs, r.bind.n = n) (hrs : (s.all.filter fun r => r.stage == .held && r.bind.launch == id) = rs) :
    exec (.run id) s = .next (rs.foldl State.startRun (s.runNoted id)) := by
  have hx : exec (.run id) s = execRun id s := rfl
  rw [hx, execRun]
  simp only [hrs]
  cases rs with
  | nil => exact absurd hl.symm hn
  | cons r rs =>
    have hr : ((r :: rs).length == r.bind.n) = true := by rw [hb r List.mem_cons_self, hl, beq_self_eq_true]
    simp only [hr]
    rfl

theorem refile_tables (s : State) (r : Residency) : s.tablesKept (refile s r) ∧ (refile s r).r = s.r ∧ (refile s r).mem = s.mem ∧
    (refile s r).launches = s.launches := by
  unfold refile
  split <;> exact ⟨⟨rfl, rfl⟩, rfl, rfl, rfl⟩

theorem State.updAt_pkg (s : State) (e : Nat) (f : Residency → Residency) : (s.updAt e f).pkg = s.pkg := by
  unfold State.updAt
  split <;> rfl

/-- A residency that starts has its entry run, and every other entry that runs goes on. -/
theorem State.startRun_tables (t : State) (r : Residency) : (t.startRun r).pkg.fw = t.pkg.fw ∧
    ((t.startRun r).pkg.slots[(Fin.ofNat 416 r.bind.e)]).state = 2 ∧
    ∀ e : Fin 416, (t.pkg.slots[e]).state = 2 → ((t.startRun r).pkg.slots[e]).state = 2 := by
  have hpay (u : State) : u.tablesKept u.payOverruns.settle := by
    have hp : u.tablesKept u.payOverruns := by rw [u.payOverruns_paidFrom]; exact ⟨rfl, rfl⟩
    exact hp.trans (State.settle_kept _).1
  have hk : (t.startHeld r).tablesKept (t.startRun r) := by
    unfold State.tablesKept
    rw [State.startRun, State.within_eq, State.focusOn_pkg, (hpay _).1, (hpay _).2, State.focusOn_pkg]
    exact ⟨rfl, rfl⟩
  have hh := (refile_tables ((t.updAt r.bind.e fun x => { x with stage := .running }).updSlot (Fin.ofNat 416 r.bind.e)
    fun x => { x with state := 2 }) r).1
  obtain ⟨hs, hf⟩ := State.tablesKept.trans hh hk
  rw [hs, hf]
  refine ⟨?_, ?_, fun e he => ?_⟩
  · show (t.updAt r.bind.e _).pkg.fw = _
    rw [State.updAt_pkg]
  · rw [State.updSlot_same]
  · by_cases hn : e = Fin.ofNat 416 r.bind.e
    · rw [hn, State.updSlot_same]
    · rw [State.updSlot_ne _ hn, State.updAt_pkg, he]

theorem foldl_startRun_tables (rs : List Residency) (t : State) : (rs.foldl State.startRun t).pkg.fw = t.pkg.fw ∧
    (∀ e : Fin 416, (t.pkg.slots[e]).state = 2 → ((rs.foldl State.startRun t).pkg.slots[e]).state = 2) ∧
    ∀ r ∈ rs, ((rs.foldl State.startRun t).pkg.slots[(Fin.ofNat 416 r.bind.e)]).state = 2 := by
  induction rs generalizing t with
  | nil => exact ⟨rfl, fun _ h => h, by simp⟩
  | cons x rs ih =>
    obtain ⟨hfw, hown, hkept⟩ := t.startRun_tables x
    obtain ⟨ihfw, ihkept, ihrs⟩ := ih (t.startRun x)
    rw [List.foldl_cons]
    refine ⟨ihfw.trans hfw, fun e he => ihkept e (hkept e he), fun r hr => ?_⟩
    obtain hr | hr := List.mem_cons.1 hr
    · rw [hr]
      exact ihkept (Fin.ofNat 416 x.bind.e) hown
    · exact ihrs r hr

/-- The state that the residency in focus stands in once it has started and been paid what it was owed. -/
theorem State.startRun_own (t : State) : t.startRun t.r = (t.startHeld t.r).payOverruns.settle ∧
    (t.startHeld t.r).payOverruns.r = { t.r with stage := .running, bovr := (t.startHeld t.r).payOverruns.r.bovr } ∧
    (t.startHeld t.r).payOverruns.mem = t.mem ∧
    ((∀ x ∈ t.launch.groups, ∀ m, x.part t.r.bind.lcore = some m → m.owed = 0) →
      (t.startHeld t.r).payOverruns.r.bovr = t.r.bovr) := by
  have hu : t.updAt t.r.bind.e (fun x => { x with stage := .running }) = t.updR fun x => { x with stage := .running } :=
    State.updAt_own rfl _
  obtain ⟨-, hr, hm, hl⟩ := refile_tables ((t.updAt t.r.bind.e fun x => { x with stage := .running }).updSlot
    (Fin.ofNat 416 t.r.bind.e) fun x => { x with state := 2 }) t.r
  change (t.startHeld t.r).r = _ at hr
  change (t.startHeld t.r).mem = _ at hm
  change (t.startHeld t.r).launches = _ at hl
  rw [hu] at hr hm hl
  have hp := (t.startHeld t.r).payOverruns_paidFrom
  have hpr : (t.startHeld t.r).payOverruns.r = { t.r with stage := .running, bovr := (t.startHeld t.r).payOverruns.r.bovr } := by
    conv_lhs => rw [hp]
    rw [hr]
    rfl
  have he : (t.startHeld t.r).r.bind.e = t.r.bind.e := by rw [hr]; rfl
  refine ⟨?_, hpr, ?_, fun h => ?_⟩
  · rw [State.startRun, ← he]
    exact State.within_own _ (by rw [(State.settle_kept _).2, hpr, he])
  · rw [hp]
    exact hm
  · rw [State.payOverruns_eq, foldl_payGroup_unowed, hr]
    · rfl
    · intro x hx
      rw [hr]
      have hla : (t.startHeld t.r).launch = t.launch := by
        rw [State.launch, hl, hr]
        rfl
      exact h x (hla ▸ hx)

end Sys2Proof.Machine
end

section
/-! PROOF. Forced saves and the end of a save (R429 to R432). -/

namespace Sys2Proof.Machine

/-! ### FORCED_SAVE (R430) -/

/-- E is saved where it stands: its latches are lost. -/
def State.saveForced (s : State) : State :=
  (s.updWatch fun w => { w with forced := true }).updE fun e => { e with b := Vector.replicate 16 none }

theorem exec_forcedSave_taken {s : State} {b : Nat} (hs : s.r.stage = .saving) (hq : s.r.watch.saveReq = some b)
    (he : s.r.eAtRest = false) (hf : s.r.watch.forced = false) (hb : b + s.pkg.fw.saveLimit.toNat ≤ s.now) :
    exec .forcedSave s = .next (s.saveForced.record 4 2 0xFF 0 0 ⟨0x78, 0, 0⟩ .whole) := by
  have hx : exec .forcedSave s = execForcedSave s := rfl
  have hd : decide (b + s.pkg.fw.saveLimit.toNat ≤ s.now) = true := decide_eq_true hb
  rw [hx, execForcedSave]
  simp only [hq, hs, he, hf, hd]
  rfl

/-! ### The bytes of a save area (R431, R432) -/

theorem Memory.bytes_drop_take (m : Memory) {k o c n : Nat} (h : o + c ≤ n) : m.bytes (k + o) c = ((m.bytes k n).drop o).take c := by
  refine List.ext_getElem (by simp [Memory.bytes]; omega) fun j hj hj' => ?_
  simp [Memory.bytes, Nat.add_assoc]

/-- Parts written past the first bytes of an area leave those. -/
theorem foldl_devWrite_spec (k : Nat) (ps : List (Nat × List Byte)) (s : State) :
    ps.foldl (fun t p => t.devWrite (k + p.1) p.2) s =
      { s with mem := (ps.foldl (fun t p => t.devWrite (k + p.1) p.2) s).mem } ∧
    ∀ n, (∀ p ∈ ps, n ≤ p.1) → (ps.foldl (fun t p => t.devWrite (k + p.1) p.2) s).mem.bytes k n = s.mem.bytes k n := by
  induction ps generalizing s with
  | nil => exact ⟨rfl, fun _ _ => rfl⟩
  | cons p ps ih =>
    obtain ⟨heq, hbytes⟩ := ih (s.devWrite (k + p.1) p.2)
    rw [List.foldl_cons]
    refine ⟨heq, fun n hn => ?_⟩
    have hp := hn p List.mem_cons_self
    rw [hbytes n fun q hq => hn q (List.mem_cons_of_mem _ hq)]
    exact Memory.bytes_write_disjoint _ fun x hx => by rw [mem_keysFrom] at hx ⊢; omega

theorem Memory.keptBut_moveGranules (m : Memory) (src dst n : Nat) :
    m.keptBut (m.moveGranules src dst n) (keysFrom (64 * dst) (64 * n)) := by
  induction n with
  | zero => exact fun _ _ => rfl
  | succ n ih =>
    intro x hx
    rw [mem_keysFrom] at hx
    rw [Memory.moveGranules, Memory.byte_setFull, Memory.keptBut_writeGranule _ _ (Memory.length_granule ..) _ x
      (by rw [mem_keysFrom]; omega), ih x (by rw [mem_keysFrom]; omega)]

theorem saveHeader_length (s : State) (r : Residency) (b : Bool) : (saveHeader s r b).length = 48 := by
  simp [saveHeader, Bind.shares]

theorem saveHeader_magic (s : State) (r : Residency) (b : Bool) :
    (saveHeader s r b).take 6 = [0x4B, 0x53, 0x56, 0x31, 1, 0] ∧
      ((saveHeader s r b).drop 8).take 4 = leBytes 4 r.bind.launch.toNat := ⟨rfl, rfl⟩

/-- The header stands first in a save area, the other parts past its page. -/
theorem saveParts_eq (s : State) (r : Residency) (id : Nat) (b : Bool) : ∃ ps, saveParts s r id b = (0, saveHeader s r b) :: ps ∧
    ∀ p ∈ ps, 48 ≤ p.1 := by
  refine ⟨_, rfl, ?_⟩
  simp only [List.forall_mem_cons, List.not_mem_nil, false_imp_iff, implies_true, and_true]
  omega

/-! ### SAVE_COMPLETE -/

/-- The state in which every part but the scratchpad share has been written to the save area. -/
def State.partsSaved (s : State) : State :=
  (saveParts s (savedForm s.r) s.vaultId s.faulted).foldl (fun t p => t.devWrite (s.r.bind.save.toNat + p.1) p.2)
    { s with mem := s.mem.scrub (s.r.bind.save.toNat / 64) 98304 }

/-- The state in which the save is complete, its entry not yet given up. -/
def State.areaSaved (s : State) : State :=
  let keep (f : FaultRec) : Option FaultRec :=
    if f.isOf s.r.bind then (if f.seq.isNone then some { f with item := .gone } else none) else some f
  let s2 : State := { s.partsSaved with
    mem := s.partsSaved.mem.moveGranules (spadKey s.entry 0 / 64) ((s.r.bind.save.toNat + 0x50000) / 64) (2048 * s.r.bind.banks)
    vault := ⟨s.vaultId, savedForm s.r, s.faultsHere⟩ :: s.partsSaved.vault }
  s2.updPart s2.r.bind.part fun p => { p with faults := p.faults.filterMap keep }

theorem exec_saveComplete_taken {s : State} (hr : s.r.saveReady = true) (hf : s.r.f.wake ≤ s.now) (hd : s.r.d.wake ≤ s.now)
    (hw : rangeWaits s s.r.bind.save.toNat (98304 * 64) = false) :
    exec .saveComplete s = .next (s.areaSaved.vacate (Fin.ofNat 416 s.entry)) := by
  have hx : exec .saveComplete s = execSaveComplete s := rfl
  have hf' : decide (s.now < s.r.f.wake) = false := decide_eq_false (Nat.not_lt.2 hf)
  have hd' : decide (s.now < s.r.d.wake) = false := decide_eq_false (Nat.not_lt.2 hd)
  rw [hx, execSaveComplete]
  simp only [hr, hf', hd', hw]
  rfl

theorem State.partsSaved_eq (s : State) : s.partsSaved = { s with mem := s.partsSaved.mem } := by
  unfold State.partsSaved
  generalize saveParts s (savedForm s.r) s.vaultId s.faulted = ps
  exact (foldl_devWrite_spec _ ps { s with mem := s.mem.scrub (s.r.bind.save.toNat / 64) 98304 }).1

/-- Granules moved past the first bytes of an area leave those. -/
theorem Memory.bytes_moveGranules (m : Memory) {k c n dst : Nat} (src : Nat) (h : k + n ≤ 64 * dst) :
    (m.moveGranules src dst c).bytes k n = m.bytes k n := by
  refine List.map_congr_left fun i hi => m.keptBut_moveGranules src dst c _ ?_
  rw [List.mem_range] at hi
  rw [mem_keysFrom]
  omega

/-- A header written first to a scrubbed area stands there once all parts are written. -/
theorem foldl_devWrite_header {k n : Nat} {hdr : List Byte} {ps : List (Nat × List Byte)} (s : State) (hfar : ∀ p ∈ ps, hdr.length ≤ p.1)
    (hn : hdr.length + 64 ≤ 64 * n) :
    (((0, hdr) :: ps).foldl (fun (t : State) p => t.devWrite (k + p.1) p.2) { s with mem := s.mem.scrub (k / 64) n }).mem.bytes k hdr.length =
      hdr := by
  rw [List.foldl_cons, (foldl_devWrite_spec ..).2 _ hfar]
  refine Memory.bytes_write_unlisted fun x hx => ?_
  simp only [Nat.add_zero, mem_keysFrom] at hx
  exact Memory.unlisted_scrub _ (by omega) (by omega)

/-- The first bytes of the save area are the header (R432). -/
theorem State.areaSaved_header (s : State) :
    s.areaSaved.mem.bytes s.r.bind.save.toNat 48 = saveHeader s (savedForm s.r) s.faulted := by
  obtain ⟨ps, hps, hfar⟩ := saveParts_eq s (savedForm s.r) s.vaultId s.faulted
  have hlen := saveHeader_length s (savedForm s.r) s.faulted
  have hm : s.areaSaved.mem = s.partsSaved.mem.moveGranules (spadKey s.entry 0 / 64) ((s.r.bind.save.toNat + 0x50000) / 64)
    (2048 * s.r.bind.banks) := rfl
  have hfit : s.r.bind.save.toNat + 48 ≤ 64 * ((s.r.bind.save.toNat + 0x50000) / 64) := by omega
  rw [hm, Memory.bytes_moveGranules _ _ hfit, State.partsSaved, hps, ← hlen]
  exact foldl_devWrite_header s (hlen ▸ hfar) (by omega)

end Sys2Proof.Machine
end

section
/-! PROOF. A launch descriptor is refused or taken (R397 to R400, R403). -/

namespace Sys2Proof.Machine

/-! ### Lists without repetition -/

theorem length_eraseDups_le {α : Type} [BEq α] (l : List α) : l.eraseDups.length ≤ l.length := by
  match l with
  | [] => simp
  | a :: l =>
    have hf := List.length_filter_le (fun b => !b == a) l
    have := length_eraseDups_le (l.filter fun b => !b == a)
    rw [List.eraseDups_cons, List.length_cons, List.length_cons]
    omega
termination_by l.length
decreasing_by exact Nat.lt_succ_of_le hf

/-- A list from which nothing is dropped repeats nothing. -/
theorem nodup_of_length_eraseDups {α : Type} [BEq α] [LawfulBEq α] {l : List α} (h : l.eraseDups.length = l.length) : l.Nodup := by
  induction l with
  | nil => exact List.nodup_nil
  | cons a l ih =>
    rw [List.eraseDups_cons, List.length_cons, List.length_cons] at h
    have hle := length_eraseDups_le (l.filter fun b => !b == a)
    have hlf := List.length_filter_le (fun b => !b == a) l
    have hall : ∀ b ∈ l, (!b == a) = true := List.length_filter_eq_length_iff.1 (by omega)
    have hsame : l.filter (fun b => !b == a) = l := List.filter_eq_self.2 hall
    rw [hsame] at h
    refine List.nodup_cons.2 ⟨fun ha => ?_, ih (by omega)⟩
    simpa using hall a ha

/-! ### Records written into the slot table -/

/-- Write one record into the entry of each core. -/
def State.records (r : State → Fin 416 → Nat → List Byte) (s : State) (x : Fin 416 × Nat) : State :=
  s.updSlot x.1 fun t => { t with record := r s x.1 x.2 }

/-- Records of distinct entries stand in the slot table, and nothing else has changed. -/
theorem foldl_records {r : State → Fin 416 → Nat → List Byte} {g : Fin 416 → Nat → List Byte} (xs : List (Fin 416 × Nat))
    {s : State} (hr : ∀ t, t.pkg.parts = s.pkg.parts → r t = g) :
    xs.foldl (State.records r) s = { s with pkg := { s.pkg with slots := (xs.foldl (State.records r) s).pkg.slots } } ∧
      (∀ e, (∀ x ∈ xs, x.1 ≠ e) → (xs.foldl (State.records r) s).pkg.slots[e] = s.pkg.slots[e]) ∧
      ((xs.map Prod.fst).Nodup → ∀ x ∈ xs, ((xs.foldl (State.records r) s).pkg.slots[x.1]).record = g x.1 x.2) := by
  induction xs generalizing s with
  | nil => exact ⟨rfl, fun _ _ => rfl, fun _ x hx => absurd hx (List.not_mem_nil)⟩
  | cons x xs ih =>
    obtain ⟨heq, hne, hrec⟩ := ih (s := State.records r s x) hr
    rw [List.foldl_cons]
    refine ⟨heq, fun e he => ?_, fun hn y hy => ?_⟩
    · rw [hne e fun y hy => he y (List.mem_cons_of_mem _ hy)]
      exact State.updSlot_ne s (Ne.symm (he x List.mem_cons_self)) _
    · rw [List.map_cons, List.nodup_cons] at hn
      obtain rfl | hy := List.mem_cons.1 hy
      · have hnot : ∀ z ∈ xs, z.1 ≠ y.1 := fun z hz he => hn.1 (List.mem_map.2 ⟨z, hz, he⟩)
        rw [hne y.1 hnot, ← hr s rfl]
        exact congrArg Slot.record (State.updSlot_same s y.1 _)
      · exact hrec hn.2 y hy

/-- A bind record takes of the package whether the partition is strict. -/
theorem bindRecord_congr {s t : State} (h : t.pkg.parts = s.pkg.parts) (p : Fin 8) (d f : List Byte) (id : W32) (area : W64) :
    bindRecord t p d f id area = bindRecord s p d f id area := by
  have hs : (t.pkg.parts[p]).strict = (s.pkg.parts[p]).strict := by rw [h]
  funext e c
  unfold bindRecord
  rw [hs]

/-! ### LAUNCH_DESCRIPTOR_TAKE -/

section
variable {p : Fin 8} {q : Fin 4} {place : List (Fin 416)} {id : W32} {area : W64} {aff : List (Fin 192)} {s : State}
  {lq : LaunchQueue} {d : List Byte}

/-- The queue holds a descriptor that the firmware can read. -/
def descriptorThere (p : Fin 8) (q : Fin 4) (s : State) (d : List Byte) : Prop :=
  (!s.inService || (s.pkg.parts[p]).state != .active || (s.pkg.parts[p]).ring ((s.pkg.parts[p]).lq[q]).base 128 = 0 ||
      ((s.pkg.parts[p]).lq[q]).head == ((s.pkg.parts[p]).lq[q]).tail ||
      regionWaits s (ringKey ((s.pkg.parts[p]).lq[q]).base 128 ((s.pkg.parts[p]).lq[q]).head.toNat)) = false ∧
    d = s.mem.bytes (ringKey ((s.pkg.parts[p]).lq[q]).base 128 ((s.pkg.parts[p]).lq[q]).head.toNat) 128

theorem descriptorThere_intro (hlq : lq = (s.pkg.parts[p]).lq[q]) (hs : s.inService = true) (ha : (s.pkg.parts[p]).state = .active)
    (hb : (s.pkg.parts[p]).ring lq.base 128 ≠ 0) (ht : lq.head ≠ lq.tail)
    (hw : regionWaits s (ringKey lq.base 128 lq.head.toNat) = false)
    (hd : d = s.mem.bytes (ringKey lq.base 128 lq.head.toNat) 128) : descriptorThere p q s d := by
  rw [hlq] at hb ht hw hd
  refine ⟨?_, hd⟩
  simp only [hs, ha, hw, Bool.or_eq_false_iff, beq_eq_false_iff_ne, decide_eq_false_iff_not]
  exact ⟨⟨⟨⟨rfl, rfl⟩, hb⟩, ht⟩, trivial⟩

theorem exec_launchDescriptorTake_refused {status : Nat} (h : descriptorThere p q s d) (hr : refusal s p d = some status) :
    exec (.launchDescriptorTake p q place id area aff) s =
      .next (refuse s.draw.2 p q (le32 d 0) (refusedCores s p d) status) := by
  obtain ⟨hc, hd⟩ := h
  have hx : exec (.launchDescriptorTake p q place id area aff) s = execLaunchDescriptorTake p q place id area aff s := rfl
  rw [hx, execLaunchDescriptorTake]
  simp only [hc, ← hd, hr]
  rfl

theorem exec_launchDescriptorTake_taken {f : List Byte} {pred : W64} (h : descriptorThere p q s d) (hr : refusal s p d = .none)
    (hf : readVirtual s p (le64 d 24).toNat (le64 d 16) = some f)
    (hp : predecessor s p (byteAt d 5).toNat (le32 d 8) = some (true, pred))
    (ho : placeOk s p d f (recCores (imgSection f 4)) place area = true)
    (h32 : (s.launches.filter fun l => !l.finished).length < 32) (hid : ∀ l ∈ s.launches, l.id ≠ id) :
    exec (.launchDescriptorTake p q place id area aff) s = .next (startLaunch s p q d f place id area pred aff) := by
  obtain ⟨hc, hd⟩ := h
  have hx : exec (.launchDescriptorTake p q place id area aff) s = execLaunchDescriptorTake p q place id area aff s := rfl
  have hnew : (s.launches.any fun l => l.id == id) = false := by
    rw [List.any_eq_false]
    exact fun l hl => by simpa using hid l hl
  rw [hx, execLaunchDescriptorTake]
  simp only [hc, ← hd, hr, hf, hp, ho, decide_eq_true h32, hnew]
  rfl

end

/-- The queue of a descriptor that is refused, and the completion record that it gets. -/
theorem refuse_spec (s : State) (p : Fin 8) (q : Fin 4) (tag : W32) (n status : Nat) :
    (((refuse s p q tag n status).pkg.parts[p]).lq[q]) = { (s.pkg.parts[p]).lq[q] with head := ((s.pkg.parts[p]).lq[q]).head + 1 } ∧
      ((refuse s p q tag n status).pkg.parts[p]).completions =
        (s.pkg.parts[p]).completions ++ [completionRecord { Launch.none with tag := tag, n := n } status] := by
  rw [refuse, State.updPart_parts_same]
  exact ⟨Vector.getElem_set_self .., rfl⟩

theorem completionRecord_take (l : Launch) (status : Nat) :
    (completionRecord l status).take 5 = leBytes 4 l.tag.toNat ++ leBytes 1 status := rfl

/-! ### What the firmware writes for a launch that it takes (R403) -/

/-- The launch that a descriptor makes, with its places in the stores. -/
def launchMade (s : State) (p : Fin 8) (d f : List Byte) (place : List (Fin 416)) (id : W32) (area pred : W64)
    (aff : List (Fin 192)) : Launch :=
  placed s (newLaunch p d f id area pred aff fun c => dieOf (place.getD c 0).val)

/-- The mailbox of a launch in its area. -/
def mailbox (k : Nat) (f : List Byte) : List Byte :=
  leBytes 8 (k + 0x84000) ++ leBytes 8 f.length ++ leBytes 8 (k + 192) ++ List.replicate 40 0

/-- The state in which the area of a launch has been written. -/
def State.areaWritten (s : State) (k : Nat) (l : Launch) (f : List Byte) : State :=
  (((((s.devWrite k (List.replicate 128 0)).devWrite (k + 128) (mailbox k f)).devWrite (k + 0x1000) (List.replicate 64 0)).devWrite
    (k + 0x42000) (List.replicate 64 0)).devWrite (k + 192) (argumentBlock l)).devWrite (k + 0x84000) f

/-- A launch among those of the package, its initial tasks waiting to be placed. -/
def State.launchAdded (s : State) (p : Fin 8) (f : List Byte) (place : List (Fin 416)) (id : W32) (l : Launch) : State :=
  { s with launches := s.launches ++ [l] }.updLaunch id fun x => { x with
    spawned := if x.frameMode then [] else initialTasks { s with launches := s.launches ++ [l] } p f id (place.headD 0) }

/-- Bind records stand in the slot table, and their binds in the inbox. -/
def State.bindsAdded (t : State) (r : State → Fin 416 → Nat → List Byte) (place : List (Fin 416)) : State :=
  { place.zipIdx.foldl (State.records r) t with
    inbox := (place.zipIdx.foldl (State.records r) t).inbox ++ place.map .bind }

theorem startLaunch_eq (s : State) (p : Fin 8) (q : Fin 4) (d f : List Byte) (place : List (Fin 416)) (id : W32)
    (area pred : W64) (aff : List (Fin 192)) : startLaunch s p q d f place id area pred aff =
      (((s.areaWritten area.toNat (launchMade s p d f place id area pred aff) f).launchAdded p f place id
        (launchMade s p d f place id area pred aff)).bindsAdded (fun t => bindRecord t p d f id area) place).updPart p fun x =>
          { x with lq := x.lq.set q { x.lq[q] with head := (x.lq[q]).head + 1 } } := by
  unfold startLaunch
  extract_lets k mbox s1 l s2 s3 s4 write s5 s6
  have h2 : s.areaWritten area.toNat (launchMade s p d f place id area pred aff) f = s2 := rfl
  have hl : launchMade s p d f place id area pred aff = l := rfl
  rw [h2, hl]
  have h4 : s2.launchAdded p f place id l = s4 := rfl
  rw [h4]
  clear_value s4
  rfl

/-- Adding a launch of a new number changes no other launch. -/
theorem State.launchAdded_launches {s : State} {id : W32} {l : Launch} (h : ∀ x ∈ s.launches, x.id ≠ id) (hl : l.id = id)
    (p : Fin 8) (f : List Byte) (place : List (Fin 416)) :
    ∃ ts, (s.launchAdded p f place id l).launches = s.launches ++ [{ l with spawned := ts }] := by
  rw [State.launchAdded, State.updLaunch_eq]
  dsimp only
  rw [List.map_append, List.map_congr_left (g := fun x => x) fun x hx => if_neg (h x hx), List.map_id', List.map_singleton, if_pos hl]
  exact ⟨_, rfl⟩

theorem State.launchAdded_eq (s : State) (p : Fin 8) (f : List Byte) (place : List (Fin 416)) (id : W32) (l : Launch) :
    s.launchAdded p f place id l = { s with launches := (s.launchAdded p f place id l).launches } := rfl

/-- Binds are added to the slot table and the inbox alone. -/
theorem State.bindsAdded_spec {t : State} {r : State → Fin 416 → Nat → List Byte} {g : Fin 416 → Nat → List Byte}
    {place : List (Fin 416)} (h : place.Nodup) (hr : ∀ u, u.pkg.parts = t.pkg.parts → r u = g) :
    (∃ sl, t.bindsAdded r place = { t with pkg := { t.pkg with slots := sl }, inbox := t.inbox ++ place.map .bind }) ∧
      ∀ c e, place[c]? = some e → ((t.bindsAdded r place).pkg.slots[e]).record = g e c := by
  obtain ⟨heq, -, hrec⟩ := foldl_records place.zipIdx hr
  refine ⟨⟨(place.zipIdx.foldl (State.records r) t).pkg.slots, ?_⟩, fun c e hc => ?_⟩
  · rw [State.bindsAdded, heq]
  · exact hrec (by rwa [List.zipIdx_map_fst]) (e, c) (List.mk_mem_zipIdx_iff_getElem?.2 hc)

/-! ### The area of a launch (R403) -/

/-- A write inside an area leaves what is outside it. -/
theorem State.devWrite_within {s : State} {m : Memory} {k n o : Nat} {bs : List Byte} (h : m.keptBut s.mem (keysFrom k n))
    (ho : o + bs.length ≤ n) : m.keptBut (s.devWrite (k + o) bs).mem (keysFrom k n) := by
  intro x hx
  rw [← h x hx]
  refine Memory.byte_write_ne bs fun hm => hx ?_
  rw [mem_keysFrom] at hm ⊢
  omega

theorem length_flatMap_leBytes {α : Type} (xs : List α) (k : Nat) (g : α → Nat) :
    (xs.flatMap fun x => leBytes k (g x)).length = xs.length * k := by
  simp [List.length_flatMap]

theorem length_freePlaces_le (used : List Nat) (size n : Nat) : (freePlaces used size n).length ≤ size := by
  unfold freePlaces
  calc _ ≤ _ := List.length_take_le' ..
    _ ≤ (List.range size).length := List.length_filter_le ..
    _ = size := List.length_range

theorem length_argumentBlock (l : Launch) :
    (argumentBlock l).length = 64 + l.affinity.length * 2 + l.blockPlaces.length * 2 := by
  have h (xs : List Nat) : (xs.flatMap (leBytes 2)).length = xs.length * 2 := length_flatMap_leBytes xs 2 id
  simp only [argumentBlock, List.length_append, length_leBytes, h]

/-- The argument block of a launch stays in the first page of its area. -/
theorem length_argumentBlock_launchMade (s : State) (p : Fin 8) (d f : List Byte) (place : List (Fin 416)) (id : W32)
    (area pred : W64) (aff : List (Fin 192)) :
    (argumentBlock (launchMade s p d f place id area pred aff)).length ≤ 2624 := by
  have ha : (launchMade s p d f place id area pred aff).affinity.length = 256 := by
    show ((List.range 256).map _).length = 256
    simp
  have hb : (launchMade s p d f place id area pred aff).blockPlaces.length ≤ 1024 := length_freePlaces_le ..
  rw [length_argumentBlock]
  omega

/-- What the firmware writes for a launch stays in its area. -/
theorem State.areaWritten_kept {s : State} {k : Nat} {l : Launch} {f : List Byte} (hl : (argumentBlock l).length ≤ 2624) :
    s.mem.keptBut (s.areaWritten k l f).mem (keysFrom k (areaBytes f.length)) := by
  have hf := le_alignUp f.length
  have hn : areaBytes f.length = 0x84000 + alignUp f.length 64 := rfl
  have hbox : (mailbox k f).length = 64 := by simp [mailbox]
  have h0 : s.mem.keptBut s.mem (keysFrom k (areaBytes f.length)) := fun _ _ => rfl
  have h1 := State.devWrite_within (o := 0) (bs := List.replicate 128 0) h0 (by rw [List.length_replicate]; omega)
  have h2 := State.devWrite_within (o := 128) (bs := mailbox k f) h1 (by omega)
  have h3 := State.devWrite_within (o := 0x1000) (bs := List.replicate 64 0) h2 (by rw [List.length_replicate]; omega)
  have h4 := State.devWrite_within (o := 0x42000) (bs := List.replicate 64 0) h3 (by rw [List.length_replicate]; omega)
  have h5 := State.devWrite_within (o := 192) (bs := argumentBlock l) h4 (by omega)
  exact State.devWrite_within (o := 0x84000) (bs := f) h5 (by omega)

theorem State.devWrite_memOnly {s t : State} (h : t = { s with mem := t.mem }) (k : Nat) (bs : List Byte) :
    t.devWrite k bs = { s with mem := (t.devWrite k bs).mem } := by
  rw [h]
  rfl

theorem State.areaWritten_eq (s : State) (k : Nat) (l : Launch) (f : List Byte) :
    s.areaWritten k l f = { s with mem := (s.areaWritten k l f).mem } := by
  unfold State.areaWritten
  have h0 : s = { s with mem := s.mem } := rfl
  exact State.devWrite_memOnly (State.devWrite_memOnly (State.devWrite_memOnly (State.devWrite_memOnly (State.devWrite_memOnly
    (State.devWrite_memOnly h0 ..) ..) ..) ..) ..) ..

/-- The cores of a launch are placed on distinct entries. -/
theorem placeOk_nodup {s : State} {p : Fin 8} {d f : List Byte} {n : Nat} {place : List (Fin 416)} {area : W64}
    (h : placeOk s p d f n place area = true) : place.Nodup := by
  simp only [placeOk, Bool.and_eq_true, beq_iff_eq, and_assoc] at h
  obtain ⟨hn, hd, -⟩ := h
  exact nodup_of_length_eraseDups (hd.trans hn.symm)

/-- What is left of a descriptor that is taken: a launch that has not begun, and the binds of its cores under way. -/
theorem startLaunch_spec (s : State) (p : Fin 8) (q : Fin 4) (d f : List Byte) {place : List (Fin 416)} {id : W32}
    (area pred : W64) (aff : List (Fin 192)) (hn : place.Nodup) (hid : ∀ l ∈ s.launches, l.id ≠ id) :
    ∃ ts sl m, startLaunch s p q d f place id area pred aff = (({ s with
        mem := m, launches := s.launches ++ [{ launchMade s p d f place id area pred aff with spawned := ts }]
        pkg := { s.pkg with slots := sl }, inbox := s.inbox ++ place.map .bind } : State).updPart p fun x =>
          { x with lq := x.lq.set q { x.lq[q] with head := (x.lq[q]).head + 1 } }) ∧
      s.mem.keptBut m (keysFrom area.toNat (areaBytes f.length)) ∧
      ∀ c e, place[c]? = some e → (sl[e]).record = bindRecord s p d f id area e c := by
  have hm := State.areaWritten_kept (s := s) (k := area.toNat) (f := f)
    (length_argumentBlock_launchMade s p d f place id area pred aff)
  have hu := s.areaWritten_eq area.toNat (launchMade s p d f place id area pred aff) f
  have hl : (launchMade s p d f place id area pred aff).id = id := rfl
  rw [startLaunch_eq]
  generalize launchMade s p d f place id area pred aff = l at hm hu hl ⊢
  generalize s.areaWritten area.toNat l f = u at hm hu ⊢
  generalize hmem : u.mem = m at hm hu
  subst hu
  obtain ⟨ts, hts⟩ := State.launchAdded_launches (s := { s with mem := m }) hid hl p f place
  have hv := State.launchAdded_eq { s with mem := m } p f place id l
  rw [hts] at hv
  rw [hv]
  obtain ⟨⟨sl, hsl⟩, hrec⟩ := State.bindsAdded_spec
    (t := { s with mem := m, launches := s.launches ++ [{ l with spawned := ts }] })
    (r := fun t => bindRecord t p d f id area) (g := bindRecord s p d f id area) hn
    fun u hu => bindRecord_congr hu p d f id area
  rw [hsl] at hrec
  rw [hsl]
  exact ⟨ts, sl, m, rfl, hm, hrec⟩

end Sys2Proof.Machine
end

section
/-! PROOF. The life of a launch (R34 to R36, R39, R397 to R404, R429 to R433): O57. -/

namespace Sys2Proof.Machine

theorem recordApplied_regs (s s3 : State) (l : List Byte) (i : Fin 32) :
    (recordApplied s s3 l).r.f.a[i] = (if 1 ≤ i.val ∧ i.val ≤ 8 then le64 l (8 + 8 * i.val) else 0) ∧
      (recordApplied s s3 l).r.d.a[i] = (if 1 ≤ i.val ∧ i.val ≤ 8 then le64 l (8 + 8 * i.val) else 0) ∧
      (recordApplied s s3 l).r.ep.s[i] = if 1 ≤ i.val ∧ i.val ≤ 8 then le32 l (76 + 4 * i.val) else 0 :=
  ⟨Vector.getElem_ofFn .., Vector.getElem_ofFn .., Vector.getElem_ofFn ..⟩

/-- What is left of a residency that has been saved: its place is free, its state in the vault, its header in the area. -/
theorem State.areaSaved_vacate (s : State) (he : s.entry < 416) :
    (s.areaSaved.vacate (Fin.ofNat 416 s.entry)).r = Residency.absent ∧
      (s.areaSaved.vacate (Fin.ofNat 416 s.entry)).others = s.others ∧
      ((s.areaSaved.vacate (Fin.ofNat 416 s.entry)).pkg.slots[(Fin.ofNat 416 s.entry)]).state = 0 ∧
      (s.areaSaved.vacate (Fin.ofNat 416 s.entry)).vault = ⟨s.vaultId, savedForm s.r, s.faultsHere⟩ :: s.vault ∧
      (s.areaSaved.vacate (Fin.ofNat 416 s.entry)).mem.bytes s.r.bind.save.toNat 6 = [0x4B, 0x53, 0x56, 0x31, 1, 0] ∧
      (s.areaSaved.vacate (Fin.ofNat 416 s.entry)).mem.bytes (s.r.bind.save.toNat + 8) 4 = leBytes 4 s.r.bind.launch.toNat := by
  have hkept : s.areaSaved.r = s.r ∧ s.areaSaved.others = s.others ∧
      s.areaSaved.vault = ⟨s.vaultId, savedForm s.r, s.faultsHere⟩ :: s.vault := by
    rw [State.areaSaved, s.partsSaved_eq]
    exact ⟨rfl, rfl, rfl⟩
  obtain ⟨hr, ho, hv⟩ := hkept
  obtain ⟨hfree, hmem, hvault, hgone, -⟩ := s.areaSaved.vacate_spec (Fin.ofNat 416 s.entry)
  obtain ⟨hr', ho'⟩ := hgone (by rw [Fin.val_ofNat, Nat.mod_eq_of_lt he, State.entry, hr]; rfl)
  obtain ⟨hmagic, hlaunch⟩ := saveHeader_magic s (savedForm s.r) s.faulted
  have hhead := s.areaSaved_header
  have hfirst := s.areaSaved.mem.bytes_drop_take (k := s.r.bind.save.toNat) (show 0 + 6 ≤ 48 by omega)
  have hnext := s.areaSaved.mem.bytes_drop_take (k := s.r.bind.save.toNat) (show 8 + 4 ≤ 48 by omega)
  rw [hhead] at hfirst hnext
  rw [hmem]
  exact ⟨hr', ho'.trans ho, hfree, hvault.trans hv, hfirst.trans hmagic, hnext.trans hlaunch⟩

/-- A launch of one residency that runs: it starts with what it was owed, and completes at once where its work was done. -/
theorem run_own {s : State} {rs : List Residency} {id : W32} (h : rs = [s.r]) : ∃ u : State,
    rs.foldl State.startRun (s.runNoted id) = u.settle ∧ u.r = { s.r with stage := .running, bovr := u.r.bovr } ∧ u.mem = s.mem ∧
      ((∀ x ∈ s.launch.groups, ∀ m, x.part s.r.bind.lcore = some m → m.owed = 0) → u.r.bovr = s.r.bovr) := by
  have hr : (s.runNoted id).r = s.r := rfl
  obtain ⟨hset, hres, hmem, hpaid⟩ := (s.runNoted id).startRun_own
  rw [hr] at hset hres hmem hpaid
  rw [h, List.foldl_cons, List.foldl_nil]
  exact ⟨_, hset, hres, hmem, hpaid⟩

/-- Settles O57: each event does what its `exec_…_taken` lemma says where its checks pass; what that leaves follows from what a
slot-table update, the residencies in their places, and writes into memory leave. -/
theorem lifeOfLaunchesCompletes : Obligations.LifeOfLaunchesCompletes := by
  unfold Obligations.LifeOfLaunchesCompletes
  refine ⟨fun p q place id area aff s lq d hlq hs ha hb ht hw hd => ?_, fun e s f hf => ?_, fun s f hi => ⟨?_, ?_⟩, ?_, ?_⟩
  · have h := descriptorThere_intro hlq hs ha hb ht hw hd
    refine ⟨fun status hr => ?_, fun f pred n hr hf hp hn ho h32 hid => ?_⟩
    · obtain ⟨hq, hc⟩ := refuse_spec s.draw.2 p q (le32 d 0) (refusedCores s p d) status
      refine ⟨_, _, exec_launchDescriptorTake_refused h hr, ?_, hc, completionRecord_take .., rfl, rfl⟩
      rw [hq, hlq]
      rfl
    · rw [hn] at ho
      obtain ⟨ts, sl, m, heq, hm, hrec⟩ := startLaunch_spec s p q d f area pred aff (placeOk_nodup ho) hid
      refine ⟨_, { launchMade s p d f place id area pred aff with spawned := ts },
        exec_launchDescriptorTake_taken h hr hf hp ho h32 hid, ?_⟩
      rw [heq]
      refine ⟨rfl, rfl, rfl, rfl, hn.symm, rfl, rfl, rfl, ?_, hrec, hm, rfl, rfl⟩
      rw [State.updPart_parts_same, hlq]
      exact Vector.getElem_set_self ..
  · refine ⟨fun x hop hr => ?_, fun hop hr => ?_, fun r hop hn h4 hr hd => ?_, fun hop hn h2 he => ?_,
      fun k hop hr hk hh ha hi => ?_⟩
    · rw [hf] at hop hr
      refine ⟨_, exec_bind_rejected hop hr, ?_, rfl⟩
      rw [State.reject, State.updSlot_same]
    · obtain ⟨hall, hst, hfoc, hoth, hmem⟩ := bound_spec s e f
      exact ⟨_, _, exec_bind_taken hf hop hr, hall, rfl, hst, hfoc, hoth, hmem⟩
    · rw [hf] at hop hn
      obtain ⟨hst, hmem, -, hown, hother⟩ := s.vacate_spec e
      refine ⟨_, exec_unbind_taken hop hn h4 hr hd, ?_, ?_, ?_, ?_⟩
      · rw [State.forgetLaunch_pkg, hst]
      · rw [State.forgetLaunch_mem, hmem]
      · rw [State.forgetLaunch_r, State.forgetLaunch_others]
        exact hown
      · rw [State.forgetLaunch_r, State.forgetLaunch_others]
        exact hother
    · rw [hf] at hop hn ⊢
      refine ⟨_, exec_save_taken hop hn h2 he, rfl, ?_, rfl⟩
      rw [State.updSlot_same]
    · obtain ⟨hp, hc, hfit⟩ := hi _ _ rfl rfl
      obtain ⟨r, hall, he, hl, hr', hst⟩ := restoring_spec f (le64 (s.mem.bytes k 256) 32).toNat
        (s.mem.word64 ((le64 (s.mem.bytes k 256) 32).toNat + 8)).toNat ha
      obtain ⟨hstage, hpc, hfa, hda, hes⟩ := heldForm_spec s e f hk
      refine ⟨_, r, exec_restore_taken hf hop hr hk hh rfl rfl hp hc hfit, hall, he, hl, ?_, hst, ?_, ?_, ?_, ?_⟩
      · rw [hr']; exact hstage
      · rw [hr']; exact hpc
      · rw [hr']; exact hfa
      · rw [hr']; exact hda
      · rw [hr']; exact hes
  · intro hl hw hc hap hep
    have hcode := loadCode_scrubShares s f hap hep
    exact ⟨_, exec_overlayLoad_taken hl hw hi hc, rfl, rfl, rfl, rfl, rfl, fun j => (hcode j).1, fun j => (hcode j).2.1,
      fun j => (hcode j).2.2, rfl, rfl, rfl, rfl⟩
  · intro l s1 s2 s3 hm hl h1 h2 h3
    refine ⟨_, exec_launchRecordApply_taken hm hi hl h1 h2 h3, rfl, rfl, rfl, rfl, rfl, rfl, rfl, recordApplied_regs s s3 l, rfl,
      rfl, ?_, rfl⟩
    rw [recordApplied, State.updSlot_same]
  · intro s n rs hn hlen hb id hrs
    obtain ⟨hfw, -, hslots⟩ := foldl_startRun_tables rs (s.runNoted id)
    exact ⟨_, exec_run_started hn hlen hb hrs, by rw [hfw]; rfl, by rw [hfw]; rfl, hslots, run_own⟩
  · intro s b hst hq
    refine ⟨fun he hf hlim => ?_, fun hr hfw hdw he hw => ?_⟩
    · exact ⟨_, _, exec_forcedSave_taken hst hq he hf hlim, rfl, rfl, rfl, State.record_mem .., rfl, rfl, rfl, rfl, rfl, rfl⟩
    · obtain ⟨hr', ho', hfree, hvault, hmagic, hlaunch⟩ := s.areaSaved_vacate he
      exact ⟨_, ⟨s.vaultId, savedForm s.r, s.faultsHere⟩, exec_saveComplete_taken hr hfw hdw hw, hr', ho', hfree, hvault, rfl, rfl,
        rfl, hmagic, hlaunch⟩

end Sys2Proof.Machine
end

section
/-! PROOF. What an instruction of E that issues with a result leaves (R42, R187, R194, R324). -/

namespace Sys2Proof.Machine

/-! ### Past an instruction (R323, R324) -/

/-- What passing the end of a body leaves of a mask that is no stage mask of a pipelined level. -/
theorem eAdvance_plain {n : Fin 16} (req : Bool) (t : Nat) (ls : List ELoop) (m : Vector W64 16)
    (h : ∀ l ∈ ls, ∀ p, l.pipe = some p → ¬(8 ≤ n.val ∧ n.val < 8 + p.stages)) : (eAdvance req t m ls).m[n] = m[n] := by
  induction ls generalizing m with
  | nil => rfl
  | cons l ls ih =>
    have hl := h l (by simp)
    have hls := fun x hx => h x (List.mem_cons_of_mem _ hx)
    rw [eAdvance]
    split
    · rfl
    · split
      · split
        · rfl
        · exact ih m hls
      · rename_i p hp
        have hs (e stop : Nat) (on : Bool) (m : Vector W64 16) :
            (stageMasks { p with exec := e, stop := stop } on m)[n] = m[n] :=
          stageMasks_plain (p := { p with exec := e, stop := stop }) (hl p hp) on m
        dsimp only
        generalize (if req && decide (p.base + (p.exec + 1) < p.stop) then p.base + (p.exec + 1) else p.stop) = stop
        split
        · exact hs ..
        · split
          · exact hs ..
          · exact (ih _ hls).trans (hs ..)

/-- The state after an instruction has issued with one more result in flight. -/
def State.flown (s : State) (x : InFlight) : State := s.updE fun e => { e with inflight := e.inflight ++ [x] }

/-- The end of an instruction that passes in sequence: it changes no more than `State.eOnly` allows (R324, R332). -/
theorem State.eOnly_eDone (s : State) (i : Instr) (n : Nat) (hn : eLen i = n) :
    (s.eDone i .next).r.ep.inflight = s.r.ep.inflight ∧ (s.eDone i .next).ePlace = s.ePast n ∧ s.eOnly (s.eDone i .next) := by
  subst hn
  refine ⟨rfl, rfl, rfl, ?_, fun n hp => eAdvance_plain _ _ _ _ hp⟩
  show (if _ then _ else _) = _ ∨ (if _ then _ else _) = _
  split
  · exact .inr rfl
  · exact .inl rfl

theorem State.eIssued_flown (w : State) (i : Instr) (x : InFlight) : w.eIssued ((w.flown x).eDone i .next) (eLen i) x := by
  obtain ⟨hi, hp, -, hb, hm⟩ := (w.flown x).eOnly_eDone i _ rfl
  exact ⟨hi, hp, rfl, hb, hm⟩

/-! ### A result goes in flight (R42, R187, R194) -/

theorem State.eResult_ok {u w : State} {f : EF} {v : EVal} {d : EDest} (h : reserveDest u f v = .ok (d, w)) (lat cls : Nat) :
    u.eResult f lat cls v = .ok (w.flown ⟨lat, d, v, u.eguard f, some (Fin.ofNat 16 (2 * cls))⟩) := by
  rw [State.eResult, h]
  rfl

/-- An instruction whose body comes to its result, with room at the destination, is issued. -/
theorem eIssue_result {i : Instr} {s u w : State} {f : EF} {lat cls : Nat} {v : EVal} {d : EDest}
    {body : State → Except Stop (State × EFlow)} (hr : s.eReady i = true) (hd : reserveDest u f v = .ok (d, w))
    (hb : body s.eSlot = (u.eResult f lat cls v).map fun t => (t, .next)) :
    ∃ t, eIssue i s body = .next t ∧ w.eIssued t (eLen i) ⟨lat, d, v, u.eguard f, some (Fin.ofNat 16 (2 * cls))⟩ := by
  rw [State.eResult_ok hd] at hb
  exact ⟨_, eIssue_of_ready hr hb, w.eIssued_flown i _⟩

/-- An instruction that reads state into a scalar. -/
theorem eRead_result {i : Instr} {s u w : State} {f : EF} {lat cls : Nat} {x : W32} {d : EDest}
    {op : State → Except Stop (W32 × State)} (hr : s.eReady i = true) (ho : op s.eSlot = .ok (x, u))
    (hd : reserveDest u f (.sc x) = .ok (d, w)) :
    ∃ t, eRead i f lat cls op s = .next t ∧
      w.eIssued t (eLen i) ⟨lat, d, .sc x, u.eguard f, some (Fin.ofNat 16 (2 * cls))⟩ := by
  refine eIssue_result hr hd ?_
  rw [ho]
  rfl

/-- A scalar instruction of two operands. -/
theorem eSc2_result {i : Instr} {s u1 u w : State} {f : EF} {lat cls : Nat} {op : W32 → W32 → W32} {a b : W32} {d : EDest}
    (hr : s.eReady i = true) (ha : readS s.eSlot f.a = .ok (a, u1)) (hb : readS u1 f.b = .ok (b, u))
    (hd : reserveDest u f (.sc (op a b)) = .ok (d, w)) :
    ∃ t, eSc2 i f lat cls op s = .next t ∧
      w.eIssued t (eLen i) ⟨lat, d, .sc (op a b), u.eguard f, some (Fin.ofNat 16 (2 * cls))⟩ := by
  refine eIssue_result hr hd ?_
  simp only [ha, bind, Except.bind, hb]
  rfl

/-! ### Operands read in order (R184) -/

theorem readScalars_nil {s u : State} {xs : List W32} (h : readScalars s [] = .ok (xs, u)) : xs = [] ∧ u = s := by
  simp only [readScalars, Except.ok.injEq, Prod.mk.injEq] at h
  exact ⟨h.1.symm, h.2.symm⟩

theorem readScalars_cons {s u : State} {c : BitVec 8} {cs : List (BitVec 8)} {xs : List W32}
    (h : readScalars s (c :: cs) = .ok (xs, u)) :
    ∃ x ys v, readS s c = .ok (x, v) ∧ readScalars v cs = .ok (ys, u) ∧ xs = x :: ys := by
  rw [readScalars] at h
  split at h
  · cases h
  · rename_i x v hx
    split at h
    · cases h
    · rename_i ys t hy
      simp only [Except.ok.injEq, Prod.mk.injEq] at h
      obtain ⟨rfl, rfl⟩ := h
      exact ⟨x, ys, v, hx, hy, rfl⟩

theorem readScalars_one {s u : State} {c : BitVec 8} {xs : List W32} (h : readScalars s [c] = .ok (xs, u)) :
    ∃ x, xs = [x] ∧ readS s c = .ok (x, u) := by
  obtain ⟨x, ys, v, hx, hy, rfl⟩ := readScalars_cons h
  obtain ⟨rfl, rfl⟩ := readScalars_nil hy
  exact ⟨x, rfl, hx⟩

theorem readScalars_two {s u : State} {c e : BitVec 8} {xs : List W32} (h : readScalars s [c, e] = .ok (xs, u)) :
    ∃ x y v, xs = [x, y] ∧ readS s c = .ok (x, v) ∧ readS v e = .ok (y, u) := by
  obtain ⟨x, ys, v, hx, hy, rfl⟩ := readScalars_cons h
  obtain ⟨y, rfl, hy'⟩ := readScalars_one hy
  exact ⟨x, y, v, rfl, hx, hy'⟩

end Sys2Proof.Machine
end

section
/-! PROOF. Scalar instructions of E put their results in flight (R194, R309, R315, R318). -/

namespace Sys2Proof.Machine

/-! ### The ones of a mask (R309) -/

theorem onesBelow_eq_countP (k n : Nat) : onesBelow k n = (List.range k).countP fun i => n.testBit i := by
  induction k generalizing n with
  | zero => rfl
  | succ k ih =>
    have hs : (List.range k).countP ((fun i => n.testBit i) ∘ Nat.succ) = (List.range k).countP fun i => (n / 2).testBit i :=
      List.countP_congr fun i _ => by simp [Nat.testBit_succ]
    rw [onesBelow, ih, List.range_succ_eq_map, List.countP_cons, List.countP_map, hs, Nat.testBit_zero]
    obtain h | h := Nat.mod_two_eq_zero_or_one n <;> simp [h, Nat.add_comm]

theorem popCount_eq_onesIn (x : W64) : popCount x = onesIn x := onesBelow_eq_countP ..

theorem lowestFrom_eq_find (n k i none_ : Nat) :
    lowestFrom n k i none_ = ((List.range' i k).find? fun j => n.testBit j).getD none_ := by
  induction k generalizing i with
  | zero => rfl
  | succ k ih =>
    rw [lowestFrom, List.range'_succ, List.find?_cons]
    cases n.testBit i
    · exact ih _
    · rfl

theorem lowestSet_eq_find (x : W64) : lowestSet x = ((List.range 64).find? fun i => x.getLsbD i).getD 64 := by
  rw [List.range_eq_range']
  exact lowestFrom_eq_find ..

/-- What MPOP reads of a mask. -/
theorem mpop_eq (fn : BitVec 6) (x : W64) : BitVec.ofNat 32 (if fn = 0 then popCount x else lowestSet x) =
    if fn = 0 then BitVec.ofNat 32 (onesIn x)
    else BitVec.ofNat 32 (((List.range 64).find? fun i => x.getLsbD i).getD 64) := by
  rw [popCount_eq_onesIn, lowestSet_eq_find, apply_ite (BitVec.ofNat 32)]

/-! ### The instructions -/

/-- Every scalar instruction puts the result that the tables give in flight. -/
theorem exec_scalarOp {i : Instr} {s u w : State} {o : EOp W32} {xs : List W32} {d : EDest} (ho : scalarOp s.eSlot i = some o)
    (hr : s.eReady i = true) (hx : readScalars s.eSlot o.ks = .ok (xs, u)) (hd : reserveDest u o.f (.sc (o.op xs)) = .ok (d, w)) :
    ∃ t, exec i s = .next t ∧ w.eIssued t (eLen i) ⟨o.lat, d, .sc (o.op xs), u.eguard o.f, some (Fin.ofNat 16 (2 * o.cls))⟩ := by
  unfold scalarOp at ho
  split at ho <;> simp only [Option.some.injEq, reduceCtorEq] at ho <;> subst ho
  case h_1 f =>
    obtain ⟨x, y, v, rfl, ha, hb⟩ := readScalars_two hx
    exact eSc2_result (op := scOp f fAdd fun a b => a + b) hr ha hb hd
  case h_2 f =>
    obtain ⟨x, y, v, rfl, ha, hb⟩ := readScalars_two hx
    exact eSc2_result (op := scOp f fMul fun a b => a * b) hr ha hb hd
  case h_3 f =>
    obtain ⟨x, ys, v1, ha, hys, rfl⟩ := readScalars_cons hx
    obtain ⟨y, z, v2, rfl, hb, hc⟩ := readScalars_two hys
    have he : exec (.sfma f) s = execSfma f s := rfl
    rw [he, execSfma]
    refine eIssue_result hr hd ?_
    simp only [ha, hb, hc, bind, Except.bind]
    rfl
  case h_4 f =>
    obtain ⟨x, rfl, ha⟩ := readScalars_one hx
    exact eRead_result (op := fun s => readS s f.a) hr ha hd
  case h_5 f lit =>
    obtain ⟨rfl, rfl⟩ := readScalars_nil hx
    exact eRead_result (op := fun s => .ok (lit.setWidth 32, s)) hr rfl hd
  case h_6 f =>
    obtain ⟨rfl, rfl⟩ := readScalars_nil hx
    have he : exec (.mpop f) s = execMpop f s := rfl
    rw [he, execMpop]
    exact eRead_result hr (congrArg (fun x => Except.ok (x, s.eSlot)) (mpop_eq f.fn (s.eSlot.maskOf f.a))) hd

end Sys2Proof.Machine
end

section
/-! PROOF. F32 results in exact values (R74, R85, R86, R304): sums, products, the order of values, infinities and NaN. -/

namespace Sys2Proof.Machine.F32

/-! ### Infinities, NaN and signs -/

theorem finite_not_nan {w : W32} (h : f32Finite w = true) : f32NaN w = false := by
  simp only [f32Finite, decide_eq_true_eq] at h
  simp [f32NaN, h]

theorem inf_not_nan {w : W32} (h : f32Inf w = true) : f32NaN w = false := by
  obtain ⟨-, h0⟩ := (inf_iff w).1 h
  simp [f32NaN, h0]

theorem finite_not_inf {w : W32} (h : f32Finite w = true) : f32Inf w = false := by
  by_contra hc
  obtain ⟨h1, -⟩ := (inf_iff w).1 (by simpa using hc)
  simp [f32Finite, h1] at h

/-- A word that is no NaN is finite or an infinity. -/
theorem finite_or_inf {w : W32} (h : f32NaN w = false) : f32Finite w = true ∨ f32Inf w = true := by
  obtain hf | hi | hn := word_cases w
  · exact .inl hf
  · exact .inr hi
  · rw [h] at hn; cases hn

theorem isNan_fp (w : W32) : (fp w).isNan = f32NaN w := by
  obtain hf | hi | hn := word_cases w
  · obtain ⟨m, e, h, -⟩ := fp_finite w hf
    rw [h, finite_not_nan hf]; rfl
  · rw [fp_inf w hi, inf_not_nan hi]; rfl
  · rw [fp_nan w hn, hn]; rfl

@[simp] theorem nan_add (b : Bool) (x : Num) : Num.add b .nan x = .nan := by cases x <;> rfl
@[simp] theorem add_nan (b : Bool) (x : Num) : Num.add b x .nan = .nan := by cases x <;> rfl
@[simp] theorem nan_mul (x : Num) : Num.mul .nan x = .nan := by cases x <;> rfl
@[simp] theorem mul_nan (x : Num) : Num.mul x .nan = .nan := by cases x <;> rfl

/-- The other sign of a word is its negation. -/
theorem fp_flip (w : W32) : fp (w ^^^ 0x80000000) = (fp w).neg := by
  have hx : (w ^^^ 0x80000000).toNat % 2 ^ 31 = w.toNat % 2 ^ 31 := by
    have : (w ^^^ 0x80000000).setWidth 31 = w.setWidth 31 := by ext i hi; simp
    simpa only [BitVec.toNat_setWidth] using congrArg BitVec.toNat this
  have hs : (w ^^^ 0x80000000).getLsbD 31 = !w.getLsbD 31 := by simp
  have h1 : bits (w ^^^ 0x80000000) 30 23 = bits w 30 23 := by simp only [bits, fld]; omega
  have h2 : bits (w ^^^ 0x80000000) 22 0 = bits w 22 0 := by simp only [bits, fld]; omega
  rw [fp_eq, fp_eq, h1, h2, hs]
  split
  · split <;> rfl
  · split <;> rfl

theorem fSub_eq (a b : W32) : fSub a b = fAdd a (b ^^^ 0x80000000) := by rw [fSub, fAdd, fp_flip]
theorem fFms_eq (a b c : W32) : fFms a b c = fFma a b (c ^^^ 0x80000000) := by rw [fFms, fFma, fp_flip]
theorem fAbs_eq (a : W32) : fAbs a = if f32NaN a then canonicalNaN else a &&& 0x7FFFFFFF := by rw [fAbs, isNan_fp]; rfl
theorem fNeg_eq (a : W32) : fNeg a = if f32NaN a then canonicalNaN else a ^^^ 0x80000000 := by rw [fNeg, isNan_fp]; rfl

/-- An operation on a NaN gives the canonical NaN (R74). -/
theorem ops_nan {a b : W32} (h : f32NaN a = true ∨ f32NaN b = true) :
    fAdd a b = canonicalNaN ∧ fMul a b = canonicalNaN ∧ fMin a b = canonicalNaN ∧ fMax a b = canonicalNaN := by
  have hm : ((fp a).isNan || (fp b).isNan) = true := by rw [isNan_fp, isNan_fp, Bool.or_eq_true]; exact h
  refine ⟨?_, ?_, if_pos hm, if_pos hm⟩
  · obtain h | h := h <;> simp [fAdd, fp_nan _ h, rneF32_nan]
  · obtain h | h := h <;> simp [fMul, fp_nan _ h, rneF32_nan]

theorem fFma_nan {a b c : W32} (h : f32NaN a = true ∨ f32NaN b = true ∨ f32NaN c = true) : fFma a b c = canonicalNaN := by
  obtain h | h | h := h <;> simp [fFma, fp_nan _ h, rneF32_nan]

/-! ### The order of values (R304) -/

/-- A signed mantissa at a lower exponent has the same value. -/
theorem scaled_value (s : Bool) (m : Nat) {e k : ℤ} (h : k ≤ e) : ((scaled s m e k : ℤ) : ℝ) * 2 ^ k = value s m e := by
  rw [value, zpow_nat_split k e h, scaled]
  cases s <;> push_cast <;> simp <;> ring

theorem lt_fin_iff (s t : Bool) (m n : Nat) (e d : ℤ) :
    (Num.fin s m e).lt (.fin t n d) = true ↔ value s m e < value t n d := by
  rw [← scaled_value s m (min_le_left e d), ← scaled_value t n (min_le_right e d),
    mul_lt_mul_iff_left₀ (two_zpow_pos _), Int.cast_lt]
  simp [Num.lt]

theorem eq_fin_iff (s t : Bool) (m n : Nat) (e d : ℤ) :
    (Num.fin s m e).eq (.fin t n d) = true ↔ value s m e = value t n d := by
  rw [← scaled_value s m (min_le_left e d), ← scaled_value t n (min_le_right e d),
    mul_left_inj' (two_zpow_pos _).ne', Int.cast_inj]
  simp [Num.eq]

/-- The value of a word that is no NaN, an infinity counted as 2^128. -/
noncomputable def extended (w : W32) : ℝ := (if w.getLsbD 31 then -1 else 1) * magValue (bits w 30 0)

theorem extended_inf {w : W32} (h : f32Inf w = true) : extended w = (if w.getLsbD 31 then -1 else 1) * magValue 0x7F800000 := by
  have : bits w 30 0 = 0x7F800000 := by simpa [f32Inf] using h
  rw [extended, this]

/-- The value of a finite word lies between those of the infinities. -/
theorem extended_finite {w : W32} (h : f32Finite w = true) :
    -magValue 0x7F800000 < extended w ∧ extended w < magValue 0x7F800000 := by
  have hlt := magValue_strictMono ((finite_iff w).1 h)
  have h0 := magValue_nonneg (bits w 30 0)
  rw [extended]
  split <;> constructor <;> linarith

theorem fp_extended {w : W32} (h : f32Finite w = true) : ∃ m e, fp w = .fin (w.getLsbD 31) m e ∧
    extended w = value (w.getLsbD 31) m e := by
  obtain ⟨m, e, hw, hv, -⟩ := fp_finite w h
  exact ⟨m, e, hw, by rw [← hv, f32Value_eq, extended]⟩

theorem lt_iff {a b : W32} (ha : f32NaN a = false) (hb : f32NaN b = false) :
    (fp a).lt (fp b) = true ↔ extended a < extended b := by
  have htop : 0 < magValue 0x7F800000 := by rw [← magValue_zero]; exact magValue_strictMono (by norm_num)
  obtain ha | ha := finite_or_inf ha <;> obtain hb | hb := finite_or_inf hb
  · obtain ⟨m, e, ha1, ha2⟩ := fp_extended ha
    obtain ⟨n, d, hb1, hb2⟩ := fp_extended hb
    rw [ha1, hb1, ha2, hb2, lt_fin_iff]
  · obtain ⟨m, e, ha1, -⟩ := fp_extended ha
    obtain ⟨hlo, hhi⟩ := extended_finite ha
    rw [ha1, fp_inf b hb, extended_inf hb]
    cases b.getLsbD 31 <;> simp [Num.lt] <;> linarith
  · obtain ⟨m, e, hb1, -⟩ := fp_extended hb
    obtain ⟨hlo, hhi⟩ := extended_finite hb
    rw [hb1, fp_inf a ha, extended_inf ha]
    cases a.getLsbD 31 <;> simp [Num.lt] <;> linarith
  · rw [fp_inf a ha, fp_inf b hb, extended_inf ha, extended_inf hb]
    cases a.getLsbD 31 <;> cases b.getLsbD 31 <;> simp [Num.lt] <;> linarith

theorem eq_iff {a b : W32} (ha : f32NaN a = false) (hb : f32NaN b = false) :
    (fp a).eq (fp b) = true ↔ extended a = extended b := by
  have htop : 0 < magValue 0x7F800000 := by rw [← magValue_zero]; exact magValue_strictMono (by norm_num)
  obtain ha | ha := finite_or_inf ha <;> obtain hb | hb := finite_or_inf hb
  · obtain ⟨m, e, ha1, ha2⟩ := fp_extended ha
    obtain ⟨n, d, hb1, hb2⟩ := fp_extended hb
    rw [ha1, hb1, ha2, hb2, eq_fin_iff]
  · obtain ⟨m, e, ha1, -⟩ := fp_extended ha
    obtain ⟨hlo, hhi⟩ := extended_finite ha
    rw [ha1, fp_inf b hb, extended_inf hb]
    cases b.getLsbD 31 <;> simp [Num.eq] <;> linarith
  · obtain ⟨m, e, hb1, -⟩ := fp_extended hb
    obtain ⟨hlo, hhi⟩ := extended_finite hb
    rw [hb1, fp_inf a ha, extended_inf ha]
    cases a.getLsbD 31 <;> simp [Num.eq] <;> linarith
  · rw [fp_inf a ha, fp_inf b hb, extended_inf ha, extended_inf hb]
    cases a.getLsbD 31 <;> cases b.getLsbD 31 <;> simp [Num.eq] <;> linarith

/-- The order of VMIN is that of the words' places. -/
theorem fBelow_iff {a b : W32} (ha : f32NaN a = false) (hb : f32NaN b = false) :
    fBelow a b = true ↔ f32Order a < f32Order b := by
  simp only [fBelow, Bool.or_eq_true, Bool.and_eq_true, lt_iff ha hb, eq_iff ha hb, extended, f32Order, bit]
  have hx := magValue_nonneg (bits a 30 0)
  have hy := magValue_nonneg (bits b 30 0)
  cases a.getLsbD 31 <;> cases b.getLsbD 31
  · simp [magValue_strictMono.lt_iff_lt]
  · simp; constructor <;> intro <;> linarith
  · have hle : -magValue (bits a 30 0) ≤ magValue (bits b 30 0) := by linarith
    simpa using hle.lt_or_eq
  · simp [magValue_strictMono.lt_iff_lt]

theorem fMin_eq {a b : W32} (ha : f32NaN a = false) (hb : f32NaN b = false) :
    fMin a b = if f32Order b < f32Order a then b else a := by
  simp only [fMin, isNan_fp, ha, hb, fBelow_iff hb ha]
  rfl

theorem fMax_eq {a b : W32} (ha : f32NaN a = false) (hb : f32NaN b = false) :
    fMax a b = if f32Order a < f32Order b then b else a := by
  simp only [fMax, isNan_fp, ha, hb, fBelow_iff ha hb]
  rfl

/-! ### Exact sums and products (R85, R86) -/

/-- What an exact value rounds to, with the sign that an exact zero takes (R86). -/
theorem rneF32_of_value {x : Num} {v : ℚ} {u z : Bool} {k : Nat} {e : ℤ} (hx : x = .fin u k e)
    (hv : ((v : ℚ) : ℝ) = value u k e) (hz : k = 0 → u = z) :
    (v ≠ 0 → RoundsToF32 v (rneF32 x)) ∧ (v = 0 → rneF32 x = f32Signed z 0) := by
  subst hx
  obtain ⟨hr, h0⟩ := rneF32_exact u k e v hv
  refine ⟨fun hn => hr (by exact_mod_cast hn), fun h => ?_⟩
  have hk : k = 0 := by rw [← value_eq_zero u k e, ← hv, h, Rat.cast_zero]
  rw [h0 (by rw [h, Rat.cast_zero]), hz hk]

/-- The exact sum: where it is zero it is negative only if both addends are, which are then zeros (R86). -/
theorem add_value_sign (s t : Bool) (m n : Nat) (e d : ℤ) : ∃ u k f, (Num.fin s m e).add false (.fin t n d) = .fin u k f ∧
    value u k f = value s m e + value t n d ∧ (k = 0 → u = (s && t)) := by
  obtain ⟨u, k, f, hs, hv, hz⟩ := add_value s t m n e d
  refine ⟨u, k, f, hs, hv, fun hk => ?_⟩
  have hsum : value s m e + value t n d = 0 := by rw [← hv, hk, value_zero]
  have h0 : s = true → t = true → m = 0 ∧ n = 0 := by
    rintro rfl rfl
    have hm : 0 ≤ (m : ℝ) * 2 ^ e := mul_nonneg m.cast_nonneg (two_zpow_pos e).le
    have hn : 0 ≤ (n : ℝ) * 2 ^ d := mul_nonneg n.cast_nonneg (two_zpow_pos d).le
    rw [← value_eq_zero true m e, ← value_eq_zero true n d]
    simp only [value, if_true] at hsum ⊢
    constructor <;> linarith
  rw [hz hk]
  cases s <;> cases t <;> simp_all

theorem fAdd_exact {a b : W32} (ha : f32Finite a = true) (hb : f32Finite b = true) {v : ℚ} (hv : v = f32Value a + f32Value b) :
    (v ≠ 0 → RoundsToF32 v (fAdd a b)) ∧ (v = 0 → fAdd a b = f32Signed (a.getLsbD 31 && b.getLsbD 31) 0) := by
  obtain ⟨m, e, hfa, hva, -⟩ := fp_finite a ha
  obtain ⟨n, d, hfb, hvb, -⟩ := fp_finite b hb
  obtain ⟨u, k, f, hs, hval, hz⟩ := add_value_sign (a.getLsbD 31) (b.getLsbD 31) m n e d
  refine rneF32_of_value (by rw [hfa, hfb, hs]) ?_ hz
  rw [hval, ← hva, ← hvb, hv, Rat.cast_add]

theorem fMul_exact {a b : W32} (ha : f32Finite a = true) (hb : f32Finite b = true) {v : ℚ} (hv : v = f32Value a * f32Value b) :
    (v ≠ 0 → RoundsToF32 v (fMul a b)) ∧ (v = 0 → fMul a b = f32Signed (a.getLsbD 31 ^^ b.getLsbD 31) 0) := by
  obtain ⟨m, e, hfa, hva, -⟩ := fp_finite a ha
  obtain ⟨n, d, hfb, hvb, -⟩ := fp_finite b hb
  obtain ⟨hm, hval⟩ := mul_value (a.getLsbD 31) (b.getLsbD 31) m n e d
  refine rneF32_of_value (by rw [hfa, hfb, hm]) ?_ fun _ => rfl
  rw [hval, ← hva, ← hvb, hv, Rat.cast_mul]

theorem fFma_exact {a b c : W32} (ha : f32Finite a = true) (hb : f32Finite b = true) (hc : f32Finite c = true) {v : ℚ}
    (hv : v = f32Value a * f32Value b + f32Value c) :
    (v ≠ 0 → RoundsToF32 v (fFma a b c)) ∧
      (v = 0 → fFma a b c = f32Signed ((a.getLsbD 31 ^^ b.getLsbD 31) && c.getLsbD 31) 0) := by
  obtain ⟨m, e, hfa, hva, -⟩ := fp_finite a ha
  obtain ⟨n, d, hfb, hvb, -⟩ := fp_finite b hb
  obtain ⟨p, x, hfc, hvc, -⟩ := fp_finite c hc
  obtain ⟨hm, hmul⟩ := mul_value (a.getLsbD 31) (b.getLsbD 31) m n e d
  obtain ⟨u, k, f, hs, hval, hz⟩ := add_value_sign (a.getLsbD 31 != b.getLsbD 31) (c.getLsbD 31) (m * n) p (e + d) x
  refine rneF32_of_value (by rw [hfa, hfb, hfc, hm, hs]) ?_ hz
  rw [hval, hmul, ← hva, ← hvb, ← hvc, hv, Rat.cast_add, Rat.cast_mul]

/-! ### Sums and products with infinities -/

/-- The sign of a word is its top bit. -/
theorem word_sign (w : W32) : w.getLsbD 31 = decide (2 ^ 31 ≤ w.toNat) := by
  rw [BitVec.getLsbD, Nat.testBit_eq_decide_div_mod_eq]
  have := w.isLt
  congr 1
  apply propext; omega

/-- An infinity is the word of its sign. -/
theorem inf_eq {w : W32} (h : f32Inf w = true) : f32Signed (w.getLsbD 31) 0x7F800000 = w := by
  have hb : w.toNat % 2 ^ 31 = 0x7F800000 := by
    have : bits w 30 0 = 0x7F800000 := by simpa [f32Inf] using h
    simpa [bits, fld] using this
  rw [word_sign]
  apply BitVec.eq_of_toNat_eq
  have := w.isLt
  by_cases hc : 2 ^ 31 ≤ w.toNat
  · simp only [f32Signed, hc, decide_true, if_true]
    show 0xFF800000 = w.toNat
    omega
  · simp only [f32Signed, hc, decide_false, Bool.false_eq_true, if_false]
    show 0x7F800000 = w.toNat
    omega

theorem rneF32_fp_inf {w : W32} (h : f32Inf w = true) : rneF32 (fp w) = w := by rw [fp_inf w h, rneF32_inf, inf_eq h]

theorem ops_finite_inf {a b c : W32} (ha : f32Finite a = true) (hb : f32Finite b = true) (hc : f32Inf c = true) :
    fAdd a c = c ∧ fAdd c a = c ∧ fFma a b c = c := by
  obtain ⟨m, e, hfa, -⟩ := fp_finite a ha
  obtain ⟨n, d, hfb, -⟩ := fp_finite b hb
  have hw := rneF32_fp_inf hc
  rw [fp_inf c hc] at hw
  refine ⟨?_, ?_, ?_⟩
  · rw [fAdd, hfa, fp_inf c hc]; exact hw
  · rw [fAdd, hfa, fp_inf c hc]; exact hw
  · rw [fFma, hfa, hfb, fp_inf c hc]; exact hw

theorem fAdd_infs {a b : W32} (ha : f32Inf a = true) (hb : f32Inf b = true) :
    fAdd a b = if (a.getLsbD 31 ^^ b.getLsbD 31) = true then canonicalNaN else a := by
  conv_rhs => rw [← inf_eq ha]
  rw [fAdd, fp_inf a ha, fp_inf b hb, ← rneF32_inf, ← rneF32_nan]
  cases a.getLsbD 31 <;> cases b.getLsbD 31 <;> rfl

/-- The product of two words of which one is an infinity and none a NaN (R86). -/
theorem mul_with_inf {a b : W32} (h : f32Inf a = true ∨ f32Inf b = true) (ha : f32NaN a = false) (hb : f32NaN b = false) :
    (fp a).mul (fp b) = if f32Zero a = true ∨ f32Zero b = true then .nan else .inf (a.getLsbD 31 ^^ b.getLsbD 31) := by
  have hz {w : W32} (hw : f32Inf w = true) : f32Zero w = false := by
    obtain ⟨h1, -⟩ := (inf_iff w).1 hw
    by_contra hc
    obtain ⟨h2, -⟩ := (zero_iff w).1 (by simpa using hc)
    omega
  obtain hfa | hia := finite_or_inf ha <;> obtain hfb | hib := finite_or_inf hb
  · simp [finite_not_inf hfa, finite_not_inf hfb] at h
  · obtain ⟨m, e, hm, -, -, -, -, h0⟩ := fp_finite a hfa
    rw [hm, fp_inf b hib, hz hib]
    simp only [Num.mul, h0]
    simp
  · obtain ⟨m, e, hm, -, -, -, -, h0⟩ := fp_finite b hfb
    rw [hm, fp_inf a hia, hz hia]
    simp only [Num.mul, h0]
    simp
  · rw [fp_inf a hia, fp_inf b hib, hz hia, hz hib]
    simp [Num.mul]

theorem ops_inf_zero {a b c : W32} (h : f32Inf a = true ∨ f32Inf b = true) (ha : f32NaN a = false) (hb : f32NaN b = false)
    (hz : f32Zero a = true ∨ f32Zero b = true) : fMul a b = canonicalNaN ∧ fFma a b c = canonicalNaN := by
  rw [fMul, fFma, mul_with_inf h ha hb, if_pos hz, nan_add]
  exact ⟨rneF32_nan, rneF32_nan⟩

theorem fMul_inf {a b : W32} (h : f32Inf a = true ∨ f32Inf b = true) (ha : f32NaN a = false) (hb : f32NaN b = false)
    (hza : f32Zero a = false) (hzb : f32Zero b = false) :
    fMul a b = f32Signed (a.getLsbD 31 ^^ b.getLsbD 31) 0x7F800000 := by
  rw [fMul, mul_with_inf h ha hb, hza, hzb, if_neg (by simp), rneF32_inf]

theorem fFma_inf {a b c : W32} (h : f32Inf a = true ∨ f32Inf b = true) (ha : f32NaN a = false) (hb : f32NaN b = false)
    (hza : f32Zero a = false) (hzb : f32Zero b = false) (hc : f32NaN c = false) :
    fFma a b c = if f32Inf c = true ∧ c.getLsbD 31 ≠ (a.getLsbD 31 ^^ b.getLsbD 31) then canonicalNaN
      else f32Signed (a.getLsbD 31 ^^ b.getLsbD 31) 0x7F800000 := by
  rw [fFma, mul_with_inf h ha hb, hza, hzb, if_neg (by simp), ← rneF32_inf]
  generalize (a.getLsbD 31 ^^ b.getLsbD 31) = neg
  obtain hfc | hic := finite_or_inf hc
  · obtain ⟨m, e, hm, -⟩ := fp_finite c hfc
    rw [hm, finite_not_inf hfc]
    rfl
  · rw [fp_inf c hic, hic, ← rneF32_nan]
    cases c.getLsbD 31 <;> cases neg <;> rfl

end Sys2Proof.Machine.F32
end

section
/-! PROOF. The special functions of VSFU in exact values (R305). -/

namespace Sys2Proof.Machine.F32

/-! ### Zeros, infinities and NaN -/

theorem zero_eq {w : W32} (h : f32Zero w = true) : f32Signed (w.getLsbD 31) 0 = w := by
  have hb : w.toNat % 2 ^ 31 = 0 := by
    have : bits w 30 0 = 0 := by simpa [f32Zero] using h
    simpa [bits, fld] using this
  rw [word_sign]
  apply BitVec.eq_of_toNat_eq
  have := w.isLt
  by_cases hc : 2 ^ 31 ≤ w.toNat
  · simp only [f32Signed, hc, decide_true, if_true]
    show 0x80000000 = w.toNat
    omega
  · simp only [f32Signed, hc, decide_false, Bool.false_eq_true, if_false]
    show 0 = w.toNat
    omega

theorem fp_zero {w : W32} (h : f32Zero w = true) : ∃ e, fp w = .fin (w.getLsbD 31) 0 e := by
  have hf : f32Finite w = true := by
    obtain ⟨h0, -⟩ := (zero_iff w).1 h
    simp [f32Finite, h0]
  obtain ⟨m, e, hm, -, -, -, -, h0⟩ := fp_finite w hf
  exact ⟨e, by rw [hm, h0.2 h]⟩

theorem zeroF32_eq (neg : Bool) : zeroF32 neg = f32Signed neg 0 := rfl
theorem infF32_eq (neg : Bool) : infF32 neg = f32Signed neg 0x7F800000 := by cases neg <;> rfl
theorem oneF32_eq (neg : Bool) : oneF32 neg = f32Signed neg 0x3F800000 := by cases neg <;> rfl

theorem sfu_nan {x : W32} (n : Nat) (h : f32NaN x = true) : sfu n x = canonicalNaN := by
  unfold sfu
  rw [fp_nan x h]
  rfl

theorem sfu_zero {x : W32} (h : f32Zero x = true) :
    sfu 0 x = f32Signed (x.getLsbD 31) 0x7F800000 ∧ sfu 1 x = f32Signed (x.getLsbD 31) 0x7F800000 ∧ sfu 2 x = x ∧
      sfu 3 x = 0x3F800000 ∧ sfu 4 x = 0xFF800000 ∧ sfu 5 x = x ∧ sfu 6 x = 0x3F800000 ∧ sfu 7 x = x := by
  obtain ⟨e, hx⟩ := fp_zero h
  have hz := zero_eq h
  simp only [sfu, hx, if_true, infF32_eq, oneF32_eq, zeroF32_eq, decide_true, Bool.true_or]
  exact ⟨trivial, trivial, hz, rfl, rfl, hz, rfl, hz⟩

theorem sfu_inf {x : W32} {neg : Bool} (h : f32Inf x = true) (hn : neg = x.getLsbD 31) :
    sfu 0 x = f32Signed neg 0 ∧ sfu 1 x = (if neg then canonicalNaN else 0) ∧
      sfu 2 x = (if neg then canonicalNaN else x) ∧ sfu 3 x = (if neg then 0 else x) ∧
      sfu 4 x = (if neg then canonicalNaN else x) ∧ sfu 5 x = canonicalNaN ∧ sfu 6 x = canonicalNaN ∧
      sfu 7 x = f32Signed neg 0x3F800000 ∧ sfu 8 x = if neg then 0 else 0x3F800000 := by
  have hx := fp_inf x h
  have hi := inf_eq h
  rw [← hn] at hx hi
  simp only [sfu, hx]
  cases neg
  · exact ⟨rfl, rfl, hi, hi, hi, rfl, rfl, rfl, rfl⟩
  · exact ⟨rfl, rfl, rfl, rfl, rfl, rfl, rfl, rfl, rfl⟩

/-! ### The reciprocal -/

/-- 1/(m · 2^e) rounds as the sticky quotient (R305). -/
theorem recip_rounds (neg : Bool) {m : Nat} (e : ℤ) (hm : m ≠ 0) (hlt : m < 2 ^ 24) :
    RoundsToF32 (1 / value neg m e) (rneF32 (recip neg m e)) := by
  have hp : (0 : ℝ) < m := by exact_mod_cast Nat.pos_of_ne_zero hm
  have hk := two_zpow_pos (-80 - e)
  have hw : 1 / ((m : ℝ) * 2 ^ e) = 2 ^ 80 / m * 2 ^ (-80 - e) := by
    rw [zpow_sub₀ (by norm_num)]
    field_simp
  have hv : 1 / value neg m e = (if neg then -1 else 1) * (1 / ((m : ℝ) * 2 ^ e)) := by
    cases neg <;> simp [value]
  have hdiv := Nat.div_add_mod (2 ^ 80) m
  have hmod := Nat.mod_lt (2 ^ 80) (Nat.pos_of_ne_zero hm)
  have hr : 2 ^ 24 ≤ 2 ^ 80 / m := by
    rw [Nat.le_div_iff_mul_le (Nat.pos_of_ne_zero hm)]
    omega
  rw [hv, recip]
  generalize 2 ^ 80 / m = r at *
  have hsum : (m : ℝ) * r + (2 ^ 80 % m : ℕ) = 2 ^ 80 := by exact_mod_cast hdiv
  have hlo : (r : ℝ) ≤ 2 ^ 80 / m := by
    rw [le_div_iff₀ hp, mul_comm]
    linarith [(2 ^ 80 % m).cast_nonneg (α := ℝ)]
  have hhi : (2 : ℝ) ^ 80 / m < r + 1 := by
    have : ((2 ^ 80 % m : ℕ) : ℝ) < m := by exact_mod_cast hmod
    rw [div_lt_iff₀ hp]
    linarith
  refine sticky_rounds neg r (-80 - e) _ _ hr ?_ ?_ ?_
  · rw [hw]
    exact mul_le_mul_of_nonneg_right hlo hk.le
  · rw [hw]
    exact mul_lt_mul_of_pos_right hhi hk
  · rw [hw, decide_eq_true_iff, Ne, Ne, mul_left_inj' hk.ne', div_eq_iff hp.ne', ← hsum]
    constructor <;> intro h hc <;> apply h
    · have : ((2 ^ 80 % m : ℕ) : ℝ) = 0 := by linarith
      exact_mod_cast this
    · rw [hc]; push_cast; ring

/-! ### Roots -/

/-- A root rounds as the sticky form of the root r of an integer n, where it is the root of n/d units of 2^(2k). -/
theorem sqrt_rounds (W : ℝ) (n d r : Nat) (k : ℤ) (hd : 0 < d) (hW : W = n / d * 2 ^ (2 * k)) (hr : 2 ^ 24 ≤ r)
    (hlo : r * r * d ≤ n) (hhi : n < (r + 1) * (r + 1) * d) :
    RoundsToF32 √W (rneF32 (sticky false r k (decide (r * r * d ≠ n)))) := by
  have hdp : (0 : ℝ) < d := by exact_mod_cast hd
  have hk := two_zpow_pos k
  have h2 : (2 : ℝ) ^ (2 * k) = 2 ^ k * 2 ^ k := by rw [two_mul, zpow_add₀ (by norm_num)]
  have hq : 0 ≤ (n : ℝ) / d := by positivity
  have hs : √W = √(n / d) * 2 ^ k := by
    rw [hW, h2, Real.sqrt_mul hq, Real.sqrt_mul_self hk.le]
  have h1 : (r : ℝ) ≤ √(n / d) := by
    refine Real.le_sqrt_of_sq_le ?_
    rw [le_div_iff₀ hdp, pow_two]
    exact_mod_cast hlo
  have h3 : √(n / d) < (r : ℝ) + 1 := by
    rw [Real.sqrt_lt' (by positivity), div_lt_iff₀ hdp, pow_two]
    exact_mod_cast hhi
  have := sticky_rounds false r k (decide (r * r * d ≠ n)) √W hr ?_ ?_ ?_
  · simpa using this
  · rw [hs]
    exact mul_le_mul_of_nonneg_right h1 hk.le
  · rw [hs]
    exact mul_lt_mul_of_pos_right h3 hk
  · have he : √((n : ℝ) / d) = r ↔ (r * r * d : ℕ) = n := by
      rw [Real.sqrt_eq_iff_mul_self_eq hq r.cast_nonneg, div_eq_iff hdp.ne', eq_comm]
      norm_cast
    rw [hs, decide_eq_true_iff, Ne, Ne, mul_left_inj' hk.ne', he]

theorem rootEven_rounds {m : Nat} {e : ℤ} (hm : m ≠ 0) (he : e % 2 = 0) :
    RoundsToF32 √((m : ℝ) * 2 ^ e) (rneF32 (rootEven m e)) := by
  obtain ⟨hlo, hhi⟩ := isqrt_spec (m * 2 ^ 80)
  have hr : 2 ^ 24 ≤ isqrt (m * 2 ^ 80) := by
    by_contra h
    have : (isqrt (m * 2 ^ 80) + 1) * (isqrt (m * 2 ^ 80) + 1) ≤ 2 ^ 24 * 2 ^ 24 := Nat.mul_le_mul (by omega) (by omega)
    omega
  have hW : (m : ℝ) * 2 ^ e = ((m * 2 ^ 80 : ℕ) : ℝ) / (1 : ℕ) * 2 ^ (2 * (e / 2 - 40)) := by
    rw [show 2 * (e / 2 - 40) = e - 80 by omega, zpow_sub₀ (by norm_num)]
    push_cast
    field_simp
    norm_num
  simpa [rootEven] using sqrt_rounds _ (m * 2 ^ 80) 1 _ (e / 2 - 40) one_pos hW hr (by omega) (by omega)

theorem root_rounds {m : Nat} (e : ℤ) (hm : m ≠ 0) : RoundsToF32 √((m : ℝ) * 2 ^ e) (rneF32 (root m e)) := by
  rw [root]
  split
  · exact rootEven_rounds hm ‹_›
  · have := rootEven_rounds (m := 2 * m) (e := e - 1) (by omega) (by omega)
    rwa [show ((2 * m : ℕ) : ℝ) * 2 ^ (e - 1) = m * 2 ^ e by rw [zpow_sub_one₀ (by norm_num)]; push_cast; ring] at this

theorem rrootEven_rounds {m : Nat} {e : ℤ} (hm : m ≠ 0) (hlt : m < 2 ^ 25) (he : e % 2 = 0) :
    RoundsToF32 (1 / √((m : ℝ) * 2 ^ e)) (rneF32 (rrootEven m e)) := by
  obtain ⟨hlo, hhi⟩ := isqrt_spec (2 ^ 160 / m)
  have hmp := Nat.pos_of_ne_zero hm
  have hr : 2 ^ 24 ≤ isqrt (2 ^ 160 / m) := by
    by_contra h
    have h1 : (isqrt (2 ^ 160 / m) + 1) * (isqrt (2 ^ 160 / m) + 1) ≤ 2 ^ 24 * 2 ^ 24 := Nat.mul_le_mul (by omega) (by omega)
    have h2 : 2 ^ 135 ≤ 2 ^ 160 / m := by
      rw [Nat.le_div_iff_mul_le hmp]
      omega
    omega
  have hW : 1 / ((m : ℝ) * 2 ^ e) = ((2 ^ 160 : ℕ) : ℝ) / m * 2 ^ (2 * (-(e / 2) - 80)) := by
    rw [show 2 * (-(e / 2) - 80) = -e - 160 by omega, zpow_sub₀ (by norm_num), zpow_neg]
    push_cast
    field_simp
    norm_num
  have := sqrt_rounds _ (2 ^ 160) m _ (-(e / 2) - 80) hmp hW hr ((Nat.le_div_iff_mul_le hmp).1 hlo)
    ((Nat.div_lt_iff_lt_mul hmp).1 hhi)
  rwa [Real.sqrt_div zero_le_one, Real.sqrt_one] at this

theorem rroot_rounds {m : Nat} (e : ℤ) (hm : m ≠ 0) (hlt : m < 2 ^ 24) :
    RoundsToF32 (1 / √((m : ℝ) * 2 ^ e)) (rneF32 (rroot m e)) := by
  rw [rroot]
  split
  · exact rrootEven_rounds hm (by omega) ‹_›
  · have := rrootEven_rounds (m := 2 * m) (e := e - 1) (by omega) (by omega) (by omega)
    rwa [show ((2 * m : ℕ) : ℝ) * 2 ^ (e - 1) = m * 2 ^ e by rw [zpow_sub_one₀ (by norm_num)]; push_cast; ring] at this

/-! ### Whole numbers, one, and the half-integers -/

theorem abs_value (neg : Bool) (m : Nat) (e : ℤ) : |value neg m e| = m * 2 ^ e := by
  have h : 0 ≤ (m : ℝ) * 2 ^ e := mul_nonneg m.cast_nonneg (two_zpow_pos e).le
  cases neg <;> simp [value, abs_of_nonneg h]

/-- The mantissa of an integer with a fraction of j bits. -/
theorem mantissa_of_abs {m j k : Nat} (h : (m : ℝ) * 2 ^ (-(j : ℤ)) = k) : m = k * 2 ^ j := by
  rw [zpow_neg, zpow_natCast, mul_inv_eq_iff_eq_mul₀ (by positivity)] at h
  exact_mod_cast h

/-- A value that is an integer is recognised. -/
theorem isWhole_of_value {neg : Bool} {m : Nat} {e k : ℤ} (h : value neg m e = k) : isWhole m e = true := by
  rw [isWhole, Bool.or_eq_true, decide_eq_true_iff]
  by_cases he : 0 ≤ e
  · exact .inl he
  · right
    obtain ⟨j, rfl⟩ : ∃ j : ℕ, e = -(j : ℤ) := ⟨(-e).toNat, by omega⟩
    have hm : m = k.natAbs * 2 ^ j := mantissa_of_abs (by rw [← abs_value neg, h, Nat.cast_natAbs, Int.cast_abs])
    simp [hm]

/-- The logarithm of one is zero. -/
theorem log2Enc_one {m : Nat} {e : ℤ} (p : Nat) (h : (m : ℝ) * 2 ^ e = 1) : log2Enc p m e = some 0 := by
  have he : e ≤ 0 := by
    by_contra hc
    have h1 : (1 : ℝ) < 2 ^ e := one_lt_zpow₀ (by norm_num) (by omega)
    have h2 : (1 : ℝ) ≤ m := by
      rw [Nat.one_le_cast, Nat.one_le_iff_ne_zero]
      rintro rfl
      simp at h
    nlinarith
  obtain ⟨j, rfl⟩ : ∃ j : ℕ, e = -(j : ℤ) := ⟨(-e).toNat, by omega⟩
  have hm : m = 2 ^ j := by simpa using mantissa_of_abs (k := 1) (by simpa using h)
  subst hm
  simp only [log2Enc, Nat.log2_two_pow, if_true, neg_add_cancel]
  decide

/-- The sine of no and of one half-turn is zero. -/
theorem sinTurn_whole (p r : Nat) (h : r = 0 ∨ r = 2 ^ p) : (sinTurn p r).2 = none := by
  obtain rfl | rfl := h <;> simp [sinTurn]

theorem sinEnc_of_whole {p m : Nat} {quarter neg : Bool} {e : ℤ} (n n1 r : Nat) (hn : n = m * 2 ^ (e + p).toNat % 2 ^ (p + 1))
    (hn1 : n1 = if neg then (2 ^ (p + 1) - n) % 2 ^ (p + 1) else n)
    (hr : r = if quarter then (n1 + 2 ^ (p - 1)) % 2 ^ (p + 1) else n1) (h : r = 0 ∨ r = 2 ^ p) :
    sinEnc p quarter neg m e = some 0 := by
  have hs := sinTurn_whole p r h
  subst hr hn1 hn
  simp only [sinEnc]
  split
  · rfl
  · rename_i heq
    rw [heq] at hs
    cases hs

/-- The cosine of an odd number of half half-turns is zero (R305). -/
theorem sinEnc_half {p q j m : Nat} {e : ℤ} (neg : Bool) (hp : p = q + 1) (hj : j % 2 = 1)
    (h : m * 2 ^ (e + p).toNat = j * 2 ^ q) : sinEnc p true neg m e = some 0 := by
  subst hp
  have h1 : 2 ^ (q + 1) = 2 * 2 ^ q := by rw [pow_succ, mul_comm]
  have h2 : 2 ^ (q + 1 + 1) = 4 * 2 ^ q := by rw [pow_succ, h1]; ring
  refine sinEnc_of_whole (j % 4 * 2 ^ q) ((if neg then (4 - j % 4) % 4 else j % 4) * 2 ^ q)
    (((if neg then (4 - j % 4) % 4 else j % 4) + 1) % 4 * 2 ^ q) ?_ ?_ ?_ ?_
  · rw [h, h2, Nat.mul_mod_mul_right]
  · cases neg
    · rfl
    · simp only [if_true]
      rw [h2, ← Nat.sub_mul, Nat.mul_mod_mul_right]
  · rw [if_pos rfl, Nat.add_sub_cancel, h2, ← Nat.succ_mul, Nat.mul_mod_mul_right]
  · rw [h1]
    obtain hc | hc : j % 4 = 1 ∨ j % 4 = 3 := by omega
    all_goals rw [hc]; cases neg <;> simp

/-- A half-integer at a precision of q + 1 bits is an odd number of halves. -/
theorem odd_halves {neg : Bool} {m p q : Nat} {e k : ℤ} (hq : p = q + 1) (he : -(p : ℤ) ≤ e) (h : value neg m e + 1 / 2 = k) :
    ∃ j, j % 2 = 1 ∧ m * 2 ^ (e + p).toNat = j * 2 ^ q := by
  subst hq
  refine ⟨(2 * k - 1).natAbs, by omega, ?_⟩
  have hv : 2 * value neg m e = ((2 * k - 1 : ℤ) : ℝ) := by push_cast; linarith
  have ha : 2 * ((m : ℝ) * 2 ^ e) = ((2 * k - 1).natAbs : ℕ) := by
    rw [← abs_value neg, Nat.cast_natAbs, Int.cast_abs, ← hv, abs_mul, abs_of_pos (by norm_num : (0 : ℝ) < 2)]
  have hp : (2 : ℝ) ^ e * 2 ^ (q + 1) = 2 ^ (e + (q + 1 : ℕ)).toNat := by
    rw [← zpow_natCast, ← zpow_natCast, ← zpow_add₀ (by norm_num)]
    congr 1
    omega
  have : (m : ℝ) * 2 ^ (e + (q + 1 : ℕ)).toNat = ((2 * k - 1).natAbs : ℕ) * 2 ^ q := by
    rw [← hp, ← ha]; ring
  exact_mod_cast this

/-- The cosine of a half-integer number of half-turns is zero at every precision that holds it. -/
theorem sinEnc_of_half {neg : Bool} {m p q : Nat} {e k : ℤ} (hq : p = q + 1) (he : -(p : ℤ) ≤ e)
    (h : value neg m e + 1 / 2 = k) : sinEnc p true neg m e = some 0 := by
  obtain ⟨j, hj, hm⟩ := odd_halves hq he h
  exact sinEnc_half neg hq hj hm

theorem decideAt_of_some {f : Nat → Option W32} {w : W32} (h : f 400 = some w) (fn : Nat) (x : W32) : decideAt f fn x = w := by
  rw [decideAt, h]

/-! ### The functions on finite words (R305) -/

theorem sfu_finite {x : W32} {neg : Bool} {v : ℝ} (hf : f32Finite x = true) (hn : neg = x.getLsbD 31) (hv : v = f32Value x) :
    (v ≠ 0 → RoundsToF32 (1 / v) (sfu 0 x)) ∧
      (0 < v → RoundsToF32 (1 / √v) (sfu 1 x) ∧ RoundsToF32 √v (sfu 2 x)) ∧
      (v < 0 → sfu 1 x = canonicalNaN ∧ sfu 2 x = canonicalNaN ∧ sfu 4 x = canonicalNaN) ∧
      (v = 1 → sfu 4 x = 0) ∧
      (v ≠ 0 → (∃ k : ℤ, v = k) → sfu 5 x = f32Signed neg 0) ∧
      ((∃ k : ℤ, v + 1 / 2 = k) → sfu 6 x = 0) := by
  obtain ⟨m, e, hx, hval, hm, hlo, -, -⟩ := fp_finite x hf
  rw [← hn] at hx hval
  rw [hval] at hv
  have h0 : v ≠ 0 ↔ m ≠ 0 := by rw [hv]; exact (value_eq_zero neg m e).not
  have hmag : 0 ≤ (m : ℝ) * 2 ^ e := mul_nonneg m.cast_nonneg (two_zpow_pos e).le
  have hpos : 0 < v → neg = false ∧ v = m * 2 ^ e := by
    intro h
    cases neg
    · simpa [value] using hv
    · rw [hv, value, if_pos rfl] at h; linarith
  have hneg : v < 0 → neg = true := by
    intro h
    cases neg
    · rw [hv, value, if_neg (by decide)] at h; linarith
    · rfl
  refine ⟨fun h => ?_, fun h => ?_, fun h => ?_, fun h => ?_, fun h hk => ?_, fun hk => ?_⟩
  · simp only [sfu, hx, if_neg (h0.1 h)]
    rw [hv]
    exact recip_rounds neg e (h0.1 h) hm
  · obtain ⟨rfl, hw⟩ := hpos h
    simp only [sfu, hx, if_neg (h0.1 h.ne'), Bool.false_eq_true, if_false]
    rw [hw]
    exact ⟨rroot_rounds e (h0.1 h.ne') hm, root_rounds e (h0.1 h.ne')⟩
  · simp only [sfu, hx, if_neg (h0.1 h.ne), hneg h, if_true]
    exact ⟨rfl, rfl, rfl⟩
  · have hp : 0 < v := by rw [h]; exact one_pos
    obtain ⟨rfl, hw⟩ := hpos hp
    simp only [sfu, hx, if_neg (h0.1 hp.ne'), Bool.false_eq_true, if_false]
    exact decideAt_of_some (log2Enc_one _ (hw.symm.trans h)) ..
  · obtain ⟨k, hk⟩ := hk
    simp only [sfu, hx, isWhole_of_value (hv.symm.trans hk), Bool.or_true, if_true, zeroF32_eq]
  · obtain ⟨k, hk⟩ := hk
    have hm0 : m ≠ 0 := by
      rintro rfl
      rw [hv, value_zero] at hk
      have : ((1 : ℤ) : ℝ) = ((2 * k : ℤ) : ℝ) := by push_cast; linarith
      have := Int.cast_inj.1 this
      omega
    rw [hv] at hk
    simp only [sfu, hx, if_neg hm0]
    refine decideAt_of_some ?_ ..
    exact sinEnc_of_half (q := 399) rfl (by omega) hk

end Sys2Proof.Machine.F32
end

section
/-! PROOF. Scalar instructions, and F32 results in exact values (R74, R85, R86, R304, R305, R309, R315, R318): O41. -/

namespace Sys2Proof.Machine

open F32

/-- Settles O41: the results go in flight by `exec_scalarOp`; the exact values follow from the exact sum and product that an
operation rounds (`fAdd_exact`, `fMul_exact`, `fFma_exact`), from the integer quotient and roots below the exact ones
(`sfu_finite`), and from the order of signed magnitudes (`fMin_eq`). -/
theorem scalarOpsComplete : Obligations.ScalarOpsComplete := by
  unfold Obligations.ScalarOpsComplete
  refine ⟨fun i s u w o xs d ho hr hx hd => exec_scalarOp ho hr hx hd, ?_, fun x neg v hn hv =>
    ⟨fun n => sfu_nan n, fun hz => ?_, fun hi => sfu_inf hi hn, fun hf => sfu_finite hf hn hv⟩⟩
  · rintro a b c neg rfl
    refine ⟨ops_nan, fFma_nan, fSub_eq a b, fFms_eq a b c, fAbs_eq a, fNeg_eq a, fun ha hb => ⟨fMin_eq ha hb, fMax_eq ha hb⟩,
      fun ha hb => ⟨fun v => fAdd_exact ha hb, fun v => fMul_exact ha hb, fun v hc => fFma_exact ha hb hc, ops_finite_inf ha hb⟩,
      fAdd_infs, fun hi ha hb => ⟨ops_inf_zero hi ha hb, fun hza hzb => ⟨fMul_inf hi ha hb hza hzb, fFma_inf hi ha hb hza hzb⟩⟩⟩
  · subst hn
    exact sfu_zero hz

end Sys2Proof.Machine
end

section
/-! PROOF. The bits of bytes, lanes and packed containers (R3, R79, R299). -/

namespace Sys2Proof.Machine

/-- Bit k of some bytes, the first byte's bit 0 the lowest (R3). -/
def byteBit (bs : List Byte) (k : Nat) : Bool := (byteAt bs (k / 8)).getLsbD (k % 8)

theorem byteBit_nil (k : Nat) : byteBit [] k = false := by simp [byteBit, byteAt]

theorem byteBit_append (as bs : List Byte) (k : Nat) :
    byteBit (as ++ bs) k = if k < 8 * as.length then byteBit as k else byteBit bs (k - 8 * as.length) := by
  unfold byteBit byteAt
  split
  · rw [List.getD_append _ _ _ _ (by omega)]
  · rw [List.getD_append_right _ _ _ _ (by omega), show k / 8 - as.length = (k - 8 * as.length) / 8 by omega,
      show k % 8 = (k - 8 * as.length) % 8 by omega]

theorem byteBit_cons (b : Byte) (bs : List Byte) (k : Nat) :
    byteBit (b :: bs) k = if k < 8 then b.getLsbD k else byteBit bs (k - 8) := by
  have h := byteBit_append [b] bs k
  have hb : k < 8 → byteBit [b] k = b.getLsbD k := by
    intro hk
    rw [byteBit, byteAt, show k / 8 = 0 by omega, show k % 8 = k by omega]
    rfl
  simp only [List.singleton_append, List.length_singleton, mul_one] at h
  rw [h]
  split
  · exact hb ‹_›
  · rfl

theorem byteBit_drop (bs : List Byte) (n k : Nat) : byteBit (bs.drop n) k = byteBit bs (8 * n + k) := by
  unfold byteBit byteAt
  rw [show (8 * n + k) / 8 = n + k / 8 by omega, show (8 * n + k) % 8 = k % 8 by omega]
  simp [List.getD_eq_getElem?_getD]

theorem byteBit_take (bs : List Byte) (n k : Nat) : byteBit (bs.take n) k = (decide (k < 8 * n) && byteBit bs k) := by
  unfold byteBit byteAt
  by_cases h : k / 8 < n
  · have h' : k < 8 * n := by omega
    simp [List.getD_eq_getElem?_getD, List.getElem?_take_of_lt h, h']
  · have h' : ¬ k < 8 * n := by omega
    simp [List.getD_eq_getElem?_getD, List.getElem?_take_eq_none (Nat.le_of_not_lt h), h']

/-- The number of some bytes has their bits. -/
theorem testBit_leNat (bs : List Byte) (k : Nat) : (leNat bs).testBit k = byteBit bs k := by
  induction bs generalizing k with
  | nil => simp [leNat, byteBit_nil]
  | cons b bs ih =>
    rw [leNat, Nat.add_comm, byteBit_cons, ← ih]
    exact Nat.testBit_two_pow_mul_add _ b.isLt k

/-- The bytes of a number have its bits. -/
theorem byteBit_leBytes (n x k : Nat) : byteBit (leBytes n x) k = (decide (k < 8 * n) && x.testBit k) := by
  rw [← testBit_leNat, leNat_leBytes, show 256 ^ n = 2 ^ (8 * n) by rw [pow_mul]; norm_num, Nat.testBit_mod_two_pow]

theorem byteBit_flatMap_leBytes {α : Type} (f : α → Nat) (n : Nat) (hn : 0 < n) (xs : List α) (k : Nat) :
    byteBit (xs.flatMap fun x => leBytes n (f x)) k = ((xs.map f).getD (k / (8 * n)) 0).testBit (k % (8 * n)) := by
  induction xs generalizing k with
  | nil => simp [byteBit_nil]
  | cons x xs ih =>
    rw [List.flatMap_cons, byteBit_append, length_leBytes, List.map_cons]
    split
    · rename_i h
      rw [byteBit_leBytes, Nat.div_eq_of_lt h, Nat.mod_eq_of_lt h]
      simp [h]
    · rename_i h
      rw [ih, Nat.div_eq_sub_div (by omega) (by omega : 8 * n ≤ k), Nat.mod_eq_sub_mod (by omega : 8 * n ≤ k)]
      simp

/-! ### Lanes (R299) -/

theorem lane_build (g : Fin 64 → W32) (i : Nat) : lane (Lanes.build g) i = if h : i < 64 then g ⟨i, h⟩ else 0 := by
  unfold lane Lanes.build
  split
  · simp only [Vector.getElem_mk, List.getElem_toArray, List.getElem_ofFn]
  · rfl

theorem lane_of_lt (v : Lanes) (i : Fin 64) : lane v i.val = v[i] := by simp [lane]

theorem laneBit_lanesOfBytes (bs : List Byte) {k : Nat} (hk : k < 2048) : laneBit (lanesOfBytes bs) k = byteBit bs k := by
  rw [laneBit, lanesOfBytes, lane_build, dif_pos (by omega), le32, BitVec.getLsbD_ofNat, testBit_leNat, byteBit_take,
    byteBit_drop, show 8 * (4 * (k / 32)) + k % 32 = k by omega]
  have : k % 32 < 32 := Nat.mod_lt _ (by omega)
  simp [this]

theorem byteBit_bytesOfLanes (v : Lanes) (k : Nat) : byteBit (bytesOfLanes v) k = laneBit v k := by
  rw [bytesOfLanes, byteBit_flatMap_leBytes (fun i => (lane v i).toNat) 4 (by omega), laneBit, BitVec.getLsbD]
  by_cases h : k / 32 < 64
  · simp [List.getD_eq_getElem?_getD, h]
  · simp [List.getD_eq_getElem?_getD, h, lane]

theorem length_bytesOfLanes (v : Lanes) : (bytesOfLanes v).length = 256 := by
  rw [bytesOfLanes, length_flatMap_leBytes]
  rfl

/-- Vectors with the same bits are the same. -/
theorem lanes_eq_of_bits {v w : Lanes} (h : ∀ k, k < 2048 → laneBit v k = laneBit w k) : v = w := by
  apply Vector.ext
  intro i hi
  apply BitVec.eq_of_getLsbD_eq
  intro j hj
  have := h (32 * i + j) (by omega)
  rw [laneBit, laneBit, show (32 * i + j) / 32 = i by omega, show (32 * i + j) % 32 = j by omega] at this
  simpa [lane, hi] using this

/-! ### Packed containers (R79) -/

/-- The widths that a container has (R79). -/
def isWidth (w : Nat) : Prop := w = 4 ∨ w = 8 ∨ w = 16

theorem testBit_containerAt {w : Nat} (hw : isWidth w) (bs : List Byte) (i j : Nat) :
    (containerAt w bs i).testBit j = (decide (j < w) && byteBit bs (w * i + j)) := by
  unfold containerAt
  split
  · rename_i h4
    subst h4
    rw [fld, show 4 * (i % 2) + 3 + 1 - 4 * (i % 2) = 4 by omega, Nat.testBit_mod_two_pow, Nat.testBit_div_two_pow]
    by_cases hj : j < 4
    · rw [byteBit, show (4 * i + j) / 8 = i / 2 by omega, show (4 * i + j) % 8 = j + 4 * (i % 2) by omega]
      rfl
    · simp [hj]
  · rw [testBit_leNat, byteBit_take, byteBit_drop]
    obtain h | rfl | rfl := hw
    · contradiction
    · simp [Nat.mul_comm]
    · simp [show 8 * (i * 2) = 16 * i by ring]

theorem containerAt_lt {w : Nat} (hw : isWidth w) (bs : List Byte) (i : Nat) : containerAt w bs i < 2 ^ w := by
  apply Nat.lt_pow_two_of_testBit
  intro j hj
  rw [testBit_containerAt hw]
  simp; omega

theorem leBytes_mod (k n : Nat) : leBytes k (n % 256 ^ k) = leBytes k n := by
  induction k generalizing n with
  | zero => rfl
  | succ k ih =>
    have h1 : BitVec.ofNat 8 (n % 256 ^ (k + 1)) = BitVec.ofNat 8 n := by
      apply BitVec.eq_of_toNat_eq
      rw [BitVec.toNat_ofNat, BitVec.toNat_ofNat]
      exact Nat.mod_mod_of_dvd _ ⟨256 ^ k, by rw [pow_succ, mul_comm]⟩
    rw [leBytes, leBytes, h1, pow_succ', Nat.mod_mul_right_div_self, ih]

/-- Containers of whole bytes lie one after another. -/
theorem packCodes_bytes {w : Nat} (hw : w = 8 ∨ w = 16) (cs : List Nat) : packCodes w cs = cs.flatMap (leBytes (w / 8)) := by
  induction cs using packCodes.induct w with
  | case1 => rfl
  | case2 c =>
    rw [packCodes, List.flatMap_singleton]
    obtain rfl | rfl := hw
    · exact leBytes_mod 1 c
    · exact leBytes_mod 2 c
  | case3 c d cs h4 => omega
  | case4 c d cs h4 ih =>
    rw [packCodes, if_neg h4, ih]
    simp

theorem length_packCodes_four (cs : List Nat) : (packCodes 4 cs).length = (cs.length + 1) / 2 := by
  induction cs using packCodes.induct 4 with
  | case1 => rfl
  | case2 c => simp [packCodes]
  | case3 c d cs h4 ih =>
    rw [packCodes, if_pos h4, List.length_cons, ih, List.length_cons, List.length_cons]
    omega
  | case4 c d cs h4 => omega

theorem byteBit_packCodes_four (cs : List Nat) {k : Nat} (hk : k < 4 * cs.length) :
    byteBit (packCodes 4 cs) k = (cs.getD (k / 4) 0).testBit (k % 4) := by
  induction cs using packCodes.induct 4 generalizing k with
  | case1 => simp at hk
  | case2 c =>
    rw [List.length_singleton] at hk
    rw [packCodes, byteBit_leBytes, Nat.testBit_mod_two_pow, Nat.div_eq_of_lt (by omega), Nat.mod_eq_of_lt (by omega)]
    simp [show k < 4 by omega, show k < 8 by omega]
  | case3 c d cs h4 ih =>
    rw [List.length_cons, List.length_cons] at hk
    rw [packCodes, if_pos h4, byteBit_cons]
    split
    · rw [BitVec.getLsbD_ofNat, show c % 16 + 16 * (d % 16) = 2 ^ 4 * (d % 16) + c % 2 ^ 4 by omega,
        Nat.testBit_two_pow_mul_add _ (Nat.mod_lt _ (by norm_num))]
      by_cases hc : k < 4
      · rw [if_pos hc, Nat.testBit_mod_two_pow, Nat.div_eq_of_lt hc, Nat.mod_eq_of_lt hc]
        simp [hc, show k < 8 by omega]
      · rw [if_neg hc, show 16 = 2 ^ 4 by rfl, Nat.testBit_mod_two_pow, show k / 4 = 1 by omega, show k % 4 = k - 4 by omega]
        simp [show k - 4 < 4 by omega, show k < 8 by omega]
    · rw [ih (by omega), show k / 4 = (k - 8) / 4 + 2 by omega, show (k - 8) % 4 = k % 4 by omega]
      rfl
  | case4 c d cs h4 => omega

theorem byteBit_packCodes {w : Nat} (hw : isWidth w) (cs : List Nat) {k : Nat} (hk : k < w * cs.length) :
    byteBit (packCodes w cs) k = (cs.getD (k / w) 0).testBit (k % w) := by
  obtain rfl | hw := hw
  · exact byteBit_packCodes_four cs hk
  · have := byteBit_flatMap_leBytes id (w / 8) (by omega) cs k
    rw [show 8 * (w / 8) = w by omega, List.map_id] at this
    rw [packCodes_bytes hw]
    exact this

theorem length_packCodes {w : Nat} (hw : isWidth w) (cs : List Nat) : (packCodes w cs).length = (w * cs.length + 7) / 8 := by
  obtain rfl | hw := hw
  · rw [length_packCodes_four]
    omega
  · have := length_flatMap_leBytes cs (w / 8) id
    rw [packCodes_bytes hw]
    simp only [id_eq] at this
    rw [this]
    obtain rfl | rfl := hw <;> omega

end Sys2Proof.Machine
end

section
/-! PROOF. Conversions, packing and unpacking (R88 to R90, R310, R311): O42. -/

namespace Sys2Proof.Machine

/-! ### The generator (R88, R89) -/

theorem lfsrStep_eq (x : W32) : lfsrStep x = if x.getLsbD 0 then (x >>> 1) ^^^ 0x80200003 else x >>> 1 := rfl

/-- A conversion whose mode is assigned steps the generator in mode SR, unless both types are integer (R85, R89). -/
theorem stepsLfsr_iff {f : EF} {src dst : Ty} (h : badMode f = false) :
    stepsLfsr src dst (modeOf (f.fn.toNat % 8)) = true ↔ f.fn.toNat % 8 = 5 ∧ ¬(src.isInt = true ∧ dst.isInt = true) := by
  have h6 : f.fn.toNat % 8 < 6 := by simpa [badMode] using h
  have hm : modeOf (f.fn.toNat % 8) = .sr ↔ f.fn.toNat % 8 = 5 := by
    generalize f.fn.toNat % 8 = n at *
    interval_cases n <;> simp [modeOf]
  rw [stepsLfsr, Bool.and_eq_true, beq_iff_eq, hm]
  simp only [Bool.not_eq_true', Bool.and_eq_false_iff, not_and_or, Bool.not_eq_true]

/-- Drawing after one step is drawing one more. -/
theorem drawn_step (f : EF) (src dst : Ty) (x : W32) (n : Nat) :
    drawn f src dst (drawn f src dst x 1) n = drawn f src dst x (n + 1) := by
  induction n with
  | zero => rfl
  | succ n ih => rw [drawn, ih]; rfl

/-- Codes converted in order: each by the draw of its own step (R89, R310). -/
theorem convertAll_eq {f : EF} (src dst : Ty) (h : badMode f = false) (x : W32) (cs : List Nat) :
    convertAll src dst (modeOf (f.fn.toNat % 8)) (f.fn.getLsbD 3) x cs =
      (cs.mapIdx fun i c => converted f src dst x i c, drawn f src dst x cs.length) := by
  induction cs generalizing x with
  | nil => rfl
  | cons c cs ih =>
    have h1 : (if stepsLfsr src dst (modeOf (f.fn.toNat % 8)) then lfsrStep x else x) = drawn f src dst x 1 := by
      simp only [stepsLfsr_iff h]
      rfl
    rw [convertAll]
    simp only [h1, ih, List.mapIdx_cons, drawn_step, List.length_cons, converted]

/-- What a conversion in the state u gives, and the generator it leaves (R90). -/
theorem convertHere_eq {f : EF} (u : State) (src dst : Ty) (h : badMode f = false) (cs : List Nat) {n : Nat} (hn : cs.length = n) :
    convertHere u src dst f cs = (cs.mapIdx fun i c => converted f src dst u.r.ep.lfsrV i c, u.drew f src dst n) := by
  subst hn
  rw [convertHere, convertAll_eq src dst h]
  rfl

/-- A word that raises no cause holds no unassigned value (R197). -/
theorem ESpec.assigned {p : ESpec} {f : EF} (h : p.cause f = none) : p.unassigned = false := by
  unfold ESpec.cause at h
  split at h
  · cases h
  · rename_i hu
    simp only [Bool.or_eq_true, not_or, Bool.not_eq_true] at hu
    exact hu.2

/-- A conversion that nothing keeps from issuing has an assigned rounding mode (R85). -/
theorem badMode_of_ready {i : Instr} {f : EF} {s : State} (hi : i = .vcvt f ∨ i = .vpack f ∨ i = .vunpack f ∨ i = .scvt f)
    (h : s.eReady i = true) : badMode f = false := by
  obtain ⟨-, hc, -⟩ := (s.eReady_iff i).1 h
  obtain rfl | rfl | rfl | rfl := hi <;>
    · have := ESpec.assigned hc
      simp only [Bool.or_eq_false_iff] at this
      simp only [this]

/-! ### Elements of vectors -/

theorem getElem?_laneCodes (a : Lanes) (i : Fin 64) : (laneCodes a)[i.val]? = some a[i].toNat := by
  simp [laneCodes]

@[simp] theorem length_laneCodes (a : Lanes) : (laneCodes a).length = 64 := by simp [laneCodes]

/-- The vector of the lane forms of codes that are given one for each lane. -/
theorem lanesOfList_mapIdx {cs : List Nat} {c : Fin 64 → Nat} (h : ∀ i : Fin 64, cs[i.val]? = some (c i)) (g : Nat → W32)
    (op : Nat → Nat → Nat) : lanesOfList ((cs.mapIdx op).map g) = Lanes.build fun i => g (op i.val (c i)) := by
  unfold lanesOfList
  congr 1
  funext i
  simp [List.getD_eq_getElem?_getD, List.getElem?_mapIdx, h i]

theorem exec_vcvt {f : EF} {s u w : State} {src dst : Ty} {d : EDest} {a : Lanes} {v : EVal} (hd : s.eSlot.typeAt f.ty.toNat = .ok dst)
    (hs : s.eSlot.typeAt (f.x.toNat % 32) = .ok src) (hr : s.eReady (.vcvt f) = true) (ha : readV s.eSlot f.a = .ok (a, u))
    (hv : v = .vec (Lanes.build fun i => laneForm f.ty.toNat (converted f src dst u.r.ep.lfsrV i.val a[i].toNat)))
    (hw : reserveDest (u.drew f src dst 64) f v = .ok (d, w)) :
    ∃ t, exec (.vcvt f) s = .next t ∧ w.eIssued t 8 ⟨4, d, v, u.eguard f, some 8⟩ := by
  have he : exec (.vcvt f) s = execVcvt f s := rfl
  rw [he, execVcvt]
  refine eIssue_result (u := u.drew f src dst 64) (cls := 4) hr hw ?_
  simp only [hd, hs, ha, bind, Except.bind, convertHere_eq u src dst (badMode_of_ready (.inl rfl) hr) _ (length_laneCodes a),
    lanesOfList_mapIdx (getElem?_laneCodes a), hv]
  rfl

theorem exec_scvt {f : EF} {s u w : State} {src dst : Ty} {d : EDest} {a : W32} {v : EVal} (hd : s.eSlot.typeAt f.ty.toNat = .ok dst)
    (hs : s.eSlot.typeAt (f.x.toNat % 32) = .ok src) (hr : s.eReady (.scvt f) = true) (ha : readS s.eSlot f.a = .ok (a, u))
    (hv : v = .sc (laneForm f.ty.toNat (converted f src dst u.r.ep.lfsrV 0 a.toNat)))
    (hw : reserveDest (u.drew f src dst 1) f v = .ok (d, w)) :
    ∃ t, exec (.scvt f) s = .next t ∧ w.eIssued t 8 ⟨2, d, v, u.eguard f, some 10⟩ := by
  have he : exec (.scvt f) s = execScvt f s := rfl
  rw [he, execScvt]
  refine eIssue_result (u := u.drew f src dst 1) (cls := 5) hr hw ?_
  simp only [hd, hs, ha, bind, Except.bind, hv,
    convertHere_eq u src dst (badMode_of_ready (.inr (.inr (.inr rfl))) hr) [a.toNat] List.length_singleton]
  rfl

/-! ### Packing (R311) -/

theorem packedBits_eq (s : State) (c : Nat) : packedBits s c = s.elemBits c := by
  unfold packedBits State.elemBits wideWidth containerBits
  simp

theorem isWidth_elemBits (s : State) (c : Nat) : isWidth (s.elemBits c) := by
  unfold isWidth State.elemBits
  split <;> split <;> simp

/-- The bits of a vector one segment of which holds packed codes. -/
theorem laneBit_packed {n p : Nat} (hn : isWidth n) (z : Lanes) {cs : List Nat} (hc : cs.length = 64) {k : Nat} (hk : k < 2048) :
    laneBit (lanesOfBytes ((bytesOfLanes z).take (8 * n * p) ++ packCodes n cs ++ (bytesOfLanes z).drop (8 * n * (p + 1)))) k =
      if 64 * n * p ≤ k ∧ k < 64 * n * p + 64 * n then (cs.getD ((k - 64 * n * p) / n) 0).testBit ((k - 64 * n * p) % n)
      else laneBit z k := by
  have hlen : (packCodes n cs).length = 8 * n := by rw [length_packCodes hn, hc]; omega
  have hcode {j : Nat} (hj : j < 64 * n) : byteBit (packCodes n cs) j = (cs.getD (j / n) 0).testBit (j % n) :=
    byteBit_packCodes hn cs (by rw [hc]; omega)
  rw [laneBit_lanesOfBytes _ hk, byteBit_append, byteBit_append, byteBit_take, byteBit_drop, byteBit_bytesOfLanes,
    byteBit_bytesOfLanes, List.length_append, hlen, List.length_take, length_bytesOfLanes,
    show 64 * n * p = 8 * (8 * n * p) by ring, show 8 * n * (p + 1) = 8 * n * p + 8 * n by ring]
  generalize 8 * n * p = o
  by_cases h1 : k < 8 * o
  · rw [if_pos (by omega), if_pos (by omega), if_neg (by omega)]
    simp [h1]
  · rw [Nat.min_eq_left (by omega), if_neg h1]
    by_cases h2 : k < 8 * o + 64 * n
    · rw [if_pos (by omega), if_pos (by omega), hcode (by omega)]
    · rw [if_neg (by omega), if_neg (by omega)]
      congr 1
      omega

theorem exec_vpack {f : EF} {s u1 u w : State} {src dst : Ty} {d : EDest} {a z y : Lanes} {n o : Nat}
    (hd : s.eSlot.typeAt f.ty.toNat = .ok dst)
    (hs : s.eSlot.typeAt (f.x.toNat % 32) = .ok src) (hr : s.eReady (.vpack f) = true) (ha : readV s.eSlot f.a = .ok (a, u1))
    (hz : readV u1 f.c = .ok (z, u)) (hn : n = s.eSlot.elemBits f.ty.toNat) (ho : o = 64 * n * (f.x.toNat / 32))
    (hy : ∀ k, k < 2048 → laneBit y k =
      if o ≤ k ∧ k < o + 64 * n then
        (converted f src dst u.r.ep.lfsrV ((k - o) / n) (lane a ((k - o) / n)).toNat).testBit ((k - o) % n)
      else laneBit z k)
    (hw : reserveDest (u.drew f src dst 64) f (.vec y) = .ok (d, w)) :
    ∃ t, exec (.vpack f) s = .next t ∧ w.eIssued t 8 ⟨4, d, .vec y, u.eguard f, some 8⟩ := by
  have hb := badMode_of_ready (.inr (.inl rfl)) hr
  have hwidth : isWidth n := hn ▸ isWidth_elemBits ..
  have hyv : y = lanesOfBytes ((bytesOfLanes z).take (8 * n * (f.x.toNat / 32)) ++
      packCodes n ((laneCodes a).mapIdx fun i c => converted f src dst u.r.ep.lfsrV i c) ++
      (bytesOfLanes z).drop (8 * n * (f.x.toNat / 32 + 1))) := by
    refine lanes_eq_of_bits fun k hk => ?_
    rw [hy k hk, laneBit_packed hwidth z (by simp) hk, ← ho]
    split
    · rename_i h
      have hn0 : 0 < n := by obtain rfl | rfl | rfl := hwidth <;> norm_num
      have hi : (k - o) / n < 64 := (Nat.div_lt_iff_lt_mul hn0).2 (by omega)
      have hg := getElem?_laneCodes a ⟨_, hi⟩
      rw [← lane_of_lt] at hg
      simp only [List.getD_eq_getElem?_getD, List.getElem?_mapIdx, hg, Option.map_some, Option.getD_some]
    · rfl
  have he : exec (.vpack f) s = execVpack f s := rfl
  rw [he, execVpack]
  refine eIssue_result (u := u.drew f src dst 64) (cls := 4) hr hw ?_
  simp only [hd, hs, ha, hz, bind, Except.bind, convertHere_eq u src dst hb _ (length_laneCodes a), packedBits_eq, ← hn, ← hyv]
  rfl

theorem exec_vunpack {f : EF} {s u w : State} {src dst : Ty} {d : EDest} {a : Lanes} {v : EVal} {n : Nat} {c : Fin 64 → Nat}
    (hd : s.eSlot.typeAt f.ty.toNat = .ok dst)
    (hs : s.eSlot.typeAt (f.x.toNat % 32) = .ok src) (hr : s.eReady (.vunpack f) = true) (ha : readV s.eSlot f.a = .ok (a, u))
    (hn : n = s.eSlot.elemBits (f.x.toNat % 32))
    (hc : ∀ i, c i < 2 ^ n ∧ ∀ j, j < n → (c i).testBit j = laneBit a (64 * n * (f.x.toNat / 32) + n * i.val + j))
    (hv : v = .vec (Lanes.build fun i => laneForm f.ty.toNat (converted f src dst u.r.ep.lfsrV i.val (c i))))
    (hw : reserveDest (u.drew f src dst 64) f v = .ok (d, w)) :
    ∃ t, exec (.vunpack f) s = .next t ∧ w.eIssued t 8 ⟨4, d, v, u.eguard f, some 8⟩ := by
  have hb := badMode_of_ready (.inr (.inr (.inl rfl))) hr
  have hwidth : isWidth n := hn ▸ isWidth_elemBits ..
  have hcode (i : Fin 64) : ((List.range 64).map
      (containerAt n ((bytesOfLanes a).drop (8 * n * (f.x.toNat / 32)))))[i.val]? = some (c i) := by
    obtain ⟨hlt, hbit⟩ := hc i
    rw [List.getElem?_map, List.getElem?_range i.isLt, Option.map_some, Option.some_inj]
    apply Nat.eq_of_testBit_eq
    intro j
    rw [testBit_containerAt hwidth, byteBit_drop, byteBit_bytesOfLanes]
    by_cases hj : j < n
    · rw [hbit j hj, decide_eq_true hj, Bool.true_and]
      congr 1
      ring
    · have : c i < 2 ^ j := hlt.trans_le (Nat.pow_le_pow_right two_pos (Nat.le_of_not_lt hj))
      rw [Nat.testBit_lt_two_pow this, decide_eq_false hj, Bool.false_and]
  have he : exec (.vunpack f) s = execVunpack f s := rfl
  rw [he, execVunpack]
  refine eIssue_result (u := u.drew f src dst 64) (cls := 4) hr hw ?_
  simp only [hd, hs, ha, bind, Except.bind, packedBits_eq, ← hn]
  rw [convertHere_eq u src dst hb _ (n := 64) (by simp)]
  simp only [lanesOfList_mapIdx hcode, hv]
  rfl

/-- Settles O42: codes convert in order, each by the draw of its own step (`convertAll_eq`), and a packed segment is known by its
bits (`laneBit_packed`, `testBit_containerAt`). -/
theorem conversionsComplete : Obligations.ConversionsComplete := by
  unfold Obligations.ConversionsComplete
  refine ⟨lfsrStep_eq, ?_⟩
  rintro f s u w src dst d x hd hs rfl
  exact ⟨fun a v hr ha hv hw => exec_vcvt hd hs hr ha hv hw,
    fun a z y u1 n o hr ha hz hn ho hy hw => exec_vpack hd hs hr ha hz hn ho hy hw,
    fun a v n c hr ha hn hc hv hw => exec_vunpack hd hs hr ha hn hc hv hw,
    fun a v hr ha hv hw => exec_scvt hd hs hr ha hv hw⟩

end Sys2Proof.Machine
end

section
/-! PROOF. What reading an operand leaves, and state of the residency read into a scalar (R76, R90, R319, R329 to R333, R364 to
R366, R374): O45. -/

namespace Sys2Proof.Machine

/-! ### What reading an operand leaves (R184) -/

/-- t is s but for what the reading of an operand may change: heads, queues, memory's full bits, and free values. -/
def State.reads (s t : State) : Prop :=
  t = { s.updR fun q => { q with st := t.r.st, start := t.r.start, xq := t.r.xq } with mem := t.mem, free := t.free }

theorem State.reads_refl (s : State) : s.reads s := rfl

theorem State.reads.trans {s t u : State} (h : s.reads t) (h' : t.reads u) : s.reads u := by
  unfold State.reads at *
  conv_lhs => rw [h', h]
  rfl

theorem State.reads.gz {s t : State} (h : s.reads t) : t.r.gz = s.r.gz := by rw [h]; rfl

theorem State.reads_passHead (s : State) (p : SReg × Fin 4) (n : Nat) : s.reads (s.passHead p n) := by
  unfold State.passHead
  dsimp only
  split <;> rfl

theorem State.reads_takeBytes {s t : State} {p : SReg × Fin 4} {n : Nat} {peek : Bool} {bs : List Byte}
    (h : takeBytes s p n peek = .ok (bs, t)) : s.reads t := by
  unfold takeBytes at h
  dsimp only at h
  split at h
  · cases h
  · simp only [Except.ok.injEq, Prod.mk.injEq] at h
    obtain ⟨-, rfl⟩ := h
    split
    · exact s.reads_refl
    · exact s.reads_passHead p n

theorem State.reads_popAll {s t : State} {n : SReg} {want : Nat} {peek : Bool} {bs : List Byte}
    (h : popAll s n want peek = .ok (bs, t)) : s.reads t := by
  simp only [popAll, bind, Except.bind] at h
  split at h
  · cases h
  · split at h
    · split at h
      · cases h
      · rename_i x hx
        simp only [pure, Except.pure, Except.ok.injEq, Prod.mk.injEq] at h
        obtain ⟨-, rfl⟩ := h
        exact State.reads_takeBytes hx
    · split at h <;> cases h

theorem State.reads_popOperand {s t : State} {n : SReg} {want : Nat} {zero peek : Bool} {bs : List Byte}
    (h : popOperand s n want zero peek = .ok (bs, t)) : s.reads t := by
  simp only [popOperand, bind, Except.bind] at h
  split at h
  · cases h
  · split at h
    · split at h
      · cases h
      · rename_i x hx
        have hr := State.reads_takeBytes hx
        split at h
        · simp only [pure, Except.pure, Except.ok.injEq, Prod.mk.injEq] at h
          obtain ⟨-, rfl⟩ := h
          exact hr
        · simp only [pure, Except.pure, Except.ok.injEq, Prod.mk.injEq] at h
          obtain ⟨-, rfl⟩ := h
          exact hr.trans rfl
    · exact State.reads_popAll h

theorem State.reads_popXq {s t : State} {v : W64} (h : popXq s = .ok (v, t)) : s.reads t := by
  unfold popXq at h
  split at h
  · cases h
  · split at h
    · cases h
    · simp only [Except.ok.injEq, Prod.mk.injEq] at h
      obtain ⟨-, rfl⟩ := h
      rfl

theorem State.reads_of_ok {α : Type} {s u t : State} {a x : α} (hr : s.reads u) (h : (.ok (a, u) : Except Stop (α × State)) = .ok (x, t)) :
    s.reads t := by
  simp only [Except.ok.injEq, Prod.mk.injEq] at h
  obtain ⟨-, rfl⟩ := h
  exact hr

theorem State.reads_readS {s t : State} {c : BitVec 8} {x : W32} (h : readS s c = .ok (x, t)) : s.reads t := by
  simp only [readS] at h
  split at h
  · exact State.reads_of_ok s.reads_refl h
  split at h
  · split at h
    · exact State.reads_of_ok s.reads_refl h
    · cases h
  split at h
  · cases h
  split at h
  · exact State.reads_of_ok s.reads_refl h
  split at h
  · split at h
    · exact State.reads_of_ok (State.reads_popOperand ‹_›) h
    · cases h
  split at h
  · exact State.reads_of_ok s.reads_refl h
  split at h
  · split at h
    · exact State.reads_of_ok (State.reads_popXq ‹_›) h
    · cases h
  · cases h

/-! ### Control registers (R329 to R333) -/

theorem State.loopWord_level (e : EpCtx) (k : Nat) : e.level k = loopWord (e.loops.reverse[k]?.map fun l => (l.count, l.index)) := by
  unfold EpCtx.level levelOf loopWord
  cases e.loops.reverse[k]? with
  | none => rfl
  | some l => simp [Nat.mul_comm]

theorem EpCtx.depthWord_eq (e : EpCtx) : e.depthWord = BitVec.ofNat 64
    ((match e.loops.head?.bind ELoop.pipe with | some p => 2 ^ 6 + 2 ^ 3 * (p.stages - 1) | none => 0) + e.loops.length) := by
  unfold EpCtx.depthWord
  cases e.loops with
  | nil => rfl
  | cons l ls =>
    cases hp : l.pipe with
    | none => simp [hp]
    | some p =>
      simp only [hp, List.head?_cons, Option.bind_some]
      congr 1
      ring

/-- The words of the registers that E reads, by number. -/
theorem eCsr_eq (s : State) (n : Nat) : eCsr s n = s.eRegister n := by
  unfold eCsr State.eRegister
  dsimp only
  by_cases hf : 0x048 ≤ n ∧ n ≤ 0x04F
  · have hf' : 0x048 ≤ n ∧ n < 0x050 := by omega
    have hn : n % 8 = n - 0x048 := by omega
    rw [if_pos hf, dif_pos hf']
    simp [Fin.ofNat, hn]
  have hf' : ¬(0x048 ≤ n ∧ n < 0x050) := by omega
  rw [if_neg hf, dif_neg hf']
  by_cases hl : 0x070 ≤ n ∧ n ≤ 0x075
  · have hl' : 0x070 ≤ n ∧ n < 0x076 := by omega
    rw [if_pos hl, if_pos hl', State.loopWord_level]
  have hl' : ¬(0x070 ≤ n ∧ n < 0x076) := by omega
  rw [if_neg hl, if_neg hl']
  have hv : (s.r.ep.vsp.setWidth 22).setWidth 64 = BitVec.ofNat 64 (s.r.ep.vsp.toNat % 2 ^ 22) := by
    apply BitVec.eq_of_toNat_eq
    simp
  split
  case h_1 => exact congrArg some hv
  case h_9 => exact congrArg some s.r.ep.depthWord_eq
  case h_10 =>
    rw [sharedCsr_eq]
    split <;> simp_all
  all_goals rfl

/-- The halves of a word. -/
theorem half_eq (hi : Bool) (v : W64) :
    (if hi then (v >>> 32).setWidth 32 else v.setWidth 32) = if hi then v.extractLsb' 32 32 else v.extractLsb' 0 32 := by
  cases hi
  · exact BitVec.setWidth_eq_extractLsb' (by norm_num)
  · rfl

/-- An instruction of E whose body raises a cause parks E at it. -/
theorem eIssue_trap {i : Instr} {s : State} {body : State → Except Stop (State × EFlow)} {t : Trap}
    (h : s.eReady i = true) (hb : body s.eSlot = .error (.trap t)) :
    eIssue i s body = .next ((s.updE EpCtx.refill).parkE t) := by
  obtain ⟨hw, hc, hl, ho, he⟩ := (s.eReady_iff i).1 h
  rw [State.eSlot] at ho he hb
  simp only [eIssue, eCause, hw, hc, hl, ho, he, hb, Bool.false_eq_true, if_false]

/-! ### Instructions that read into a scalar -/

/-- An instruction of 8 bytes that reads state into a scalar gives what it reads. -/
theorem eGives_of_read {i : Instr} {f : EF} {lat cls : Nat} {s u : State} {x : W32} {op : State → Except Stop (W32 × State)}
    (he : exec i s = eRead i f lat cls op s) (hl : eLen i = 8) (hr : s.eReady i = true) (ho : op s.eSlot = .ok (x, u)) :
    s.eGives i f lat cls x u := by
  intro d w hd
  rw [he, ← hl]
  exact eRead_result hr ho hd

theorem eGives_xqPop {f : EF} {s : State} {v : W64} {vs : List W64} (hr : s.eReady (.xqPop f) = true)
    (hx : s.eSlot.r.xq = v :: vs) (hs : s.eSlot.r.start.xq ≠ 0) :
    s.eGives (.xqPop f) f 1 5 (if f.x.getLsbD 0 then v.extractLsb' 32 32 else v.extractLsb' 0 32)
      (if f.x.getLsbD 1 then s.eSlot
        else s.eSlot.updR fun r => { r with xq := vs, start := { r.start with xq := r.start.xq - 1 } }) := by
  have he : exec (.xqPop f) s = execXqPop f s := rfl
  rw [execXqPop] at he
  refine eGives_of_read he rfl hr ?_
  have hp : popXq s.eSlot = .ok (v, s.eSlot.updR fun r => { r with xq := vs, start := { r.start with xq := r.start.xq - 1 } }) := by
    rw [popXq, hx]
    exact if_neg hs
  simp only [hp, bind, Except.bind, half_eq]
  rfl

theorem eGives_ecsrR {f : EF} {s : State} {n : Nat} {v : W64} (hr : s.eReady (.ecsrR f) = true)
    (hn : n = f.fn.toNat % 8 * 256 + f.x.toNat) (hv : s.eSlot.eRegister n = some v)
    (hq : n = 0x051 → s.eSlot.r.mx.queue.any QEntry.isMatrix = false) :
    s.eGives (.ecsrR f) f 2 7 (if f.fn.getLsbD 3 then v.extractLsb' 32 32 else v.extractLsb' 0 32) s.eSlot := by
  have he : exec (.ecsrR f) s = execEcsrR f s := rfl
  rw [execEcsrR] at he
  refine eGives_of_read he rfl hr ?_
  have ha : (decide (n ≠ 0x051) || !(s.eSlot.r.mx.queue.any QEntry.isMatrix)) = true := by
    by_cases h : n = 0x051
    · rw [hq h]; simp
    · simp [h]
  simp only [ecsrNo, ← hn, eCsr_eq, hv, ha, half_eq]
  rfl

theorem exec_ecsrR_unassigned {f : EF} {s : State} (hr : s.eReady (.ecsrR f) = true)
    (hv : s.eSlot.eRegister (f.fn.toNat % 8 * 256 + f.x.toNat) = none) :
    ∃ t, exec (.ecsrR f) s = .next t ∧ t.r.ep.status = .parked 0x09 ∧ t.r.ep.pc = s.r.ep.pc := by
  have he : exec (.ecsrR f) s = execEcsrR f s := rfl
  refine ⟨(s.updE EpCtx.refill).parkE ⟨0x09, 0, 0⟩, ?_, State.parkE_status .., ?_⟩
  · rw [he, execEcsrR, eRead]
    refine eIssue_trap hr ?_
    simp only [ecsrNo, eCsr_eq, hv]
    rfl
  · rw [State.parkE_eq]
    exact s.r.ep.refill_pc

/-- What J.LOOK and J.LOOK.P read (R365). -/
theorem look_ok {f : EF} {s u : State} {c : JCfg} {x y : W32} {r : Option W32} (hi : s.r.dm.issued.isSome = true)
    (hx : readScalars s [f.a, f.b] = .ok ([x, y], u)) (hq : u.r.mx.queue.any QEntry.writesDamask = false)
    (hc : u.r.dm.cfg = some c) (hl : lookUp u c x.toNat y.toNat = .ok r) : look f s = .ok (r, u) := by
  obtain ⟨x', y', v, he, ha, hb⟩ := readScalars_two hx
  simp only [List.cons.injEq, and_true] at he
  obtain ⟨rfl, rfl⟩ := he
  obtain ⟨k, hk⟩ := Option.isSome_iff_exists.1 hi
  simp only [look, issuedCfg, hk, ha, hb, hq, hc, hl, bind, Except.bind]
  rfl

theorem eGives_look {f : EF} {s u : State} {i : Instr} {c : JCfg} {x y : W32} {r : Option W32} (hi : i = .jLook f ∨ i = .jLookP f)
    (hr : s.eReady i = true) (hs : s.eSlot.r.dm.issued.isSome = true)
    (hx : readScalars s.eSlot [f.a, f.b] = .ok ([x, y], u)) (hq : u.r.mx.queue.any QEntry.writesDamask = false)
    (hc : u.r.dm.cfg = some c) (hl : lookUp u c x.toNat y.toNat = .ok r) :
    s.eGives i f 6 7 (if i = .jLook f then r.getD 0 else if r.isSome then 1 else 0) u := by
  have hk := look_ok hs hx hq hc hl
  obtain rfl | rfl := hi
  · have he : exec (.jLook f) s = execJLook f s := rfl
    rw [execJLook] at he
    rw [if_pos rfl]
    refine eGives_of_read he rfl hr ?_
    simp only [hk, bind, Except.bind]
    rfl
  · have he : exec (.jLookP f) s = execJLookP f s := rfl
    rw [execJLookP] at he
    rw [if_neg (by simp)]
    refine eGives_of_read he rfl hr ?_
    simp only [hk, bind, Except.bind]
    rfl

/-- The configuration word of J.STAT, field by field (R366). -/
theorem cfgWord_eq (c : JCfg) (j : Nat) : cfgWord c j = BitVec.ofNat 32 (c.mode.val + 4 * c.i32.toNat + 8 * c.sat.toNat +
    16 * (c.probes - 1) + 256 + 512 * (if j = 262144 then 0 else if j = 524288 then 1 else 2)) := by
  rw [cfgWord]
  congr 1
  ring

theorem jstat_eq {s : State} {sel : Nat} (h3 : sel ≠ 3) (h4 : sel ≠ 4) : jstat s sel = (statOf s sel, s) := by
  unfold jstat statOf
  by_cases h5 : sel = 5
  · simp only [if_pos h5, Nat.mul_comm _ 256, Nat.mul_comm _ 65536]
    norm_num
  · simp only [if_neg h5, h3, h4, cfgWord_eq, JCfg.hash, decide_eq_true_eq]
    cases s.r.dm.issued <;> cases s.r.dm.cfg <;> rfl

theorem eGives_jStat {f : EF} {s : State} {w : W32} (hr : s.eReady (.jStat f) = true)
    (h : jstat s.eSlot (f.fn.toNat % 8) = (w, s.eSlot)) : s.eGives (.jStat f) f 2 7 w s.eSlot := by
  have he : exec (.jStat f) s = execJStat f s := rfl
  rw [execJStat] at he
  exact eGives_of_read he rfl hr (congrArg Except.ok h)

theorem jstat_unconfigured {s : State} {sel : Nat} (h : sel = 3 ∨ sel = 4) (hs : s.r.dm.issued.isNone = true) :
    jstat s sel = (0, s) := by
  have h5 : sel ≠ 5 := by omega
  simp only [jstat, if_neg h5, hs, if_true]

/-! ### Reads of a Gauze block (R374) -/

theorem bind_of_ok {α β : Type} {x : Except Stop α} {a : α} (h : x = .ok a) (f : α → Except Stop β) : (x >>= f) = f a := by
  rw [h]
  rfl

theorem need_of {b : Bool} {c : Cause} (h : b = true) : need b c = .ok () := if_pos h

/-- A read of a block that finds every earlier operation of Gauze completed. -/
theorem eGives_gauzeRead {i : Instr} {f : EF} {s u : State} {b : GBlock} {x : W32}
    {op : State → GBlock → Except Stop (W32 × State)} (he : exec i s = gauzeRead i f s op) (hl : eLen i = 8)
    (hr : s.eReady i = true) (hb : s.eSlot.r.gz.issued[gauzeBlk f] = some b) (hg : s.eSlot.r.gz.ops = [])
    (ho : op s.eSlot b = .ok (x, u)) : s.eGives i f 2 7 x u := by
  refine eGives_of_read he hl hr ?_
  simp only [issuedBlock, hb, ho, gauzeIdle, hg, bind, Except.bind]
  rfl

/-- After its operand has been read, a block's region is readable where no granule of it is bad. -/
theorem gauzeSound_ok {s : State} {k n : Nat} (h : (granulesOf (keysFrom k n)).any s.mem.isBad = false) :
    gauzeSound s k n = .ok () := by
  simp [gauzeSound, need, h]

theorem gauzeIdle_of_reads {s u : State} (h : s.reads u) (hg : s.r.gz.ops = []) : gauzeIdle u = .ok () := by
  simp [gauzeIdle, await, h.gz, hg]

theorem eGives_gMapR {f : EF} {s u : State} {b : GBlock} {w : W32} (hb : s.eSlot.r.gz.issued[gauzeBlk f] = some b)
    (hg : s.eSlot.r.gz.ops = []) (hr : s.eReady (.gMapR f) = true) (hx : readScalars s.eSlot [f.b] = .ok ([w], u))
    (hw : 32 * w.toNat < b.tiles)
    (hs : (granulesOf (keysFrom (b.mapKey u.entry (4 * w.toNat)) 4)).any u.mem.isBad = false) :
    s.eGives (.gMapR f) f 2 7 (le32 (u.mem.bytes (b.mapKey u.entry (4 * w.toNat)) 4) 0) u := by
  obtain ⟨w', he', ha⟩ := readScalars_one hx
  simp only [List.cons.injEq, and_true] at he'
  subst he'
  have he : exec (.gMapR f) s = execGMapR f s := rfl
  rw [execGMapR] at he
  exact eGives_gauzeRead he rfl hr hb hg <| (bind_of_ok ha _).trans <| (bind_of_ok (need_of (decide_eq_true hw)) _).trans <|
    (bind_of_ok (gauzeIdle_of_reads (State.reads_readS ha) hg) _).trans (bind_of_ok (gauzeSound_ok hs) _)

theorem eGives_gMapStep {f : EF} {s : State} {b : GBlock} (hb : s.eSlot.r.gz.issued[gauzeBlk f] = some b)
    (hg : s.eSlot.r.gz.ops = []) (hr : s.eReady (.gMapStep f) = true) :
    s.eGives (.gMapStep f) f 2 7 ((s.eSlot.r.gz.blocks[gauzeBlk f]).getD b).step s.eSlot := by
  have he : exec (.gMapStep f) s = execGMapStep f s := rfl
  rw [execGMapStep] at he
  refine eGives_gauzeRead he rfl hr hb hg ?_
  cases s.eSlot.r.gz.blocks[gauzeBlk f] <;> rfl

theorem eGives_gMapTile {f : EF} {s u : State} {b : GBlock} {w : W32} {r : List Byte}
    (hb : s.eSlot.r.gz.issued[gauzeBlk f] = some b)
    (hg : s.eSlot.r.gz.ops = []) (hr : s.eReady (.gMapTile f) = true) (hx : readScalars s.eSlot [f.b] = .ok ([w], u))
    (hw : w.toNat < b.tiles) (hs : (granulesOf (keysFrom (b.recKey u.entry w.toNat 0) 64)).any u.mem.isBad = false)
    (hrec : r = u.mem.bytes (b.recKey u.entry w.toNat 0) 20) :
    s.eGives (.gMapTile f) f 2 7 (BitVec.ofNat 32 (le16 r 16 + (byteAt r 18).toNat % 8 * 2 ^ 16)) u := by
  obtain ⟨w', he', ha⟩ := readScalars_one hx
  simp only [List.cons.injEq, and_true] at he'
  subst he' hrec
  have he : exec (.gMapTile f) s = execGMapTile f s := rfl
  rw [execGMapTile] at he
  exact eGives_gauzeRead he rfl hr hb hg <| (bind_of_ok ha _).trans <| (bind_of_ok (need_of (decide_eq_true hw)) _).trans <|
    (bind_of_ok (gauzeIdle_of_reads (State.reads_readS ha) hg) _).trans (bind_of_ok (gauzeSound_ok hs) _)

/-- Settles O45: each instruction is a read (`eGives_of_read`) of what the registers' numbers give (`eCsr_eq`), of Damask
(`look_ok`, `jstat_eq`) or of a block of Gauze that stands still (`eGives_gauzeRead`). -/
theorem scalarReadsComplete : Obligations.ScalarReadsComplete := by
  unfold Obligations.ScalarReadsComplete
  intro f s
  refine ⟨fun v vs hr hx hs => eGives_xqPop hr hx hs, fun n v hr hn hv hq => eGives_ecsrR hr hn hv hq,
    fun hr hv => exec_ecsrR_unassigned hr hv, fun i c x y u r hi hr hs hx hq hc hl => eGives_look hi hr hs hx hq hc hl,
    fun hr h3 h4 => eGives_jStat hr (jstat_eq h3 h4), fun hr h hs => eGives_jStat hr (jstat_unconfigured h hs), ?_⟩
  rintro k b rfl hb hg
  exact ⟨fun w u hr hx hw hs => eGives_gMapR hb hg hr hx hw hs, fun hr => eGives_gMapStep hb hg hr,
    fun w u r hr hx hw hs hrec => eGives_gMapTile hb hg hr hx hw hs hrec⟩

end Sys2Proof.Machine
end

section
/-! PROOF. What the work of a stream's side leaves: memory whose bytes are as before, the frame of a side's step, and the rules
of a claim, a commit, a write at the tail and a taken head (R113, R115, R122 to R126, R131). -/

namespace Sys2Proof.Machine

/-! ### Memory whose bytes are as before -/

/-- Two memories that hold the same bytes, whatever their full bits, check values and soft errors. -/
def Memory.sameBytes (m m' : Memory) : Prop := m'.cells = m.cells ∧ m'.remaps = m.remaps

theorem Memory.sameBytes.symm {m m' : Memory} (h : m.sameBytes m') : m'.sameBytes m := ⟨h.1.symm, h.2.symm⟩

theorem Memory.sameBytes.trans {m m' m'' : Memory} (h : m.sameBytes m') (h' : m'.sameBytes m'') : m.sameBytes m'' :=
  ⟨h'.1.trans h.1, h'.2.trans h.2⟩

theorem Memory.sameBytes.blank {m m' : Memory} (h : m.sameBytes m') (k : Nat) : m'.blank k = m.blank k := by
  rw [Memory.blank, h.2]
  rfl

theorem Memory.sameBytes.byte {m m' : Memory} (h : m.sameBytes m') (k : Nat) : m'.byte k = m.byte k := by
  rw [Memory.byte, h.blank, h.1]
  rfl

theorem Memory.sameBytes.gather {m m' : Memory} (h : m.sameBytes m') (ks : List Nat) : m'.gather ks = m.gather ks :=
  List.map_congr_left fun k _ => h.byte k

theorem Memory.sameBytes.poke {m m' : Memory} (h : m.sameBytes m') (k : Nat) (b : Byte) : (m.poke k b).sameBytes (m'.poke k b) :=
  ⟨by rw [Memory.poke, Memory.poke, h.blank, h.1], h.2⟩

theorem Memory.sameBytes.pokes {m m' : Memory} (h : m.sameBytes m') (l : List (Nat × Byte)) :
    (m.pokes l).sameBytes (m'.pokes l) := by
  induction l generalizing m m' with
  | nil => exact h
  | cons p l ih => exact ih (h.poke p.1 p.2)

theorem Memory.sameBytes_mends (m : Memory) (gs : List Nat) : m.sameBytes (m.mends gs) := by
  induction gs generalizing m with
  | nil => exact ⟨rfl, rfl⟩
  | cons g gs ih => exact ih (m.mend g)

theorem Memory.sameBytes_rechecks (m : Memory) (gs : List Nat) : m.sameBytes (m.rechecks gs) := by
  induction gs generalizing m with
  | nil => exact ⟨rfl, rfl⟩
  | cons g gs ih => exact ih (m.recheck g)

theorem Memory.sameBytes_setChks (m : Memory) (cs : List (Nat × Check)) :
    m.sameBytes (cs.foldl (fun m p => m.setChk p.1 p.2) m) := by
  induction cs generalizing m with
  | nil => exact ⟨rfl, rfl⟩
  | cons c cs ih => exact ih (m.setChk c.1 c.2)

theorem Memory.sameBytes.write {m m' : Memory} (h : m.sameBytes m') (ks : List Nat) (bs : List Byte) :
    (m.write ks bs).sameBytes (m'.write ks bs) :=
  have hw (x : Memory) : (x.pokes (ks.zip bs)).sameBytes (x.write ks bs) :=
    (Memory.sameBytes_mends _ _).trans (Memory.sameBytes_rechecks _ _)
  (hw m).symm.trans ((h.pokes _).trans (hw m'))

theorem sameBytes_clearRing (m : Memory) (e : Nat) (r : StreamReg) (c : BitVec 24) (n : Nat) :
    m.sameBytes (clearRing m e r c n) := by
  induction n with
  | zero => exact ⟨rfl, rfl⟩
  | succ n ih => exact ih

theorem sameBytes_sealRing (m : Memory) (e : Nat) (r : StreamReg) (c : BitVec 24) (n : Nat) :
    m.sameBytes (sealRing m e r c n) := by
  induction n with
  | zero => exact ⟨rfl, rfl⟩
  | succ n ih => exact ih

theorem sameBytes_sealLast (m : Memory) (e : Nat) (r : StreamReg) : m.sameBytes (sealLast m e r) := by
  unfold sealLast
  split <;> exact ⟨rfl, rfl⟩

theorem sameBytes_carryChecks (m : Memory) (e : Nat) (r : StreamReg) (c : BitVec 24) (ks : List Check) :
    m.sameBytes (carryChecks m e r c ks) := by
  induction ks generalizing m c with
  | nil => exact ⟨rfl, rfl⟩
  | cons k ks ih => exact ih (m.setChk (r.granuleNo e c) k) (c + 1)

/-! ### The frame of a side's step -/

/-- t is s but for what a side of a stream may change: streams, what the core cycle's start gives of them, the watchdog's note,
memory, the package and free values. -/
def State.sided (s t : State) : Prop :=
  t = { s.updR fun q => { q with st := t.r.st, start := t.r.start, watch := t.r.watch } with mem := t.mem, pkg := t.pkg, free := t.free }

theorem State.sided.trans {s t u : State} (h : s.sided t) (h' : t.sided u) : s.sided u := by
  unfold State.sided at *
  conv_lhs => rw [h', h]
  rfl

theorem State.sided.ctxs {s t : State} (h : s.sided t) : s.ctxsKept t := by
  rw [h]
  exact ⟨rfl, rfl, rfl⟩

theorem State.sided.entry {s t : State} (h : s.sided t) : t.entry = s.entry := by
  rw [h]
  rfl

theorem State.sided.others {s t : State} (h : s.sided t) : t.others = s.others := by
  rw [h]
  rfl

theorem State.sided_draw (s : State) : s.sided s.draw.2 := rfl
theorem State.sided_updSt (s : State) (n : SReg) (f : StreamReg → StreamReg) : s.sided (s.updSt n f) := rfl

theorem State.sided.move {s t : State} (h : s.sided t) : s.sided t.move := h.trans rfl
theorem State.sided.updSt {s t : State} (h : s.sided t) {n : SReg} {f : StreamReg → StreamReg} : s.sided (t.updSt n f) := h.trans rfl
theorem State.sided_resolve {s u : State} {x : W64} {n : Nat} {r w : Bool} {ks : List Nat} (h : resolve s x n r w = .ok (ks, u)) :
    s.sided u := by
  rw [resolve_eq h]
  rfl

theorem State.sided_event (s : State) (unit kind : Nat) (d : W64) : s.sided (s.event unit kind d) := by
  rw [State.event_eq]
  rfl

theorem State.stream_move (s : State) (n : SReg) : s.move.stream n = s.stream n := rfl

theorem State.sameBytes_release {s u : State} (h : u.mem = s.mem) (n : SReg) (f : StreamReg → StreamReg) :
    s.mem.sameBytes (u.release n f).mem :=
  h ▸ sameBytes_clearRing u.mem _ _ _ _

theorem State.stream_release (s : State) (n k : SReg) (f : StreamReg → StreamReg) :
    (s.release n f).stream k = if k = n then f (s.stream n) else s.stream k :=
  s.stream_updSt n k fun _ => f (s.stream n)

theorem State.stream_updSt_same (s : State) (n : SReg) (f : StreamReg → StreamReg) : (s.updSt n f).stream n = f (s.stream n) :=
  (s.stream_updSt n n f).trans (if_pos rfl)

theorem State.stream_withMem (s : State) (m : Memory) (n : SReg) : ({ s with mem := m } : State).stream n = s.stream n := rfl

/-- A change of the residency that leaves its streams. -/
theorem State.stream_updR {s : State} {f : Residency → Residency} (h : (f s.r).st = s.r.st) (k : SReg) :
    (s.updR f).stream k = s.stream k := congrArg (fun v : Vector StreamReg 32 => v[k]) h

/-! ### A claim (R126, R131) -/

/-- t is s after a claim on stream n or the drops of one: heads and counts of the stream, its oldest position and full bits. -/
structure State.claims (s : State) (n : SReg) (t : State) : Prop where
  sided : s.sided t
  stream : t.stream n = { s.stream n with
    heads := (t.stream n).heads, drops := (t.stream n).drops, claimed := (t.stream n).claimed, dropping := (t.stream n).dropping }
  start : t.r.start = { s.r.start with oldest := t.r.start.oldest }
  mem : s.mem.sameBytes t.mem

theorem State.claims.refl (s : State) (n : SReg) : s.claims n s := ⟨rfl, rfl, rfl, ⟨rfl, rfl⟩⟩

theorem State.claims.trans {s t u : State} {n : SReg} (h : s.claims n t) (h' : t.claims n u) : s.claims n u where
  sided := h.sided.trans h'.sided
  stream := by
    conv_lhs => rw [h'.stream, h.stream]
  start := by
    conv_lhs => rw [h'.start, h.start]
  mem := h.mem.trans h'.mem

theorem dropUntil_kept (x : StreamReg) (unit : BitVec 24 → DropUnit) (g k : Nat) (p : StreamReg × BitVec 24) :
    (dropUntil x unit g k p).1 =
      { p.1 with heads := (dropUntil x unit g k p).1.heads, drops := (dropUntil x unit g k p).1.drops } := by
  induction k generalizing p with
  | zero => rfl
  | succ k ih =>
    obtain ⟨r, o⟩ := p
    rw [dropUntil]
    split
    · rfl
    · conv_lhs => rw [ih]
      rfl

theorem State.claims_noteDrop (s : State) (n : SReg) : s.claims n (s.noteDrop n) := by
  unfold State.noteDrop
  split
  · exact .refl s n
  · have hr : (s.event ((s.stream n).filler s.ap) 1 (BitVec.ofNat 64 n.val)).stream n = s.stream n := by
      rw [State.event_eq]
      rfl
    refine ⟨(s.sided_event ..).trans (State.sided_updSt ..), ?_, ?_, ?_⟩
    · simp only [State.stream_updSt, if_true, hr]
    · rw [State.event_eq]
      rfl
    · rw [State.event_eq]
      exact ⟨rfl, rfl⟩

theorem State.claims_dropped (s : State) (n : SReg) {r : StreamReg} (o : BitVec 24)
    (hr : r = { s.stream n with heads := r.heads, drops := r.drops }) :
    s.claims n ((s.release n fun _ => r).updR fun q => { q with start := { q.start with oldest := q.start.oldest.set n o } }) := by
  have hs : ((s.release n fun _ => r).updR fun q =>
      { q with start := { q.start with oldest := q.start.oldest.set n o } }).stream n = r := by
    rw [State.stream_updR, State.stream_release, if_pos rfl]
    rfl
  refine ⟨rfl, ?_, rfl, State.sameBytes_release rfl n fun _ => r⟩
  have hc : r.claimed = (s.stream n).claimed := by rw [hr]
  have hd : r.dropping = (s.stream n).dropping := by rw [hr]
  rw [hs, hc, hd]
  conv_lhs => rw [hr]

theorem State.claims_dropBy (s : State) (n : SReg) (unit : BitVec 24 → DropUnit) (g : Nat) : s.claims n (s.dropBy n unit g) := by
  unfold State.dropBy
  dsimp only
  split
  · exact .refl s n
  · exact (s.claims_dropped n _ (dropUntil_kept ..)).trans (State.claims_noteDrop _ n)

theorem State.claims_of_claim {s t : State} {n : SReg} {g : Nat} (h : s.claim n g = some t) : s.claims n t := by
  have hup (u : State) (c : BitVec 24) (d : Bool) : u.claims n
      (u.updSt n fun r => { r with claimed := r.claimed + c, dropping := r.dropping && d }) :=
    ⟨rfl, by simp only [State.stream_updSt, if_true], rfl, ⟨rfl, rfl⟩⟩
  unfold State.claim at h
  dsimp only at h
  split at h
  · cases h
    exact .refl s n
  split at h
  · cases h
    exact hup ..
  split at h
  · cases h
    exact (s.claims_dropBy ..).trans (hup ..)
  · cases h

theorem State.claims.streamStart {s t : State} {n : SReg} (h : s.claims n t) (k : SReg) : t.streamStart k = s.streamStart k := by
  rw [State.streamStart, h.start]
  rfl

/-! ### A commit, and a write at the tail (R115, R123) -/

theorem State.sided_commit (s : State) (n : SReg) (k : Nat) : s.sided (s.commit n k) := by
  unfold State.commit
  dsimp only
  split <;> rfl

theorem State.sameBytes_commit (s : State) (n : SReg) (k : Nat) : s.mem.sameBytes (s.commit n k).mem := by
  unfold State.commit
  dsimp only
  split
  · exact ⟨rfl, rfl⟩
  · exact (sameBytes_sealRing ..).trans (sameBytes_sealLast ..)

theorem State.stream_commit (s : State) (n : SReg) {k : Nat} (hk : k ≠ 0) :
    (s.commit n k).stream n = { (s.stream n).commitBytes k with landed := (s.stream n).landed - k } := by
  unfold State.commit
  rw [if_neg hk]
  exact (s.stream_updSt n n fun _ => { (s.stream n).commitBytes k with landed := (s.stream n).landed - k }).trans (if_pos rfl)

theorem State.stream_commit_zero (s : State) (n : SReg) : s.commit n 0 = s := if_pos rfl

theorem StreamReg.commitBytes_kept (r : StreamReg) (k : Nat) :
    r.commitBytes k = { r with committed := (r.commitBytes k).committed, tpos := (r.commitBytes k).tpos } := by
  unfold StreamReg.commitBytes
  dsimp only
  split <;> rfl

theorem State.sided_writeTail (s : State) (n : SReg) (o : Nat) (bs : List Byte) : s.sided (s.writeTail n o bs) := rfl

theorem State.sameBytes_writeTail (s : State) (n : SReg) (o : Nat) (bs : List Byte) :
    (s.mem.pokes (((s.stream n).byteKeys s.entry (s.stream n).tail.1 ((s.stream n).tail.2 + o) bs.length).zip bs)).sameBytes
      (s.writeTail n o bs).mem :=
  Memory.sameBytes_mends _ _

theorem State.stream_writeTail (s : State) (n : SReg) (o : Nat) (bs : List Byte) :
    (s.writeTail n o bs).stream n = { s.stream n with landed := max (s.stream n).landed (o + bs.length) } :=
  (State.stream_updSt _ n n _).trans (if_pos rfl)

/-! ### What is taken at a head (R26, R125) -/

theorem State.updStart_mem (s : State) (n : SReg) (f : StreamReg → StreamReg) : (s.updStart n f).mem = s.mem := rfl
theorem State.stream_updStart (s : State) (n k : SReg) (f : StreamReg → StreamReg) : (s.updStart n f).stream k = s.stream k := rfl

theorem State.sided_passHead (s : State) (p : SReg × Fin 4) (n : Nat) : s.sided (s.passHead p n) := by
  unfold State.passHead
  dsimp only
  split <;> rfl

theorem State.sameBytes_passHead (s : State) (p : SReg × Fin 4) (n : Nat) : s.mem.sameBytes (s.passHead p n).mem := by
  unfold State.passHead
  dsimp only
  split
  · exact ⟨rfl, rfl⟩
  · exact State.sameBytes_release (State.updStart_mem ..) _ _

theorem State.stream_passHead (s : State) (p : SReg × Fin 4) (n : Nat) (k : SReg) :
    (s.passHead p n).stream k = { s.stream k with heads := ((s.passHead p n).stream k).heads } := by
  unfold State.passHead
  dsimp only
  split
  · simp only [State.stream_updStart]
  · simp only [State.stream_release, State.stream_updStart]
    split
    · rename_i hk
      subst hk
      rfl
    · rfl

theorem State.headNow_passHead (s : State) (p : SReg × Fin 4) (n : Nat) :
    (s.passHead p n).headNow p = (s.headNow p).advance (s.streamStart p.1).esize n := by
  have hu : (s.updStart p.1 fun y => y.updHead p.2 fun _ => (s.headNow p).advance (s.streamStart p.1).esize n).headNow p =
      (s.headNow p).advance (s.streamStart p.1).esize n := by
    simp [State.headNow, State.streamStart, State.updStart, State.updR, StreamReg.updHead]
  unfold State.passHead
  dsimp only
  split <;> exact hu

/-- Taking bytes at a head passes it. -/
theorem State.passes_passHead (s : State) (p : SReg × Fin 4) (n : Nat) : s.passes (s.passHead p n) p n := by
  rintro h new y rfl rfl rfl
  refine ⟨s.headNow_passHead p n, fun he hr hle => ?_⟩
  have hc : ¬ (!((s.stream p.1).heads[p.2]).enabled || s.r.start.rewound.contains p) = true := by
    rw [he, hr]
    decide
  unfold State.passHead
  dsimp only
  rw [if_neg hc, State.stream_release, if_pos rfl, State.stream_updStart]
  simp only [Fin.getElem_fin] at hle
  simp only [StreamReg.updHead, Head.passed, Vector.getElem_set_self, Fin.getElem_fin, if_neg (Nat.not_lt.2 hle)]

/-- A later change that leaves the heads leaves them passed. -/
theorem State.passes.congr {s t u : State} {p : SReg × Fin 4} {n : Nat} (h : s.passes t p n) (hn : u.headNow p = t.headNow p)
    (hs : (u.stream p.1).heads = (t.stream p.1).heads) : s.passes u p n := by
  intro x new y hx hnew hy
  obtain ⟨ha, hb⟩ := h x new y hx hnew hy
  rw [hn, hs]
  exact ⟨ha, hb⟩

end Sys2Proof.Machine
end

section
/-! PROOF. Fetches, landings and drains (R119 to R125, R134). -/

namespace Sys2Proof.Machine

theorem sourceStep_ok (s t : State) (n : SReg) (u e : Nat) : sourceStep s n u e (.ok t) = .next t := by
  unfold sourceStep
  split <;> simp_all

theorem sinkStep_ok (s t : State) (n : SReg) (e : Nat) : sinkStep s n e (.ok t) = .next t := by
  unfold sinkStep
  split <;> simp_all

/-! ### STREAM_FETCH -/

/-- What a fetched element leaves behind those that have landed. -/
structure State.lands (s : State) (n : SReg) (bs : List Byte) (t : State) : Prop where
  sided : s.sided t
  cursor : (t.stream n).cursor = (s.stream n).cursor + 1
  landed : (t.stream n).landed = (s.stream n).landed + bs.length
  committed : (t.stream n).committed = (s.stream n).committed
  mem : (s.mem.pokes (((s.stream n).byteKeys s.entry (s.stream n).tail.1 ((s.stream n).tail.2 + (s.stream n).landed)
    bs.length).zip bs)).sameBytes t.mem

theorem stream_landElement (s : State) (n : SReg) (src : List Nat) (bs : List Byte) :
    (landElement s n src bs).stream n = { s.stream n with
      cursor := (s.stream n).cursor + 1, landed := (s.stream n).landed + bs.length, pin := none } := by
  unfold landElement
  dsimp only
  rw [State.stream_move, State.stream_updSt_same, State.stream_withMem, State.stream_writeTail,
    Nat.max_eq_right (Nat.le_add_right ..)]

theorem lands_landElement (s : State) (n : SReg) (src : List Nat) (bs : List Byte) : s.lands n bs (landElement s n src bs) where
  sided := rfl
  cursor := by rw [stream_landElement]
  landed := by rw [stream_landElement]
  committed := by rw [stream_landElement]
  mem := (s.sameBytes_writeTail n _ bs).trans (sameBytes_carryChecks ..)

theorem State.lands.exhaust {s t : State} {n : SReg} {bs : List Byte} (h : s.lands n bs t) : s.lands n bs (t.exhaust n) := by
  have hs : (t.exhaust n).stream n = { t.stream n with exhausted := true } :=
    t.stream_updSt_same n _
  exact ⟨h.sided.trans rfl, by rw [hs]; exact h.cursor, by rw [hs]; exact h.landed, by rw [hs]; exact h.committed, h.mem⟩

theorem translateSpan_length {s u : State} {va : W64} {n : Nat} {r w : Bool} {ks : List Nat}
    (h : translateSpan s va n r w = .ok (ks, u)) : ks.length = n := by
  unfold translateSpan at h
  dsimp only at h
  split at h
  · cases h
  split at h
  · cases h
  split at h
  · split at h
    · cases h
    · cases h
      exact length_keysFrom ..
  · rename_i hn
    split at h
    · cases h
    split at h
    · cases h
    split at h
    · cases h
    · cases h
      rw [List.length_append, length_keysFrom, length_keysFrom]
      omega

theorem resolve_length {s u : State} {x : W64} {n : Nat} {r w : Bool} {ks : List Nat} (h : resolve s x n r w = .ok (ks, u)) :
    ks.length = n := by
  unfold resolve at h
  split at h
  · cases h
  · cases h
    exact length_keysFrom ..
  · exact translateSpan_length h

/-- A side's read resolves its bytes' addresses. -/
theorem sideRead_kept {s u : State} {x : W64} {n : Nat} {ks : List Nat} (h : sideRead s x n = .ok (ks, u)) :
    s.sided u ∧ u.mem = s.mem ∧ u.r = s.r ∧ ks.length = n := by
  unfold sideRead at h
  cases hr : resolve s x n true false with
  | error e => rw [hr] at h; cases h
  | ok p =>
    obtain ⟨k, v⟩ := p
    simp only [hr, bind, Except.bind] at h
    split at h
    · cases h
    split at h
    · cases h
    · simp only [pure, Except.pure, Except.ok.injEq, Prod.mk.injEq] at h
      obtain ⟨rfl, rfl⟩ := h
      obtain ⟨hm, hk, -⟩ := resolve_kept hr
      exact ⟨State.sided_resolve hr, hm, hk, resolve_length hr⟩

/-- An element at an address that its checks pass lands. -/
theorem fetchAt_ok {s u : State} {n : SReg} {h : Option Handle} {e : Nat} {x : W64} {ks : List Nat}
    (ha : (s.withStartAddrs n).elemAddr h (s.stream n).kind e = .ok (some x)) (hc : elemCheck s x (s.stream n).esize = .ok ())
    (hb : ∀ v, h = some v → v.base.toNat ≤ x.toNat ∧ x.toNat + (s.stream n).esize ≤ v.base.toNat + v.len.toNat)
    (hr : sideRead s x (s.stream n).esize = .ok (ks, u)) :
    fetchAt s n h e = .ok (landElement u.draw.2 n (if 64 ≤ (s.stream n).esize then ks else []) (u.readKeys ks)) := by
  unfold fetchAt
  refine (bind_of_ok ha _).trans ((bind_of_ok hc _).trans ?_)
  cases h with
  | none => exact bind_of_ok hr _
  | some v =>
    have hv : needAt (v.base.toNat ≤ x.toNat && x.toNat + (s.stream n).esize ≤ v.base.toNat + v.len.toNat) 0x37 x = .ok () :=
      if_pos (by simpa using hb v rfl)
    exact (bind_of_ok hv _).trans (bind_of_ok hr _)

/-- A register's addresses as a claim of the same core cycle leaves them. -/
theorem State.claims.withStartAddrs {s t : State} {n : SReg} (h : s.claims n t) : t.withStartAddrs n = { s.withStartAddrs n with
    heads := (t.stream n).heads, drops := (t.stream n).drops, claimed := (t.stream n).claimed, dropping := (t.stream n).dropping } := by
  unfold State.withStartAddrs
  rw [h.streamStart]
  conv_lhs => rw [h.stream]

/-- The address of an element rests on a register's source words, its addresses and what has landed. -/
theorem patWalk_congr {r r' : StreamReg} (h : r'.src = r.src) (k i rest : Nat) (a : Int) :
    patWalk r' k i rest a = patWalk r k i rest a := by
  induction k generalizing i rest a with
  | zero => rfl
  | succ k ih =>
    have hn : r'.patCount i = r.patCount i := by simp only [StreamReg.patCount, h]
    have hs : r'.patStride i = r.patStride i := by simp only [StreamReg.patStride, h]
    simp only [patWalk, ih, hn, hs]

theorem StreamReg.elemAddr_congr {r r' : StreamReg} (hs : r'.src = r.src) (ha : r'.addrs = r.addrs) (hl : r'.landed = r.landed)
    (hc : r'.control = r.control) (h : Option Handle) (way e : Nat) : r'.elemAddr h way e = r.elemAddr h way e := by
  have hp : r'.patAddr e = r.patAddr e := by
    have hd : r'.dims = r.dims := by simp only [StreamReg.dims, StreamReg.srcBits, hs]
    unfold StreamReg.patAddr
    rw [patWalk_congr hs, hd, hs]
  have hb : r'.basePlus = r.basePlus := by
    funext a
    simp only [StreamReg.basePlus, hs]
  have he : r'.esize = r.esize := by simp only [StreamReg.esize, StreamReg.code, hc]
  simp only [StreamReg.elemAddr, hp, ha, hl, he, hb]

theorem fetchHandle_dense {s : State} {n : SReg} {v : Handle} {e : Nat} (h : v.type = 0 ∨ v.type = 3) :
    fetchHandle s n v e = fetchAt s n (some v) e := if_pos (by simpa using h)

/-- The fetch side's next element lands, where its tensor is dense or has none. -/
theorem fetchStep_lands {s s1 u : State} {n : SReg} {h : Option Handle} {x : W64} {ks : List Nat}
    (hh : h = if (s.stream n).kind = 2 then s.r.h[(s.stream n).handleNo] else none)
    (hb : (s.stream n).kind = 2 → ∃ v, h = some v ∧ (v.type = 0 ∨ v.type = 3) ∧ v.base.toNat ≤ x.toNat ∧
      x.toNat + (s.stream n).esize ≤ v.base.toNat + v.len.toNat)
    (hp : ∀ k, (s.stream n).elements h (s.stream n).kind = some k → (s.stream n).cursor.toNat < k)
    (ha : (s.withStartAddrs n).elemAddr h (s.stream n).kind (s.stream n).cursor.toNat = .ok (some x))
    (hl : claimNext s n (s.stream n).esize = some s1) (hc : elemCheck s1 x (s.stream n).esize = .ok ())
    (hr : sideRead s1 x (s.stream n).esize = .ok (ks, u)) :
    ∃ t, fetchStep s n = .ok t ∧ u.draw.2.lands n (u.readKeys ks) t := by
  have hs := State.claims_of_claim hl
  have hk : (s1.stream n).kind = (s.stream n).kind := by rw [hs.stream]; rfl
  have he : (s1.stream n).esize = (s.stream n).esize := by rw [hs.stream]; rfl
  obtain ⟨t, hat, hland⟩ : ∃ t, fetchAt s1 n h (s.stream n).cursor.toNat = .ok t ∧ u.draw.2.lands n (u.readKeys ks) t := by
    refine ⟨_, fetchAt_ok ?_ (he ▸ hc) ?_ (he ▸ hr), lands_landElement ..⟩
    · rw [hs.withStartAddrs, hk, ← ha]
      apply StreamReg.elemAddr_congr <;> rfl
    · rintro v rfl
      rw [he]
      by_cases h2 : (s.stream n).kind = 2
      · obtain ⟨w, hw, -, h⟩ := hb h2
        cases hw
        exact h
      · rw [if_neg h2] at hh
        cases hh
  have hf : fetchStep s n = .ok (if (t.stream n).cursor = 0 && (s.stream n).cursor ≠ 0 then t.exhaust n else t) := by
    unfold fetchStep
    dsimp only
    rw [← hh]
    refine (if_neg ?_).trans ?_
    · cases hq : (s.stream n).elements h (s.stream n).kind with
      | none => simp
      | some k => simp [hp k hq]
    rw [hl]
    cases h with
    | none => exact bind_of_ok hat _
    | some v =>
      have hv : v.type = 0 ∨ v.type = 3 := by
        by_cases h2 : (s.stream n).kind = 2
        · obtain ⟨w, hw, h, -⟩ := hb h2
          cases hw
          exact h
        · rw [if_neg h2] at hh
          cases hh
      exact bind_of_ok ((fetchHandle_dense hv).trans hat) _
  refine ⟨_, hf, ?_⟩
  split
  · exact hland.exhaust
  · exact hland

/-- STREAM_FETCH: the bytes of the next element stand behind those that have landed (R120, R134). -/
theorem exec_streamFetch {s s1 s2 : State} {n : SReg} {r : StreamReg} {h : Option Handle} {x : W64} {ks rs : List Nat}
    (hr : r = s.withStartAddrs n) (hf : r.fetches = true) (hn : s.sideRuns n = true)
    (hh : h = if r.kind = 2 then s.r.h[r.handleNo] else none)
    (hb : r.kind = 2 → ∃ v, h = some v ∧ (v.type = 0 ∨ v.type = 3) ∧ v.base.toNat ≤ x.toNat ∧
      x.toNat + r.esize ≤ v.base.toNat + v.len.toNat)
    (hp : ∀ k, r.elements h r.kind = some k → r.cursor.toNat < k) (ha : r.elemAddr h r.kind r.cursor.toNat = .ok (some x))
    (hl : claimNext s n r.esize = some s1) (hc : elemCheck s1 x r.esize = .ok ()) (hd : sideRead s1 x r.esize = .ok (ks, s2))
    (hs : rs = r.byteKeys s.entry r.tail.1 (r.tail.2 + r.landed) r.esize) :
    ∃ t, exec (.streamFetch n) s = .next t ∧ (t.stream n).cursor = r.cursor + 1 ∧
      (t.stream n).landed = r.landed + r.esize ∧ (t.stream n).committed = r.committed ∧
      (∀ k, t.mem.byte k = (s1.mem.pokes (rs.zip (s2.readKeys ks))).byte k) ∧ s1.mem.keptBut t.mem rs ∧ s.ctxsKept t := by
  subst hr hs
  obtain ⟨t, ht, hlands⟩ := fetchStep_lands hh hb hp ha hl hc hd
  have hcl := State.claims_of_claim hl
  obtain ⟨hside, hmem, hres, hlen⟩ := sideRead_kept hd
  have hst : s2.draw.2.stream n = s1.stream n := congrArg (fun q : Residency => q.st[n]) hres
  have hbytes : (s2.readKeys ks).length = (s.withStartAddrs n).esize := by rw [State.readKeys, List.length_map, hlen]
  have hpk : (s1.mem.pokes (((s.withStartAddrs n).byteKeys s.entry (s.withStartAddrs n).tail.1
      ((s.withStartAddrs n).tail.2 + (s.withStartAddrs n).landed) (s.withStartAddrs n).esize).zip (s2.readKeys ks))).sameBytes
        t.mem := by
    have hm := hlands.mem
    rw [hst, hbytes, hcl.stream, ((hcl.sided.trans hside).trans s2.sided_draw).entry, State.draw_mem, hmem] at hm
    exact hm
  refine ⟨t, ?_, ?_, ?_, ?_, hpk.byte, fun k hk => ?_, ((hcl.sided.trans hside).trans (s2.sided_draw.trans hlands.sided)).ctxs⟩
  · have he : exec (.streamFetch n) s = execStreamFetch n s := rfl
    have hg : ((s.stream n).fetches && s.sideRuns n) = true := by
      rw [hn, Bool.and_true]
      exact hf
    rw [he, execStreamFetch, if_pos hg, ht, sourceStep_ok]
  · rw [hlands.cursor, hst, hcl.stream]
    rfl
  · rw [hlands.landed, hst, hcl.stream, hbytes]
    rfl
  · rw [hlands.committed, hst, hcl.stream]
    rfl
  · rw [hpk.byte]
    exact Memory.byte_pokes_ne _ fun p hp he => hk (he ▸ (List.of_mem_zip hp).1)

/-! ### GRANULE_LAND -/

theorem stream_landCommit (s : State) (n : SReg) : (landCommit s n).stream n = { (s.commit n (s.committable n)).stream n with
    addrs := if ((s.commit n (s.committable n)).stream n).kind = 3 then
        ((s.commit n (s.committable n)).stream n).addrs.drop
          (s.committable n / ((s.commit n (s.committable n)).stream n).esize)
      else ((s.commit n (s.committable n)).stream n).addrs
    ended := ((s.commit n (s.committable n)).stream n).ended ||
      (((s.commit n (s.committable n)).stream n).exhausted && ((s.commit n (s.committable n)).stream n).landed = 0) } := by
  unfold landCommit
  dsimp only
  rw [State.stream_updSt_same, State.stream_withMem]

/-- GRANULE_LAND: what has landed is committed, and no byte of memory changes (R120, R123). -/
theorem exec_granuleLand {s : State} {n : SReg} {r : StreamReg} {k : Nat} (hr : r = s.stream n) (hk : k = s.committable n)
    (h1 : 1 ≤ r.kind) (h3 : r.kind ≤ 3) (h : 0 < k ∨ (r.exhausted = true ∧ r.ended = false)) :
    ∃ t, exec (.granuleLand n) s = .next t ∧ (t.stream n).landed = r.landed - k ∧
      (t.stream n).committed = (if k = 0 then r.committed else (r.commitBytes k).committed) ∧
      (t.stream n).ended = (r.ended || (r.exhausted && decide (r.landed ≤ k))) ∧
      (∀ a, t.mem.byte a = s.mem.byte a) ∧ s.ctxsKept t := by
  subst hr hk
  have hc : (s.commit n (s.committable n)).stream n = { s.stream n with
      landed := (s.stream n).landed - s.committable n
      committed := if s.committable n = 0 then (s.stream n).committed else ((s.stream n).commitBytes (s.committable n)).committed
      tpos := if s.committable n = 0 then (s.stream n).tpos else ((s.stream n).commitBytes (s.committable n)).tpos } := by
    by_cases hz : s.committable n = 0
    · rw [hz, State.stream_commit_zero]
      rfl
    · rw [State.stream_commit s n hz, if_neg hz, if_neg hz]
      conv_lhs => rw [StreamReg.commitBytes_kept]
  have hm : s.mem.sameBytes (landCommit s n).mem := (s.sameBytes_commit n _).trans (sameBytes_carryChecks ..)
  have hd : s.sided (landCommit s n).move := (s.sided_commit n (s.committable n)).trans rfl
  refine ⟨(landCommit s n).move, ?_, ?_, ?_, ?_, hm.byte, hd.ctxs⟩
  · have he : exec (.granuleLand n) s = execGranuleLand n s := rfl
    have hg : (1 ≤ (s.stream n).kind && (s.stream n).kind ≤ 3 &&
        (0 < s.committable n || ((s.stream n).exhausted && !(s.stream n).ended))) = true := by
      simpa [h1, h3] using h
    rw [he, execGranuleLand]
    exact if_pos hg
  all_goals rw [State.stream_move, stream_landCommit, hc]
  simp only [Nat.sub_eq_zero_iff_le]

/-! ### STREAM_DRAIN_WRITE -/

theorem takeBytes_taken {s t : State} {p : SReg × Fin 4} {n : Nat} {bs : List Byte} (h : takeBytes s p n false = .ok (bs, t)) :
    bs = s.mem.gather ((s.streamStart p.1).byteKeys s.entry (s.headNow p).count ((s.headNow p).pos.toNat * (s.streamStart p.1).esize) n) ∧
      t = s.passHead p n := by
  unfold takeBytes at h
  dsimp only at h
  split at h
  · cases h
  · cases h
    exact ⟨rfl, rfl⟩

theorem await_of {b : Bool} (h : b = true) : await b = .ok () := if_pos h

/-- A register whose drain has written its next element. -/
def StreamReg.drained (r : StreamReg) : StreamReg :=
  { r with cursor := r.cursor + 1, pin := none, addrs := if r.sink = 4 then r.addrs.drop 1 else r.addrs }

theorem sameBytes_drainPut {s : State} {m : Memory} (h : m.sameBytes s.mem) (src dst : List Nat) (bs : List Byte) :
    (m.write dst bs).sameBytes (drainPut s src dst bs).mem :=
  (h.write dst bs).trans (Memory.sameBytes_setChks ..)

/-- The next element of a drain is written where its address says. -/
theorem drainElement_ok {s s1 s2 : State} {n m : SReg} {j : Fin 4} {h : Option Handle} {a : W64} {src dst : List Nat}
    {bs : List Byte} (hp : s.r.portOf n = (m, j)) (hh : h = drainHandle s (s.stream n))
    (he : ∀ k, (s.stream n).elements h (s.stream n).drainWay = some k → (s.stream n).cursor.toNat < k)
    (hav : (s.streamStart m).esize ≤ availBytes (s.streamStart m) (s.headNow (m, j)))
    (ha : drainAddr (s.withStartAddrs n) h (s.stream n).cursor.toNat = .ok (some a))
    (hc : elemCheck s a (s.streamStart m).esize = .ok ())
    (hb : ∀ v, h = some v → v.base.toNat ≤ a.toNat ∧ a.toNat + (s.streamStart m).esize ≤ v.base.toNat + v.len.toNat)
    (hsrc : src = (s.streamStart m).byteKeys s.entry (s.headNow (m, j)).count
      ((s.headNow (m, j)).pos.toNat * (s.streamStart m).esize) (s.streamStart m).esize)
    (ht : takeBytes s (m, j) (s.streamStart m).esize false = .ok (bs, s1))
    (hr : resolve s1 a (s.streamStart m).esize false true = .ok (dst, s2)) (hd : drainCause s2 src dst = none) :
    drainElement s n = .ok ((drainPut s2 src dst bs).updSt n StreamReg.drained).move := by
  have hw : await (match (s.stream n).elements h (s.stream n).drainWay with
      | some t => decide ((s.stream n).cursor.toNat < t)
      | none => true) = .ok () := by
    refine await_of ?_
    cases hq : (s.stream n).elements h (s.stream n).drainWay with
    | none => rfl
    | some k => simpa using he k hq
  have hput : (do
      let (bs, s1) ← takeBytes s (m, j) (s.streamStart m).esize false
      let (dst, s2) ← resolve s1 a (s.streamStart m).esize false true
      match drainCause s2 src dst with
      | some c => .error (.trap ⟨c, if outboundBad s2 src dst then ownAddress s.entry (src.headD 0) else a, 0⟩)
      | none => return ((drainPut s2 src dst bs).updSt n StreamReg.drained).move : Except Stop State) =
        .ok ((drainPut s2 src dst bs).updSt n StreamReg.drained).move := by
    refine (bind_of_ok ht _).trans ((bind_of_ok hr _).trans ?_)
    dsimp only
    rw [hd]
    rfl
  unfold drainElement
  dsimp only
  rw [hp, ← hh, ← hsrc]
  refine (bind_of_ok hw _).trans ((bind_of_ok (await_of (decide_eq_true hav)) _).trans ((bind_of_ok ha _).trans ?_))
  refine (bind_of_ok hc _).trans ?_
  cases h with
  | none => exact hput
  | some v =>
    exact (bind_of_ok (if_pos (by simpa using hb v rfl)) _).trans hput

/-- STREAM_DRAIN_WRITE: the next element is written, and the head it comes from has passed it (R119, R125). -/
theorem exec_streamDrainWrite {n m : SReg} {j : Fin 4} {s s1 s2 : State} {r x : StreamReg} {h : Option Handle} {a : W64}
    {src dst : List Nat} {bs : List Byte} {hd : Head} (hr : r = s.stream n) (hp : s.r.portOf n = (m, j)) (hx : x = s.streamStart m)
    (hhd : hd = s.headNow (m, j)) (hh : h = drainHandle s r) (hdr : r.drains = true) (hrun : (s.streamStart n).sinkRuns = true)
    (he : ∀ k, r.elements h r.drainWay = some k → r.cursor.toNat < k) (hav : x.esize ≤ availBytes x hd)
    (ha : drainAddr (s.withStartAddrs n) h r.cursor.toNat = .ok (some a)) (hc : elemCheck s a x.esize = .ok ())
    (hb : ∀ v, h = some v → v.base.toNat ≤ a.toNat ∧ a.toNat + x.esize ≤ v.base.toNat + v.len.toNat)
    (hsrc : src = x.byteKeys s.entry hd.count (hd.pos.toNat * x.esize) x.esize)
    (ht : takeBytes s (m, j) x.esize false = .ok (bs, s1)) (hres : resolve s1 a x.esize false true = .ok (dst, s2))
    (hcause : drainCause s2 src dst = none) :
    ∃ u, exec (.streamDrainWrite n) s = .next u.settle ∧ (u.stream n).cursor = r.cursor + 1 ∧
      s.passes u (m, j) x.esize ∧
      (∀ k, u.mem.byte k = (s.mem.write dst (s.mem.gather src)).byte k) ∧ s.mem.keptBut u.mem dst ∧ s.ctxsKept u := by
  subst hr hx hhd
  have hok := drainElement_ok hp hh he hav ha hc hb hsrc ht hres hcause
  obtain ⟨hbs, rfl⟩ := takeBytes_taken ht
  obtain ⟨hm, hq, -⟩ := resolve_kept hres
  have hst (k : SReg) : s2.stream k = (s.passHead (m, j) (s.streamStart m).esize).stream k := congrArg (fun q : Residency => q.st[k]) hq
  have hput (k : SReg) : (drainPut s2 src dst bs).stream k = s2.stream k := rfl
  have hmem : (s.mem.write dst (s.mem.gather src)).sameBytes (drainPut s2 src dst bs).mem := by
    rw [hsrc, ← hbs, ← hsrc]
    exact sameBytes_drainPut (hm ▸ s.sameBytes_passHead ..) ..
  have hside : s.sided ((drainPut s2 src dst bs).updSt n StreamReg.drained).move :=
    ((s.sided_passHead _ _).trans (State.sided_resolve hres)).trans rfl
  refine ⟨((drainPut s2 src dst bs).updSt n StreamReg.drained).move, ?_, ?_, ?_, hmem.byte, fun k hk => ?_, hside.ctxs⟩
  · have hx : exec (.streamDrainWrite n) s = execStreamDrainWrite n s := rfl
    have hg : ((s.stream n).drains && (s.streamStart n).sinkRuns) = true := by rw [hdr, hrun]; rfl
    rw [hx, execStreamDrainWrite, if_pos hg, hok, sinkStep_ok]
  · rw [State.stream_move, State.stream_updSt_same, hput, hst, State.stream_passHead]
    rfl
  · refine (s.passes_passHead (m, j) _).congr ?_ ?_
    · have hn : s2.headNow (m, j) = (s.passHead (m, j) (s.streamStart m).esize).headNow (m, j) :=
        congrArg (fun q : Residency => (q.start.st[m]).heads[j]) hq
      exact hn
    · rw [State.stream_move, State.stream_updSt]
      split
      · rename_i hmn
        rw [hput, hst, ← hmn]
        rfl
      · rw [hput, hst]
  · exact (hmem.byte k).trans (Memory.byte_write_ne _ hk)

end Sys2Proof.Machine
end

section
/-! PROOF. Decompressors at work, and the end of a page walk (R118, R134, R239, R462). -/

namespace Sys2Proof.Machine

/-! ### DECOMPRESS -/

theorem exec_decompress {s t : State} {n : SReg} (hk : (s.stream n).kind = 5) (hr : (s.stream n).sourceRuns = true)
    (hs : s.sideRuns n = true) (h : decompressStep s n = .ok t) : exec (.decompress n) s = .next t.settle := by
  have he : exec (.decompress n) s = execDecompress n s := rfl
  have hg : ((s.stream n).kind = 5 && (s.stream n).sourceRuns && s.sideRuns n) = true := by simp [hk, hr, hs]
  rw [he, execDecompress, if_pos hg, h, sourceStep_ok]

/-- What the delivery of k bytes leaves (R123, R124). -/
theorem deliverOut_ok {s s1 : State} {n : SReg} {k : Nat} (h0 : k ≠ 0) (hc : s.claim n ((s.stream n).claimFor k) = some s1) :
    ∃ u, deliverOut s n k = .ok u ∧ (u.stream n).dec.given = (s.stream n).dec.given + k / (s.stream n).esize ∧
      (u.stream n).dec.output = (s.stream n).dec.output.drop k ∧ (u.stream n).dec.input = (s.stream n).dec.input ∧
      (∀ a, u.mem.byte a = (s1.mem.pokes (((s.stream n).byteKeys s.entry (s.stream n).tail.1 (s.stream n).tail.2
        ((s.stream n).dec.output.take k).length).zip ((s.stream n).dec.output.take k))).byte a) ∧ s.ctxsKept u := by
  have hcl := State.claims_of_claim hc
  have hok : deliverOut s n k = .ok ((((s1.writeTail n 0 ((s.stream n).dec.output.take k)).commit n k).updDec n fun d =>
      { d with output := d.output.drop k, given := d.given + k / (s.stream n).esize }).updSt n fun r =>
        { r with cursor := BitVec.ofNat 32 r.dec.given }).move := by
    unfold deliverOut
    dsimp only
    rw [hc]
  have hdec : (((s1.writeTail n 0 ((s.stream n).dec.output.take k)).commit n k).stream n).dec = (s.stream n).dec := by
    rw [State.stream_commit _ n h0, State.stream_writeTail, StreamReg.commitBytes_kept, hcl.stream]
  have hmem := (s1.sameBytes_writeTail n 0 ((s.stream n).dec.output.take k)).trans (State.sameBytes_commit _ n k)
  rw [hcl.sided.entry, hcl.stream] at hmem
  refine ⟨_, hok, ?_, ?_, ?_, hmem.byte, ?_⟩
  · rw [State.stream_move, State.stream_updSt_same, State.updDec, State.stream_updSt_same, hdec]
  · rw [State.stream_move, State.stream_updSt_same, State.updDec, State.stream_updSt_same, hdec]
  · rw [State.stream_move, State.stream_updSt_same, State.updDec, State.stream_updSt_same, hdec]
  · exact ((hcl.sided.trans (s1.sided_writeTail n 0 _)).trans (State.sided_commit _ n k)).updSt.updSt.move.ctxs

/-- What the expansion of a tile or block leaves (R118). -/
theorem expandInput_ok {s : State} {n : SReg} {p : SReg × Fin 4} {i : Input} {out : List Byte} {m : Nat}
    (hp : inputHead s n = .ok p) (hi : i = inputSeen s n p) (he : (s.stream n).expand i.last i.bytes = .out out m) :
    ∃ u, expandInput s n = .ok u ∧ (u.stream n).dec.output = (s.stream n).dec.output ++ out ∧
      (u.stream n).dec.given = (s.stream n).dec.given ∧ (∀ a, u.mem.byte a = s.mem.byte a) ∧ s.ctxsKept u := by
  subst hi
  have hok : expandInput s n = .ok ((consumeInput s n p (inputSeen s n p).bytes m).updDec n fun d =>
      { d with output := d.output ++ out }).move := by
    unfold expandInput
    refine (bind_of_ok hp _).trans ?_
    dsimp only
    rw [he]
    rfl
  have hs (k : Nat) : ((s.passHead p k).stream n).dec = (s.stream n).dec := by rw [State.stream_passHead]
  refine ⟨_, hok, ?_, ?_, (s.sameBytes_passHead p _).byte, (s.sided_passHead p _).updSt.updSt.move.ctxs⟩
  · rw [State.stream_move, State.updDec, State.stream_updSt_same, consumeInput, State.updDec, State.stream_updSt_same, hs]
  · rw [State.stream_move, State.updDec, State.stream_updSt_same, consumeInput, State.updDec, State.stream_updSt_same, hs]

/-- A decompressor that has given its N elements ends its stream (R462). -/
theorem endExpansion_counted {s : State} {n : SReg} (h : (s.stream n).count = some (s.stream n).dec.given) :
    ∃ u, endExpansion s n = .ok u ∧ (u.stream n).ended = true ∧ u.mem = s.mem ∧ s.ctxsKept u := by
  have hg : ¬ ((s.stream n).count.isNone && !(s.stream n).dec.output.isEmpty) = true := by simp [h]
  refine ⟨_, if_neg hg, ?_, rfl, rfl, rfl, rfl⟩
  rw [State.stream_updSt_same]

theorem decompressStep_deliver {s : State} {n : SReg} (he : (s.stream n).ended = false)
    (hc : (s.stream n).count ≠ some (s.stream n).dec.given) (hd : (s.stream n).deliverable ≠ 0) :
    decompressStep s n = deliverOut s n (s.stream n).deliverable := by
  unfold decompressStep
  simp [he, hc, hd]

theorem decompressStep_expand {s : State} {n : SReg} (he : (s.stream n).ended = false)
    (hc : (s.stream n).count ≠ some (s.stream n).dec.given) (hd : (s.stream n).deliverable = 0) :
    decompressStep s n = expandInput s n := by
  unfold decompressStep
  simp [he, hc, hd]

theorem decompressStep_counted {s : State} {n : SReg} (he : (s.stream n).ended = false)
    (hc : (s.stream n).count = some (s.stream n).dec.given) : decompressStep s n = endExpansion s n := by
  unfold decompressStep
  simp [he, hc]

/-! ### PAGE_WALK_COMPLETE -/

/-- The end of a page walk changes the TLBs alone (R239). -/
theorem exec_pageWalkComplete {s : State} {x : W64} {ws : List W64} (hw : s.r.walks = x :: ws)
    (hn : walkWaits s.mem s.pkg (coreOf s.entry) s.r.bind.part x true false = false) :
    ∃ t, exec .pageWalkComplete s = .next t ∧
      t = { s.updR fun r => { r with walks := ws } with pkg := { s.pkg with tlb := t.pkg.tlb } } := by
  have he : exec .pageWalkComplete s = execPageWalkComplete s := rfl
  rw [he, execPageWalkComplete, hw]
  simp only [hn, Bool.false_eq_true, if_false]
  split
  · exact ⟨_, rfl, rfl⟩
  · exact ⟨_, rfl, rfl⟩

end Sys2Proof.Machine
end

section
/-! PROOF. Remote sinks, and the bytes of a multicast that count towards a barrier (R164, R267). -/

namespace Sys2Proof.Machine

/-! ### What a consumer's ring takes (R124) -/

theorem remotePut_none {s : State} {e : Nat} {k : SReg} {bs : List Byte} {ks : List Check} {last : Bool}
    (h : (s.focusOn e).claim k (((s.focusOn e).stream k).claimFor bs.length) = none) : remotePut s e k bs ks last = none := by
  unfold remotePut
  dsimp only
  rw [h]

/-- What has landed has no part in what a commit makes available. -/
theorem StreamReg.commitBytes_landed (r : StreamReg) (l k : Nat) :
    ({ r with landed := l }.commitBytes k).committed = (r.commitBytes k).committed := by
  have hc : { r with landed := l }.code = r.code := rfl
  unfold StreamReg.commitBytes
  rw [hc]
  by_cases h : r.code = 6
  · rw [if_pos h, if_pos h]
  · rw [if_neg h, if_neg h]
    rfl

theorem remotePut_some {s t1 : State} {e : Nat} {k : SReg} {bs : List Byte} {ks : List Check} {last : Bool}
    (hcode : ((s.focusOn e).stream k).code ≠ 6) (hbs : bs ≠ [])
    (h : (s.focusOn e).claim k (((s.focusOn e).stream k).claimFor bs.length) = some t1) :
    ∃ u : State, remotePut s e k bs ks last = some (u.focusOn s.entry) ∧
      (u.stream k).committed = ((t1.stream k).commitBytes bs.length).committed ∧
      (u.stream k).ended = ((t1.stream k).ended || last) ∧
      ∀ a, u.mem.byte a =
        (t1.mem.pokes (((t1.stream k).byteKeys t1.entry (t1.stream k).tail.1 (t1.stream k).tail.2 bs.length).zip bs)).byte a := by
  have hlen : bs.length ≠ 0 := by simpa using hbs
  have hmem := (t1.sameBytes_writeTail k 0 bs).trans (State.sameBytes_commit _ k bs.length)
  have hst : (((t1.writeTail k 0 bs).commit k bs.length).stream k).committed = ((t1.stream k).commitBytes bs.length).committed ∧
      (((t1.writeTail k 0 bs).commit k bs.length).stream k).ended = (t1.stream k).ended := by
    rw [State.stream_commit _ k hlen, State.stream_writeTail]
    refine ⟨StreamReg.commitBytes_landed .., ?_⟩
    rw [StreamReg.commitBytes_kept]
  obtain ⟨hcom, hend⟩ := hst
  unfold remotePut
  dsimp only
  rw [h]
  dsimp only
  rw [if_neg hcode]
  refine ⟨_, rfl, ?_, ?_, ?_⟩
  · rw [State.stream_updSt_same]
    split
    · exact hcom
    · exact hcom
  · rw [State.stream_updSt_same]
    split
    · exact congrArg (· || last) hend
    · exact congrArg (· || last) hend
  · rw [State.updSt_mem]
    split
    · exact (hmem.trans (sameBytes_carryChecks ..)).byte
    · exact hmem.byte

/-! ### REMOTE_GRANULE_SEND -/

/-- The sender once its granule has been handed on. -/
def State.granuleSent (s : State) (n : SReg) (p : SReg × Fin 4) (k : Nat) (last : Bool) : State :=
  ((s.passHead p k).updSt n fun r => { r with endSent := last }).move

theorem State.granuleSent_spec (s : State) (n : SReg) (p : SReg × Fin 4) (k : Nat) (last : Bool) :
    s.passes (s.granuleSent n p k last) p k ∧ ((s.granuleSent n p k last).stream n).endSent = last ∧
      (s.granuleSent n p k last).others = s.others ∧ ∀ a, (s.granuleSent n p k last).mem.byte a = s.mem.byte a := by
  refine ⟨(s.passes_passHead p k).congr rfl ?_, ?_, (s.sided_passHead p k).others, (s.sameBytes_passHead p k).byte⟩
  · rw [State.granuleSent, State.stream_move, State.stream_updSt]
    split
    · rename_i h
      rw [h]
    · rfl
  · rw [State.granuleSent, State.stream_move, State.stream_updSt_same]

section
variable {n m : SReg} {j : Fin 4} {s s1 : State} {hd : Head} {cs : List Nat} {k : Nat} {last : Bool} {keys : List Nat}

theorem sendGranule_ok (hp : s.r.portOf n = (m, j)) (hhd : hd = s.headNow (m, j)) (hcs : remoteCores s (s.stream n) = cs)
    (hk : k = sendBytes (s.streamStart m) hd (takesWhole s (s.stream n).peerSt cs)) (h0 : 0 < k)
    (hlast : last = ((s.streamStart m).ended && decide (availBytes (s.streamStart m) hd = k)))
    (hkeys : keys = (s.streamStart m).byteKeys s.entry hd.count (hd.pos.toNat * (s.streamStart m).esize) k)
    (hbad : (granulesOf keys).any s.mem.isBad = false)
    (hall : remoteAll s n (s.stream n).peerSt (s.mem.gather keys)
      (if hd.pos = 0 then (List.range (k / 64)).map fun i => s.mem.chkOf (keys.getD (64 * i) 0 / 64) else []) last cs = some s1) :
    sendGranule s n = .ok (if (s.stream n).multicast then castBytes (s1.granuleSent n (m, j) k last) (s.stream n).group k cs
      else s1.granuleSent n (m, j) k last) := by
  unfold sendGranule
  dsimp only
  rw [hp, ← hhd, hcs, ← hk, ← hlast, ← hkeys]
  refine (bind_of_ok (await_of (by simp [h0])) _).trans ((bind_of_ok (if_pos (by simp [hbad])) _).trans ?_)
  rw [hall]
  rfl

theorem exec_remoteGranuleSend {t : State} (hs : (s.stream n).sink = 5) (hr : (s.stream n).sinkRuns = true)
    (h0 : (s.streamStart n).sinkRuns = true) (ht : sendGranule s n = .ok t) : exec (.remoteGranuleSend n) s = .next t := by
  have he : exec (.remoteGranuleSend n) s = execRemoteGranuleSend n s := rfl
  have hg : ((s.stream n).sinkRuns && (s.stream n).sink = 5 && (s.streamStart n).sinkRuns) = true := by simp [hs, hr, h0]
  rw [he, execRemoteGranuleSend, if_pos hg, ht, sinkStep_ok]

end

theorem remoteAll_nil (s : State) (n k : SReg) (bs : List Byte) (ks : List Check) (last : Bool) :
    remoteAll s n k bs ks last [] = some s := rfl

theorem remoteAll_cons {s t : State} {n k : SReg} {bs : List Byte} {ks : List Check} {last : Bool} {c : Nat} {cs : List Nat}
    {y : Residency} (hy : s.peer c = some y) (ht : takesFrom y k s.r.bind.lcore n = true)
    (hp : remotePut s y.bind.e k bs ks last = some t) :
    remoteAll s n k bs ks last (c :: cs) = remoteAll t n k bs ks last cs := by
  rw [remoteAll, hy]
  dsimp only
  rw [if_pos ht, hp]

theorem remoteAll_cons_none {s : State} {n k : SReg} {bs : List Byte} {ks : List Check} {last : Bool} {c : Nat} {cs : List Nat}
    (h : ∀ y, s.peer c = some y → takesFrom y k s.r.bind.lcore n = false ∨ remotePut s y.bind.e k bs ks last = none) :
    remoteAll s n k bs ks last (c :: cs) = none := by
  rw [remoteAll]
  cases hy : s.peer c with
  | none => rfl
  | some y =>
    dsimp only
    obtain hf | hn := h y hy
    · rw [if_neg (by simp [hf])]
    · split
      · rw [hn]
      · rfl

/-- A granule goes to the one consumer of a remote sink. -/
theorem exec_remoteGranuleSend_one {n m : SReg} {j : Fin 4} {s s1 : State} {r x : StreamReg} {hd : Head} {c : Residency} {k : Nat}
    {last : Bool} {keys : List Nat} (hr : r = s.stream n) (hp : s.r.portOf n = (m, j)) (hx : x = s.streamStart m)
    (hhd : hd = s.headNow (m, j)) (hsink : r.sink = 5) (hrun : r.sinkRuns = true) (hrun0 : (s.streamStart n).sinkRuns = true)
    (hcast : r.multicast = false) (hc : s.peer r.peerCore = some c) (ht : takesFrom c r.peerSt s.r.bind.lcore n = true)
    (hk : k = sendBytes x hd ((c.st[r.peerSt]).code == 6)) (h0 : 0 < k)
    (hlast : last = (x.ended && decide (availBytes x hd = k)))
    (hkeys : keys = x.byteKeys s.entry hd.count (hd.pos.toNat * x.esize) k)
    (hbad : (granulesOf keys).any s.mem.isBad = false)
    (hput : remotePut s c.bind.e r.peerSt (s.mem.gather keys)
      (if hd.pos = 0 then (List.range (k / 64)).map fun i => s.mem.chkOf (keys.getD (64 * i) 0 / 64) else []) last = some s1) :
    ∃ t, exec (.remoteGranuleSend n) s = .next t ∧ s1.passes t (m, j) k ∧ (t.stream n).endSent = last ∧ t.others = s1.others ∧
      (∀ a, t.mem.byte a = s1.mem.byte a) := by
  subst hr hx
  have hcs : remoteCores s (s.stream n) = [(s.stream n).peerCore] := if_neg (by simp [hcast])
  have hw : takesWhole s (s.stream n).peerSt [(s.stream n).peerCore] = ((c.st[(s.stream n).peerSt]).code == 6) := by
    simp [takesWhole, hc]
  have hok := sendGranule_ok hp hhd hcs (hw ▸ hk) h0 hlast hkeys hbad ((remoteAll_cons hc ht hput).trans (remoteAll_nil ..))
  rw [if_neg (by simp [hcast])] at hok
  exact ⟨_, exec_remoteGranuleSend hsink hrun hrun0 hok, s1.granuleSent_spec n (m, j) k last⟩

/-- A granule goes to every member of a multicast's group, and counts towards the group's barrier (logs 113, 115). -/
theorem exec_remoteGranuleSend_cast {n m : SReg} {j : Fin 4} {s s1 : State} {r x : StreamReg} {hd : Head} {g : Group} {cs : List Nat}
    {k : Nat} {last : Bool} {keys : List Nat} (hr : r = s.stream n) (hp : s.r.portOf n = (m, j)) (hx : x = s.streamStart m)
    (hhd : hd = s.headNow (m, j)) (hsink : r.sink = 5) (hrun : r.sinkRuns = true) (hrun0 : (s.streamStart n).sinkRuns = true)
    (hcast : r.multicast = true) (hg : s.group r.group = some g) (hcs : cs = g.members.map fun y => y.core)
    (hk : k = sendBytes x hd (cs.any fun c => (s.peer c).any fun y => (y.st[r.peerSt]).code == 6)) (h0 : 0 < k)
    (hlast : last = (x.ended && decide (availBytes x hd = k)))
    (hkeys : keys = x.byteKeys s.entry hd.count (hd.pos.toNat * x.esize) k)
    (hbad : (granulesOf keys).any s.mem.isBad = false)
    (hall : remoteAll s n r.peerSt (s.mem.gather keys)
      (if hd.pos = 0 then (List.range (k / 64)).map fun i => s.mem.chkOf (keys.getD (64 * i) 0 / 64) else []) last cs = some s1) :
    ∃ u, s1.passes u (m, j) k ∧ (u.stream n).endSent = last ∧ u.others = s1.others ∧ (∀ a, u.mem.byte a = s1.mem.byte a) ∧
      exec (.remoteGranuleSend n) s = .next ((cs.foldl (fun t c => t.barrierBytes r.group c k) u).barrierCheck r.group) := by
  subst hr hx
  have hrc : remoteCores s (s.stream n) = cs := by
    rw [remoteCores, if_pos hcast, hg, hcs]
  have hok := sendGranule_ok hp hhd hrc hk h0 hlast hkeys hbad hall
  rw [if_pos hcast] at hok
  obtain ⟨hpass, hend, hoth, hmem⟩ := s1.granuleSent_spec n (m, j) k last
  exact ⟨_, hpass, hend, hoth, hmem, exec_remoteGranuleSend hsink hrun hrun0 hok⟩

/-- Bytes at a member's core add to what it has received (R164). -/
theorem State.group_barrierBytes {s : State} {g : Nat} {x : Group} (c k : Nat) (hx : s.group g = some x) :
    (s.barrierBytes g c k).group g = some { x with members := x.members.map fun y =>
      if y.core = c then { y with recv := y.recv + BitVec.ofNat 64 k } else y } :=
  State.group_updGroup hx fun _ => rfl

end Sys2Proof.Machine
end

section
/-! PROOF. What a bitmap-sparse tile, a codebook-16 block and a delta-line block expand to (R100 to R103, R462): O53. -/

namespace Sys2Proof.Machine

/-! ### Bitmap-sparse segments (R100, R101) -/

/-- Bit i of a segment's bitmap, read as one number. -/
theorem testBit_bitmap (bs : List Byte) {i : Nat} (hi : i < 64) : (leNat (bs.take 8)).testBit i = segmentHas bs i := by
  rw [testBit_leNat, byteBit_take, decide_eq_true (by omega), Bool.true_and]
  rfl

theorem onesBelow_bitmap (bs : List Byte) : onesBelow 64 (leNat (bs.take 8)) = (List.range 64).countP (segmentHas bs) := by
  rw [onesBelow_eq_countP]
  refine List.countP_congr fun i hi => ?_
  rw [testBit_bitmap bs (List.mem_range.1 hi)]

theorem segmentBytes_eq (w : Nat) (bs : List Byte) : segmentBytes w bs = segmentSize w bs := by
  simp only [segmentBytes, segmentSize, alignUp]
  omega

/-- The stored containers go in order to the set bits of the map. -/
theorem expandBits_eq (b k i : Nat) (vs : List Nat) : expandBits b k i vs = (List.range k).map fun j =>
    if b.testBit (i + j) then vs.getD ((List.range j).countP fun x => b.testBit (i + x)) 0 else 0 := by
  induction k generalizing i vs with
  | zero => rfl
  | succ k ih =>
    rw [List.range_succ_eq_map, List.map_cons, List.map_map, expandBits]
    by_cases hb : b.testBit i
    · rw [if_pos hb, ih]
      congr 1
      · cases vs <;> simp [hb]
      · refine List.map_congr_left fun j _ => ?_
        have hs : (List.range (j + 1)).countP (fun x => b.testBit (i + x)) =
            (List.range j).countP (fun x => b.testBit (i + 1 + x)) + 1 := by
          rw [List.range_succ_eq_map, List.countP_cons, List.countP_map]
          simp [hb, Function.comp_def, Nat.add_assoc, Nat.add_comm 1]
        simp only [Function.comp, Nat.succ_eq_add_one, hs]
        rw [show i + (j + 1) = i + 1 + j by omega]
        cases vs <;> simp
    · rw [if_neg hb, ih]
      congr 1
      · simp [hb]
      · refine List.map_congr_left fun j _ => ?_
        have hs : (List.range (j + 1)).countP (fun x => b.testBit (i + x)) =
            (List.range j).countP fun x => b.testBit (i + 1 + x) := by
          rw [List.range_succ_eq_map, List.countP_cons, List.countP_map]
          simp [hb, Function.comp_def, Nat.add_assoc, Nat.add_comm 1]
        simp only [Function.comp, Nat.succ_eq_add_one, hs]
        rw [show i + (j + 1) = i + 1 + j by omega]

/-- The set bits below a set bit are fewer than all. -/
theorem countP_range_lt {p : Nat → Bool} {i n : Nat} (hi : i < n) (hp : p i = true) :
    (List.range i).countP p < (List.range n).countP p := by
  have h : (List.range (i + 1)).countP p ≤ (List.range n).countP p := (List.range_sublist.2 hi).countP_le
  rw [List.range_succ, List.countP_append] at h
  simp only [List.countP_singleton, hp, if_true] at h
  omega

/-- The containers of a sound segment. -/
theorem expandBits_segment {w : Nat} {bs : List Byte} (hs : segmentSound bs = true) :
    expandBits (leNat (bs.take 8)) 64 0 ((List.range (byteAt bs 8).toNat).map (containerAt w (bs.drop 16))) =
      (List.range 64).map (segmentValue w bs) := by
  rw [expandBits_eq]
  refine List.map_congr_left fun i hi => ?_
  have hi' := List.mem_range.1 hi
  have hc : (List.range i).countP (fun x => (leNat (bs.take 8)).testBit (0 + x)) = (List.range i).countP (segmentHas bs) := by
    refine List.countP_congr fun x hx => ?_
    rw [Nat.zero_add, testBit_bitmap bs ((List.mem_range.1 hx).trans hi')]
  rw [hc, Nat.zero_add, testBit_bitmap bs hi', segmentValue]
  split
  · rename_i hb
    have hl : (List.range i).countP (segmentHas bs) < (byteAt bs 8).toNat := by
      rw [← beq_iff_eq.1 hs]
      exact countP_range_lt hi' hb
    simp [List.getD_eq_getElem?_getD, hl]
  · rfl

theorem segmentSize_ge (w : Nat) (bs : List Byte) : 16 ≤ segmentSize w bs := Nat.le_add_right ..

theorem segment_sound {w : Nat} {bs : List Byte} (hl : segmentSize w bs ≤ bs.length) (hs : segmentSound bs = true) :
    segment w bs = .ok (packCodes w ((List.range 64).map (segmentValue w bs)), segmentSize w bs) := by
  have hh := segmentSize_ge w bs
  have hc : onesBelow 64 (leNat (bs.take 8)) = (byteAt bs 8).toNat := by rw [onesBelow_bitmap, beq_iff_eq.1 hs]
  have hb : 16 + alignUp (((byteAt bs 8).toNat * w + 7) / 8) 16 = segmentSize w bs := segmentBytes_eq w bs
  unfold segment
  rw [if_neg (by omega)]
  dsimp only
  rw [if_neg (not_not.2 hc), hb, if_neg (by omega), expandBits_segment hs]

theorem segment_unsound {w : Nat} {bs : List Byte} (hl : 16 ≤ bs.length) (hs : segmentSound bs = false) :
    segment w bs = .error 0x54 := by
  have hc : onesBelow 64 (leNat (bs.take 8)) ≠ (byteAt bs 8).toNat := by
    rw [onesBelow_bitmap]
    exact beq_eq_false_iff_ne.1 hs
  unfold segment
  rw [if_neg (by omega)]
  dsimp only
  rw [if_pos hc]

/-- Where the segments of a tile stand: o j is the offset of segment j. -/
structure SegmentsAt (w : Nat) (bs : List Byte) (o : Nat → Nat) : Prop where
  zero : o 0 = 0
  succ : ∀ j, o (j + 1) = o j + segmentSize w (bs.drop (o j))

theorem SegmentsAt.first {w : Nat} {bs : List Byte} {o : Nat → Nat} (h : SegmentsAt w bs o) : o 1 = segmentSize w bs := by
  rw [h.succ 0, h.zero]
  simp

theorem SegmentsAt.first_le {w : Nat} {bs : List Byte} {o : Nat → Nat} (h : SegmentsAt w bs o) (j : Nat) : o 1 ≤ o (j + 1) := by
  induction j with
  | zero => exact le_rfl
  | succ j ih => exact ih.trans (by rw [h.succ (j + 1)]; omega)

theorem SegmentsAt.drop_first {w : Nat} {bs : List Byte} {o : Nat → Nat} (h : SegmentsAt w bs o) (j : Nat) :
    (bs.drop (o 1)).drop (o (j + 1) - o 1) = bs.drop (o (j + 1)) := by
  rw [List.drop_drop, Nat.add_sub_cancel' (h.first_le j)]

theorem SegmentsAt.rest {w : Nat} {bs : List Byte} {o : Nat → Nat} (h : SegmentsAt w bs o) :
    SegmentsAt w (bs.drop (o 1)) fun j => o (j + 1) - o 1 where
  zero := Nat.sub_self _
  succ j := by
    have h1 := h.first_le j
    rw [h.drop_first, h.succ (j + 1)]
    omega

/-- Sound segments expand one behind another. -/
theorem segmentRun_sound {w : Nat} (k : Nat) {bs : List Byte} {o : Nat → Nat} (ho : SegmentsAt w bs o) (hl : o k ≤ bs.length)
    (hs : ∀ j, j < k → segmentSound (bs.drop (o j)) = true) : segmentRun w k bs =
      .ok ((List.range k).flatMap fun j => packCodes w ((List.range 64).map (segmentValue w (bs.drop (o j)))), o k, k) := by
  induction k generalizing bs o with
  | zero => simp [segmentRun, ho.zero]
  | succ k ih =>
    have hf := ho.first
    have h1 := ho.first_le k
    have h16 := segmentSize_ge w bs
    have h0 : segmentSound bs = true := by simpa [ho.zero] using hs 0 (by omega)
    have hrest := ih ho.rest (by rw [List.length_drop]; omega) fun j hj => by
      rw [ho.drop_first]
      exact hs (j + 1) (by omega)
    have hg : ¬ (decide (bs.length < 16) || decide (bs.length < segmentBytes w bs)) = true := by
      rw [segmentBytes_eq]
      simp; omega
    rw [segmentRun, if_neg hg, segment_sound (by omega) h0, ← hf]
    dsimp only
    rw [hrest]
    simp only [ho.drop_first, List.range_succ_eq_map (n := k), List.flatMap_cons, List.flatMap_map, ho.zero, List.drop_zero,
      Nat.add_sub_cancel' h1, Nat.succ_eq_add_one]

/-- A segment whose length disagrees with its bitmap is met. -/
theorem segmentRun_unsound {w : Nat} (k : Nat) {bs : List Byte} {o : Nat → Nat} (ho : SegmentsAt w bs o) (hl : o k ≤ bs.length)
    (hs : ∃ j, j < k ∧ segmentSound (bs.drop (o j)) = false) : segmentRun w k bs = .error 0x54 := by
  induction k generalizing bs o with
  | zero =>
    obtain ⟨j, hj, -⟩ := hs
    omega
  | succ k ih =>
    have hf := ho.first
    have h1 := ho.first_le k
    have h16 := segmentSize_ge w bs
    have hg : ¬ (decide (bs.length < 16) || decide (bs.length < segmentBytes w bs)) = true := by
      rw [segmentBytes_eq]
      simp; omega
    rw [segmentRun, if_neg hg]
    cases h0 : segmentSound bs with
    | false => rw [segment_unsound (by omega) h0]
    | true =>
      have hrest : segmentRun w k (bs.drop (o 1)) = .error 0x54 := by
        refine ih ho.rest (by rw [List.length_drop]; omega) ?_
        obtain ⟨j, hj, hu⟩ := hs
        obtain _ | j := j
        · simp [ho.zero, h0] at hu
        · exact ⟨j, by omega, by rw [ho.drop_first]; exact hu⟩
      rw [segment_sound (by omega) h0, ← hf]
      dsimp only
      rw [hrest]

/-- A bit of chunks of c bytes that stand one behind another. -/
theorem byteBit_chunks {f : Nat → List Byte} {c : Nat} (hf : ∀ j, (f j).length = c) {n j r : Nat} (hj : j < n) (hr : r < 8 * c) :
    byteBit ((List.range n).flatMap f) (8 * c * j + r) = byteBit (f j) r := by
  induction n with
  | zero => omega
  | succ n ih =>
    have hl : ((List.range n).flatMap f).length = c * n := by simp [List.length_flatMap, hf, Nat.mul_comm]
    rw [List.range_succ, List.flatMap_append, byteBit_append, hl]
    by_cases hn : j < n
    · have hm : 8 * c * (j + 1) ≤ 8 * c * n := Nat.mul_le_mul_left _ hn
      rw [if_pos (by rw [← Nat.mul_assoc]; linarith [Nat.mul_succ (8 * c) j]), ih hn]
    · obtain rfl : j = n := by omega
      rw [if_neg (by rw [← Nat.mul_assoc]; omega), ← Nat.mul_assoc, Nat.add_sub_cancel_left]
      simp

theorem segmentValue_lt {w : Nat} (hw : isWidth w) (bs : List Byte) (i : Nat) : segmentValue w bs i < 2 ^ w := by
  unfold segmentValue
  split
  · exact containerAt_lt hw ..
  · exact Nat.two_pow_pos w

theorem length_packCodes_segment {w : Nat} (hw : isWidth w) (g : Nat → Nat) :
    (packCodes w ((List.range 64).map g)).length = 8 * w := by
  rw [length_packCodes hw, List.length_map, List.length_range]
  omega

/-- The containers of a tile. -/
theorem containerAt_tile {w : Nat} (hw : isWidth w) (g : Nat → List Byte) {n i j : Nat} (hj : j < n) (hi : i < 64) :
    containerAt w ((List.range n).flatMap fun j => packCodes w ((List.range 64).map (segmentValue w (g j)))) (64 * j + i) =
      segmentValue w (g j) i := by
  apply Nat.eq_of_testBit_eq
  intro b
  rw [testBit_containerAt hw]
  by_cases hb : b < w
  · have hwi : w * i + w ≤ w * 64 := by rw [← Nat.mul_succ]; exact Nat.mul_le_mul_left _ hi
    rw [decide_eq_true hb, Bool.true_and, show w * (64 * j + i) + b = 8 * (8 * w) * j + (w * i + b) by ring,
      byteBit_chunks (fun _ => length_packCodes_segment hw _) hj (by omega),
      byteBit_packCodes hw _ (by simp; omega), Nat.mul_add_div (by omega), Nat.div_eq_of_lt hb, Nat.mul_add_mod,
      Nat.mod_eq_of_lt hb]
    simp [List.getD_eq_getElem?_getD, hi]
  · rw [decide_eq_false hb, Bool.false_and, Nat.testBit_lt_two_pow ((segmentValue_lt hw ..).trans_le
      (Nat.pow_le_pow_right (by omega) (by omega)))]

/-! ### Expansions of input whose element count is not given -/

theorem StreamReg.bytesLeft_none {r : StreamReg} (h : r.count = none) : r.bytesLeft = none := by rw [StreamReg.bytesLeft, h]; rfl

/-- A tile of bitmap-sparse input (R100, R101). -/
theorem expand_tile {r : StreamReg} {w n : Nat} {o : Nat → Nat} {bs : List Byte} (ended : Bool) (hs : r.srcBits 3 0 = 0) (hc : r.count = none)
    (hw : w = if r.srcBits 4 4 = 1 then 4 else 8) (hn : n = 128 / w) (h0 : o 0 = 0)
    (ho : ∀ j, o (j + 1) = o j + segmentSize w (bs.drop (o j))) (hl : o n ≤ bs.length) :
    ((∀ j, j < n → segmentSound (bs.drop (o j)) = true) → ∃ out, r.expand ended bs = .out out (o n) ∧ out.length = 1024 ∧
      ∀ j i, j < n → i < 64 → containerAt w out (64 * j + i) = segmentValue w (bs.drop (o j)) i) ∧
    ((∃ j, j < n ∧ segmentSound (bs.drop (o j)) = false) → r.expand ended bs = .fail 0x54) := by
  have hw' : w = 4 ∨ w = 8 := by rw [hw]; split <;> simp
  have hwid : isWidth w := hw'.imp_right .inl
  have he : r.expand ended bs = expandTile w none ended bs := by
    rw [StreamReg.expand, hs, StreamReg.bytesLeft_none hc, hw]
    rfl
  refine ⟨fun hsound => ?_, fun hun => ?_⟩
  · have hrun := segmentRun_sound n ⟨h0, ho⟩ hl hsound
    refine ⟨_, ?_, ?_, fun j i hj hi => containerAt_tile hwid (fun j => bs.drop (o j)) hj hi⟩
    · rw [he, expandTile, ← hn, hrun]
      exact if_pos rfl
    · rw [List.length_flatMap]
      simp only [length_packCodes_segment hwid]
      obtain rfl | rfl := hw' <;> subst hn <;> rfl
  · rw [he, expandTile, ← hn, segmentRun_unsound n ⟨h0, ho⟩ hl hun]

/-- A codebook-16 block (R102). -/
theorem expand_block {r : StreamReg} {bs : List Byte} (ended : Bool) (hs : r.srcBits 3 0 = 1) (hc : r.count = none)
    (hl : 2064 ≤ bs.length) : ∃ out, r.expand ended bs = .out out 2064 ∧ out.length = 4096 ∧
      ∀ j, j < 4096 → byteAt out j =
        byteAt bs (if j % 2 = 0 then (byteAt bs (16 + j / 2)).toNat % 16 else (byteAt bs (16 + j / 2)).toNat / 16) := by
  refine ⟨(List.range 4096).map (codebookAt bs), ?_, by rw [List.length_map, List.length_range], fun j hj => ?_⟩
  · rw [StreamReg.expand, hs, StreamReg.bytesLeft_none hc]
    exact if_pos hl
  · simp [byteAt, codebookAt, List.getD_eq_getElem?_getD, hj]

/-! ### Delta-line (R103) -/

/-- Sample i of a delta-line block that is the number x, of samples of n bits and differences of w. -/
def deltaValue (x n w : Nat) : Nat → Nat
  | 0 => x / 16 % 2 ^ n
  | i + 1 => (((deltaValue x n w i : Int) + signedField (x / 2 ^ (4 + n + i * w) % 2 ^ w) w) % 2 ^ n).toNat

theorem deltaRun_eq (x n w k i : Nat) : deltaRun x n w k (4 + n + i * w) (deltaValue x n w i) =
    (List.range k).map fun j => deltaValue x n w (i + j + 1) := by
  induction k generalizing i with
  | zero => rfl
  | succ k ih =>
    rw [deltaRun, List.range_succ_eq_map, List.map_cons, List.map_map]
    have ho : 4 + n + i * w + w = 4 + n + (i + 1) * w := by ring
    rw [ho]
    refine congrArg₂ List.cons rfl ((ih (i + 1)).trans (List.map_congr_left fun j _ => ?_))
    exact congrArg _ (by omega)

theorem deltaSamples_eq (n : Nat) (bs : List Byte) :
    deltaSamples n 64 bs = (List.range 64).map (deltaValue (leNat bs) n (leNat bs % 16)) := by
  have h := deltaRun_eq (leNat bs) n (leNat bs % 16) 63 0
  rw [Nat.zero_mul, Nat.add_zero] at h
  rw [deltaSamples, List.range_succ_eq_map (n := 63), List.map_cons, List.map_map]
  refine congrArg₂ List.cons rfl (h.trans (List.map_congr_left fun j _ => ?_))
  exact congrArg _ (by omega)

/-- A field in two's complement is a bit vector's integer. -/
theorem signedField_eq (w x : Nat) : signedField (x % 2 ^ w) w = (BitVec.ofNat w x).toInt := by
  rw [BitVec.toInt_eq_msb_cond, BitVec.msb_eq_getLsbD_last, BitVec.getLsbD, BitVec.toNat_ofNat, signedField]
  obtain rfl | hw := Nat.eq_zero_or_pos w
  · simp [Nat.mod_one]
  · have h0 : w ≠ 0 := by omega
    simp [h0]

theorem deltaValue_succ (x n w i : Nat) : (deltaValue x n w (i + 1) : Int) =
    ((deltaValue x n w i : Int) + (BitVec.ofNat w (x / 2 ^ (4 + n + i * w))).toInt) % 2 ^ n := by
  rw [deltaValue, signedField_eq, Int.toNat_of_nonneg (Int.emod_nonneg _ (by positivity))]

theorem leNat_mod_sixteen {bs : List Byte} {k : Nat} (hk : 0 < k) : leNat (bs.take k) % 16 = (byteAt bs 0).toNat % 16 := by
  obtain _ | ⟨b, bs⟩ := bs
  · simp [leNat, byteAt]
  · obtain _ | k := k
    · omega
    · rw [List.take_succ_cons, leNat]
      show (b.toNat + 256 * leNat (bs.take k)) % 16 = b.toNat % 16
      omega

/-- A delta-line block (R103). -/
theorem expand_line {r : StreamReg} {n w k x : Nat} {bs : List Byte} (ended : Bool) (hs : r.srcBits 3 0 = 2) (hc : r.count = none)
    (hn : n = (match r.code with | 0 => 8 | 1 => 16 | 7 => 10 | _ => 12)) (hw : w = (byteAt bs 0).toNat % 16)
    (hk : k = (4 + n + 63 * w + 7) / 8) (hl : k ≤ bs.length) (hx : x = leNat (bs.take k)) :
    ∃ v : Nat → Nat, v 0 = x / 16 % 2 ^ n ∧
      (∀ i, i < 63 → (v (i + 1) : Int) = ((v i : Int) + (BitVec.ofNat w (x / 2 ^ (4 + n + i * w))).toInt) % 2 ^ n) ∧
      r.expand ended bs = .out ((List.range 64).flatMap fun i => leBytes (if n = 8 then 1 else 2) (v i)) k := by
  have h0 : 0 < k := by omega
  have hne : bs.isEmpty = false := by
    rw [List.isEmpty_eq_false_iff, ← List.length_pos_iff]
    omega
  have hn' : sampleBits r.code = n := by
    rw [hn]
    rfl
  refine ⟨deltaValue x n w, rfl, fun i _ => deltaValue_succ x n w i, ?_⟩
  have hwx : leNat (bs.take k) % 16 = w := by rw [leNat_mod_sixteen h0, hw]
  rw [StreamReg.expand, hs, StreamReg.bytesLeft_none hc, hn']
  show expandLine n none ended bs = _
  unfold expandLine
  dsimp only
  rw [hne, if_neg (by decide), ← hw]
  refine (if_pos (by omega)).trans ?_
  show Expand.out ((deltaSamples n 64 (bs.take ((4 + n + 63 * w + 7) / 8))).flatMap _) ((4 + n + 63 * w + 7) / 8) = _
  rw [← hk, deltaSamples_eq, hwx, ← hx, List.flatMap_map]

/-- Settles O53: one rule for each side of a stream (`exec_streamFetch` to `exec_pageWalkComplete`) and one for each expansion
(`expand_tile`, `expand_block`, `expand_line`). -/
theorem streamSidesComplete : Obligations.StreamSidesComplete := by
  unfold Obligations.StreamSidesComplete
  refine ⟨?fetch, ?land, ?drain, ?decompress, ?send, ?cast, ?all, ?put, ?barrier, ?tile, ?block, ?line, ?walk⟩
  case fetch =>
    intro n s s1 s2 r h x ks rs hr hf hn hh hb hp ha hl hc hd hs
    exact exec_streamFetch hr hf hn hh hb hp ha hl hc hd hs
  case land =>
    intro n s r k hr hk h1 h3 h
    exact exec_granuleLand hr hk h1 h3 h
  case drain =>
    intro n m j s s1 s2 r x h a src dst bs hd hr hp hx hhd hh hdr hrun he hav ha hc hb hsrc ht hres hcause
    exact exec_streamDrainWrite hr hp hx hhd hh hdr hrun he hav ha hc hb hsrc ht hres hcause
  case decompress =>
    rintro n s r rfl hk hr he hs
    refine ⟨fun k s1 hc hd h0 hcl => ?_, fun p i out m hc hd hp hi hx => ?_, fun hc => ?_⟩
    · obtain ⟨u, hu, hspec⟩ := deliverOut_ok h0 hcl
      rw [hd, ← decompressStep_deliver he hc (hd ▸ h0)] at hu
      exact ⟨u, exec_decompress hk hr hs hu, hspec⟩
    · obtain ⟨u, hu, hspec⟩ := expandInput_ok hp hi hx
      rw [← decompressStep_expand he hc hd] at hu
      exact ⟨u, exec_decompress hk hr hs hu, hspec⟩
    · obtain ⟨u, hu, hspec⟩ := endExpansion_counted hc
      rw [← decompressStep_counted he hc] at hu
      exact ⟨u, exec_decompress hk hr hs hu, hspec⟩
  case send =>
    intro n m j s s1 r x hd c k last keys hr hp hx hhd hsink hrun hrun0 hcast hc ht hk h0 hlast hkeys hbad hput
    exact exec_remoteGranuleSend_one hr hp hx hhd hsink hrun hrun0 hcast hc ht hk h0 hlast hkeys hbad hput
  case cast =>
    intro n m j s s1 r x hd g cs k last keys hr hp hx hhd hsink hrun hrun0 hcast hg hcs hk h0 hlast hkeys hbad hall
    exact exec_remoteGranuleSend_cast hr hp hx hhd hsink hrun hrun0 hcast hg hcs hk h0 hlast hkeys hbad hall
  case all =>
    intro s n k bs ks last c cs
    exact ⟨remoteAll_nil .., fun y t hy ht hp => remoteAll_cons hy ht hp, remoteAll_cons_none⟩
  case put =>
    rintro s _ e k bs ks last _ rfl rfl
    exact ⟨remotePut_none, fun t1 hcode hbs h => remotePut_some hcode hbs h⟩
  case barrier =>
    intro s g c k x hx
    exact State.group_barrierBytes c k hx
  case tile =>
    intro r w n o ended bs hs hc hw hn h0 ho hl
    exact expand_tile ended hs hc hw hn h0 ho hl
  case block =>
    intro r ended bs hs hc hl
    exact expand_block ended hs hc hl
  case line =>
    intro r n w k x ended bs hs hc hn hw hk hl hx
    exact expand_line ended hs hc hn hw hk hl hx
  case walk =>
    intro s x ws hw hn
    exact exec_pageWalkComplete hw hn

end Sys2Proof.Machine
end

section
/-! PROOF. The slots in which E issues nothing, and the starts of queue commands (R187, R303, R327, R336, R347). -/

namespace Sys2Proof.Machine

/-! ### RESULT_DELIVERY -/

/-- e' is e but for the registers that results go to and the latches. -/
def EpCtx.received (e e' : EpCtx) : Prop := e' = { e with v := e'.v, s := e'.s, m := e'.m, b := e'.b }

theorem EpCtx.received.trans {e e' e'' : EpCtx} (h : e.received e') (h' : e'.received e'') : e.received e'' := by
  unfold EpCtx.received at *
  conv_lhs => rw [h', h]

theorem EpCtx.received.refl (e : EpCtx) : e.received e := rfl

theorem EpCtx.received.latched {e e' : EpCtx} (h : e.received e') (i : Option (Fin 16)) (l : Latch) :
    e.received (e'.latched i l) := by
  refine h.trans ?_
  unfold EpCtx.latched
  split <;> rfl

theorem deliverPush_ep (s : State) (n : SReg) (x : InFlight) : (deliverPush s n x).r.ep = s.r.ep := by
  have hc (u : State) (k : Nat) : (u.commit n k).r.ep = u.r.ep := (u.sided_commit n k).ctxs.2.2
  unfold deliverPush
  dsimp only
  split
  · split
    · split
      · exact hc ..
      · exact hc ..
    · exact hc ..
  · rfl

theorem State.reuseDone_ep (s : State) : s.reuseDone.r.ep = s.r.ep := by
  unfold State.reuseDone
  split
  · split <;> rfl
  · rfl

theorem deliver_received (s : State) (x : InFlight) : s.r.ep.received (deliver s x).r.ep := by
  unfold deliver
  split
  case h_1 | h_2 =>
    show s.r.ep.received (EpCtx.latched _ _ _)
    exact EpCtx.received.latched (by rfl) _ _
  case h_3 =>
    show s.r.ep.received (match x.val with | .mask v => _ | _ => _)
    split <;> rfl
  case h_4 => exact (EpCtx.received.refl _).latched _ _
  case h_5 =>
    split
    · rw [State.reuseDone_ep, deliverPush_ep]
      rfl
    · show s.r.ep.received ((deliverPush s _ x).r.ep.latched _ _)
      rw [deliverPush_ep]
      exact (EpCtx.received.refl _).latched _ _
  case h_6 | h_7 => exact (EpCtx.received.refl _).latched _ _

theorem deliverAll_received (s : State) (xs : List InFlight) : s.r.ep.received (deliverAll s xs).r.ep := by
  induction xs generalizing s with
  | nil => rfl
  | cons x xs ih => exact (deliver_received s x).trans (ih _)

/-- A slot that a VPUSHM or VPOPM still takes (R303). -/
theorem exec_resultDelivery_occupied {s : State} (hr : s.r.ep.status = .running) (ho : s.r.ep.occupied ≠ 0) :
    ∃ t, exec .resultDelivery s = .next t ∧ t.r.ep.occupied = s.r.ep.occupied - 1 ∧ t.ePlace = s.ePlace ∧
      t.r.ep.einst = s.r.ep.einst + 1 ∧
      t.r.ep.inflight = (s.r.ep.inflight.map fun x => { x with left := x.left - 1 }).filter fun x => x.left ≠ 0 := by
  have he : exec .resultDelivery s = execResultDelivery s := rfl
  have hd : EpCtx.received { s.r.ep with
      inflight := (s.r.ep.inflight.map fun x => { x with left := x.left - 1 }).filter fun x => x.left ≠ 0 } s.tickE.r.ep :=
    deliverAll_received (s.updE fun e => { e with
      inflight := (s.r.ep.inflight.map fun x => { x with left := x.left - 1 }).filter fun x => x.left ≠ 0 }) _
  have hg : (s.r.ep.occupied ≠ 0 && s.r.ep.status == .running) = true := by simp [hr, ho]
  refine ⟨_, by rw [he, execResultDelivery, if_pos hg], ?_, ?_, ?_, ?_⟩
  · show s.tickE.r.ep.occupied - 1 = _
    rw [hd]
  · show (s.tickE.r.ep.pc, s.tickE.r.ep.loops) = _
    rw [hd]
    rfl
  · show s.tickE.r.ep.einst + 1 = _
    rw [hd]
  · show s.tickE.r.ep.inflight = _
    rw [hd]

/-- A slot of a core whose E has halted with results in flight (R327). -/
theorem exec_resultDelivery_halted {s : State} (hr : s.r.ep.status = .halted) (hi : s.r.ep.inflight ≠ []) :
    exec .resultDelivery s = .next s.tickE.move.settle := by
  have he : exec .resultDelivery s = execResultDelivery s := rfl
  have hg : ¬ (s.r.ep.occupied ≠ 0 && s.r.ep.status == .running) = true := by simp [hr]
  have hh : (s.r.ep.status == .halted && !s.r.ep.inflight.isEmpty) = true := by simp [hr, hi]
  rw [he, execResultDelivery, if_neg hg, if_pos hh]

/-! ### COMMAND_START -/

section
variable {s : State} {q : QEntry}

theorem exec_commandStart {t : State} (hq : nextStart s.r = some q) (ha : q.tile.isSome = true → arrayPrefers s = true)
    (h : beginQ s q = .ok t) : exec .commandStart s = .next t.move := by
  have he : exec .commandStart s = execCommandStart s := rfl
  have hg : ¬ (q.tile.isSome && !arrayPrefers s) = true := by
    cases ht : q.tile.isSome with
    | false => simp
    | true => simp [ha ht]
  rw [he, execCommandStart, hq]
  dsimp only
  rw [if_neg hg, h]
  rfl

/-- The start of a command that no tile command is does not wait for the array. -/
theorem exec_commandStart_plain {t : State} (hq : nextStart s.r = some q) (hn : q.tile = none) (h : beginQ s q = .ok t) :
    exec .commandStart s = .next t.move :=
  exec_commandStart hq (by simp [hn]) h

theorem beginQ_rnd {md : Fin 8} (h : q.op = .rnd md) : beginQ s q = .ok ((s.updMx fun m => { m with mode := md }).ranQ q.id) := by
  simp only [beginQ, h]
  rfl

theorem beginQ_lfsr {hi : Bool} {v : W32} (h : q.op = .lfsr hi v) :
    beginQ s q = .ok ((s.updMx fun m => { m with lfsr := if hi then m.lfsr else if v = 0 then 1 else v }).ranQ q.id) := by
  simp only [beginQ, h]
  rfl

theorem beginQ_jcfg {c : JCfg} (h : q.op = .jcfg c) :
    beginQ s q = .ok ((s.updDm fun d => { d.cleared with cfg := some c }).ranQ q.id) := by
  simp only [beginQ, h]
  rfl

theorem beginQ_jclear (h : q.op = .jclear) : beginQ s q = .ok ((s.updDm Damask.cleared).ranQ q.id) := by
  simp only [beginQ, h]
  rfl

theorem popFormat_ok {f : W32} {fs : List W32} (hf : s.r.fq = f :: fs) (h0 : s.r.start.fq ≠ 0) :
    popFormat s = .ok (f, s.updR fun r => { r with fq := fs }) := by
  rw [popFormat, hf]
  exact if_neg h0

theorem beginQ_wload {w : Fin 8} {st : SReg} {o e ty ks nb : Nat} {f : W32} {fs : List W32} (h : q.op = .wload w st o e ty ks nb)
    (hf : s.r.fq = f :: fs) (h0 : s.r.start.fq ≠ 0) :
    beginQ s q = .ok (((s.updR fun r => { r with fq := fs }).updMx fun m =>
      { m with wdesc := m.wdesc.set w { m.wdesc[w] with valid := false } }).updQ q.id fun q => { q with started := true, word := f }) := by
  simp only [beginQ, h, popFormat_ok hf h0]
  rfl

theorem beginQ_tile {x : TileCmd} (h : q.tile = some x) : beginQ s q = beginTile s q x := by
  have ht := h
  unfold QEntry.tile at ht
  split at ht
  · simp only [beginQ, ‹q.op = _›, h]
  · simp only [beginQ, ‹q.op = _›, h]
  · cases ht

/-- A command has started with the next word of the format queue. -/
def State.startedWith (s : State) (q : QEntry) (f : W32) (fs : List W32) : State :=
  (s.updR fun r => { r with fq := fs }).updQ q.id fun q => { q with started := true, word := f }

/-- A tile command whose checks pass starts (R347). -/
theorem beginTile_ok {x : TileCmd} {f : W32} {fs : List W32} (ht : x.tag = 0) (hm : x.mt ≠ 0) (hf : s.r.fq = f :: fs)
    (h0 : s.r.start.fq ≠ 0) (hc : tileCause s x f = none) (ha : aSizeOk s x.st = true) :
    beginTile s q x = .ok (s.startedWith q f fs) := by
  have htag : takeTag s q x = .ok s := if_pos ht
  have hpop : trapIn s (popFormat s) = .ok (f, s.updR fun r => { r with fq := fs }) := by
    rw [popFormat_ok hf h0]
    rfl
  have hst (u : State) (hu : tileCause u x f = none) (hu' : aSizeOk u x.st = true) : trapIn u (startTile u x f) = .ok () := by
    rw [startTile, hu]
    dsimp only
    rw [need_of hu']
    rfl
  unfold beginTile
  refine (bind_of_ok htag _).trans ((bind_of_ok hpop _).trans ?_)
  refine (if_neg hm).trans ?_
  exact bind_of_ok (hst (s.startedWith q f fs) hc ha) _

/-- The starts of the command queue's operations. -/
theorem commandStarts (hq : nextStart s.r = some q) :
    (∀ md, q.op = .rnd md → ∃ t, exec .commandStart s = .next t ∧ t.r.mx.mode = md ∧ t.r.dm = s.r.dm ∧ t.mem = s.mem ∧
      t.r.mx.queue = s.r.mx.queue.map fun e => if e.id = q.id then { e with started := true, ran := true } else e) ∧
    (∀ hi v, q.op = .lfsr hi v → ∃ t, exec .commandStart s = .next t ∧ t.mem = s.mem ∧
      t.r.mx.lfsr = if hi = true then s.r.mx.lfsr else if v = 0 then 1 else v) ∧
    (∀ c, q.op = .jcfg c → ∃ t, exec .commandStart s = .next t ∧ t.r.dm.cfg = some c ∧ t.r.dm.store = [] ∧
      t.r.dm.spilled = 0 ∧ t.r.dm.drainq = s.r.dm.drainq ∧ t.mem = s.mem) ∧
    (q.op = .jclear → ∃ t, exec .commandStart s = .next t ∧ t.r.dm.cfg = s.r.dm.cfg ∧ t.r.dm.store = [] ∧
      t.r.dm.spilled = 0 ∧ t.mem = s.mem) ∧
    (∀ w st o e ty ks nb f fs, q.op = .wload w st o e ty ks nb → s.r.fq = f :: fs → s.r.start.fq ≠ 0 →
      ∃ t, exec .commandStart s = .next t ∧ t.r.fq = fs ∧ (t.r.mx.wdesc[w]).valid = false ∧ t.mem = s.mem ∧
        t.r.mx.queue = s.r.mx.queue.map fun e => if e.id = q.id then { e with started := true, word := f } else e) ∧
    (∀ x f fs, q.tile = some x → x.tag = 0 → x.mt ≠ 0 → arrayPrefers s = true → s.r.fq = f :: fs → s.r.start.fq ≠ 0 →
      tileCause s x f = none → aSizeOk s x.st = true →
      ∃ t, exec .commandStart s = .next t ∧ t.r.fq = fs ∧ t.mem = s.mem ∧
        t.r.mx.queue = s.r.mx.queue.map fun e => if e.id = q.id then { e with started := true, word := f } else e) := by
  refine ⟨fun md h => ?_, fun hi v h => ?_, fun c h => ?_, fun h => ?_, fun w st o e ty ks nb f fs h hf h0 => ?_,
    fun x f fs h ht hm ha hf h0 hc hs => ?_⟩
  · exact ⟨_, exec_commandStart_plain hq (by rw [QEntry.tile, h]) (beginQ_rnd h), rfl, rfl, rfl, rfl⟩
  · exact ⟨_, exec_commandStart_plain hq (by rw [QEntry.tile, h]) (beginQ_lfsr h), rfl, rfl⟩
  · exact ⟨_, exec_commandStart_plain hq (by rw [QEntry.tile, h]) (beginQ_jcfg h), rfl, rfl, rfl, rfl, rfl⟩
  · exact ⟨_, exec_commandStart_plain hq (by rw [QEntry.tile, h]) (beginQ_jclear h), rfl, rfl, rfl, rfl⟩
  · refine ⟨_, exec_commandStart_plain hq (by rw [QEntry.tile, h]) (beginQ_wload h hf h0), rfl, ?_, rfl, rfl⟩
    show ((s.r.mx.wdesc.set w { s.r.mx.wdesc[w] with valid := false })[w]).valid = false
    simp
  · exact ⟨_, exec_commandStart hq (fun _ => ha) ((beginQ_tile h).trans (beginTile_ok ht hm hf h0 hc hs)), rfl, rfl, rfl⟩

end

end Sys2Proof.Machine
end

section
/-! PROOF. Copies, accumulations, drains and finishes of the command queue (R342, R356, R358 to R364, R461). -/

namespace Sys2Proof.Machine

theorem State.reads_unitTake {s t : State} {n : SReg} {k : Nat} {peek : Bool} {bs : List Byte}
    (h : unitTake s n k peek = .ok (bs, t)) : s.reads t := by
  simp only [unitTake, bind, Except.bind] at h
  split at h
  · cases h
  · split at h
    · exact State.reads_takeBytes h
    · split at h <;> cases h

theorem State.reads.mx {s t : State} (h : s.reads t) : t.r.mx = s.r.mx := by rw [h]; rfl
theorem State.reads.dm {s t : State} (h : s.reads t) : t.r.dm = s.r.dm := by rw [h]; rfl
theorem State.reads.bind {s t : State} (h : s.reads t) : t.r.bind = s.r.bind := by rw [h]; rfl

theorem queueStep_ok (s t : State) (id : Nat) : queueStep s id (.ok t) = .next t.move := rfl

/-! ### QUEUE_STREAM_COPY -/

section
variable {s s1 : State} {q : QEntry}

/-- A piece of a copy is written behind those before it (R342, R461). -/
theorem exec_queueStreamCopy {n base sure es want k : Nat} {st : SReg} {bs : List Byte} (hq : runningQ s QEntry.isLoad = some q)
    (hl : copyLength s q = .ok (some n)) (hd : q.done < n) (hp : copyPlace s q = (base, st, sure))
    (hes : es = (s.streamStart (s.r.portOf st).1).esize) (hw : want = min (max 64 es) (alignUp (n - q.done) es))
    (hk : k = min want (n - q.done)) (ht : unitTake s st want false = .ok (bs, s1)) :
    ∃ t, exec .queueStreamCopy s = .next t ∧ t.mem = s1.mem.fill (base + q.done) (bs.take k) ∧
      s1.mem.keptBut t.mem (keysFrom (base + q.done) (bs.take k).length) ∧
      t.r.mx.queue = s.r.mx.queue.map fun e =>
        if e.id = q.id then { e with done := e.done + k, ran := decide (n ≤ e.done + k) } else e := by
  have he : exec .queueStreamCopy s = execQueueStreamCopy s := rfl
  have hok : copyStep s q = .ok (({ s1 with mem := s1.mem.fill (base + q.done) (bs.take k) } : State).updQ q.id fun q =>
      { q with done := q.done + k, ran := decide (n ≤ q.done + k) }) := by
    unfold copyStep
    refine (bind_of_ok hl _).trans ?_
    rw [hp]
    dsimp only
    rw [← hes, ← hw, ← hk]
    exact (if_neg (by omega)).trans (bind_of_ok ht _)
  refine ⟨_, by rw [he, execQueueStreamCopy, hq]; dsimp only; rw [hok, queueStep_ok], rfl, fun x hx => Memory.byte_fill_ne _ hx, ?_⟩
  show s1.r.mx.queue.map _ = _
  rw [(State.reads_unitTake ht).mx]

/-! ### DAMASK_ACCUMULATE -/

/-- What an accumulation leaves where the store has a place for the key (R356). -/
theorem accValues_hit {c : JCfg} {key p : Nat} {vals : List W32} (h : locate c s.r.bind.jsh s.r.dm.store key = .ok (.hit p)) :
    accValues s c key vals = .ok (s.updDm fun d =>
      { d with store := storeWrite c d.store p key (List.zipWith c.addTo (storeRead c d.store p) vals) }) :=
  bind_of_ok h _

theorem accValues_fresh {c : JCfg} {key p : Nat} {vals : List W32} (h : locate c s.r.bind.jsh s.r.dm.store key = .ok (.fresh p)) :
    accValues s c key vals = .ok (s.updDm fun d => { d with store := storeWrite c d.store p key vals }) :=
  bind_of_ok h _

/-- One item of a counted J.ACC. -/
theorem exec_damaskAccumulate {s2 : State} {c : JCfg} {st : SReg} {n key : Nat} {bs : List Byte} {vals : List W32}
    (hq : runningQ s QEntry.isAcc = some q) (hop : q.op = .jacc st (some n)) (hd : q.done < n) (hc : s.r.dm.cfg = some c)
    (ht : unitTake s st c.itemBytes false = .ok (bs, s1)) (hi : itemOf c bs = .ok (key, vals))
    (ha : accValues s1 c key vals = .ok s2) :
    exec .damaskAccumulate s =
      .next (s2.updQ q.id fun q => { q with done := q.done + 1, ran := some n == some (q.done + 1) }).move := by
  have he : exec .damaskAccumulate s = execDamaskAccumulate s := rfl
  have hok : joinStep s q = .ok (s2.updQ q.id fun q => { q with done := q.done + 1, ran := some n == some (q.done + 1) }) := by
    unfold joinStep
    rw [hc, hop]
    dsimp only
    unfold accStep
    dsimp only
    rw [if_neg (by omega)]
    exact (bind_of_ok ht _).trans ((bind_of_ok hi _).trans (bind_of_ok ha _))
  rw [he, execDamaskAccumulate, hq]
  dsimp only
  rw [hok, queueStep_ok]

/-! ### DAMASK_DRAIN_ENTRY -/

theorem drainRecord_ok {c : JCfg} {e : JEntry} (h : ∀ x o n, q.op = .jdraino x o n → scratchHolds s q o n = true ∧
    s.mem.readCause (granulesOf (keysFrom (spadKey s.entry o) n)) = none) :
    drainRecord s q c e = .ok (c.record e.key e.vals, s) := by
  unfold drainRecord
  split
  · rename_i x o n hop
    obtain ⟨hs, hm⟩ := h x o n hop
    rw [hm]
    exact if_pos hs
  · rfl

theorem exec_damaskDrainEntry_of {t : State} (hq : runningQ s QEntry.isDrain = some q) (h : drainStep s q = .ok t) :
    exec .damaskDrainEntry s = .next t.move := by
  have he : exec .damaskDrainEntry s = execDamaskDrainEntry s := rfl
  rw [he, execDamaskDrainEntry, hq]
  dsimp only
  rw [h, queueStep_ok]

/-- One record of a drain goes to the drain queue, and its entry is emptied (R362 to R364). -/
theorem exec_damaskDrainEntry {c : JCfg} {e : JEntry} (hq : runningQ s QEntry.isDrain = some q) (hc : s.r.dm.cfg = some c)
    (ho : q.out = none) (hn : drainNext s q c = some e)
    (hs : ∀ x o n, q.op = .jdraino x o n → scratchHolds s q o n = true ∧
      s.mem.readCause (granulesOf (keysFrom (spadKey s.entry o) n)) = none)
    (hl : s.r.dm.drainq.length + (c.record e.key e.vals).length ≤ 1024)
    (hl0 : s.r.start.drainq + (c.record e.key e.vals).length ≤ 1024) :
    ∃ t, exec .damaskDrainEntry s = .next t ∧ t.mem = s.mem ∧ t.r.dm = { s.r.dm with
      drainq := s.r.dm.drainq ++ c.record e.key e.vals, store := s.r.dm.store.filter fun x => x.place != e.place } := by
  have hroom : max s.r.start.drainq s.r.dm.drainq.length + (c.record e.key e.vals).length ≤ drainSize := by
    show _ ≤ 1024
    omega
  have hemit : emit s c q.out (c.record e.key e.vals) =
      .ok (s.updDm fun d => { d with drainq := d.drainq ++ c.record e.key e.vals }) := by
    rw [ho]
    unfold emit
    exact bind_of_ok (await_of (decide_eq_true hroom)) _
  have hok : drainStep s q = .ok (((s.updDm fun d => { d with drainq := d.drainq ++ c.record e.key e.vals }).updDm fun d =>
      { d with store := storeDrop d.store e.place }).updQ q.id fun q => { q with done := q.done + 1 }) := by
    unfold drainStep
    rw [hc]
    dsimp only
    rw [hn]
    exact (bind_of_ok (drainRecord_ok hs) _).trans (bind_of_ok hemit _)
  refine ⟨_, exec_damaskDrainEntry_of hq hok, ?_, rfl⟩
  simp only [State.move_mem, State.updQ, State.updDm, State.updR_mem]

/-! ### COMMAND_FINISH -/

theorem finishQ_kept (s : State) (q : QEntry) :
    (finishQ s q).mem = s.mem ∧ (finishQ s q).r.dm = s.r.dm ∧ (finishQ s q).r.mx.queue = s.r.mx.queue := by
  unfold finishQ
  split <;> exact ⟨rfl, rfl, rfl⟩

/-- A command that has done all it does leaves the queue (R336, R341, R342). -/
theorem exec_commandFinish (hq : (s.r.mx.queue.find? fun q => q.ran && q.fault.isNone) = some q) :
    ∃ u : State, exec .commandFinish s = .next u.settle ∧ u.r.mx.queue = s.r.mx.queue.filter (fun x => x.id != q.id) ∧
      u.mem = s.mem ∧ u.r.dm = s.r.dm ∧
      ∀ w st o e ty ks nb, q.op = .wload w st o e ty ks nb →
        u.r.mx.wdesc[w] = ⟨true, true, o, if e = 1 then s.dirEntry o (ks * nb) else weightBytes e ks nb, e, ty, q.word, ks, nb⟩ := by
  have he : exec .commandFinish s = execCommandFinish s := rfl
  obtain ⟨hm, hd, hk⟩ := finishQ_kept s q
  refine ⟨((finishQ s q).updMx fun m => { m with queue := m.queue.filter fun x => x.id != q.id }).move,
    by rw [he, execCommandFinish, hq], ?_, hm, hd, fun w st o e ty ks nb hop => ?_⟩
  · show (finishQ s q).r.mx.queue.filter _ = _
    rw [hk]
  · show (finishQ s q).r.mx.wdesc[w] = _
    rw [finishQ, hop]
    show (s.r.mx.wdesc.set w _)[w] = _
    simp

end

end Sys2Proof.Machine
end

section
/-! PROOF. A k-step of the matrix unit (R67, R94, R97, R348). -/

namespace Sys2Proof.Machine

/-! ### The command that the array serves (R67) -/

theorem runningQ_congr {s u : State} (h : u.r.mx.queue = s.r.mx.queue) (p : QEntry → Bool) : runningQ u p = runningQ s p := by
  unfold runningQ
  rw [h]

theorem tileAt_eq {s : State} {q : QEntry} {x : TileCmd} (hq : runningQ s (fun q => q.tile.isSome) = some q) (hx : q.tile = some x)
    (b : Bool) : tileAt s b = if (q.place == 1) == b then some (q, x) else none := by
  rw [tileAt, hq]
  dsimp only
  rw [hx]

/-- Serving a residency changes no more of it than L's age. -/
theorem agedBy_r (s : State) : ∃ n, (agedBy s).r = { s.r with mx := { s.r.mx with age := n } } := by
  have hset (e n : Nat) : ∃ k, (setAge s e n).r = { s.r with mx := { s.r.mx with age := k } } := by
    unfold setAge State.updAt
    split
    · exact ⟨n, rfl⟩
    · exact ⟨s.r.mx.age, rfl⟩
  unfold agedBy
  split
  · split
    · exact ⟨s.r.mx.age, rfl⟩
    · exact hset ..
  · exact hset ..

theorem arrayServes_mx {s u : State} (h : arrayServes s = (true, u)) :
    ∃ n, u.r.mx = { s.r.mx with age := n, freeAt := s.now + stepCycles s } := by
  unfold arrayServes at h
  split at h
  · cases h
    obtain ⟨n, hn⟩ := agedBy_r s
    refine ⟨n, ?_⟩
    show ({ (agedBy s).r.mx with freeAt := s.now + stepCycles s } : Matrix) = _
    rw [hn]
  · cases h

theorem arrayIdles_queue (s : State) : (arrayIdles s).r.mx.queue = s.r.mx.queue := by
  unfold arrayIdles
  show (match tileStep s with | some (_, .error (.blockClaim n g)) => s.dropFor n g | _ => s : State).r.mx.queue = _
  split
  · rw [State.dropFor, (s.claims_dropBy ..).sided]
    rfl
  · rfl

theorem stepCycles_eq {s : State} {q : QEntry} {x : TileCmd} (h : tileAt s false = some (q, x)) (hx : q.tile = some x) :
    stepCycles s = if (s.r.mx.wdesc[x.w]).nb ≤ 1 then 2 else 1 := by
  rw [stepCycles, tileStep, h, Option.map_some]
  dsimp only
  rw [hx]

/-! ### One k-step (R348) -/

theorem nextA_mx {s u : State} {q : QEntry} {x : TileCmd} {a : List Byte} (h : nextA s q x = .ok (a, u)) : u.r.mx = s.r.mx := by
  unfold nextA at h
  split at h
  · cases h
    rfl
  · simp only [bind, Except.bind] at h
    split at h
    · split at h
      · cases h
      · exact (State.reads_unitTake h).mx
    · exact (State.reads_unitTake h).mx

theorem findTarget_mx {s u : State} {c : JCfg} {k : Nat} {y : Target} (h : findTarget s c k = .ok (y, u)) : u.r.mx = s.r.mx := by
  simp only [findTarget, bind, Except.bind] at h
  split at h
  · cases h
  · split at h <;> cases h <;> rfl

theorem stepTarget_mx {s u : State} {q : QEntry} {x : TileCmd} {c : JCfg} {y : Target} (h : stepTarget s q x c = .ok (y, u)) :
    u.r.mx = s.r.mx := by
  unfold stepTarget at h
  split at h
  · cases h
    rfl
  · exact findTarget_mx h

/-- The state that a k-step on a held target leaves. -/
def State.stepped (s : State) (q : QEntry) (x : TileCmd) (d : WDesc) (a : List Byte) (c : JCfg) (y : Target) (p : Nat)
    (vs : List W32) (l : W32) : State :=
  ((s.updMx fun m => { m with lfsr := l }).updDm fun dm => { dm with store := storeWrite c dm.store p y.key vs }).updQ q.id
    fun q => { q with targets := q.targets.take q.nb ++ { y with vals := [] } :: q.targets.drop (q.nb + 1) }.advance x d a

section
variable (s : State) (q : QEntry) (x : TileCmd) (d : WDesc) (a : List Byte) (c : JCfg) (y : Target) (p : Nat) (vs : List W32) (l : W32)

theorem State.stepped_mem : (s.stepped q x d a c y p vs l).mem = s.mem := by
  simp only [State.stepped, State.updQ, State.updDm, State.updMx, State.updR_mem]

theorem State.stepped_dm : (s.stepped q x d a c y p vs l).r.dm = { s.r.dm with store := storeWrite c s.r.dm.store p y.key vs } := by
  simp only [State.stepped, State.updQ, State.updDm, State.updMx, State.updR_r]

theorem State.stepped_lfsr : (s.stepped q x d a c y p vs l).r.mx.lfsr = l := by
  simp only [State.stepped, State.updQ, State.updDm, State.updMx, State.updR_r]

theorem State.stepped_freeAt : (s.stepped q x d a c y p vs l).r.mx.freeAt = s.r.mx.freeAt := by
  simp only [State.stepped, State.updQ, State.updDm, State.updMx, State.updR_r]

end

theorem kStep_ok {s s2 s3 : State} {q : QEntry} {x : TileCmd} {c : JCfg} {a b : List Byte} {y : Target} {p : Nat}
    {vs : List W32} {l : W32} (hc : s.r.dm.cfg = some c) (ha : nextA s q x = .ok (a, s2))
    (hb : fetchPanel s2 (s.r.mx.wdesc[x.w]) q.ks q.nb = .ok b) (hy : stepTarget s2 q x c = .ok (y, s3)) (hp : y.place = some p)
    (hr : (stepIn s3 x q c a b).run (y.read s3 c) 0 s3.r.mx.lfsr = (vs, l)) :
    kStep s q x = .ok (s3.stepped q x (s.r.mx.wdesc[x.w]) a c y p vs l) := by
  obtain ⟨place, key, vals⟩ := y
  obtain rfl : place = some p := hp
  have ht (u : State) : trapIn u (stepTarget s2 q x c) = .ok (⟨some p, key, vals⟩, s3) := by
    rw [hy]
    rfl
  unfold kStep
  rw [hc]
  dsimp only
  refine (bind_of_ok ha _).trans ?_
  dsimp only
  rw [hb]
  dsimp only
  refine (bind_of_ok (ht _) _).trans ?_
  simp only [hr, Option.isSome_some, if_true]
  rfl

/-- Without stochastic rounding, each entry of a target is its own sum, rounded once (R94, R97). -/
theorem StepIn.run_plain {x : StepIn} (h : x.md ≠ .sr) (ws : List W32) (i : Nat) (l : W32) : (x.run ws i l).2 = l ∧
    ∀ k, k < ws.length → (x.run ws i l).1[k]? =
      some (x.cfg.accRound x.md l (x.sum ((i + k) / 8) ((i + k) % 8) (x.cfg.accVal (ws.getD k 0)))) := by
  have hm : (x.md == .sr) = false := by simpa using h
  induction ws generalizing i with
  | nil => exact ⟨rfl, fun k hk => absurd hk (Nat.not_lt_zero k)⟩
  | cons w ws ih =>
    rw [StepIn.run]
    simp only [hm, Bool.false_eq_true, if_false]
    obtain ⟨hl, hv⟩ := ih (i + 1)
    refine ⟨hl, fun k hk => ?_⟩
    obtain _ | k := k
    · rfl
    · rw [List.getElem?_cons_succ, hv k (by simpa using hk), show i + 1 + k = i + (k + 1) by omega]
      rfl

/-- MATRIX_K_STEP: the target has the accumulated entries, and the array is taken for the step's cycles (R32, R348). -/
theorem exec_matrixKStep {s s1 s2 s3 : State} {q : QEntry} {x : TileCmd} {c : JCfg} {a b : List Byte} {y : Target} {p : Nat}
    {vs : List W32} {l : W32} (hready : tileReady s = true) (hserve : arrayServes s = (true, s1))
    (hq : runningQ s1 (fun q => q.tile.isSome) = some q) (hx : q.tile = some x) (hc : s1.r.dm.cfg = some c) (hplace : q.place ≠ 1)
    (ha : nextA s1 q x = .ok (a, s2)) (hb : fetchPanel s2 (s1.r.mx.wdesc[x.w]) q.ks q.nb = .ok b)
    (hy : stepTarget s2 q x c = .ok (y, s3)) (hp : y.place = some p)
    (hr : (stepIn s3 x q c a b).run (y.read s3 c) 0 s3.r.mx.lfsr = (vs, l)) :
    ∃ t, exec .matrixKStep s = .next t ∧ t.r.dm = { s3.r.dm with store := storeWrite c s3.r.dm.store p y.key vs } ∧
      t.r.mx.lfsr = l ∧ t.mem = s3.mem ∧ t.r.mx.freeAt = s.now + (if (s.r.mx.wdesc[x.w]).nb ≤ 1 then 2 else 1) := by
  obtain ⟨n, hmx⟩ := arrayServes_mx hserve
  have hqueue : s1.r.mx.queue = s.r.mx.queue := by rw [hmx]
  have hqs : runningQ s (fun q => q.tile.isSome) = some q := (runningQ_congr hqueue _).symm.trans hq
  have hqi : runningQ (arrayIdles s) (fun q => q.tile.isSome) = some q := (runningQ_congr (arrayIdles_queue s) _).trans hqs
  have hpl : (q.place == 1) = false := by simpa using hplace
  have hstaged : stagedStep (arrayIdles s) = none := by
    rw [stagedStep, tileAt_eq hqi hx, hpl]
    rfl
  have hat : tileAt s false = some (q, x) := by rw [tileAt_eq hqs hx, hpl]; rfl
  have hat1 : tileAt s1 false = some (q, x) := by rw [tileAt_eq hq hx, hpl]; rfl
  have hk := kStep_ok hc ha hb hy hp hr
  have he : exec .matrixKStep s = execMatrixKStep s := rfl
  have hexec : exec .matrixKStep s = .next (s3.stepped q x (s1.r.mx.wdesc[x.w]) a c y p vs l).move := by
    rw [he, execMatrixKStep, hstaged]
    simp only [hready, Bool.not_true, Bool.false_eq_true, if_false, tileStep, hat, hat1, Option.map_some, hserve, hk, queueStep_ok]
  refine ⟨_, hexec, ?_, ?_, ?_, ?_⟩
  · rw [State.move_r_dm, State.stepped_dm]
  · rw [State.move_r_mx, State.stepped_lfsr]
  · rw [State.move_mem, State.stepped_mem]
  rw [State.move_r_mx, State.stepped_freeAt, stepTarget_mx hy, nextA_mx ha, hmx, stepCycles_eq hat hx]

end Sys2Proof.Machine
end

section
/-! PROOF. Gauze at work (R368, R371, R375), and the command queue, Damask and Gauze as a whole: O55. -/

namespace Sys2Proof.Machine

/-! ### The decision of a tile (R368, R371) -/

/-- Bit i of a byte after it is set to v, as `setMap` makes it: the part above the bit keeps its even part, and gets v. -/
theorem testBit_put (old i : Nat) (v : Bool) :
    (old - (if old.testBit i then 2 ^ i else 0) + if v then 2 ^ i else 0).testBit i = v := by
  have hp : 0 < 2 ^ i := Nat.two_pow_pos i
  have hd : 2 ^ i * (old / 2 ^ i) + old % 2 ^ i = old := Nat.div_add_mod ..
  have hc : old - (if old.testBit i then 2 ^ i else 0) = 2 ^ i * (2 * (old / 2 ^ i / 2)) + old % 2 ^ i := by
    rw [Nat.testBit_eq_decide_div_mod_eq]
    obtain h | h := Nat.mod_two_eq_zero_or_one (old / 2 ^ i)
    · have hq : 2 * (old / 2 ^ i / 2) = old / 2 ^ i := by omega
      simp [h, hq, hd]
    · have hq : old / 2 ^ i = 2 * (old / 2 ^ i / 2) + 1 := by omega
      rw [hq, Nat.mul_succ] at hd
      simp only [h, decide_true, if_true]
      omega
  have hv : (if v then 2 ^ i else 0) = 2 ^ i * v.toNat := by cases v <;> simp
  rw [hc, hv, Nat.testBit_eq_decide_div_mod_eq, Nat.add_right_comm, ← Nat.mul_add, Nat.mul_add_div hp,
    Nat.div_eq_of_lt (Nat.mod_lt _ hp), Nat.add_zero, Nat.mul_add_mod]
  cases v <;> rfl

theorem byte_setMap_same {m : Memory} (h : m.wf = true) (b : GBlock) (e t : Nat) (v : Bool) :
    b.mapBit (setMap m b e t v) e t = v := by
  have hg := Memory.gather_write h (ks := [b.mapKey e (t / 8)]) (bs := [BitVec.ofNat 8
    ((m.byte (b.mapKey e (t / 8))).toNat - (if (m.byte (b.mapKey e (t / 8))).toNat.testBit (t % 8) then 2 ^ (t % 8) else 0) +
      if v then 2 ^ (t % 8) else 0)]) (List.nodup_singleton _) rfl
  have hb := List.head_eq_of_cons_eq hg
  have hi : t % 8 < 8 := Nat.mod_lt _ (by omega)
  unfold GBlock.mapBit bit
  rw [setMap, hb, BitVec.getLsbD_ofNat, testBit_put, decide_eq_true hi, Bool.true_and]

theorem TileRec.length_bytes (x : TileRec) : x.bytes.length = 64 := by
  simp [TileRec.bytes, length_leBytes]

theorem TileRec.flags_bytes (x : TileRec) :
    byteAt x.bytes 18 = BitVec.ofNat 8 (x.refValid.toNat + 2 * x.outValid.toNat + 4 * x.decided.toNat) := by
  simp [TileRec.bytes, byteAt, leBytes]

theorem Memory.byte_of_bytes {m : Memory} {k n i : Nat} {bs : List Byte} (h : m.bytes k n = bs) (hi : i < n) :
    m.byte (k + i) = byteAt bs i := by
  subst h
  simp [byteAt, Memory.bytes, List.getD_eq_getElem?_getD, hi]

theorem recKey_add (b : GBlock) (e t i : Nat) : b.recKey e t i = b.recKey e t 0 + i := by
  unfold GBlock.recKey spadKey
  rw [Nat.add_zero]
  exact (Nat.add_assoc ..).symm

section
variable {b : GBlock} (hb : b.offset % 64 = 0)
include hb

theorem recKey_granule (e t : Nat) : 64 * (b.recKey e t 0 / 64) = b.recKey e t 0 := by
  have hk : 2 ^ 56 + e * 2 ^ 22 = 64 * (2 ^ 50 + e * 2 ^ 16) := by ring
  unfold GBlock.recKey spadKey
  rw [hk]
  omega

theorem writeRec_eq (m : Memory) (e t : Nat) (x : TileRec) :
    writeRec m b e t x = m.write (keysFrom (b.recKey e t 0) 64) x.bytes := by
  rw [writeRec, Memory.writeGranules, recKey_granule hb, x.length_bytes]

theorem byte_writeRec {m : Memory} (h : m.wf = true) (e t : Nat) (x : TileRec) {i : Nat} (hi : i < 64) :
    (writeRec m b e t x).byte (b.recKey e t i) = byteAt x.bytes i := by
  have hk := Memory.bytes_write h (b.recKey e t 0) x.length_bytes
  rw [writeRec_eq hb, recKey_add b e t i]
  exact Memory.byte_of_bytes hk hi

theorem mapBit_writeRec (m : Memory) {e t : Nat} (x : TileRec) (ht : t < b.tiles) :
    b.mapBit (writeRec m b e t x) e t = b.mapBit m e t := by
  unfold GBlock.mapBit
  rw [writeRec_eq hb, Memory.byte_write_ne]
  rw [mem_keysFrom]
  unfold GBlock.recKey GBlock.mapKey spadKey mapGranules
  omega

/-- A decided tile's record says so. -/
theorem decidedAt_writeRec {m : Memory} (h : m.wf = true) (e t : Nat) {x : TileRec} (hx : x.decided = true) :
    b.decidedAt (writeRec m b e t x) e t = true := by
  unfold GBlock.decidedAt bit
  rw [byte_writeRec hb h e t x (by omega), x.flags_bytes, hx, BitVec.getLsbD_ofNat]
  cases x.refValid <;> cases x.outValid <;> rfl

/-- A decision sets the tile's map bit where it skips, and its decided bit (R371). -/
theorem decideTile_spec {m : Memory} (h : m.wf = true) (e : Nat) {t : Nat} (ht : t < b.tiles) (s0 s1 s2 s3 : W32) :
    b.mapBit (decideTile m b e t s0 s1 s2 s3) e t = skips b (readRec m b e t) s0 s1 s2 s3 ∧
      b.decidedAt (decideTile m b e t s0 s1 s2 s3) e t = true := by
  unfold decideTile
  dsimp only
  split
  · rename_i hs
    rw [mapBit_writeRec hb _ _ ht, byte_setMap_same h, hs]
    exact ⟨rfl, decidedAt_writeRec hb (setMap_wf b e t true h) e t rfl⟩
  · rename_i hs
    rw [mapBit_writeRec hb _ _ ht, byte_setMap_same h, Bool.eq_false_iff.2 hs]
    exact ⟨rfl, decidedAt_writeRec hb (setMap_wf b e t false h) e t rfl⟩

end

/-! ### GAUZE_OP_COMPLETE -/

/-- The oldest operation of Gauze takes effect, and the next one starts (R371, R375). -/
theorem exec_gauzeOpComplete {s : State} {g : GEntry} {gs : List GEntry} {b : GBlock} (hg : s.r.gz.ops = g :: gs)
    (hr : g.op.isReuse = false) (hf : g.fault = none) (h0 : g.due ≠ 0) (hd : g.due ≤ s.now) (hb : g.op.target s.r.gz = some b)
    (hm : s.mem.readCause (g.op.reads b s.entry) = none) : exec .gauzeOpComplete s =
      .next (({ s with mem := (g.op.apply b s.entry s.mem).1 } : State).updGz fun x => { x with
        blocks := x.blocks.set g.op.blk (some (g.op.apply b s.entry s.mem).2) }).gauzeNext.move := by
  have he : exec .gauzeOpComplete s = execGauzeOpComplete s := rfl
  have hw : ¬ (g.op.isReuse || g.fault.isSome || g.due = 0 || s.now < g.due) = true := by
    simp [hr, hf, h0, hd]
  rw [he, execGauzeOpComplete, hg]
  dsimp only
  rw [if_neg hw, hb]
  dsimp only
  rw [hm]

/-- Settles O55: one rule for each event of the queue and its units (`exec_resultDelivery_occupied` to `exec_gauzeOpComplete`);
what a k-step gives is `StepIn.run_plain`, and what a decision leaves is `decideTile_spec`. -/
theorem queueEventsComplete : Obligations.QueueEventsComplete := by
  unfold Obligations.QueueEventsComplete
  refine ⟨?delivery, ?start, ?step, ?copy, ?accumulate, ?drain, ?finish, ?gauze⟩
  case delivery =>
    intro s
    exact ⟨exec_resultDelivery_occupied, fun hr hi => ⟨_, exec_resultDelivery_halted hr hi, rfl⟩⟩
  case start =>
    intro s q hq
    exact commandStarts hq
  case step =>
    intro s s1 s2 s3 q x c a b y p vs l hready hserve hq hx hc hplace ha hb hy hp hr
    obtain ⟨t, ht, hdm, hl, hm, hfree⟩ := exec_matrixKStep hready hserve hq hx hc hplace ha hb hy hp hr
    refine ⟨t, ht, hdm, hl, hm, hfree, fun _ hmd => ?_⟩
    obtain ⟨hl', hv⟩ := StepIn.run_plain hmd (y.read s3 c) 0 s3.r.mx.lfsr
    rw [hr] at hl' hv
    obtain rfl : l = s3.r.mx.lfsr := hl'
    refine ⟨rfl, fun k hk => ?_⟩
    have hentry := hv k hk
    rw [Nat.zero_add] at hentry
    exact hentry
  case copy =>
    intro s s1 q n base sure es want k st bs hq hl hd hp hes hw hk ht
    exact exec_queueStreamCopy hq hl hd hp hes hw hk ht
  case accumulate =>
    intro s s1 q c st n key bs vals hq hop hd hc ht hi
    have hread := State.reads_unitTake ht
    have hloc : locate c s1.r.bind.jsh s1.r.dm.store key = locate c s.r.bind.jsh s.r.dm.store key := by
      rw [hread.dm, hread.bind]
    refine ⟨fun p hp => ?_, fun p hp => ?_⟩
    · refine ⟨_, exec_damaskAccumulate hq hop hd hc ht hi (accValues_hit (hloc.trans hp)), rfl, ?_⟩
      rw [← hread.dm]
      rfl
    · refine ⟨_, exec_damaskAccumulate hq hop hd hc ht hi (accValues_fresh (hloc.trans hp)), rfl, ?_⟩
      rw [← hread.dm]
      rfl
  case drain =>
    intro s q c e hq hc ho hn hs hl hl0
    exact exec_damaskDrainEntry hq hc ho hn hs hl hl0
  case finish =>
    intro s q hq
    exact exec_commandFinish hq
  case gauze =>
    intro s g gs b hmem hg hr hf h0 hd hb hm
    refine ⟨_, exec_gauzeOpComplete hg hr hf h0 hd hb hm, rfl, ?_, rfl, fun k x s0 s1 s2 s3 hop hx ho => ?_⟩
    · show startOldest s.r.bind.banks s.now (s.r.gz.ops.drop 1) = _
      rw [hg]
      rfl
    · show b.mapBit (g.op.apply b s.entry s.mem).1 s.entry x = _ ∧ b.decidedAt (g.op.apply b s.entry s.mem).1 s.entry x = true
      rw [hop]
      exact decideTile_spec ho hmem s.entry hx s0 s1 s2 s3

end Sys2Proof.Machine
end

section
/-! PROOF. The stream operations of the access processor (R116, R122 to R128, R253 to R266): O20 to O23, O25, O27. -/

namespace Sys2Proof.Machine

/-! ### What an operation on streams leaves -/

/-- t is s but for stream registers and memory. -/
def State.streamed (s t : State) : Prop := t = { s.updR fun r => { r with st := t.r.st } with mem := t.mem }

theorem State.streamed_release (s : State) (n : SReg) (f : StreamReg → StreamReg) : s.streamed (s.release n f) := rfl
theorem State.streamed_updSt (s : State) (n : SReg) (f : StreamReg → StreamReg) : s.streamed (s.updSt n f) := rfl

/-- A stream operation that nothing keeps from executing does what its body does. -/
theorem apStream_ok {i : Instr} {g : Guard} {s u : State} {body : State → Except Stop State} (hr : s.apReady i g = true)
    (hb : body s.slotted = .ok u) : apStream i g s body = .next (u.finish i .next) := by
  apply apIssue_ok hr
  rw [hb]

@[simp] theorem State.slotted_r_st (s : State) : s.slotted.r.st = s.r.st := by simp [State.slotted]
/-- t is s but for stream registers, what the core cycle's start gives of them, memory and the package. -/
def State.apSided (s t : State) : Prop :=
  t = { s.updR fun r => { r with st := t.r.st, start := t.r.start } with mem := t.mem, pkg := t.pkg }

@[simp] theorem State.slotted_pkg (s : State) : s.slotted.pkg = s.pkg := by simp [State.slotted]
@[simp] theorem State.takeIssue_mem (s t : State) : (s.takeIssue t).mem = s.mem := by simp [State.takeIssue]
@[simp] theorem State.takeIssue_pkg (s t : State) : (s.takeIssue t).pkg = s.pkg := by simp [State.takeIssue]
@[simp] theorem State.takeIssue_r_start (s t : State) : (s.takeIssue t).r.start = s.r.start := by simp [State.takeIssue]

theorem State.streamed.apSided {s t : State} (h : s.streamed t) : s.apSided t := by
  rw [h]
  rfl
theorem State.apSided.ap {s t : State} (h : s.apSided t) : t.ap = s.ap := by rw [h]; rfl
theorem State.apSided.ctx {s t : State} (h : s.apSided t) (c : ApId) : t.ctx c = s.ctx c := by
  rw [h]
  cases c <;> rfl

/-- What a body leaves that changes streams, memory and the package: everything else. -/
theorem State.finish_apSided {s u : State} (h : s.slotted.apSided u) (i : Instr) (fl : Flow) :
    u.finish i fl = { (s.takeIssue (u.finish i fl)).updR fun r => { r with st := u.r.st, start := u.r.start } with
      mem := u.mem, pkg := u.pkg } := by
  rw [h]
  unfold State.takeIssue State.finish State.issued State.slotted
  cases h : s.ap <;> simp [State.updCtx, State.updR, State.move, State.ctx, h, TaskState.noting]

/-- The registers of a body that leaves its context, and where it leaves it. -/
theorem State.apSided.kept {s u : State} (h : s.slotted.apSided u) (i : Instr) :
    s.allRegsKept (u.finish i .next) ∧ (u.finish i .next).place = s.pastIt :=
  have ha : u.ap = s.ap := h.ap.trans s.slotted_ap
  ⟨State.finish_allRegsKept ha (h.ctx _) .., State.finish_next_pastIt ha (h.ctx _) _⟩

/-- A body that changes streams and memory leaves everything else. -/
theorem State.finish_onlyStreams {s u : State} (h : s.slotted.streamed u) (i : Instr) (fl : Flow) :
    s.onlyStreams (u.finish i fl) := by
  have hf := State.finish_apSided h.apSided i fl
  have hst : u.r.start = (s.takeIssue (u.finish i fl)).r.start := by rw [s.takeIssue_r_start, h]; exact s.slotted_r_start
  have hp : u.pkg = (s.takeIssue (u.finish i fl)).pkg := by rw [s.takeIssue_pkg, h]; exact s.slotted_pkg
  rw [hst, hp] at hf
  unfold State.onlyStreams
  rw [State.finish_mem, State.finish_r_st]
  exact hf

theorem State.stream_finish (u : State) (i : Instr) (fl : Flow) (k : SReg) : (u.finish i fl).stream k = u.stream k := by
  simp [State.stream]

/-- What a body that changes one stream register, and memory, leaves in all. -/
theorem State.finish_oneStream {s u : State} (h : s.slotted.streamed u) {n : SReg} {r : StreamReg}
    (hst : s.slotted.streamsKept u n r) (i : Instr) : s.oneStream (u.finish i .next) n r := by
  obtain ⟨hregs, hplace⟩ := h.apSided.kept i
  refine ⟨fun k => ?_, hregs, hplace, State.finish_onlyStreams h ..⟩
  rw [State.stream_finish, hst, State.slotted_stream]

/-- A stream operation whose body leaves one stream register changed, and memory, completes so. -/
theorem apStream_oneStream {i : Instr} {g : Guard} {s u : State} {n : SReg} {r : StreamReg} {body : State → Except Stop State}
    (he : exec i s = apStream i g s body) (hr : s.apReady i g = true) (hb : body s.slotted = .ok u) (h : s.slotted.streamed u)
    (hst : s.slotted.streamsKept u n r) :
    ∃ t, exec i s = .next t ∧ t.mem = u.mem ∧ s.oneStream t n r :=
  ⟨_, he.trans (apStream_ok hr hb), by simp, State.finish_oneStream h hst i⟩

theorem State.streamsKept_updSt (s : State) (n : SReg) (f : StreamReg → StreamReg) :
    s.streamsKept (s.updSt n f) n (f (s.stream n)) := fun k => by rw [State.stream_updSt]
theorem State.streamsKept_release (s : State) (n : SReg) (f : StreamReg → StreamReg) :
    s.streamsKept (s.release n f) n (f (s.stream n)) := fun k => by rw [State.stream_release]

@[simp] theorem State.slotted_roomStart (s : State) (n : SReg) : s.slotted.roomStart n = s.roomStart n := by
  simp [State.roomStart]
@[simp] theorem State.slotted_headOf (s : State) (n : SReg) : s.slotted.r.headOf n = s.r.headOf n := by
  simp [Residency.headOf]

/-! ### S.CLAIM (R122, R126, R259) -/

/-- A claim that finds room raises the claimed count. -/
theorem State.claim_fits {s : State} {n : SReg} {g : Nat} (h : g ≤ s.roomStart n) :
    ∃ u, s.claim n g = some u ∧ s.streamed u ∧ u.mem = s.mem ∧ s.streamsKept u n { s.stream n with
      claimed := (s.stream n).claimed + BitVec.ofNat 24 g, dropping := decide (g = 0) && (s.stream n).dropping } := by
  unfold State.claim
  dsimp only
  by_cases hg : g = 0
  · subst hg
    refine ⟨s, if_pos rfl, rfl, rfl, fun k => ?_⟩
    split
    · rename_i hk
      subst hk
      simp
    · rfl
  · rw [if_neg hg, if_pos h]
    refine ⟨_, rfl, State.streamed_updSt .., rfl, ?_⟩
    have := s.streamsKept_updSt n fun r => { r with claimed := r.claimed + BitVec.ofNat 24 g, dropping := r.dropping && false }
    simpa [hg] using this

/-- Settles O20: the claim that fits is `State.claim_fits`, in the state whose slot has passed. -/
theorem claimCompletes : Obligations.ClaimCompletes := by
  unfold Obligations.ClaimCompletes
  intro f s hr hp hs hroom
  rw [← s.slotted_roomStart] at hroom
  obtain ⟨u, hu, hstr, hmem, hst⟩ := State.claim_fits hroom
  rw [s.slotted_stream] at hst
  obtain ⟨t, ht, hm, hone⟩ := apStream_oneStream (show exec (.sClaim f) s = execSClaim f s from rfl) hr (u := u) (by
    simp only [State.slotted_stream, State.slotted_areg, need_of hp, ok_bind, need_of (decide_eq_true hs), hu]
    rfl) hstr hst
  exact ⟨t, ht, hone, hm.trans (hmem.trans s.slotted_mem)⟩

/-! ### S.COMMIT (R113, R123, R261) -/

/-- A full/empty bit that is set stays set over the setting of another. -/
theorem Memory.isFull_setFull_true {m : Memory} (h : m.wf = true) {g x : Nat} (hx : m.isFull x = true ∨ x = g) :
    (m.setFull g true).isFull x = true := by
  have hg : (m.setFull g true).isFull x = if x = g then true else m.isFull x :=
    kvGet_kvSet (f := m.blankFull) (Memory.wf_iff.1 h).2.1
  rw [hg]
  split
  · rfl
  · rename_i hn
    exact hx.resolve_right hn

/-- The granules of a ring that are sealed are full. -/
theorem isFull_sealRing {m : Memory} (h : m.wf = true) (e : Nat) (r : StreamReg) (c : BitVec 24) {n j : Nat} (hj : j < n) :
    (sealRing m e r c n).isFull (r.granuleNo e (c + BitVec.ofNat 24 j)) = true := by
  induction n with
  | zero => omega
  | succ n ih =>
    refine Memory.isFull_setFull_true (Memory.recheck_wf _ (sealRing_wf e r c n h)) ?_
    by_cases hn : j = n
    · exact Or.inr (by rw [hn])
    · exact Or.inl (ih (by omega))

theorem isFull_sealLast (m : Memory) (e : Nat) (r : StreamReg) (x : Nat) : (sealLast m e r).isFull x = m.isFull x := by
  unfold sealLast
  split <;> rfl

theorem StreamReg.granuleNo_commitBytes (r : StreamReg) (k e : Nat) (c : BitVec 24) :
    (r.commitBytes k).granuleNo e c = r.granuleNo e c := by rw [r.commitBytes_kept]; rfl

/-- Every granule that a commit reaches is full. -/
theorem State.isFull_commit {s : State} (h : s.memOk) (n : SReg) {k j : Nat} (hk : k ≠ 0)
    (hj : j < (((s.commit n k).stream n).committed - (s.stream n).tail.1).toNat) :
    (s.commit n k).mem.isFull ((s.stream n).granuleNo s.entry ((s.stream n).tail.1 + BitVec.ofNat 24 j)) = true := by
  rw [State.stream_commit s n hk] at hj
  unfold State.commit
  rw [if_neg hk]
  dsimp only
  rw [isFull_sealLast, ← (s.stream n).granuleNo_commitBytes k]
  exact isFull_sealRing h _ { (s.stream n).commitBytes k with landed := (s.stream n).landed - k } _ hj

theorem State.streamed_commit (s : State) (n : SReg) (k : Nat) : s.streamed (s.commit n k) := by
  unfold State.commit
  dsimp only
  split <;> rfl

theorem State.stream_commit_ne (s : State) {n m : SReg} (h : m ≠ n) (k : Nat) : (s.commit n k).stream m = s.stream m := by
  unfold State.commit
  dsimp only
  split
  · rfl
  · exact (s.stream_updSt n m fun _ => { (s.stream n).commitBytes k with landed := (s.stream n).landed - k }).trans (if_neg h)

theorem State.streamed.trans {s t u : State} (h : s.streamed t) (h' : t.streamed u) : s.streamed u := by
  unfold State.streamed at *
  conv_lhs => rw [h', h]
  rfl

theorem StreamReg.commitBytes_of_ne {r : StreamReg} (h : r.code ≠ 6) (n : Nat) : r.commitBytes n = { r with
    committed := r.tail.1 + BitVec.ofNat 24 ((r.tail.2 + n + 63) / 64), tpos := BitVec.ofNat 7 ((r.tail.2 + n) % 64 / r.esize) } := 
  if_neg h
theorem StreamReg.commitBytes_of_eq {r : StreamReg} (h : r.code = 6) (n : Nat) : r.commitBytes n = { r with
    committed := r.committed + BitVec.ofNat 24 (n / 64) } := 
  if_pos h

/-- What a commit does to its register. -/
theorem State.stream_commit_cases (s : State) (n : SReg) {k : Nat} (hk : k ≠ 0) : 
    ((s.stream n).code ≠ 6 → (s.commit n k).stream n = { s.stream n with
      committed := (s.stream n).tail.1 + BitVec.ofNat 24 (((s.stream n).tail.2 + k + 63) / 64)
      tpos := BitVec.ofNat 7 (((s.stream n).tail.2 + k) % 64 / (s.stream n).esize), landed := (s.stream n).landed - k }) ∧
    ((s.stream n).code = 6 → (s.commit n k).stream n = { s.stream n with
      committed := (s.stream n).committed + BitVec.ofNat 24 (k / 64), landed := (s.stream n).landed - k }) := by
  rw [State.stream_commit s n hk]
  exact ⟨fun h => by rw [StreamReg.commitBytes_of_ne h], fun h => by rw [StreamReg.commitBytes_of_eq h]⟩

/-- The state after k bytes of a stream are committed, and its end where a form of S.COMMIT ends it (R261). -/
def State.committed (s : State) (n : SReg) (k : Nat) (last : Bool) : State :=
  if last then (s.commit n k).updSt n fun r => { r with ended := true } else s.commit n k

theorem State.streamed_committed (s : State) (n : SReg) (k : Nat) (last : Bool) : s.streamed (s.committed n k last) := by
  unfold State.committed
  split
  · exact (s.streamed_commit n k).trans (State.streamed_updSt ..)
  · exact s.streamed_commit n k

theorem State.committed_mem (s : State) (n : SReg) (k : Nat) (last : Bool) : (s.committed n k last).mem = (s.commit n k).mem := by
  unfold State.committed
  split <;> rfl

theorem State.stream_committed_ne (s : State) {n m : SReg} (h : m ≠ n) (k : Nat) (last : Bool) :
    (s.committed n k last).stream m = s.stream m := by
  unfold State.committed
  split
  · rw [State.stream_updSt, if_neg h, s.stream_commit_ne h]
  · exact s.stream_commit_ne h k

/-- Of the register of a stream that has not ended, the end is all that differs between the forms. -/
theorem State.stream_committed {s : State} {n : SReg} (k : Nat) (last : Bool) (h : ((s.commit n k).stream n).ended = false) :
    (s.committed n k last).stream n = { (s.commit n k).stream n with ended := last } := by
  unfold State.committed
  cases last
  · rw [if_neg Bool.false_ne_true, ← h]
  · rw [if_pos rfl, State.stream_updSt_same]

/-- A commit keeps all of its register but the counts and what has landed. -/
theorem State.stream_commit_kept (s : State) (n : SReg) (k : Nat) : (s.commit n k).stream n = { s.stream n with
    committed := ((s.commit n k).stream n).committed, tpos := ((s.commit n k).stream n).tpos
    landed := ((s.commit n k).stream n).landed } := by
  by_cases hk : k = 0
  · subst hk
    rw [State.stream_commit_zero]
  · rw [State.stream_commit s n hk, StreamReg.commitBytes_kept]

/-- The body of a commit that reaches no further than what is claimed. -/
theorem doCommit_ok {s : State} {f : SA} {el : Bool} (last : Bool) (hp : (s.stream f.st).apProduced = true)
    (hc : (s.stream f.st).commitSize el (s.areg f.a).toNat ≤ (s.stream f.st).claimedBytes) :
    doCommit s f el last = .ok (s.committed f.st ((s.stream f.st).commitSize el (s.areg f.a).toNat) last) :=
  (bind_of_ok (need_of hp) _).trans ((bind_of_ok (need_of (decide_eq_true hc)) _).trans rfl)

/-- The four forms of S.COMMIT have one body. -/
theorem exec_commit {i : Instr} {f : SA} {el last : Bool} (s : State) (hi : commitForm i = some (f, el, last)) :
    exec i s = apStream i f.g s fun s => doCommit s f el last := by
  cases i <;> cases hi <;> rfl

/-- Settles O21: one body for the four forms (`exec_commit`); what a commit of some bytes does to the register is
`State.stream_commit_cases`, to the full bits `State.isFull_commit`. -/
theorem commitsComplete : Obligations.CommitsComplete := by
  unfold Obligations.CommitsComplete
  intro i f el last s hi hr hp hc
  have hslot := s.slotted_stream f.st
  rw [← hslot] at hp hc
  rw [← s.slotted_areg] at hc
  have hex := (exec_commit s hi).trans (apStream_ok hr (doCommit_ok last hp hc))
  rw [hslot, s.slotted_areg] at hex
  rw [hslot, StreamReg.apProduced, Bool.and_eq_true, Bool.not_eq_true'] at hp
  generalize hn : (s.stream f.st).commitSize el (s.areg f.a).toNat = n at hex
  have hstr := s.slotted.streamed_committed f.st n last
  obtain ⟨hregs, hplace⟩ := hstr.apSided.kept i
  have hkept := s.slotted.stream_commit_kept f.st n
  have hend : ((s.slotted.commit f.st n).stream f.st).ended = false := by
    rw [hkept, hslot]
    exact hp.2
  have hown := State.stream_committed n last hend
  refine ⟨_, hex, hregs, hplace, State.finish_onlyStreams hstr .., fun k hk => ?_, ?_, ?_, ?_, ?_, fun m r hr hm => ?_, fun k => ?_⟩
  · rw [State.stream_finish, State.stream_committed_ne _ hk, s.slotted_stream]
  · rw [State.stream_finish, hown]
  · rw [State.stream_finish, hown, hkept, hslot]
  · rw [State.stream_finish, hown, hkept, hslot]
  · rw [State.stream_finish, hown, hkept, hslot]
  · subst hr
    obtain rfl := hm.trans hn
    rw [State.stream_finish, State.finish_mem, hown, State.committed_mem]
    refine ⟨fun h0 => ?_, fun h0 h6 => ?_, fun h0 h6 => ?_, fun h0 hok j hj => ?_⟩
    · rw [h0, State.stream_commit_zero, hslot, s.slotted_mem]
      exact ⟨rfl, rfl, rfl⟩
    · rw [← hslot] at h6 ⊢
      rw [(s.slotted.stream_commit_cases f.st h0).1 h6]
      exact ⟨rfl, rfl⟩
    · rw [← hslot] at h6 ⊢
      rw [(s.slotted.stream_commit_cases f.st h0).2 h6]
      exact ⟨rfl, rfl⟩
    · rw [← hslot] at hj ⊢
      rw [← s.slotted_entry]
      exact State.isFull_commit (by rw [State.memOk, s.slotted_mem]; exact hok) f.st h0 hj
  · rw [State.finish_mem, State.committed_mem, (s.slotted.sameBytes_commit f.st n).byte, s.slotted_mem]

/-! ### S.AWAIT and S.RETIRE (R125, R262) -/

/-- The head of an AP consumer passes the check of R254. -/
theorem apHead_ok {s : State} {n m : SReg} {j : Fin 4} (hh : s.r.headOf n = (m, j)) (hc : s.apConsumes n = true) :
    apHead s.slotted n = .ok (m, j) := by
  rw [State.apConsumes, hh, Bool.and_eq_true] at hc
  unfold apHead
  rw [State.slotted_headOf, hh]
  exact bind_of_ok (need_of (by simpa [Bool.and_eq_true] using hc)) _

/-- An open head passes the check of R263. -/
theorem openHead_ok {s : State} {n m : SReg} {j : Fin 4} (hh : s.r.headOf n = (m, j)) (hc : s.headOpen n = true) :
    openHead s.slotted n = .ok (m, j) := by
  rw [State.headOpen, hh] at hc
  unfold openHead
  rw [State.slotted_headOf, hh]
  exact bind_of_ok (need_of (by simpa using hc)) _

/-- A stream operation whose body changes one register under a rule that may release granules changes no byte of memory. -/
theorem apStream_release {i : Instr} {g : Guard} {s : State} {n : SReg} {c : StreamReg → StreamReg} {body : State → Except Stop State}
    (he : exec i s = apStream i g s body) (hr : s.apReady i g = true) (hb : body s.slotted = .ok (s.slotted.release n c)) :
    ∃ t, exec i s = .next t ∧ (∀ k, t.mem.byte k = s.mem.byte k) ∧ s.oneStream t n (c (s.stream n)) := by
  obtain ⟨t, ht, hm, hone⟩ := apStream_oneStream he hr hb (State.streamed_release ..) (s.slotted.streamsKept_release n c)
  rw [s.slotted_stream] at hone
  refine ⟨t, ht, fun k => ?_, hone⟩
  rw [hm, (State.sameBytes_release rfl n c).byte, s.slotted_mem]

theorem State.headAt_of {s : State} {n m : SReg} {j : Fin 4} (hh : s.r.headOf n = (m, j)) : s.headAt n = (s.stream m).heads[j] := by
  simp only [State.headAt, hh]
theorem State.awaitedAt_of {s : State} {n m : SReg} {j : Fin 4} (hh : s.r.headOf n = (m, j)) :
    s.awaitedAt n = ((s.stream m).awaits[j]).toNat := by simp only [State.awaitedAt, hh]

/-- S.AWAIT of granules that are committed adds them to the await field; of none, it leaves the field. -/
theorem exec_sAwait {f : SA} {s : State} {m : SReg} {j : Fin 4} (hh : s.r.headOf f.st = (m, j)) (hc : s.apConsumes f.st = true)
    (hr : s.apReady (.sAwait f) f.g = true)
    (h : (s.areg f.a).toNat ≠ 0 →
      s.awaitedAt f.st + (s.areg f.a).toNat ≤ (s.stream m).size ∧ s.awaitedAt f.st + (s.areg f.a).toNat ≤ 65535 ∧
      (s.areg f.a).toNat ≤ awaitable (s.streamStart m) (s.headAt f.st) (s.awaitedAt f.st) ∧
      ringCause s.slotted (s.stream m) ((s.headAt f.st).count + BitVec.ofNat 24 (s.awaitedAt f.st)) (s.areg f.a).toNat = none) :
    ∃ t, exec (.sAwait f) s = .next t ∧ t.mem = s.mem ∧
      s.oneStream t m { s.stream m with
        awaits := (s.stream m).awaits.set j (BitVec.ofNat 16 (s.awaitedAt f.st + (s.areg f.a).toNat)) } := by
  have hx := show exec (.sAwait f) s = execSAwait f s from rfl
  rw [State.awaitedAt_of hh, State.headAt_of hh] at h
  rw [State.awaitedAt_of hh]
  by_cases hg : (s.areg f.a).toNat = 0
  · have hb : s.slotted.streamsKept s.slotted m { s.stream m with
        awaits := (s.stream m).awaits.set j (BitVec.ofNat 16 (((s.stream m).awaits[j]).toNat + (s.areg f.a).toNat)) } := fun k => by
      split
      · rename_i hk
        rw [hk, hg]
        simp
      · rfl
    obtain ⟨t, ht, hm, hone⟩ := apStream_oneStream hx hr
      ((bind_of_ok (apHead_ok hh hc) _).trans (if_pos ((congrArg BitVec.toNat (s.slotted_areg f.a)).trans hg))) rfl hb
    exact ⟨t, ht, hm.trans s.slotted_mem, hone⟩
  · obtain ⟨hsize, hfield, hthere, hsound⟩ := h hg
    obtain ⟨t, ht, hm, hone⟩ := apStream_oneStream hx hr (u := s.slotted.updSt m fun r => { r with
        awaits := r.awaits.set j (BitVec.ofNat 16 (((s.stream m).awaits[j]).toNat + (s.areg f.a).toNat)) })
      ((bind_of_ok (apHead_ok hh hc) _).trans (by
        simp only [State.slotted_areg, State.slotted_stream, State.slotted_streamStart, if_neg hg, if_neg (Nat.not_lt.2 hthere), hsound]
        exact (bind_of_ok (need_of (by simpa using ⟨hsize, hfield⟩)) _).trans rfl))
      (State.streamed_updSt ..) (s.slotted.streamsKept_updSt m _)
    rw [s.slotted_stream] at hone
    exact ⟨t, ht, hm.trans s.slotted_mem, hone⟩

/-- S.RETIRE of granules that are awaited moves the head past them. -/
theorem exec_sRetire {f : SA} {s : State} {m : SReg} {j : Fin 4} (hh : s.r.headOf f.st = (m, j)) (hc : s.apConsumes f.st = true)
    (hr : s.apReady (.sRetire f) f.g = true) (h : (s.areg f.a).toNat ≤ s.awaitedAt f.st) :
    ∃ t, exec (.sRetire f) s = .next t ∧ (∀ k, t.mem.byte k = s.mem.byte k) ∧
      s.oneStream t m { s.stream m with
        heads := (s.stream m).heads.set j { s.headAt f.st with
          count := (s.headAt f.st).count + BitVec.ofNat 24 (s.areg f.a).toNat, pos := 0 }
        awaits := (s.stream m).awaits.set j (BitVec.ofNat 16 (s.awaitedAt f.st - (s.areg f.a).toNat)) } := by
  have hx := show exec (.sRetire f) s = execSRetire f s from rfl
  rw [State.awaitedAt_of hh] at h
  rw [State.awaitedAt_of hh, State.headAt_of hh]
  refine apStream_release hx hr (c := fun r => { r.updHead j fun h => { h with
    count := h.count + BitVec.ofNat 24 (s.areg f.a).toNat, pos := 0 } with
      awaits := r.awaits.set j (BitVec.ofNat 16 ((r.awaits[j]).toNat - (s.areg f.a).toNat)) }) ?_
  refine (bind_of_ok (apHead_ok hh hc) _).trans ?_
  simp only [State.slotted_areg, State.slotted_stream]
  exact (bind_of_ok (need_of (decide_eq_true h)) _).trans rfl

/-- Settles O22: `exec_sAwait` and `exec_sRetire`. -/
theorem awaitRetireComplete : Obligations.AwaitRetireComplete := by
  unfold Obligations.AwaitRetireComplete
  intro f s m j hh hc
  exact ⟨exec_sAwait hh hc, exec_sRetire hh hc⟩

/-! ### Marks (R128, R263) -/

/-- S.MARK sets the mark of its head where the head stands. -/
theorem exec_sMark {f : SO} {s : State} {m : SReg} {j : Fin 4} (hh : s.r.headOf f.st = (m, j)) (hc : s.headOpen f.st = true)
    (hr : s.apReady (.sMark f) f.g = true) :
    ∃ t, exec (.sMark f) s = .next t ∧ (∀ k, t.mem.byte k = s.mem.byte k) ∧
      s.oneStream t m { s.stream m with heads := (s.stream m).heads.set j { s.headAt f.st with
        markValid := true, markCount := (s.headAt f.st).count, markPos := (s.headAt f.st).pos } } := by
  rw [State.headAt_of hh]
  exact apStream_release (show exec (.sMark f) s = execSMark f s from rfl) hr (bind_of_ok (openHead_ok hh hc) _)

/-- S.MARK.REL releases the mark of its head. -/
theorem exec_sMarkRel {f : SO} {s : State} {m : SReg} {j : Fin 4} (hh : s.r.headOf f.st = (m, j)) (hc : s.headOpen f.st = true)
    (hr : s.apReady (.sMarkRel f) f.g = true) :
    ∃ t, exec (.sMarkRel f) s = .next t ∧ (∀ k, t.mem.byte k = s.mem.byte k) ∧
      s.oneStream t m { s.stream m with heads := (s.stream m).heads.set j { s.headAt f.st with markValid := false } } := by
  rw [State.headAt_of hh]
  exact apStream_release (show exec (.sMarkRel f) s = execSMarkRel f s from rfl) hr (bind_of_ok (openHead_ok hh hc) _)

/-- The state after head j of stream m has gone back to its mark (R263). -/
def State.rewound (s : State) (m : SReg) (j : Fin 4) : State :=
  (s.updR fun r => { r with start := { r.start with rewound := (m, j) :: r.start.rewound } }).updSt m fun r =>
    { r.updHead j fun h => { h with count := h.markCount, pos := h.markPos } with awaits := r.awaits.set j 0 }

theorem State.streamsKept_rewound (s : State) (m : SReg) (j : Fin 4) : s.streamsKept (s.rewound m j) m { s.stream m with
    heads := (s.stream m).heads.set j { (s.stream m).heads[j] with
      count := ((s.stream m).heads[j]).markCount, pos := ((s.stream m).heads[j]).markPos }
    awaits := (s.stream m).awaits.set j 0 } := fun k => State.stream_updSt _ m k _

/-- S.REWIND takes its head back to its mark, and awaits nothing. -/
theorem exec_sRewind {f : SO} {s : State} {m : SReg} {j : Fin 4} (hh : s.r.headOf f.st = (m, j)) (hc : s.headOpen f.st = true)
    (hr : s.apReady (.sRewind f) f.g = true) (hm : (s.headAt f.st).markValid = true) :
    exec (.sRewind f) s = .next ((s.slotted.rewound m j).finish (.sRewind f) .next) := by
  rw [State.headAt_of hh] at hm
  exact (show exec (.sRewind f) s = execSRewind f s from rfl).trans (apStream_ok hr
    ((bind_of_ok (openHead_ok hh hc) _).trans ((bind_of_ok (need_of (s.slotted_stream m ▸ hm)) _).trans rfl)))

/-- Settles O23: a mark is set and released in place (`exec_sMark`, `exec_sMarkRel`), and a rewound head is noted for the
rest of the core cycle (`State.rewound`). -/
theorem marksComplete : Obligations.MarksComplete := by
  unfold Obligations.MarksComplete
  intro f s m j hh hc
  refine ⟨exec_sMark hh hc, exec_sMarkRel hh hc, fun hr hm => ?_⟩
  have hside : s.slotted.apSided (s.slotted.rewound m j) := rfl
  obtain ⟨hregs, hplace⟩ := hside.kept (.sRewind f)
  refine ⟨_, exec_sRewind hh hc hr hm, hregs, hplace, fun k => ?_, ?_⟩
  · rw [State.stream_finish, s.slotted.streamsKept_rewound, s.slotted_stream, s.slotted_stream, State.headAt_of hh]
  · have hstart : (s.slotted.rewound m j).r.start =
        { s.r.start with rewound := (m, j) :: s.r.start.rewound } := by rw [← s.slotted_r_start]; rfl
    refine (State.finish_apSided hside (.sRewind f) .next).trans ?_
    have hmem : (s.slotted.rewound m j).mem = s.mem := s.slotted_mem
    have hpkg : (s.slotted.rewound m j).pkg = s.pkg := s.slotted_pkg
    simp [State.updR, hstart, hmem, hpkg]

/-! ### S.OPEN, S.OPEN.H and S.FORK (R127, R256, R257, R264) -/

/-- A part of a body that has succeeded, and what followed it. -/
theorem ok_of_bind {α β : Type} {x : Except Stop α} {f : α → Except Stop β} {b : β} (h : (x >>= f) = .ok b) :
    ∃ a, x = .ok a ∧ f a = .ok b := by
  cases x with
  | error e => cases h
  | ok a => exact ⟨a, rfl, h⟩

/-- The checks of one side of a stream change the TLBs alone. -/
theorem sideChecks_eq {s u : State} {r : StreamReg} {pat han rd : Bool} {es : Nat} (h : sideChecks s r pat han rd es = .ok u) :
    u = s.withTlb s.mem u.pkg.tlb := by
  have hpat (h : (if pat = true then do
      let (_, s1) ← resolve s (r.src[0]) es rd (!rd)
      return s1
      else return s : Except Stop State) = .ok u) : u = s.withTlb s.mem u.pkg.tlb := by
    split at h
    · obtain ⟨⟨ks, s1⟩, hres, hu⟩ := ok_of_bind h
      cases hu
      exact resolve_eq hres
    · cases h
      rfl
  unfold sideChecks at h
  dsimp only at h
  split at h
  · split at h
    · cases h
    · obtain ⟨-, -, h⟩ := ok_of_bind h
      obtain ⟨-, -, h⟩ := ok_of_bind h
      obtain ⟨-, -, h⟩ := ok_of_bind h
      exact hpat h
  · exact hpat h

theorem State.withTlb_trans {s t u : State} (h : t = s.withTlb s.mem t.pkg.tlb) (h' : u = t.withTlb t.mem u.pkg.tlb) :
    u = s.withTlb s.mem u.pkg.tlb := by
  rw [h', h]
  rfl

/-- The checks of S.OPEN change the TLBs alone. -/
theorem openChecks_eq {s u : State} {n : SReg} {r : StreamReg} (h : openChecks s n r = .ok u) : u = s.withTlb s.mem u.pkg.tlb := by
  obtain ⟨-, -, h⟩ := ok_of_bind h
  obtain ⟨-, -, h⟩ := ok_of_bind h
  obtain ⟨-, -, h⟩ := ok_of_bind h
  obtain ⟨-, -, h⟩ := ok_of_bind h
  obtain ⟨-, -, h⟩ := ok_of_bind h
  obtain ⟨s1, h1, h⟩ := ok_of_bind h
  obtain ⟨s2, h2, h⟩ := ok_of_bind h
  obtain ⟨-, -, h⟩ := ok_of_bind h
  obtain ⟨-, -, h⟩ := ok_of_bind h
  obtain ⟨-, -, h⟩ := ok_of_bind h
  obtain ⟨-, -, h⟩ := ok_of_bind h
  obtain ⟨s3, h3, h4⟩ := ok_of_bind h
  exact State.withTlb_trans (State.withTlb_trans (State.withTlb_trans (sideChecks_eq h1) (sideChecks_eq h2)) (sideChecks_eq h3))
    (sideChecks_eq h4)

/-- t is s but for stream registers and the TLBs. -/
def State.opened (s t : State) : Prop :=
  t = { s.updR fun r => { r with st := t.r.st } with pkg := { s.pkg with tlb := t.pkg.tlb } }

theorem State.opened_updSt {s u : State} (h : u = s.withTlb s.mem u.pkg.tlb) (n : SReg) (f : StreamReg → StreamReg) :
    s.opened (u.updSt n f) := by
  rw [h]
  rfl
theorem State.opened.updSt {s u : State} (h : s.opened u) (n : SReg) (f : StreamReg → StreamReg) : s.opened (u.updSt n f) := by
  rw [h]
  rfl

/-- What a body that changes streams and the TLBs leaves in all. -/
theorem State.finish_opened {s u : State} (h : s.slotted.opened u) (i : Instr) :
    s.allRegsKept (u.finish i .next) ∧ (u.finish i .next).place = s.pastIt ∧ (u.finish i .next).mem = s.mem ∧
      u.finish i .next = { (s.takeIssue (u.finish i .next)).updR fun r => { r with st := (u.finish i .next).r.st } with
        pkg := { s.pkg with tlb := (u.finish i .next).pkg.tlb } } := by
  have hside : s.slotted.apSided u := by
    rw [h]
    rfl
  have hmem : u.mem = s.mem := by rw [h]; exact s.slotted_mem
  have hstart : u.r.start = s.r.start := by rw [h]; exact s.slotted_r_start
  have hpkg : u.pkg = { s.pkg with tlb := u.pkg.tlb } := by conv_lhs => rw [h, s.slotted_pkg]
  obtain ⟨hregs, hplace⟩ := hside.kept i
  refine ⟨hregs, hplace, (State.finish_mem ..).trans hmem, (State.finish_apSided hside i .next).trans ?_⟩
  simp [State.updR, hstart, hmem, ← hpkg]

/-- S.OPEN and S.OPEN.H open their register where its checks pass. -/
theorem doOpen_ok {s u : State} {f : SAB} {hold : Bool} (hc : (s.stream f.st).isOpen = false)
    (h : openChecks s f.st (openReg (s.areg f.a &&& BitVec.ofNat 64 (2 ^ 49 - 1)) ((s.areg f.b).setWidth 32) (s.stream f.st).src hold) =
      .ok u) :
    doOpen s f hold = .ok (u.updSt f.st fun _ =>
      openReg (s.areg f.a &&& BitVec.ofNat 64 (2 ^ 49 - 1)) ((s.areg f.b).setWidth 32) (s.stream f.st).src hold) :=
  (bind_of_ok (need_of (by rw [hc]; rfl)) _).trans ((bind_of_ok h _).trans rfl)

/-- The two forms of S.OPEN have one body. -/
theorem exec_open {i : Instr} {f : SAB} {hold : Bool} (s : State) (h : i = .sOpen f ∧ hold = false ∨ i = .sOpenH f ∧ hold = true) :
    exec i s = apStream i f.g s fun s => doOpen s f hold := by
  obtain ⟨rfl, rfl⟩ | ⟨rfl, rfl⟩ := h <;> rfl

/-- The sink that S.FORK gives the register that it opens. -/
theorem aliasControl_sink (k : Fin 16) (src : SReg) (j : Fin 4) : bits (aliasControl k src j) 7 4 = k.val := by
  have hk := k.isLt
  have hs := src.isLt
  have hj := j.isLt
  rw [bits, fld, aliasControl, BitVec.toNat_ofNat]
  omega

/-- The state after S.FORK: head j of the source is enabled where head 0 stands, and the register that it names is open (R127, R264). -/
def State.forked (v : State) (n src : SReg) (j : Fin 4) (r : StreamReg) : State :=
  (v.updSt src fun r => r.updHead j fun _ =>
    { Head.off with enabled := true, count := (r.heads[(0 : Fin 4)]).count, pos := (r.heads[(0 : Fin 4)]).pos }).updSt n fun _ =>
      { r with pin := basePin r }

/-- S.FORK forks where its checks pass. -/
theorem exec_sFork {f : SO} {src : SReg} {k : Fin 16} {j : Fin 4} {s u v : State} (hr : s.apReady (.sFork f src k j) f.g = true)
    (ho : (s.stream f.st).isOpen = false) (ha : (s.stream src).kind ≠ 10) (hj : j ≠ 0) (hs : (s.stream src).isOpen = true)
    (he : ((s.stream src).heads[j]).enabled = false) (hk : k.val ≤ 7) (hp : k.val = 2 → (forkAlias s f.st src k j).patOk = true)
    (h1 : sideChecks s.slotted (forkAlias s f.st src k j) false (k.val = 3) false (s.stream src).esize = .ok u)
    (h2 : sideChecks u (forkAlias s f.st src k j) (k.val = 2) false false (s.stream src).esize = .ok v) :
    exec (.sFork f src k j) s = .next ((v.forked f.st src j (forkAlias s f.st src k j)).finish (.sFork f src k j) .next) := by
  have hsink : (forkAlias s f.st src k j).sink = k.val := aliasControl_sink k src j
  rw [← hsink] at hp h1 h2
  have hp' : ((forkAlias s f.st src k j).sink ≠ 2 || (forkAlias s f.st src k j).patOk) = true := by
    simpa [Decidable.imp_iff_not_or] using hp
  refine (show exec (.sFork f src k j) s = execSFork f src k j s from rfl).trans (apStream_ok hr ?_)
  simp only [State.slotted_stream]
  refine (bind_of_ok (need_of (by simp [ho, ha])) _).trans ((bind_of_ok (need_of (by simp [hj, hs]; simpa using he)) _).trans
    ((bind_of_ok (need_of (decide_eq_true hk)) _).trans ((bind_of_ok (need_of hp') _).trans ((bind_of_ok h1 _).trans
      ((bind_of_ok h2 _).trans ?_)))))
  unfold forkAlias State.forked
  dsimp only
  rfl

/-- Settles O25: the checks of an open and of a fork change the TLBs alone (`openChecks_eq`, `sideChecks_eq`), so that the
streams are the rest of what changes (`State.finish_opened`). -/
theorem opensComplete : Obligations.OpensComplete := by
  unfold Obligations.OpensComplete
  refine ⟨fun i f hold s u r hi hr hc hreg hu => ?_, fun f src k j s u v hr ho ha hj hs he hk hp h1 h2 => ?_⟩
  · have heq := openChecks_eq hu
    have hex : exec i s = .next ((u.updSt f.st fun _ => r).finish i .next) := by
      subst hreg
      refine (exec_open s hi).trans (apStream_ok hr ?_)
      rw [← s.slotted_stream, ← s.slotted_areg, ← s.slotted_areg] at hu ⊢
      exact doOpen_ok (by rw [s.slotted_stream]; exact hc) hu
    obtain ⟨hregs, hplace, hmem, hframe⟩ := State.finish_opened (State.opened_updSt heq f.st fun _ => r) i
    refine ⟨_, hex, fun k => ?_, hregs, hplace, hmem, ?_, ?_, ?_, ?_, ?_, ?_, hframe⟩
    · have hv : u.stream k = s.stream k := by
        rw [heq]
        exact s.slotted_stream k
      rw [State.stream_finish, State.stream_updSt, hv]
    all_goals subst hreg; rfl
  · have heq := State.withTlb_trans (sideChecks_eq h1) (sideChecks_eq h2)
    obtain ⟨hregs, hplace, hmem, hframe⟩ := State.finish_opened ((State.opened_updSt heq src fun r => r.updHead j fun _ =>
      { Head.off with enabled := true, count := (r.heads[(0 : Fin 4)]).count, pos := (r.heads[(0 : Fin 4)]).pos }).updSt f.st
        fun _ => { forkAlias s f.st src k j with pin := basePin (forkAlias s f.st src k j) }) (.sFork f src k j)
    have hne : src ≠ f.st := by
      rintro rfl
      rw [ho] at hs
      cases hs
    have hv (n : SReg) : v.stream n = s.stream n := by
      rw [heq]
      exact s.slotted_stream n
    refine ⟨_, exec_sFork hr ho ha hj hs he hk hp h1 h2, hregs, hplace, hmem, fun n hn hn' => ?_, ?_, ?_, hframe⟩
    · rw [State.stream_finish, State.forked, State.stream_updSt, if_neg hn, State.stream_updSt, if_neg hn', hv]
    · rw [State.stream_finish, State.forked, State.stream_updSt_same]
      rfl
    · rw [State.stream_finish, State.forked, State.stream_updSt, if_neg hne, State.stream_updSt_same, hv]
      rfl

/-! ### S.STAT (R116, R266) -/

/-- What a body leaves that writes one register and may draw a free value. -/
theorem State.finish_setA_drawn (s : State) (k : Nat) (d : AReg) (v : W64) (i : Instr) :
    s.regsKept ((({ s.slotted with free := k } : State).setA d v).finish i .next) d ∧
      ((({ s.slotted with free := k } : State).setA d v).finish i .next).place = s.pastIt ∧
      (({ s.slotted with free := k } : State).setA d v).finish i .next =
        { s.takeIssue ((({ s.slotted with free := k } : State).setA d v).finish i .next) with
          free := ((({ s.slotted with free := k } : State).setA d v).finish i .next).free } := by
  have he : (({ s.slotted with free := k } : State).setA d v).finish i .next =
      { (s.slotted.setA d v).finish i .next with free := k } := by
    unfold State.setA State.finish State.issued State.slotted
    cases h : s.ap <;> simp [State.updCtx, State.updR, State.move, h]
  have hc (t : State) (c : ApId) : ({ t with free := k } : State).ctx c = t.ctx c := by cases c <;> rfl
  have hplace : ((s.slotted.setA d v).finish i .next).place = s.pastIt := by
    rw [State.finish_next_place]
    exact State.pastIt_congr (by simp)
  obtain ⟨hregs, hpreds⟩ := s.finish_setA_regsKept d v i .next
  rw [he]
  generalize hx : (s.slotted.setA d v).finish i .next = x at *
  have honly : s.onlyCtx x := hx ▸ s.finish_setA_onlyCtx d v i .next
  refine ⟨⟨fun n hn => ?_, fun n => ?_⟩, ?_, ?_⟩
  · rw [State.areg, hc]
    exact hregs n hn
  · rw [State.apred, hc]
    exact hpreds n
  · rw [State.place, hc]
    exact hplace
  · conv_lhs => rw [honly]
    unfold State.takeIssue
    rw [hc]

/-- Settles O27: a word that is not opaque is read as it stood at the start of the core cycle. -/
theorem streamStatusCompletes : Obligations.StreamStatusCompletes := by
  unfold Obligations.StreamStatusCompletes
  intro f d w s hr
  have hx := show exec (.sStat f d w) s = execSStat f d w s from rfl
  by_cases ho : (s.streamStart f.st).opaqueWord w = true
  · obtain ⟨hregs, hplace, hframe⟩ := s.finish_setA_drawn (s.slotted.free + 1) d (Config.openWord s.slotted.free) (.sStat f d w)
    refine ⟨_, hx.trans (apStream_ok hr ?_), hregs, hplace, fun h => ?_, hframe⟩
    · simp only [State.slotted_streamStart, ho, if_true]
      rfl
    · rw [ho] at h
      cases h
  · obtain ⟨hregs, hplace, hframe⟩ := s.finish_setA_drawn s.slotted.free d
      (if (s.streamStart f.st).isOpen then (s.streamStart f.st).pack w else 0) (.sStat f d w)
    refine ⟨_, hx.trans (apStream_ok hr ?_), hregs, hplace, fun _ => ?_, hframe⟩
    · simp only [State.slotted_streamStart, ho]
      rfl
    · rw [State.finish_areg]
      refine (State.areg_setA ..).trans ?_
      by_cases hd : d = 0
      · simp [hd]
      · cases hopen : (s.streamStart f.st).isOpen <;> simp [hd]

end Sys2Proof.Machine
end

section
/-! PROOF. What the delivery of a result writes (R123, R185, R187, R190, R195, R316): O44. -/

namespace Sys2Proof.Machine

/-! ### Lanes (R187, R190, R299) -/

theorem getElem_build (f : Fin 64 → W32) {i : Nat} (h : i < 64) : (Lanes.build f)[i] = f ⟨i, h⟩ := by
  have hl := lane_build f i
  rwa [lane, dif_pos h, dif_pos h] at hl

theorem getElem_fill (w : W32) {i : Nat} (h : i < 64) : (Lanes.fill w)[i] = w := getElem_build _ h

theorem getElem_mergeLanes (g : W64) (new old : Lanes) {i : Nat} (h : i < 64) :
    (mergeLanes g new old)[i] = if g.getLsbD i = true then new[i] else old[i] := getElem_build _ h

/-- A result whole, as a latch takes it, is its value with masked-off lanes zero. -/
theorem maskedVal_of_whole {x : InFlight} {l : Latch} (h : x.whole = some l) : maskedVal x.guard x.val = l := by
  obtain ⟨left, dest, val, guard, latch⟩ := x
  unfold InFlight.whole at h
  cases val with
  | vec v =>
    cases h
    refine congrArg Latch.vec (Vector.ext fun i hi => ?_)
    rw [getElem_mergeLanes _ _ _ hi, getElem_build _ hi, getElem_fill 0 hi]
    rfl
  | sc w =>
    cases h
    rfl
  | mask => cases h
  | bytes => cases h

/-! ### The latches (R187) -/

@[simp] theorem EpCtx.latched_v (e : EpCtx) (i : Option (Fin 16)) (l : Latch) : (e.latched i l).v = e.v := by cases i <;> rfl
@[simp] theorem EpCtx.latched_s (e : EpCtx) (i : Option (Fin 16)) (l : Latch) : (e.latched i l).s = e.s := by cases i <;> rfl
@[simp] theorem EpCtx.latched_m (e : EpCtx) (i : Option (Fin 16)) (l : Latch) : (e.latched i l).m = e.m := by cases i <;> rfl

/-- A result that enters its class's latch moves what that held to the older one. -/
theorem State.latchTakes_latched {s t : State} {x : InFlight} {l : Latch} {e : EpCtx} (he : e.b = s.r.ep.b)
    (ht : t.r.ep = e.latched x.latch l) : s.latchTakes t x l := by
  unfold State.latchTakes
  rw [ht]
  cases x.latch with
  | none => exact he
  | some i =>
    intro k
    show (pushLatch e.b i l)[k] = _
    rw [he]
    simp only [pushLatch, Fin.getElem_fin, Vector.getElem_set, Fin.val_ofNat, Fin.ext_iff, eq_comm (b := k.val)]

/-! ### Registers and masks (R187, R190) -/

theorem deliver_vreg {s : State} {x : InFlight} {n : Fin 64} {v : Lanes} (hd : x.dest = .vreg n)
    (hv : x.val = .vec v ∨ ∃ w, x.val = .sc w ∧ v = Lanes.fill w) :
    (∀ k j : Nat, (hk : k < 64) → (hj : j < 64) → ((deliver s x).r.ep.v[k])[j] =
      if k = n.val ∧ x.guard.getLsbD j = true then v[j] else (s.r.ep.v[k])[j]) ∧
    (deliver s x).r.ep.s = s.r.ep.s ∧ (deliver s x).r.ep.m = s.r.ep.m ∧ (deliver s x).mem = s.mem ∧
    s.latchTakes (deliver s x) x (.vec (deliver s x).r.ep.v[n]) := by
  have hval : x.val.toVec = v := by
    obtain h | ⟨w, h, rfl⟩ := hv <;> rw [h] <;> rfl
  have hep : (deliver s x).r.ep = EpCtx.latched
      { s.r.ep with v := s.r.ep.v.set n (mergeLanes x.guard v s.r.ep.v[n]) } x.latch (.vec (mergeLanes x.guard v s.r.ep.v[n])) := by
    unfold deliver
    rw [hd, ← hval]
    rfl
  have hmem : (deliver s x).mem = s.mem := by
    unfold deliver
    rw [hd]
    rfl
  have hreg : (deliver s x).r.ep.v[n] = mergeLanes x.guard v s.r.ep.v[n] := by simp [hep]
  refine ⟨fun k j hk hj => ?_, by simp [hep], by simp [hep], hmem, hreg ▸ State.latchTakes_latched (by rfl) hep⟩
  · simp only [hep, EpCtx.latched_v, Vector.getElem_set]
    by_cases h : n.val = k
    · subst h
      simp [getElem_mergeLanes _ _ _ hj]
    · simp [h, Ne.symm h]

theorem deliver_sreg {s : State} {x : InFlight} {n : Fin 32} {w : W32} (hd : x.dest = .sreg n)
    (hw : x.val = .sc w ∨ ∃ v, x.val = .vec v ∧ w = v[0]) :
    (deliver s x).r.ep.s = (if x.guard.getLsbD 0 then s.r.ep.s.set n w else s.r.ep.s) ∧
    (deliver s x).r.ep.v = s.r.ep.v ∧ (deliver s x).r.ep.m = s.r.ep.m ∧ (deliver s x).mem = s.mem ∧
    s.latchTakes (deliver s x) x (.sc (deliver s x).r.ep.s[n]) := by
  have hval : x.val.toSc = w := by
    obtain h | ⟨v, h, rfl⟩ := hw <;> rw [h] <;> rfl
  have hep : (deliver s x).r.ep = EpCtx.latched
      { s.r.ep with s := s.r.ep.s.set n (if laneOn x.guard 0 then w else s.r.ep.s[n]) } x.latch
      (.sc (if laneOn x.guard 0 then w else s.r.ep.s[n])) := by
    unfold deliver
    rw [hd, ← hval]
    rfl
  have hmem : (deliver s x).mem = s.mem := by
    unfold deliver
    rw [hd]
    rfl
  have hreg : (deliver s x).r.ep.s[n] = if laneOn x.guard 0 then w else s.r.ep.s[n] := by simp [hep]
  refine ⟨?_, by simp [hep], by simp [hep], hmem, hreg ▸ State.latchTakes_latched (by rfl) hep⟩
  rw [hep, EpCtx.latched_s]
  show _ = if laneOn x.guard 0 = true then _ else _
  cases laneOn x.guard 0 <;> simp

theorem deliver_mask {s : State} {x : InFlight} {n : Fin 16} {w : W64} (hd : x.dest = .mask n) (hw : x.val = .mask w) :
    (∀ k : Fin 16, ∀ j, j < 64 → ((deliver s x).r.ep.m[k]).getLsbD j =
      if k = n ∧ x.guard.getLsbD j = true then w.getLsbD j else (s.r.ep.m[k]).getLsbD j) ∧
    (deliver s x).r.ep.v = s.r.ep.v ∧ (deliver s x).r.ep.s = s.r.ep.s ∧ (deliver s x).r.ep.b = s.r.ep.b ∧
    (deliver s x).mem = s.mem := by
  have he : deliver s x = s.updE fun e => { e with m := e.m.set n ((w &&& x.guard) ||| (e.m[n] &&& ~~~x.guard)) } := by
    unfold deliver
    rw [hd, hw]
  rw [he]
  refine ⟨fun k j hj => ?_, rfl, rfl, rfl, rfl⟩
  show ((s.r.ep.m.set n ((w &&& x.guard) ||| (s.r.ep.m[n] &&& ~~~x.guard)))[k]).getLsbD j = _
  by_cases h : k = n
  · subst h
    simp only [Fin.getElem_fin, Vector.getElem_set_self, BitVec.getLsbD_or, BitVec.getLsbD_and, BitVec.getLsbD_not, hj,
      decide_true, Bool.true_and, true_and]
    cases x.guard.getLsbD j <;> simp
  · have hv : n.val ≠ k.val := fun e => h (Fin.ext e.symm)
    simp [h, hv]

/-! ### Ports (R123, R195, R316) -/

/-- Bytes that a result takes at a port (R316). -/
def Latch.room (l : Latch) (r : StreamReg) : Nat :=
  match l with
  | .vec _ => 256
  | .sc _ => max 4 r.esize

theorem Latch.room_pos (l : Latch) (r : StreamReg) : l.room r ≠ 0 := by cases l <;> simp [Latch.room]

/-- The bytes of a result that a port's element holds: of a scalar, its first four (log 7). -/
theorem resultBytes_of_whole {x : InFlight} {l : Latch} (h : x.whole = some l) (free : Nat) (r : StreamReg) :
    (resultBytes free r.esize x.guard x.val).length = l.room r ∧
      (∀ v, l = .vec v → resultBytes free r.esize x.guard x.val = bytesOfLanes v) ∧
      ∀ w, l = .sc w → (resultBytes free r.esize x.guard x.val).take 4 = leBytes 4 w.toNat := by
  have hm := maskedVal_of_whole h
  obtain ⟨left, dest, val, guard, latch⟩ := x
  unfold resultBytes
  dsimp only at hm ⊢
  cases val with
  | vec v =>
    cases l with
    | sc w => cases hm
    | vec v =>
      rw [hm]
      refine ⟨length_bytesOfLanes v, fun v' hv => ?_, fun w hw => by cases hw⟩
      cases hv
      rfl
  | sc w =>
    cases l with
    | vec v => cases hm
    | sc w =>
      rw [hm]
      refine ⟨?_, fun v hv => (by cases hv), fun w' hw => ?_⟩
      · simp only [Latch.room, List.length_append, length_leBytes, List.length_map, List.length_range]
        omega
      · cases hw
        rw [List.take_append_of_le_length (by simp), List.take_of_length_le (by simp)]
  | mask => cases h
  | bytes => cases h

theorem pushBytes_of_whole {x : InFlight} {l : Latch} (h : x.whole = some l) (r : StreamReg) : pushBytes r x.val = l.room r := by
  obtain ⟨left, dest, val, guard, latch⟩ := x
  cases val with
  | vec v =>
    cases h
    rfl
  | sc w =>
    cases h
    show (if 4 < r.esize then r.esize else 4) = max 4 r.esize
    split <;> omega
  | mask => cases h
  | bytes => cases h

theorem State.sided.yq {s t : State} (h : s.sided t) : t.r.yq = s.r.yq := by
  rw [h]
  rfl

/-- A push changes its stream, memory and the free values alone. -/
theorem State.sided_deliverPush {s : State} {x : InFlight} {l : Latch} (hw : x.whole = some l) (n : SReg) :
    s.sided (deliverPush s n x) := by
  unfold deliverPush
  dsimp only
  split
  · have h : s.sided (((s.draw.2.writeTail n 0 (resultBytes s.free (s.stream n).esize x.guard x.val)).commit n
        (pushBytes (s.stream n) x.val)).updSt n fun r => { r with reserved := r.reserved - pushBytes (s.stream n) x.val }) :=
      ((s.sided_draw.trans (State.sided_writeTail ..)).trans (State.sided_commit ..)).updSt
    split
    · rename_i hb
      rw [InFlight.whole, hb] at hw
      cases hw
    · exact h
  · rfl

section
variable {s : State} {n : SReg} {x : InFlight} {l : Latch} {k : Nat}

/-- A push that fits into what is reserved writes at the tail and commits. -/
theorem deliverPush_fits (hw : x.whole = some l) (h7 : (s.stream n).kind = 7)
    (hk : k = l.room (s.stream n)) (hle : k ≤ (s.stream n).reserved) :
    deliverPush s n x = ((s.draw.2.writeTail n 0 (resultBytes s.free (s.stream n).esize x.guard x.val)).commit n k).updSt n
      fun r => { r with reserved := r.reserved - k } := by
  have hp : pushBytes (s.stream n) x.val = k := (pushBytes_of_whole hw _).trans hk.symm
  unfold deliverPush
  dsimp only
  rw [hp, if_pos (by simp [h7, hle])]
  split
  · rename_i hb
    rw [InFlight.whole, hb] at hw
    cases hw
  · rfl

/-- What such a push leaves of memory, of the other streams, and of its own. -/
theorem deliverPush_spec (hw : x.whole = some l) (h7 : (s.stream n).kind = 7)
    (hk : k = l.room (s.stream n)) (hle : k ≤ (s.stream n).reserved) :
    (s.mem.pokes (((s.stream n).byteKeys s.entry (s.stream n).tail.1 (s.stream n).tail.2 k).zip
      (resultBytes s.free (s.stream n).esize x.guard x.val))).sameBytes (deliverPush s n x).mem ∧
    (∀ j, j ≠ n → (deliverPush s n x).stream j = s.stream j) ∧
    (deliverPush s n x).stream n = { s.stream n with
      committed := if (s.stream n).code = 6 then (s.stream n).committed + BitVec.ofNat 24 (k / 64)
        else (s.stream n).tail.1 + BitVec.ofNat 24 (((s.stream n).tail.2 + k + 63) / 64)
      tpos := if (s.stream n).code = 6 then (s.stream n).tpos
        else BitVec.ofNat 7 (((s.stream n).tail.2 + k) % 64 / (s.stream n).esize)
      landed := ((deliverPush s n x).stream n).landed, reserved := (s.stream n).reserved - k } ∧
    (s.memOk → ∀ j, j < (((deliverPush s n x).stream n).committed - (s.stream n).tail.1).toNat →
      (deliverPush s n x).mem.isFull ((s.stream n).granuleNo s.entry ((s.stream n).tail.1 + BitVec.ofNat 24 j)) = true) := by
  have h0 : k ≠ 0 := hk ▸ l.room_pos _
  have hlen : (resultBytes s.free (s.stream n).esize x.guard x.val).length = k := (resultBytes_of_whole hw _ _).1.trans hk.symm
  rw [deliverPush_fits hw h7 hk hle]
  generalize resultBytes s.free (s.stream n).esize x.guard x.val = bs at hlen
  generalize hy : s.draw.2.writeTail n 0 bs = y
  have hyn : y.stream n = { s.stream n with landed := max (s.stream n).landed (0 + bs.length) } := by
    rw [← hy, State.stream_writeTail]
    rfl
  have hyj (j : SReg) (hj : j ≠ n) : y.stream j = s.stream j := by
    rw [← hy]
    exact (State.stream_updSt _ n j _).trans (if_neg hj)
  have hmem : (s.mem.pokes (((s.stream n).byteKeys s.entry (s.stream n).tail.1 (s.stream n).tail.2 k).zip bs)).sameBytes y.mem := by
    rw [← hy, ← hlen]
    exact s.draw.2.sameBytes_writeTail n 0 bs
  refine ⟨hmem.trans (y.sameBytes_commit n k), fun j hj => ?_, ?_, fun hok j hj => ?_⟩
  · rw [State.stream_updSt, if_neg hj, y.stream_commit_ne hj, hyj j hj]
  · have hcode : (y.stream n).code = (s.stream n).code := by rw [hyn]; rfl
    obtain ⟨hne, heq⟩ := y.stream_commit_cases n h0
    rw [hcode] at hne heq
    rw [State.stream_updSt_same]
    by_cases h6 : (s.stream n).code = 6
    · rw [heq h6, if_pos h6, if_pos h6, hyn]
    · rw [hne h6, if_neg h6, if_neg h6, hyn]
      rfl
  · have hyok : y.memOk := by
      rw [← hy]
      exact Memory.mends_wf _ (Memory.pokes_wf _ hok)
    have hent : y.entry = s.entry := by
      rw [← hy]
      rfl
    have hf := State.isFull_commit hyok n h0 (j := j)
    rw [hyn, hent] at hf
    rw [State.stream_updSt_same] at hj
    exact hf hj
end

/-! ### Destinations outside the registers (R185, R190, R316) -/

/-- The state after a result has gone to a port, yq or the join store, before it enters its latch. -/
def State.handed (s : State) (x : InFlight) (l : Latch) : State :=
  match x.dest with
  | .push n => deliverPush s n x
  | .yq => s.updR fun r => { r with yq := r.yq ++ [l.toSc.setWidth 64] }
  | .jport id => s.updR fun r => { r with
      mx := { r.mx with queue := r.mx.queue.map fun q => if q.id = id then { q with op := .jvec (some l.toVec) x.guard } else q }
      start := { r.start with arrived := id :: r.start.arrived } }
  | _ => s

section
variable {s : State} {x : InFlight} {l : Latch}

theorem deliver_handed (hw : x.whole = some l)
    (hd : x.dest = .none ∨ x.dest = .yq ∨ (∃ n, x.dest = .push n) ∨ (∃ id, x.dest = .jport id)) :
    deliver s x = (s.handed x l).updE fun e => e.latched x.latch l := by
  have hm := maskedVal_of_whole hw
  unfold deliver State.handed
  obtain h | h | ⟨n, h⟩ | ⟨id, h⟩ := hd <;> rw [h] <;> dsimp only <;> rw [hm]
  split
  · rename_i hb
    rw [InFlight.whole, hb] at hw
    cases hw
  · rfl

theorem State.handed_ep (hw : x.whole = some l) : (s.handed x l).r.ep = s.r.ep := by
  unfold State.handed
  split
  · exact (State.sided_deliverPush hw _).ctxs.2.2
  all_goals rfl

/-- Only a push changes memory and streams. -/
theorem State.handed_kept (h : ∀ n, x.dest ≠ .push n) : (s.handed x l).mem = s.mem ∧ (s.handed x l).r.st = s.r.st := by
  unfold State.handed
  split
  · rename_i n hn
    exact absurd hn (h n)
  all_goals exact ⟨rfl, rfl⟩

theorem State.handed_yq (hw : x.whole = some l) : (s.handed x l).r.yq =
    if x.dest = .yq then s.r.yq ++ [l.toSc.setWidth 64] else s.r.yq := by
  unfold State.handed
  split
  · rename_i n hn
    rw [(State.sided_deliverPush hw _).yq, if_neg (by simp [hn])]
  · rename_i hn
    rw [if_pos hn]
    rfl
  · rename_i hn
    rw [if_neg (by simp [hn])]
    rfl
  · rename_i hn _
    rw [if_neg hn]
end

/-- Settles O44: one rule for each kind of destination (`deliver_vreg`, `deliver_sreg`, `deliver_mask`, `deliver_handed`); a
port's bytes, counts and full bits are `deliverPush_spec`, and the latches `State.latchTakes_latched`. -/
theorem deliveryWrites : Obligations.DeliveryWrites := by
  unfold Obligations.DeliveryWrites
  rintro s u x rfl
  refine ⟨fun n v => deliver_vreg, fun n w => deliver_sreg, fun n w => deliver_mask, fun l hw hd => ?_⟩
  have hu := deliver_handed (s := s) hw hd
  have hep : (deliver s x).r.ep = s.r.ep.latched x.latch l := by
    rw [hu, ← State.handed_ep (s := s) hw]
    rfl
  refine ⟨by simp [hep], by simp [hep], by simp [hep], State.latchTakes_latched rfl hep, fun h => ?_, ?_, fun id h => ?_,
    fun n r k h hr h7 hk hle => ?_⟩
  · obtain ⟨hmem, hst⟩ := State.handed_kept (s := s) (l := l) h
    rw [hu]
    exact ⟨hmem, fun n => congrArg (fun v : Vector StreamReg 32 => v[n]) hst⟩
  · rw [hu]
    refine (State.handed_yq hw).trans ?_
    cases l <;> rfl
  · rw [hu]
    unfold State.handed
    rw [h]
    cases l <;> exact ⟨rfl, rfl⟩
  · subst hr
    have hroom : k = l.room (s.stream n) := hk.trans (by cases l <;> rfl)
    obtain ⟨hlen, hvec, hsc⟩ := resultBytes_of_whole hw s.free (s.stream n)
    obtain ⟨hmem, hother, hown, hfull⟩ := deliverPush_spec hw h7 hroom hle
    have hpush : deliver s x = (deliverPush s n x).updE fun e => e.latched x.latch l := by
      rw [hu, State.handed, h]
    rw [hpush]
    refine ⟨⟨_, hlen.trans hroom.symm, ?_, hmem.byte⟩, fun a ha => ?_, hother, hown, hfull⟩
    · cases l with
      | vec v => exact hvec v rfl
      | sc w => exact hsc w rfl
    · refine (hmem.byte a).trans (Memory.byte_pokes_ne _ fun p hp he => ha ?_)
      exact he ▸ (List.of_mem_zip hp).1

end Sys2Proof.Machine
end

section
/-! PROOF. Operand selectors, pops and peeks (R125, R184, R186, R364): O52. -/

namespace Sys2Proof.Machine

/-! ### What is taken at a port (R125, R186) -/

@[simp] theorem StreamReg.length_byteKeys (r : StreamReg) (e : Nat) (c : BitVec 24) (o n : Nat) : (r.byteKeys e c o n).length = n := by
  simp [StreamReg.byteKeys]

@[simp] theorem Memory.length_gather (m : Memory) (ks : List Nat) : (m.gather ks).length = ks.length := by simp [Memory.gather]

theorem StreamReg.esize_le (r : StreamReg) : r.esize ≤ 256 := by
  unfold StreamReg.esize elemBytes
  split <;> omega

/-- The state after n bytes have been popped, or peeked, at a head. -/
def State.taken (s : State) (p : SReg × Fin 4) (n : Nat) (peek : Bool) : State := if peek then s else s.passHead p n

/-- The bytes at a head of the start of the core cycle. -/
def State.bytesAt (s : State) (p : SReg × Fin 4) (n : Nat) : List Byte :=
  s.mem.gather ((s.streamStart p.1).byteKeys s.entry (s.headNow p).count ((s.headNow p).pos.toNat * (s.streamStart p.1).esize) n)

theorem State.length_bytesAt (s : State) (p : SReg × Fin 4) (n : Nat) : (s.bytesAt p n).length = n := by simp [State.bytesAt]

theorem takeBytes_ok {s : State} {p : SReg × Fin 4} {n : Nat} (h : takenCause s (s.streamStart p.1) (s.headNow p) n = none) (peek : Bool) :
    takeBytes s p n peek = .ok (s.bytesAt p n, s.taken p n peek) := by
  unfold takeBytes
  dsimp only
  rw [h]
  rfl

theorem State.passHead_free (s : State) (p : SReg × Fin 4) (n : Nat) : (s.passHead p n).free = s.free := by
  unfold State.passHead
  dsimp only
  split <;> rfl

/-- Taking bytes at a head leaves it past them, and all else but full bits as it was. -/
theorem State.popped_passHead (s : State) (p : SReg × Fin 4) (n : Nat) : s.popped (s.passHead p n) p n := by
  refine ⟨s.passes_passHead p n, fun k hk => ?_, (s.sameBytes_passHead p n).byte, ?_⟩
  · unfold State.passHead
    dsimp only
    split
    · exact s.stream_updStart ..
    · rw [State.stream_release, if_neg hk, State.stream_updStart]
  · unfold State.passHead
    dsimp only
    split <;> rfl

/-- A peek leaves the state; a pop leaves the head past what it took. -/
theorem State.taken_cases (s : State) (p : SReg × Fin 4) (k n : Nat) :
    (0xA0 ≤ n → s.taken p k (decide (0xA0 ≤ n)) = s) ∧ (n < 0xA0 → s.popped (s.taken p k (decide (0xA0 ≤ n))) p k) := by
  refine ⟨fun h => ?_, fun h => ?_⟩
  · rw [decide_eq_true h]
    rfl
  · rw [decide_eq_false (by omega)]
    exact s.popped_passHead p k

/-- A port whose sink is E, of an open stream (R186). -/
theorem ePort_ok {s : State} {st m : SReg} {j : Fin 4} (hp : s.r.portOf st = (m, j)) (ho : (s.streamStart st).isOpen = true)
    (hs : (s.streamStart st).sink = 0) (hm : (s.streamStart m).isOpen = true) : ePort s st = .ok (m, j) := by
  unfold ePort
  rw [hp]
  exact bind_of_ok (need_of (by simp [ho, hs, hm])) _

/-- A pop or peek of bytes that are there. -/
theorem popAll_ok {s : State} {st : SReg} {p : SReg × Fin 4} {want k : Nat} (hp : ePort s st = .ok p)
    (hk : k = max want (s.streamStart p.1).esize) (ha : k ≤ availBytes (s.streamStart p.1) (s.headNow p))
    (hc : takenCause s (s.streamStart p.1) (s.headNow p) k = none) (peek : Bool) :
    popAll s st want peek = .ok ((s.bytesAt p k).take want, s.taken p k peek) := by
  subst hk
  unfold popAll
  rw [bind_of_ok hp]
  dsimp only
  rw [if_pos ha]
  exact bind_of_ok (takeBytes_ok hc peek) _

/-- An operand whose bytes are all there. -/
theorem popOperand_whole {s : State} {st : SReg} {p : SReg × Fin 4} {want k : Nat} (hp : ePort s st = .ok p)
    (hk : k = max want (s.streamStart p.1).esize) (ha : k ≤ availBytes (s.streamStart p.1) (s.headNow p))
    (hc : takenCause s (s.streamStart p.1) (s.headNow p) k = none) (zero peek : Bool) :
    popOperand s st want zero peek = .ok ((s.bytesAt p k).take want, s.taken p k peek) := by
  unfold popOperand
  rw [bind_of_ok hp]
  dsimp only
  rw [if_neg (by simp; omega)]
  exact popAll_ok hp hk ha hc peek

/-- An operand of an ended stream with fewer bytes left: those, and zero bytes in a vector, free ones in a scalar (log 80). -/
theorem popOperand_rest {s : State} {st : SReg} {p : SReg × Fin 4} {want k : Nat} (hp : ePort s st = .ok p)
    (hk : k = availBytes (s.streamStart p.1) (s.headNow p)) (he : (s.streamStart p.1).esize ≤ k) (hw : k < want)
    (hend : (s.streamStart p.1).ended = true) (hc : takenCause s (s.streamStart p.1) (s.headNow p) k = none) (zero peek : Bool) :
    popOperand s st want zero peek = .ok (if zero = true then (s.bytesAt p k ++ List.replicate (want - k) 0, s.taken p k peek)
      else (s.bytesAt p k ++ (List.range (want - k)).map (Config.openByte s.free), (s.taken p k peek).draw.2)) := by
  subst hk
  unfold popOperand
  rw [bind_of_ok hp]
  dsimp only
  rw [if_pos (by simp [hend, he, hw]), bind_of_ok (takeBytes_ok hc peek)]
  cases zero <;> rfl

/-! ### Selectors of a port (R184, R186) -/

/-- A port selector is no selector of the other ranges, and reads what is taken at the port. -/
theorem readV_port {s u : State} {c : BitVec 8} {bs : List Byte} (h1 : 0x80 ≤ c.toNat) (h2 : c.toNat < 0xC0)
    (h : popOperand s (Fin.ofNat 32 c.toNat) 256 true (decide (0xA0 ≤ c.toNat)) = .ok (bs, u)) :
    readV s c = .ok (lanesOfBytes bs, u) := by
  unfold readV
  dsimp only
  rw [if_neg (by omega), if_neg (by omega), if_neg (by omega), if_neg (by omega), if_pos h2, h]

theorem readS_port {s u : State} {c : BitVec 8} {bs : List Byte} (h1 : 0x80 ≤ c.toNat) (h2 : c.toNat < 0xC0)
    (h : popOperand s (Fin.ofNat 32 c.toNat) 4 false (decide (0xA0 ≤ c.toNat)) = .ok (bs, u)) :
    readS s c = .ok (le32 bs 0, u) := by
  unfold readS
  dsimp only
  rw [if_neg (by omega), if_neg (by omega), if_neg (by omega), if_neg (by omega), if_pos h2, h]

/-- The bytes of the number that some bytes hold. -/
theorem leBytes_leNat (bs : List Byte) : leBytes bs.length (leNat bs) = bs := by
  induction bs with
  | nil => rfl
  | cons b bs ih =>
    have hq : (b.toNat + 256 * leNat bs) / 256 = leNat bs := by have := b.isLt; omega
    have hr : BitVec.ofNat 8 (b.toNat + 256 * leNat bs) = b := by
      apply BitVec.eq_of_toNat_eq
      have := b.isLt
      simp
      omega
    rw [List.length_cons, leNat, leBytes, hq, hr, ih]

/-- The bytes of the word that four bytes hold. -/
theorem leBytes_le32 {bs : List Byte} (h : bs.length = 4) : leBytes 4 (le32 bs 0).toNat = bs := by
  unfold le32
  rw [List.drop_zero, List.take_of_length_le h.le, BitVec.toNat_ofNat, show 2 ^ 32 = 256 ^ 4 by norm_num, leBytes_mod]
  conv_lhs => rw [← h]
  exact leBytes_leNat bs

/-- A pop that draws a free value, with that choice put back, leaves its head past what it took; a peek draws alone. -/
theorem State.taken_draw_cases (s : State) (p : SReg × Fin 4) (k n : Nat) {u : State}
    (hu : u = (s.taken p k (decide (0xA0 ≤ n))).draw.2) :
    (0xA0 ≤ n → u = { s with free := u.free }) ∧ (n < 0xA0 → s.popped { u with free := s.free } p k) := by
  obtain ⟨hpeek, hpop⟩ := s.taken_cases p k n
  subst hu
  refine ⟨fun h => ?_, fun h => ?_⟩
  · rw [hpeek h]
    rfl
  · have hfree : { (s.taken p k (decide (0xA0 ≤ n))).draw.2 with free := s.free } = s.taken p k (decide (0xA0 ≤ n)) := by
      rw [decide_eq_false (by omega)]
      unfold State.draw State.taken
      rw [if_neg (by decide), ← s.passHead_free p k]
    rw [hfree]
    exact hpop h

/-- Settles O52: each range of selectors by its branch, a port by what is taken at it. -/
theorem operandSelectors : Obligations.OperandSelectors := by
  unfold Obligations.OperandSelectors
  rintro s c n rfl
  refine ⟨fun h => ?_, fun h1 h2 l hl => ?_, fun h1 h2 => ?_, fun h => ?_, fun h x xs u hx h0 hu => ?_, fun h hq => ?_, ?_⟩
  · constructor
    · simp [readV, h]
    · simp [readS, h]
  · have h0 : ¬ c.toNat < 0x40 := by omega
    refine ⟨fun v hv => ⟨?_, ?_⟩, fun w hw => ⟨?_, ?_⟩⟩
    · simp only [readV, if_neg h0, if_pos h2, hl, hv, Latch.toVec]
    · simp only [readS, if_neg h0, if_pos h2, hl, hv, Latch.toSc]
    · simp only [readV, if_neg h0, if_pos h2, hl, hw, Latch.toVec]
    · simp only [readS, if_neg h0, if_pos h2, hl, hw, Latch.toSc]
  · have h0 : ¬ c.toNat < 0x40 := by omega
    have h3 : ¬ c.toNat < 0x50 := by omega
    have h4 : ¬ c.toNat < 0x60 := by omega
    constructor
    · simp [readV, h0, h3, h4, h2]
    · simp [readS, h0, h3, h4, h2]
  · constructor
    · simp [readV, h]
    · simp [readS, h]
  · have hpop : popXq s = .ok (x, u) := by
      unfold popXq
      simp only [hx, if_neg h0, hu]
    constructor
    · simp [readV, h, hpop]
    · simp [readS, h, hpop]
  · simp [readV, h, popDrain, hq]
  · rintro h1 h2 st m j r hd rfl hp rfl rfl ho hs hm
    have hport := ePort_ok hp ho hs hm
    have hes := (s.streamStart m).esize_le
    refine ⟨fun ha hc => ?_, fun k hk he hw _ hend hc => ?_, fun k hk ha hc => ?_, fun k hk he hw hend hc => ?_⟩
    · refine ⟨_, ?_, s.taken_cases (m, j) 256 c.toNat⟩
      rw [readV_port h1 h2 (popOperand_whole hport (k := 256) (by dsimp only; omega) ha hc ..),
        List.take_of_length_le (s.length_bytesAt ..).le]
      rfl
    · refine ⟨_, ?_, s.taken_cases (m, j) k c.toNat⟩
      exact readV_port h1 h2 (popOperand_rest hport hk he hw hend hc true _)
    · refine ⟨_, ?_, s.taken_cases (m, j) k c.toNat⟩
      rw [readS_port h1 h2 (popOperand_whole hport hk ha hc ..)]
      simp only [le32, State.bytesAt, List.drop_zero, List.take_take, Nat.min_self]
    · refine ⟨_, _, readS_port h1 h2 (popOperand_rest hport hk he hw hend hc false _), ?_, s.taken_draw_cases (m, j) k c.toNat rfl⟩
      rw [leBytes_le32 (by simp [s.length_bytesAt]; omega)]
      exact List.take_left' (s.length_bytesAt ..)

end Sys2Proof.Machine
end

section
/-! PROOF. Memory accesses are resolved and issued, or trap (R104, R105, R235 to R242, R410 to R412): O17. -/

namespace Sys2Proof.Machine

/-! ### What an address names (R104, R105) -/

/-- Every address names a place, or takes the cause of the first step that it fails. -/
theorem formCheck_addressForm (s : State) (x : W64) (n : Nat) : AddressForm s x n := by
  unfold AddressForm
  refine ⟨fun h hn => ?_, fun h h2 => ⟨fun hn => ?_, fun hn => ?_⟩,
    fun h h2 h3 => ⟨fun hc => ?_, fun hc => ⟨fun hl => ⟨fun hn => ?_, fun hn => ?_⟩,
      fun hl => ⟨fun r hp => ⟨fun hn => ?_, fun hn => ?_⟩, fun hp => ?_⟩⟩⟩, fun h => ?_⟩
  · simp only [formCheck, h, if_pos hn]
  · simp only [formCheck, h, h2, if_pos hn, ne_eq, not_true_eq_false, if_false]
  · simp only [formCheck, h, h2, if_neg (Nat.not_le.2 hn), ne_eq, not_true_eq_false, if_false]
  · simp [formCheck, h, h2, h3, hc]
  · simp [formCheck, h, h2, h3, hl ▸ hc, hl, hn]
  · simp [formCheck, h, h2, h3, hl ▸ hc, hl, Nat.not_le.2 hn]
  · simp [formCheck, h, h2, h3, Nat.not_le.2 hc, hl, hp, hn]
  · simp [formCheck, h, h2, h3, Nat.not_le.2 hc, hl, hp, Nat.not_le.2 hn]
  · simp [formCheck, h, h2, h3, Nat.not_le.2 hc, hl, hp]
  · obtain ⟨h0, h1, h2⟩ | ⟨h0, h1⟩ | ⟨h0, h1⟩ | ⟨h0, h1⟩ := h
    · unfold formCheck
      dsimp only
      split
      · exact absurd ‹_› h0
      · exact absurd ‹_› h1
      · exact absurd ‹_› h2
      · rfl
    · simp only [formCheck, h0, if_neg (Nat.not_le.2 h1)]
    · simp only [formCheck, h0, if_pos h1]
    · have hbad : (bits x 55 48 ≠ 0 || bits x 31 22 ≠ 0) = true := by simpa using h1
      simp only [formCheck, h0, if_pos hbad]

/-! ### The walk and its leaf (R410 to R412) -/

/-- The part of an address that indexes a table, in numbers. -/
theorem levelIndex_eq {l : Nat} (h1 : 1 ≤ l) (h4 : l ≤ 4) (va : Nat) : levelIndex l va = va / pageSize l % tableEntries l := by
  interval_cases l <;> rfl

theorem tableSize_eq {l : Nat} (h1 : 1 ≤ l) (h4 : l ≤ 4) : tableSize l = 8 * tableEntries l := by
  interval_cases l <;> rfl

theorem two_pow_levelShift {l : Nat} (h1 : 1 ≤ l) (h4 : l ≤ 4) : 2 ^ levelShift l = pageSize l := by
  interval_cases l <;> rfl

/-- The model's test of an entry is the rule's. -/
theorem pteMalformed_iff {l : Nat} (h1 : 1 ≤ l) (h4 : l ≤ 4) (e : W64) : pteMalformed l e = true ↔ entryBad l e := by
  unfold pteMalformed entryBad pteAddr
  rw [two_pow_levelShift h1 h4]
  have ht : l ≠ 1 → tableSize (l - 1) = 8 * tableEntries (l - 1) := fun h => tableSize_eq (by omega) (by omega)
  by_cases hl : l = 1
  · cases hb : bit e 1 <;> simp [hl, or_assoc]
  · rw [ht hl]
    cases hb : bit e 1 <;> simp [hl, or_assoc]

/-- One level of a walk (R412). -/
theorem walk_walkStep (pkg : Package) (m : Memory) (ranges : List (Nat × Nat)) (va : W64) {l : Nat} (table : Nat) (h1 : 1 ≤ l)
    (h4 : l ≤ 4) : WalkStep pkg m ranges va l table := by
  rintro k e aux rfl rfl rfl
  have hbad := pteMalformed_iff h1 h4
  rw [← levelIndex_eq h1 h4, ← tableSize_eq h1 h4, ← two_pow_levelShift h1 h4]
  obtain ⟨j, rfl⟩ : ∃ j, l = j + 1 := ⟨l - 1, by omega⟩
  rw [walk]
  dsimp only
  refine ⟨fun h => ?_, fun h => ⟨fun hu => ?_, fun hu hr => ?_, fun hu hr => ⟨fun hv => ?_, fun hv hb => ?_, fun hv hb =>
    ⟨fun hf => ?_, fun hf => ?_⟩⟩⟩⟩
  · simp only [h, Bool.not_false, if_true]
    rfl
  · simp only [h, hu, Bool.not_true, Bool.false_eq_true, if_false, if_true]
    rfl
  · simp only [h, hu, Bool.not_true, Bool.false_eq_true, if_false, if_pos hr]
    rfl
  · simp only [h, hu, hr, hv, Bool.not_true, Bool.false_eq_true, if_false, ne_eq, not_true_eq_false, Bool.not_false, if_true]
    rfl
  · simp only [h, hu, hr, hv, Bool.not_true, Bool.false_eq_true, if_false, ne_eq, not_true_eq_false, (hbad _).2 hb, if_true]
    rfl
  · have hb' := Bool.eq_false_iff.2 (mt (hbad _).1 hb)
    simp only [h, hu, hr, hv, hb', hf, Bool.not_true, Bool.false_eq_true, if_false, ne_eq, not_true_eq_false, if_true]
    rfl
  · have hb' := Bool.eq_false_iff.2 (mt (hbad _).1 hb)
    simp only [h, hu, hr, hv, hb', hf, Bool.not_true, Bool.false_eq_true, if_false, ne_eq, not_true_eq_false, Nat.add_sub_cancel]
    rfl

/-- What a leaf gives (R410, R412). -/
theorem leafCheck_leafGives (pkg : Package) (p : Partition) (lf : Leaf) (va : W64) (r w : Bool) : LeafGives pkg p lf va r w := by
  rintro k c rfl rfl
  have hrights : ((r && !lf.read) || (w && !lf.write)) = true ↔ (r = true ∧ lf.read = false ∨ w = true ∧ lf.write = false) := by
    simp
  unfold leafCheck
  dsimp only
  refine ⟨fun h => if_pos (hrights.2 h), fun hr hw => ⟨fun h => ?_, fun hc h0 => ?_⟩⟩
  all_goals rw [if_neg (mt hrights.1 (by rintro (⟨h1, h2⟩ | ⟨h1, h2⟩) <;> simp_all))]
  · refine if_pos ?_
    unfold frameAllowed
    obtain h | ⟨h, h'⟩ := h
    · rw [if_neg (by omega)]
      simp
      omega
    · rw [if_pos h]
      obtain h' | h' | h' := h'
      · rw [decide_eq_false h']
        rfl
      · simp [h']
      · simp [h']
  · have hallowed : frameAllowed p lf.frame lf.size = true := by
      unfold frameAllowed
      split
      · obtain ⟨ha, hb, hd⟩ := h0 ‹_›
        rw [decide_eq_true ha, hb, hd]
        rfl
      · simp
        omega
    rw [hallowed]
    exact ⟨fun hu => by simp [hu], fun hu => by simp [hu]⟩

/-! ### A translation (R412, R413) -/

/-- A TLB entry that lets the access pass. -/
theorem translate_hit {m : Memory} {pkg : Package} {core : Nat} {part : Fin 8} {va : W64} {r w : Bool} {t : TlbEntry} {k : Nat}
    (ht : tlbFind pkg.tlb core part va.toNat r w = some t)
    (hk : leafCheck pkg pkg.parts[part] ⟨t.frame, t.base, t.size, t.read, t.write, 0⟩ va r w = .ok k) :
    translate m pkg core part va r w = .ok (k, pkg.tlb) := by
  simp only [translate, ht, hk]
  rfl

/-- No TLB entry: the walk and its leaf decide. -/
theorem translate_miss {m : Memory} {pkg : Package} {core : Nat} {part : Fin 8} {va : W64} {r w : Bool}
    (ht : tlbFind pkg.tlb core part va.toNat r w = none) :
    translate m pkg core part va r w =
      (walk pkg m (pkg.parts[part]).ranges va 4 (pkg.parts[part]).root).bind fun lf =>
        (leafCheck pkg pkg.parts[part] lf va r w).bind fun k => .ok (k, tlbFill pkg core part lf) := by
  simp only [translate, ht]
  cases walk pkg m (pkg.parts[part]).ranges va 4 (pkg.parts[part]).root with
  | error y => rfl
  | ok lf =>
    simp only [Except.bind]
    cases leafCheck pkg pkg.parts[part] lf va r w <;> rfl

/-! ### The keys of an access (R105, R237) -/

section
variable {s : State} {x : W64} {n : Nat} {r w : Bool}

/-- Whether the first page's translation stops the access. -/
theorem translateSpan_first {y : Trap} (hw : walkWaits s.mem s.pkg (coreOf s.entry) s.r.bind.part x r w = false)
    (h : translate s.mem s.pkg (coreOf s.entry) s.r.bind.part x r w = .error y) : translateSpan s x n r w = .error (.trap y) := by
  simp only [translateSpan, hw, h, Bool.false_eq_true, if_false]

variable {k : Nat} {ts : List TlbEntry} (hw : walkWaits s.mem s.pkg (coreOf s.entry) s.r.bind.part x r w = false)
  (h : translate s.mem s.pkg (coreOf s.entry) s.r.bind.part x r w = .ok (k, ts)) (hk : regionWaits s k = false)
include hw h

/-- An access within a page is translated once. -/
theorem translateSpan_one (hk : regionWaits s k = false) (hn : n ≤ 65536 - x.toNat % 65536) :
    translateSpan s x n r w = .ok (keysFrom k n, s.withTlb s.mem (keepPinned s s.pkg.tlb ts)) := by
  simp only [translateSpan, hw, h, hk, if_pos hn, Bool.false_eq_true, if_false]
  rfl

variable {a : Package} (hn : 65536 - x.toNat % 65536 < n) (ha : a = { s.pkg with tlb := keepPinned s s.pkg.tlb ts })
  (hw2 : walkWaits s.mem a (coreOf s.entry) s.r.bind.part (x + BitVec.ofNat 64 (65536 - x.toNat % 65536)) r w = false)
include hn ha hw2

/-- An access that crosses into a second page is translated there too, and may be stopped there. -/
theorem translateSpan_second {y : Trap}
    (h2 : translate s.mem a (coreOf s.entry) s.r.bind.part (x + BitVec.ofNat 64 (65536 - x.toNat % 65536)) r w = .error y) :
    translateSpan s x n r w = .error (.trap y) := by
  subst ha
  simp only [translateSpan, hw, h, if_neg (Nat.not_le.2 hn), hw2, h2, Bool.false_eq_true, if_false]

theorem translateSpan_two {k2 : Nat} {ts2 : List TlbEntry}
    (h2 : translate s.mem a (coreOf s.entry) s.r.bind.part (x + BitVec.ofNat 64 (65536 - x.toNat % 65536)) r w = .ok (k2, ts2))
    (hk : regionWaits s k = false) (hk2 : regionWaits s k2 = false) :
    ∃ u, translateSpan s x n r w = .ok
      (keysFrom k (65536 - x.toNat % 65536) ++ keysFrom k2 (n - (65536 - x.toNat % 65536)), u) := by
  subst ha
  simp only [translateSpan, hw, h, if_neg (Nat.not_le.2 hn), hw2, h2, hk, hk2, Bool.false_eq_true, if_false, Bool.or_self]
  exact ⟨_, rfl⟩

end

/-- An address of a page is resolved by its translation. -/
theorem resolve_virt {s : State} {x va : W64} {n : Nat} (h : formCheck s x n = .ok (.virt va)) (r w : Bool) :
    resolve s x n r w = translateSpan s va n r w := by
  simp only [resolve, h]

theorem resolve_error {s : State} {x : W64} {n : Nat} {y : Stop} (h : formCheck s x n = .error y) (r w : Bool) :
    resolve s x n r w = .error y := by
  simp only [resolve, h]

/-! ### The issue of an access (R237, R240 to R242) -/

/-- The body of an access: an atomic one is checked for its alignment first (R242). -/
def Access.issue (x : Access) (s : State) : Except Stop (State × Flow) :=
  if x.op.atomic = true then issueAtomic s x.addr x.op else issueAccess s x.addr x.len x.rd x.wr x.op

/-- The body of an instruction that makes an access. -/
def accessBody (i : Instr) (s : State) : Except Stop (State × Flow) :=
  match accessOf s i with
  | some x => x.issue s
  | none => .error .block

/-- An owned slot does not change what an instruction accesses. -/
theorem accessOf_slotted (s : State) (i : Instr) : accessOf s.slotted i = accessOf s i := by
  unfold accessOf
  simp only [State.slotted_areg]

/-- Every instruction that makes an access issues it. -/
theorem exec_access {i : Instr} {s : State} {x : Access} (h : accessOf s i = some x) :
    exec i s = apIssue i x.g s (accessBody i) := by
  unfold accessOf at h
  split at h
  case h_15 => cases h
  all_goals
    cases h
    rfl

theorem accessBody_slotted {i : Instr} {s : State} {x : Access} (h : accessOf s i = some x) :
    accessBody i s.slotted = x.issue s.slotted := by
  simp only [accessBody, accessOf_slotted, h]

/-- An access that its own issue stops, and one that it lets through. -/
theorem Access.issue_alignment {x : Access} {s : State} {z : Place} (ha : x.op.atomic = true) (hz : formCheck s x.addr 8 = .ok z)
    (h8 : x.addr.toNat % 8 ≠ 0) : x.issue s = .error (.trap ⟨0x43, x.addr, 0⟩) := by
  simp only [Access.issue, if_pos ha, issueAtomic, hz, if_pos h8]

theorem accessOf_atomic {i : Instr} {s : State} {x : Access} (h : accessOf s i = some x) (ha : x.op.atomic = true) :
    x.len = 8 ∧ x.rd = true ∧ x.wr = true := by
  unfold accessOf at h
  split at h
  case h_15 => cases h
  all_goals
    cases h
    simp [MemOp.atomic] at ha ⊢

/-- An atomic access at an aligned address is issued as any other. -/
theorem Access.issue_aligned {x : Access} {s : State} (hx : x.op.atomic = true → x.len = 8 ∧ x.rd = true ∧ x.wr = true)
    (h8 : x.op.atomic = true → x.addr.toNat % 8 = 0) : x.issue s = issueAccess s x.addr x.len x.rd x.wr x.op := by
  unfold Access.issue
  split
  next ha =>
    obtain ⟨hl, hr, hw⟩ := hx ha
    rw [hl, hr, hw]
    unfold issueAtomic
    cases hf : formCheck s x.addr 8 with
    | error e => simp only [issueAccess, resolve_error hf]
    | ok z => simp only [h8 ha, ne_eq, not_true_eq_false, if_false]
  next => rfl

/-- What an access that stops its context leaves (R14, R237). -/
theorem exec_access_trap {i : Instr} {s : State} {x : Access} {y : Trap} (h : accessOf s i = some x) (hr : s.apReady i x.g = true)
    (hy : x.issue s.slotted = .error (.trap y)) : exec i s = .next (s.slotted.park s.ap y) := by
  rw [exec_access h]
  exact apIssue_trap hr ((accessBody_slotted h).trans hy)

@[simp] theorem State.slotted_now (s : State) : s.slotted.now = s.now := by simp [State.now, State.clockOf]

/-- The context with a memory request of its own under way. -/
def State.asking (s : State) (q : MemReq) : State := s.updCtx s.ap fun c => { c with pending := some q }

/-- An access whose address resolves and that its memory serves is under way. -/
theorem exec_access_ok {i : Instr} {s u : State} {x : Access} {ks : List Nat} (h : accessOf s i = some x)
    (hr : s.apReady i x.g = true) (hk : resolve s.slotted x.addr x.len x.rd x.wr = .ok (ks, u)) (hu : unsupported x.op ks = false)
    (h8 : x.op.atomic = true → x.addr.toNat % 8 = 0) :
    exec i s = .next ((u.asking ⟨x.op, x.addr, ks, s.now + 1, [], false⟩).finish i .wait) := by
  rw [exec_access h]
  refine apIssue_ok hr ((accessBody_slotted h).trans ?_)
  rw [Access.issue_aligned (accessOf_atomic h) h8]
  unfold issueAccess
  rw [hk]
  dsimp only
  rw [if_neg (by simp [hu]), s.slotted_now]
  rfl

/-- What the issue of an access leaves: its context waits with the request, and the TLBs alone may have changed. -/
theorem State.finish_asking (s : State) (ts : List TlbEntry) (q : MemReq) (i : Instr) {t : State}
    (ht : t = ((s.slotted.withTlb s.slotted.mem ts).asking q).finish i .wait) :
    s.allRegsKept t ∧ t.place = s.place ∧ (t.ctx s.ap).pending = some q ∧
      t = { s.takeIssue t with pkg := { s.pkg with tlb := t.pkg.tlb } } := by
  subst ht
  refine ⟨⟨fun n => ?_, fun n => ?_⟩, ?_, ?_, ?_⟩
  · rw [State.finish_areg, ← s.slotted_areg]
    cases h : s.ap <;> simp [State.asking, State.areg, State.withTlb, State.updCtx, State.ctx, h, ApCtx.get]
  · rw [State.finish_apred, ← s.slotted_apred]
    cases h : s.ap <;> simp [State.asking, State.apred, State.withTlb, State.updCtx, State.ctx, h, ApCtx.pred]
  all_goals
    unfold State.finish State.issued State.slotted State.withTlb State.asking
    cases h : s.ap <;> simp [State.takeIssue, State.place, State.updCtx, State.updR, State.move, State.ctx, h, ApCtx.flow, ApCtx.counted,
      ApCtx.slot, TaskState.noting]

/-- An owned slot does not move the cores of a launch. -/
theorem State.peer_slotted_bind (s : State) (n : Nat) : (s.slotted.peer n).map Residency.bind = (s.peer n).map Residency.bind := by
  have ho : s.slotted.others = s.others := by simp [State.slotted]
  have hs : s.slotted.r.stage = s.r.stage := by simp [State.slotted]
  simp only [State.peer, State.all, List.find?_cons, ho, s.slotted_r_bind, s.slotted_r_start, hs]
  split
  · simp
  · rfl

/-- Whether the slot has passed does not matter to the form of an address. -/
theorem formCheck_slotted (s : State) (x : W64) (n : Nat) : formCheck s.slotted x n = formCheck s x n := by
  have hpeer := s.peer_slotted_bind (bits x 47 32)
  unfold formCheck
  dsimp only
  rw [s.slotted_r_bind, s.slotted_entry]
  cases h1 : s.slotted.peer (bits x 47 32) <;> cases h2 : s.peer (bits x 47 32) <;> simp [h1, h2] at hpeer ⊢
  rw [hpeer]

/-- What an exception of the issuing context leaves (R14, R418). -/
theorem State.slotted_park_left (s : State) (y : Trap) {t : State} (ht : t = s.slotted.park s.ap y) :
    ∃ z, (t.ctx s.ap).status = .parked y.cause ∧ t.place = s.place ∧ s.allRegsKept t ∧
      (t.ctx s.ap).pending = (s.ctx s.ap).pending ∧ t.mem = s.mem ∧ z ∈ t.part.faults ∧ z.cause = y.cause ∧ z.kind = 0 ∧
      z.addr = y.addr ∧ z.aux = y.aux ∧ z.pc = (s.ctx s.ap).pc := by
  subst ht
  refine ⟨_, ?_, s.slotted_park_place y, s.slotted_park_regs y, ?_, ?_, s.slotted.park_mem s.ap y, rfl, rfl, rfl, rfl, ?_⟩
  · rw [State.park_ctx]
  · rw [State.park_ctx, State.slotted_ctx]
    rfl
  · rw [State.park_memory, State.slotted_mem]
  · rw [State.slotted_ctx]
    rfl

/-- Settles O17: the form of an address, each level of the walk, its leaf, the translation of one and of two pages, and the two
ways in which an access is issued. -/
theorem accessesIssue : Obligations.AccessesIssue := by
  unfold Obligations.AccessesIssue
  refine ⟨formCheck_addressForm, fun pkg m ranges va l table h1 h4 => walk_walkStep pkg m ranges va table h1 h4, leafCheck_leafGives,
    fun m pkg core part va r w => ⟨fun t k => translate_hit,
      fun ht => ⟨fun y hy => ?_, fun lf hlf => ⟨fun y hy => ?_, fun k hk => ?_⟩⟩⟩,
    ?_, ?_, ?_⟩
  · rw [translate_miss ht, hy]
    rfl
  · rw [translate_miss ht, hlf, Except.bind, hy]
    rfl
  · rw [translate_miss ht, hlf, Except.bind, hk]
    exact ⟨_, rfl⟩
  · rintro s x n room r w rfl
    refine ⟨fun e o h => by simp only [resolve, h], fun y h => resolve_error h r w, fun h hw => ?_⟩
    rw [resolve_virt h]
    refine ⟨fun y hy => translateSpan_first hw hy, fun k ts hk hr => ⟨fun hn => ⟨_, translateSpan_one hw hk hr hn, rfl⟩,
      fun hn a ha hw2 => ⟨fun y hy => translateSpan_second hw hk hn ha hw2 hy, fun k2 ts2 hk2 hr2 => ?_⟩⟩⟩
    obtain ⟨u, hu⟩ := translateSpan_two hw hk hn ha hw2 hk2 hr hr2
    exact ⟨u, hu, translateSpan_eq hu⟩
  · intro i s x y hx hr h
    have hstop : x.issue s.slotted = .error (.trap y) := by
      obtain ⟨hres, h8⟩ | ⟨ha, h8, rfl, z, hz⟩ | ⟨h8, rfl, ks, u, hres, hu⟩ := h
      · simp only [Access.issue_aligned (accessOf_atomic hx) h8, issueAccess, hres]
      · exact Access.issue_alignment ha ((formCheck_slotted ..).trans hz) h8
      · simp only [Access.issue_aligned (accessOf_atomic hx) h8, issueAccess, hres, hu, if_true]
    obtain ⟨z, hz⟩ := s.slotted_park_left y rfl
    exact ⟨_, z, exec_access_trap hx hr hstop, hz⟩
  · intro i s u x ks hx hr hk hu h8
    have hpend := exec_access_ok hx hr hk hu h8
    rw [resolve_eq hk] at hpend
    obtain ⟨hregs, hplace, hreq, hframe⟩ := s.finish_asking u.pkg.tlb ⟨x.op, x.addr, ks, s.now + 1, [], false⟩ i rfl
    exact ⟨_, hpend, hregs, hplace, hreq, hframe⟩

end Sys2Proof.Machine
end

section
/-! PROOF. Ingest: frames that arrive at a channel (R130, R131, R447). -/

namespace Sys2Proof.Machine

/-! ### The stream behind a channel -/

/-- What changes a side of a stream of the residency in focus is done in place. -/
theorem State.within_entry {s : State} {f : State → State} (h : s.sided (f s)) : s.within s.entry f = f s :=
  s.within_own h.entry

/-- What arrives at the channel of a stream of the residency in focus is done there. -/
theorem atChannel_entry {s : State} {c : Fin 32} {n : SReg} (hc : ingestAt s c = some (s.entry, n)) {f : SReg → State → State}
    (h : s.sided (f n s)) : atChannel s c f = f n s := by
  unfold atChannel
  rw [hc]
  exact State.within_entry h

/-! ### The parts of a frame's begin -/

/-- The ingest side of stream n after the first write of a frame, before the frame is admitted or discarded. -/
def Ingest.begun (g : Ingest) (tick : W64) : Ingest := { g with inFrame := true, seq := g.seq + 1, tick := tick }

/-- The state in which a frame has begun and is not yet admitted or discarded. -/
def State.frameBegun (s : State) (n : SReg) : State := s.updSt n fun r => { r with ing := r.ing.begun s.tick }

theorem State.stream_frameBegun (s : State) (n : SReg) :
    (s.frameBegun n).stream n = { s.stream n with ing := (s.stream n).ing.begun s.tick } := State.stream_updSt_same ..

theorem State.sided_frameBegun (s : State) (n : SReg) : s.sided (s.frameBegun n) := State.sided_updSt ..

theorem State.roomStart_frameBegun (s : State) (n : SReg) : (s.frameBegun n).roomStart n = s.roomStart n := by
  unfold State.roomStart
  rw [s.stream_frameBegun]
  rfl

theorem ingestHeld_frameBegun (s : State) (n : SReg) : ingestHeld (s.frameBegun n) n = ingestHeld s n := by
  unfold ingestHeld
  rw [s.stream_frameBegun]
  rfl

/-- With no frame left to commit, a first write begins a frame, which is admitted, or drops older ones first, or is discarded. -/
theorem beginFrame_eq {s : State} {n : SReg} (hin : (s.stream n).ing.inFrame = false) (heof : (s.stream n).ing.eof = none) :
    beginFrame s n =
      if ingestHeld s n then discardFrame (s.frameBegun n) n
      else if (s.stream n).frameLen ≤ s.roomStart n then admitFrame (s.frameBegun n) n true
      else if (s.stream n).frameLen ≤ ((s.frameBegun n).dropBy n (s.streamStart n).frameUnit (s.stream n).frameLen).roomStart n then
        admitFrame ((s.frameBegun n).dropBy n (s.streamStart n).frameUnit (s.stream n).frameLen) n false
      else (discardFrame ((s.frameBegun n).dropBy n (s.streamStart n).frameUnit (s.stream n).frameLen) n).noteDrop n := by
  have hcommit : commitFrame s n = s := by
    unfold commitFrame
    dsimp only
    rw [heof]
  have hlen : ((s.frameBegun n).stream n).frameLen = (s.stream n).frameLen := by rw [s.stream_frameBegun]; rfl
  rw [← ingestHeld_frameBegun, ← s.roomStart_frameBegun, ← hlen]
  unfold beginFrame
  rw [hin, hcommit]
  rfl

theorem State.stream_noteDrop (s : State) (n : SReg) : (s.noteDrop n).stream n = { s.stream n with dropping := true } := by
  unfold State.noteDrop
  split
  next h =>
    conv_rhs => rw [← h]
  next =>
    rw [State.stream_updSt_same, State.event_eq]
    rfl

theorem stream_discardFrame (s : State) (n : SReg) : (discardFrame s n).stream n = { s.stream n with
    drops := (s.stream n).drops + 1
    ing := { (s.stream n).ing with admitted := false, gap := (s.stream n).ing.gap + 1 } } := State.stream_updSt_same ..

theorem sided_discardFrame (s : State) (n : SReg) : s.sided (discardFrame s n) := State.sided_updSt ..

theorem stream_admitFrame (s : State) (n : SReg) (clean : Bool) : (admitFrame s n clean).stream n = { s.stream n with
    claimed := (s.stream n).claimed + BitVec.ofNat 24 (s.stream n).frameLen
    dropping := (s.stream n).dropping && !clean
    ing := { (s.stream n).ing with admitted := true } } := State.stream_updSt_same ..

theorem sided_admitFrame (s : State) (n : SReg) (clean : Bool) : s.sided (admitFrame s n clean) := rfl

/-- Only the bytes of an admitted frame's granules are cleared. -/
theorem keptBut_admitFrame (s : State) (n : SReg) (clean : Bool) : s.mem.keptBut (admitFrame s n clean).mem
    ((s.stream n).byteKeys s.entry (s.stream n).committed 0 (64 * (s.stream n).frameLen)) := fun k hk => by
  refine Memory.byte_pokes_ne _ fun p hp he => hk ?_
  obtain ⟨x, hx, rfl⟩ := List.mem_map.1 hp
  exact he ▸ hx

/-- With another policy nothing is dropped. -/
theorem State.dropBy_of_ne {s : State} {n : SReg} (h : (s.stream n).policy ≠ 2) (unit : BitVec 24 → DropUnit) (g : Nat) :
    s.dropBy n unit g = s := by
  unfold State.dropBy
  dsimp only
  rw [if_pos (by simp [h])]

/-! ### INGEST_FRAME_START -/

section
variable {s : State} {c : Fin 32} {n : SReg} (hc : ingestAt s c = some (s.entry, n))
include hc

theorem exec_ingestFrameStart {t : State} (ht : beginFrame s n = t) (h : s.sided t) :
    exec (.ingestFrameStart c) s = .next t := by
  have hx : exec (.ingestFrameStart c) s = execIngestFrameStart c s := rfl
  rw [hx, execIngestFrameStart, hc]
  dsimp only
  rw [State.within_entry (f := fun t => beginFrame t n) (ht ▸ h), ht]

variable (hin : (s.stream n).ing.inFrame = false) (heof : (s.stream n).ing.eof = none)
include hin heof

/-- A frame for which there is room is admitted. -/
theorem ingestFrameStart_admits (hh : ingestHeld s n = false) (hroom : (s.stream n).frameLen ≤ s.roomStart n) :
    ∃ t, exec (.ingestFrameStart c) s = .next t ∧ t.stream n = { s.stream n with
        claimed := (s.stream n).claimed + BitVec.ofNat 24 (s.stream n).frameLen, dropping := false
        ing := { (s.stream n).ing with
          inFrame := true, admitted := true, seq := (s.stream n).ing.seq + 1, tick := s.tick } } ∧
      s.mem.keptBut t.mem ((s.stream n).byteKeys s.entry (s.stream n).committed 0 (64 * (s.stream n).frameLen)) ∧ s.ctxsKept t := by
  have hb : beginFrame s n = admitFrame (s.frameBegun n) n true := by
    rw [beginFrame_eq hin heof, if_neg (by simp [hh]), if_pos hroom]
  have hside := (s.sided_frameBegun n).trans (sided_admitFrame _ n true)
  refine ⟨_, exec_ingestFrameStart hc hb hside, ?_, ?_, hside.ctxs⟩
  · rw [stream_admitFrame, s.stream_frameBegun, Bool.not_true, Bool.and_false]
    rfl
  · have hk := keptBut_admitFrame (s.frameBegun n) n true
    rw [s.stream_frameBegun] at hk
    exact hk

/-- A frame for which there is no room, with a policy that drops nothing, is discarded. -/
theorem ingestFrameStart_discards (hh : ingestHeld s n = false) (hp : (s.stream n).policy ≠ 2)
    (hroom : s.roomStart n < (s.stream n).frameLen) :
    ∃ t, exec (.ingestFrameStart c) s = .next t ∧ (t.stream n).drops = (s.stream n).drops + 1 ∧
      (t.stream n).ing = { (s.stream n).ing with
        inFrame := true, admitted := false, seq := (s.stream n).ing.seq + 1, gap := (s.stream n).ing.gap + 1, tick := s.tick } ∧
      (t.stream n).claimed = (s.stream n).claimed ∧ s.ctxsKept t := by
  have hpol : ((s.frameBegun n).stream n).policy ≠ 2 := by rw [s.stream_frameBegun]; exact hp
  have hb : beginFrame s n = (discardFrame (s.frameBegun n) n).noteDrop n := by
    rw [beginFrame_eq hin heof, if_neg (by simp [hh]), if_neg (by omega), State.dropBy_of_ne hpol, s.roomStart_frameBegun,
      if_neg (by omega)]
  have hside := ((s.sided_frameBegun n).trans (sided_discardFrame _ n)).trans (State.claims_noteDrop _ n).sided
  refine ⟨_, exec_ingestFrameStart hc hb hside, ?_, ?_, ?_, hside.ctxs⟩
  · rw [State.stream_noteDrop, stream_discardFrame, s.stream_frameBegun]
  · rw [State.stream_noteDrop, stream_discardFrame, s.stream_frameBegun]
    rfl
  · rw [State.stream_noteDrop, stream_discardFrame, s.stream_frameBegun]

/-- A held channel discards the frame. -/
theorem ingestFrameStart_held (hh : ingestHeld s n = true) :
    ∃ t, exec (.ingestFrameStart c) s = .next t ∧ t.mem = s.mem ∧ s.ctxsKept t ∧
      t.stream n = { s.stream n with
        drops := (s.stream n).drops + 1
        ing := { (s.stream n).ing with
          inFrame := true, admitted := false, seq := (s.stream n).ing.seq + 1, gap := (s.stream n).ing.gap + 1, tick := s.tick } } := by
  have hb : beginFrame s n = discardFrame (s.frameBegun n) n := by rw [beginFrame_eq hin heof, if_pos hh]
  have hside := (s.sided_frameBegun n).trans (sided_discardFrame _ n)
  refine ⟨_, exec_ingestFrameStart hc hb hside, rfl, hside.ctxs, ?_⟩
  rw [stream_discardFrame, s.stream_frameBegun]
  rfl

/-- Under DROP_OLDEST older frames make room, or the frame is discarded all the same. -/
theorem ingestFrameStart_drops {s1 : State} (hh : ingestHeld s n = false) (hroom : s.roomStart n < (s.stream n).frameLen)
    (h1 : s1 = (s.frameBegun n).dropBy n (s.streamStart n).frameUnit (s.stream n).frameLen) :
    ((s.stream n).frameLen ≤ s1.roomStart n →
      ∃ t, exec (.ingestFrameStart c) s = .next t ∧ s.ctxsKept t ∧ t.stream n = { s1.stream n with
          claimed := (s1.stream n).claimed + BitVec.ofNat 24 (s.stream n).frameLen
          ing := { (s1.stream n).ing with admitted := true } } ∧
        s1.mem.keptBut t.mem ((s1.stream n).byteKeys s.entry (s1.stream n).committed 0 (64 * (s.stream n).frameLen))) ∧
    (s1.roomStart n < (s.stream n).frameLen →
      ∃ t, exec (.ingestFrameStart c) s = .next t ∧ s.ctxsKept t ∧ (t.stream n).drops = (s1.stream n).drops + 1 ∧
        (t.stream n).claimed = (s1.stream n).claimed ∧
        (t.stream n).ing = { (s1.stream n).ing with admitted := false, gap := (s1.stream n).ing.gap + 1 }) := by
  have hclaims : (s.frameBegun n).claims n s1 := h1 ▸ State.claims_dropBy ..
  have hlen : (s1.stream n).frameLen = (s.stream n).frameLen := by
    rw [hclaims.stream, s.stream_frameBegun]
    rfl
  have hside := (s.sided_frameBegun n).trans hclaims.sided
  have hb := beginFrame_eq hin heof
  rw [if_neg (by simp [hh]), if_neg (by omega), ← h1] at hb
  refine ⟨fun hr => ?_, fun hr => ?_⟩
  · rw [if_pos hr] at hb
    have hside' := hside.trans (sided_admitFrame s1 n false)
    refine ⟨_, exec_ingestFrameStart hc hb hside', hside'.ctxs, ?_, ?_⟩
    · rw [stream_admitFrame, hlen]
      simp
    · have hk := keptBut_admitFrame s1 n false
      rw [hlen, hside.entry] at hk
      exact hk
  · rw [if_neg (by omega)] at hb
    have hside' := (hside.trans (sided_discardFrame s1 n)).trans (State.claims_noteDrop _ n).sided
    refine ⟨_, exec_ingestFrameStart hc hb hside', hside'.ctxs, ?_, ?_, ?_⟩
    all_goals
      rw [State.stream_noteDrop, stream_discardFrame]

end

/-! ### Payload, end and commit of a frame -/

/-- The state with the header of a frame of stream n written, whose EOF carried len. -/
def State.headed (s : State) (n : SReg) (len : W64) : State :=
  { s with mem := s.mem.pokes (((s.stream n).byteKeys s.entry (s.stream n).committed 0 64).zip ((s.stream n).header len)) }

theorem State.stream_headed (s : State) (n k : SReg) (len : W64) : (s.headed n len).stream k = s.stream k := s.stream_withMem ..
theorem State.sided_withMem (s : State) (m : Memory) : s.sided { s with mem := m } := rfl
theorem State.sided_headed (s : State) (n : SReg) (len : W64) : s.sided (s.headed n len) := s.sided_withMem _

/-- What the commit of a frame's granules leaves of its ingest side. -/
def Ingest.delivered (g : Ingest) : Ingest := { g with eof := none, admitted := false, gap := 0 }

theorem State.sided_updIng (s : State) (n : SReg) (f : Ingest → Ingest) : s.sided (s.updIng n f) := s.sided_updSt ..

theorem commitFrame_eq {s : State} {n : SReg} {len : W64} (heof : (s.stream n).ing.eof = some len) :
    commitFrame s n = ((s.headed n len).commit n (64 * (s.stream n).frameLen)).updIng n Ingest.delivered := by
  unfold commitFrame
  dsimp only
  rw [heof]
  rfl

section
variable {s : State} {c : Fin 32} {n : SReg} (hc : ingestAt s c = some (s.entry, n))
include hc

/-- The bytes of a payload write land in the granules of the frame behind its header. -/
theorem ingestPayloadWrite_lands {off : BitVec 20} {data : List Byte} (hin : (s.stream n).ing.inFrame = true)
    (hadm : (s.stream n).ing.admitted = true) (hd : data ≠ []) (hoff : off.toNat < 0xFFFF0) :
    ∃ t ks, exec (.ingestPayloadWrite c off data) s = .next t ∧
      ks = ((payloadBytes (s.stream n) off.toNat data).map fun x =>
        ((s.stream n).byteKey s.entry (s.stream n).committed (64 + x.1), x.2)) ∧
      t = { s with mem := s.mem.pokes ks } ∧ s.mem.keptBut t.mem (ks.map Prod.fst) := by
  have hpay : payloadWrite n off.toNat data s = { s with mem := s.mem.pokes ((payloadBytes (s.stream n) off.toNat data).map fun x =>
      ((s.stream n).byteKey s.entry (s.stream n).committed (64 + x.1), x.2)) } := by
    have hb : beginFrame s n = s := if_pos hin
    unfold payloadWrite
    rw [if_neg (by simp [hd]; omega)]
    dsimp only
    rw [hb, hadm]
    rfl
  refine ⟨_, _, ?_, rfl, rfl, fun k hk => Memory.byte_pokes_ne _ fun p hp he => hk (he ▸ List.mem_map_of_mem hp)⟩
  have hx : exec (.ingestPayloadWrite c off data) s = execIngestPayloadWrite c off data s := rfl
  rw [hx, execIngestPayloadWrite, atChannel_entry hc (f := fun n => payloadWrite n off.toNat data) (by rw [hpay]; rfl), hpay]

/-- The end of a frame is noted where the frame was admitted. -/
theorem ingestEof_ends (len : W64) (hin : (s.stream n).ing.inFrame = true) :
    ∃ t, exec (.ingestEof c len) s = .next t ∧ t.mem = s.mem ∧ s.ctxsKept t ∧
      t.stream n = { s.stream n with ing := { (s.stream n).ing with
        inFrame := false, eof := if (s.stream n).ing.admitted = true then some len else none } } := by
  have hend : frameEof n len s = s.updIng n fun g => { g with inFrame := false, eof := if g.admitted then some len else none } := by
    have hb : beginFrame s n = s := if_pos hin
    unfold frameEof
    rw [hb]
  have hside : s.sided (frameEof n len s) := by
    rw [hend]
    exact State.sided_updSt ..
  have hx : exec (.ingestEof c len) s = execIngestEof c len s := rfl
  refine ⟨frameEof n len s, ?_, ?_, hside.ctxs, ?_⟩
  · rw [hx, execIngestEof, atChannel_entry hc (f := fun n => frameEof n len) hside]
  · rw [hend]
    rfl
  · rw [hend]
    exact State.stream_updSt_same ..

/-- A frame whose end has come is committed whole, its header written (log 108). -/
theorem ingestFrameCommit_commits {len : W64} (heof : (s.stream n).ing.eof = some len) (hlen : (s.stream n).frameLen ≠ 0) :
    ∃ t, exec (.ingestFrameCommit c) s = .next t ∧ s.ctxsKept t ∧
      (t.stream n).committed = ((s.stream n).commitBytes (64 * (s.stream n).frameLen)).committed ∧
      (t.stream n).ing = { (s.stream n).ing with eof := none, admitted := false, gap := 0 } ∧
      ∀ a, t.mem.byte a = (s.mem.pokes (((s.stream n).byteKeys s.entry (s.stream n).committed 0 64).zip
        ((s.stream n).header len))).byte a := by
  obtain ⟨s1, hs1⟩ : ∃ s1, s1 = s.headed n len := ⟨_, rfl⟩
  have hst : s1.stream n = s.stream n := by rw [hs1, s.stream_headed]
  have hcommit := commitFrame_eq heof
  rw [← hs1] at hcommit
  have hside : s.sided (commitFrame s n) := by
    have h1 : s.sided s1 := hs1 ▸ s.sided_headed n len
    rw [hcommit]
    exact (h1.trans (s1.sided_commit ..)).trans (State.sided_updIng ..)
  have hstream := s1.stream_commit n (k := 64 * (s.stream n).frameLen) (Nat.mul_ne_zero (by decide) hlen)
  have hx : exec (.ingestFrameCommit c) s = execIngestFrameCommit c s := rfl
  refine ⟨commitFrame s n, ?_, hside.ctxs, ?_, ?_, fun a => ?_⟩
  · rw [hx, execIngestFrameCommit, atChannel_entry hc (f := fun n t => commitFrame t n) hside]
  · rw [hcommit, State.updIng, State.stream_updSt_same, hstream, hst]
  · rw [hcommit, State.updIng, State.stream_updSt_same, hstream, hst, StreamReg.commitBytes_kept]
    rfl
  · rw [hcommit]
    refine ((s1.sameBytes_commit n _).byte a).trans ?_
    rw [hs1]
    rfl

end

end Sys2Proof.Machine
end

section
/-! PROOF. Accesses from outside, links, reset and bring-up (R388, R434, R438, R443, R446, R448, R451, R452, R455 to R460). -/

namespace Sys2Proof.Machine

/-! ### Writes from outside (R446, R453) -/

/-- A write of which no granule written in part fails its check is done whole. -/
theorem inboundWrite_ok {m : Memory} {k : Nat} {bs : List Byte}
    (h : ∀ g ∈ partialOf (keysFrom k bs.length), m.readCause [g] = none) :
    inboundWrite m k bs = (m.write (keysFrom k bs.length) bs, false) := by
  have hfailed : (partialOf (keysFrom k bs.length)).filter (fun g => (m.readCause [g]).isSome) = [] :=
    List.filter_eq_nil_iff.2 fun g hg => by simp [h g hg]
  have hlen : (keysFrom k bs.length).length = bs.length := length_keysFrom ..
  simp [inboundWrite, hfailed, List.map_fst_zip hlen.le, List.map_snd_zip hlen.ge]

theorem windowWrite_refused {s : State} {m : Master} {off : BitVec 39} {data : List Byte}
    (h : windowAllowed s m off.toNat data.length = false) : exec (.hbmWindowWrite m off data) s = .next s :=
  if_pos (by simp [h])

/-- An allowed write through BAR 4. -/
theorem windowWrite_allowed {s : State} {m : Master} {off : BitVec 39} {data : List Byte}
    (h : windowAllowed s m off.toNat data.length = true) (hw : windowWaits s off.toNat = false)
    (hp : ∀ g ∈ partialOf (keysFrom off.toNat data.length), s.mem.readCause [g] = none) :
    exec (.hbmWindowWrite m off data) s = .next { s with mem := s.mem.write (keysFrom off.toNat data.length) data } := by
  have hx : exec (.hbmWindowWrite m off data) s = execHbmWindowWrite m off data s := rfl
  rw [hx, execHbmWindowWrite, if_neg (by simp [h, hw]), inboundWrite_ok hp]
  rfl

/-- An allowed read through BAR 4 of bytes that pass their checks. -/
theorem windowRead_allowed {s : State} {m : Master} {k n : Nat} (h : windowAllowed s m k n = true)
    (hc : s.mem.readCause (granulesOf (keysFrom k n)) = none) (hb : s.pkg.boot.state ≠ 10) :
    windowRead s m k n = .data (s.mem.bytes k n) := by
  simp [windowRead, hb, h, hc]

theorem exec_windowRead {s : State} {m : Master} {off : BitVec 39} {len : BitVec 13} {bs : List Byte}
    (hw : windowWaits s off.toNat = false) (hr : windowRead s m off.toNat len.toNat = .data bs) :
    exec (.hbmWindowRead m off len) s = .next s := by
  have hx : exec (.hbmWindowRead m off len) s = execHbmWindowRead m off len s := rfl
  rw [hx, execHbmWindowRead, if_neg (by simp [hw]), hr, if_neg (by simp)]

/-! ### A peer's access (R451 to R453) -/

theorem byte_foldl_setChk (c : Nat → Check) (gs : List Nat) (m : Memory) (b : Nat) :
    (gs.foldl (fun m g => m.setChk g (c g)) m).byte b = m.byte b := by
  induction gs generalizing m with
  | nil => rfl
  | cons g gs ih => rw [List.foldl_cons, ih, Memory.byte_setChk]

/-- A peer's copy writes its bytes; the check values that it brings are free (log 8). -/
theorem byte_peerWrite {s : State} {a : Nat} {bs : List Byte}
    (h : ∀ g ∈ partialOf (keysFrom a bs.length), s.mem.readCause [g] = none) (b : Nat) :
    (peerWrite s a bs).byte b = (s.mem.write (keysFrom a bs.length) bs).byte b := by
  unfold peerWrite
  rw [inboundWrite_ok h]
  exact byte_foldl_setChk (fun g => peerCheck s.free (64 * g)) ..

section
variable {s : State} {k : Fin 8} {off : BitVec 45} {data : List Byte} {a : Nat}
  (ha : exportKey s k off.toNat data.length = some a) (hw : windowWaits s a = false)
include ha hw

theorem peerAccess_reads : exec (.peerAccess k off data 0) s = .next s := by
  have hx (j : Fin 3) : exec (.peerAccess k off data j) s = execPeerAccess k off data j s := rfl
  rw [hx, execPeerAccess, ha]
  dsimp only
  rw [if_neg (by simp [hw])]
  rfl

theorem peerAccess_writes : exec (.peerAccess k off data 1) s = .next { s with mem := peerWrite s a data, free := s.free + 1 } := by
  have hx (j : Fin 3) : exec (.peerAccess k off data j) s = execPeerAccess k off data j s := rfl
  rw [hx, execPeerAccess, ha]
  dsimp only
  rw [if_neg (by simp [hw])]
  rfl

theorem peerAccess_releases (h64 : a % 64 = 0) (hc : s.mem.readCause [a / 64] = none) :
    exec (.peerAccess k off data 2) s = .next { s with mem := s.mem.bumped a } := by
  have hx (j : Fin 3) : exec (.peerAccess k off data j) s = execPeerAccess k off data j s := rfl
  rw [hx, execPeerAccess, ha]
  dsimp only
  rw [if_neg (by simp [hw])]
  simp only [h64, hc, decide_true, Option.isNone_none, Bool.and_self, if_true, State.bump, State.devWrite, Memory.bumped,
    length_leBytes]

end

/-! ### Links (R388, R452) -/

/-- A Slavamus port after its link has changed. -/
def SlvPort.changed (x : SlvPort) (up retrained : Bool) (lanes : BitVec 4) (pserial : W32) (pport : BitVec 3) : SlvPort :=
  { x with
    up := up, lanes := if lanes ≤ 8 then lanes else 8
    retrain := if retrained && x.retrain != 255 then x.retrain + 1 else x.retrain, pserial := pserial, pport := pport }

theorem SlvPort.lanes_changed (x : SlvPort) (up ret : Bool) (lanes : BitVec 4) (ps : W32) (pp : BitVec 3) :
    (x.changed up ret lanes ps pp).lanes.toNat = min lanes.toNat 8 := by
  unfold SlvPort.changed
  dsimp only
  split <;> rename_i h <;> simp [BitVec.le_def] at h ⊢ <;> omega

theorem SlvPort.retrain_changed (x : SlvPort) (up ret : Bool) (lanes : BitVec 4) (ps : W32) (pp : BitVec 3) :
    (x.changed up ret lanes ps pp).retrain.toNat = min (x.retrain.toNat + ret.toNat) 255 := by
  have hlt := x.retrain.isLt
  unfold SlvPort.changed
  cases ret
  · simp
    omega
  · by_cases h : x.retrain = 255
    · simp [h]
    · have hne : x.retrain.toNat ≠ 255 := fun hc => h (BitVec.eq_of_toNat_eq hc)
      have hone : (x.retrain + 1).toNat = x.retrain.toNat + 1 := by
        rw [BitVec.toNat_add, show (1 : Byte).toNat = 1 from rfl]
        exact Nat.mod_eq_of_lt (by omega)
      dsimp only
      rw [if_pos (by simpa using h), hone]
      exact (Nat.min_eq_left (by omega)).symm

/-! ### Package reset and the thermal trip (R455, R459, R460) -/

theorem exec_pkgReset {s : State} {m : Master} {v : W64} (hm : m = 3 ∨ s.byOwner m = true) (hv : v = 0x5253) :
    exec (.pkgReset m v) s = .next s.resetPackage :=
  if_pos (by subst hv; simpa using hm)

theorem exec_pkgReset_other {s : State} {m : Master} {v : W64} (hv : v ≠ 0x5253) : exec (.pkgReset m v) s = .next s :=
  if_neg (by rw [beq_eq_false_iff_ne.2 hv, Bool.and_false]; exact Bool.false_ne_true)

/-- The value at a key of a list from which keys have been left out. -/
theorem kvGet_filter {α : Type} (d : α) (l : List (Nat × α)) (g : Nat → Bool) (k : Nat) :
    kvGet d (l.filter fun p => g p.1) k = if g k = true then kvGet d l k else d := by
  induction l with
  | nil => simp [kvGet]
  | cons p l ih =>
    obtain ⟨j, v⟩ := p
    rw [List.filter_cons, kvGet]
    by_cases hj : j = k
    · subst hj
      cases h : g j <;> simp [h, kvGet, ih]
    · rw [if_neg hj, ← ih]
      split
      · rw [kvGet, if_neg hj]
      · rfl

/-- What the loss of the package's power leaves of memory: that of the hosts. -/
theorem Memory.byte_hostOnly (m : Memory) (a : Nat) : m.hostOnly.byte a = if storeOf a = .host then m.byte a else 0 := by
  have hcells : m.hostOnly.cells = m.cells.filter fun p => storeOf p.1 == .host := rfl
  rw [Memory.byte, hcells, kvGet_filter _ _ fun k => storeOf k == .host]
  by_cases h : storeOf a = .host
  · rw [if_pos (beq_iff_eq.2 h), if_pos h, Memory.blank_host (beq_iff_eq.2 h)]
    rfl
  · rw [if_neg (by simpa using h), if_neg h]
    rfl

/-! ### Bring-up (R443, R455 to R458) -/

theorem exec_fuses {s : State} {ser : W32} {step : Byte} {spares : List (Fin 416)} (h : s.pkg.boot.state = 0) :
    exec (.fuses ser step spares) s = .next { s with pkg := { s.pkg with
      boot := { s.pkg.boot with state := 1, serial := ser, stepping := step, spares := spares }
      slots := disableSpares s.pkg.slots spares } } :=
  if_neg (by simp [h])

theorem getElem_disableSpares (slots : Vector Slot 416) (spares : List (Fin 416)) (e : Fin 416) :
    (disableSpares slots spares)[e] =
      if (∃ x ∈ spares, coreOf x.val = coreOf e.val) then { slots[e] with state := 4 } else slots[e] := by
  unfold disableSpares
  refine (Vector.getElem_ofFn e.isLt).trans (if_congr ?_ rfl rfl)
  simp only [List.any_eq_true, beq_iff_eq]

theorem exec_clocks {s : State} (b : Bool) (h : s.pkg.boot.state = 1) :
    exec (.clocks b) s = .next (s.updBoot fun x => { x with state := 2, clock := if b = true then 3200 else 1200 }) :=
  if_neg (by simp [h])

theorem exec_memoryTraining {s : State} (b : BitVec 8) (h : s.pkg.boot.state = 2) :
    exec (.memoryTraining b) s = .next (s.updBoot fun x => { x with state := 3, trained := b }) :=
  if_neg (by simp [h])

theorem exec_meshAndBridge {s : State} (b : BitVec 2) (l : W16) (h : s.pkg.boot.state = 3) :
    exec (.meshAndBridge b l) s = .next (s.updBoot fun x => { x with
      state := 4, die0 := b.getLsbD 0, die1 := b.getLsbD 1, bridge := l }) :=
  if_neg (by simp [h])

/-- The bring-up state that a good firmware image leads to. -/
def Boot.served (b : Boot) : Boot :=
  { b with state := b.service, die1 := b.service = 6, clock := if b.service = 7 then 1200 else b.clock }

/-- The region tables that a good firmware image installs. -/
def Boot.tables (b : Boot) : Vector RegionTable 8 := Vector.ofFn fun k => if stackServed b k then .reset else .empty

theorem exec_firmware_good {s : State} (h : s.pkg.boot.state = 5) :
    exec (.firmware true) s = .next { s with pkg := { s.pkg with
      boot := s.pkg.boot.served, owner := 0, regions := s.pkg.boot.served.tables } } := by
  have hx : exec (.firmware true) s = execFirmware true s := rfl
  rw [hx, execFirmware]
  dsimp only
  rw [if_neg (by simp [h]), if_neg (by simp [h]), if_neg (by simp)]
  rfl

theorem exec_firmware_bad {s : State} (h : s.pkg.boot.state = 5) :
    exec (.firmware false) s = .next (s.updBoot fun x => { x with state := 8 }) := by
  have hx : exec (.firmware false) s = execFirmware false s := rfl
  rw [hx, execFirmware]
  dsimp only
  rw [if_neg (by simp [h]), if_neg (by simp [h]), if_pos (by simp)]

/-- The state that follows, by what has passed. -/
theorem Boot.service_eq (b : Boot) : b.service =
    (if b.die0 = false then 9 else if b.die1 = true ∧ b.trained = 0xFF ∧ b.bridge = 0xFFFF ∧ b.clock = 3200 then 6
      else if b.trained.getLsbD 0 = true then 7 else 9) := by
  have hfull : (b.die1 && b.trained == BitVec.allOnes 8 && b.bridge == BitVec.allOnes 16 && b.clock == 3200) = true ↔
      (b.die1 = true ∧ b.trained = 0xFF ∧ b.bridge = 0xFFFF ∧ b.clock = 3200) := by
    rw [show BitVec.allOnes 8 = 0xFF from rfl, show BitVec.allOnes 16 = 0xFFFF from rfl, Bool.and_eq_true, Bool.and_eq_true,
      Bool.and_eq_true, beq_iff_eq, beq_iff_eq, beq_iff_eq, and_assoc, and_assoc]
  rw [← if_congr hfull rfl rfl]
  unfold Boot.service bit
  cases b.die0 <;> rfl

/-- Full service needs every stack. -/
theorem Boot.trained_of_full {b : Boot} (h : b.service = 6) : b.trained = 0xFF := by
  rw [Boot.service_eq] at h
  split at h
  · cases h
  split at h
  next h6 => exact h6.2.1
  next => split at h <;> cases h

/-- In full service every stack has its reset table. -/
theorem Boot.tables_full {b : Boot} (h : b.service = 6) (k : Fin 8) : b.served.tables[k] = .reset := by
  have ht : b.served.trained = 0xFF := b.trained_of_full h
  have hd : b.served.die1 = true := decide_eq_true h
  have hs : b.served.state = 6 := h
  have hk : bit 255#8 k.val = true := by revert k; decide
  simp [Boot.tables, stackServed, ht, hd, hs, hk]

/-- In reduced service the first stack alone has. -/
theorem Boot.tables_reduced {b : Boot} (h : b.service = 7) (k : Fin 8) :
    b.served.tables[k] = if k = 0 then .reset else .empty := by
  have hd : b.served.die1 = false := decide_eq_false (by omega)
  have hs : b.served.state = 7 := h
  simp [Boot.tables, stackServed, hd, hs]

/-! ### Firmware images and bridge links (R438, R458) -/

theorem startImage_starts {s : State} {m : Master} (h : s.pkg.boot.state = 8 ∧ m ≠ 0 ∨ s.inService = true ∧ s.byOwner m = true)
    (hb : s.pkg.boot.fwBusy = false) (hi : fwImageOk s.pkg.boot = true) (flash : Bool) :
    startImage s m flash = s.updBoot fun x => { x with fwBusy := true, fwFlash := flash } := by
  have hw : fwWriter s m = true := by simpa [fwWriter] using h
  simp [startImage, hw, hb, hi]

theorem exec_fwVerifyDone {s : State} {x : BitVec 8} (hb : s.pkg.boot.fwBusy = true)
    (hx : x = 0 ∨ x = 2 ∨ x = 3 ∨ x = 4 ∧ s.pkg.boot.fwFlash = true) :
    exec (.fwVerifyDone x) s = .next (s.updBoot fun b => { b with
      fwBusy := false, fwResult := x, state := if b.state = 8 ∧ x = 0 then 5 else b.state }) := by
  have he : exec (.fwVerifyDone x) s = execFwVerifyDone x s := rfl
  have hok : (x == 0 || x == 2 || x == 3 || (x == 4 && s.pkg.boot.fwFlash)) = true := by simpa [or_assoc] using hx
  rw [he, execFwVerifyDone]
  rw [if_neg (by rw [hb, hok]; decide)]
  simp [State.updBoot]

section
variable {s : State} {l : Fin 16} (hs : s.inService = true) (hl : s.pkg.boot.bridge.getLsbD l.val = true)
  (hr : s.pkg.boot.retired.getLsbD l.val = false)
include hs hl hr

theorem retire_free : ¬ (!s.inService || !bit s.pkg.boot.bridge l.val || bit s.pkg.boot.retired l.val) = true := by
  rw [hs, show bit s.pkg.boot.bridge l.val = true from hl, show bit s.pkg.boot.retired l.val = false from hr]
  decide

theorem bridgeLinkRetire_link (hg : s.pkg.boot.retired ||| BitVec.ofNat 16 (2 ^ l.val) ≠ s.pkg.boot.bridge) :
    exec (.bridgeLinkRetire l) s =
      .next (s.updBoot fun x => { x with retired := s.pkg.boot.retired ||| BitVec.ofNat 16 (2 ^ l.val) }) := by
  have he : exec (.bridgeLinkRetire l) s = execBridgeLinkRetire l s := rfl
  rw [he, execBridgeLinkRetire]
  dsimp only
  rw [if_neg (retire_free hs hl hr), if_pos (by simpa using hg)]

theorem bridgeLinkRetire_last (hg : s.pkg.boot.retired ||| BitVec.ofNat 16 (2 ^ l.val) = s.pkg.boot.bridge) :
    exec (.bridgeLinkRetire l) s =
      .next ((s.updBoot fun x => { x with retired := s.pkg.boot.retired ||| BitVec.ofNat 16 (2 ^ l.val), state := 10 }).updFw
        fun x => { x with freeze := 0xFF }) := by
  have he : exec (.bridgeLinkRetire l) s = execBridgeLinkRetire l s := rfl
  rw [he, execBridgeLinkRetire]
  dsimp only
  rw [if_neg (retire_free hs hl hr), if_neg (by simpa using hg)]
  rfl

end

end Sys2Proof.Machine
end

section
/-! PROOF. Ingest, accesses from outside, links and bring-up (R130, R388, R434, R438, R443, R446 to R448, R451 to R460): O60. -/

namespace Sys2Proof.Machine

/-- Settles O60: ingest, the windows, the links, reset and bring-up, each by the lemma about its event. -/
theorem outsideWorldCompletes : Obligations.OutsideWorldCompletes := by
  unfold Obligations.OutsideWorldCompletes
  refine ⟨?_, ?_, ?_, ?_, ?_, ?_⟩
  · rintro s c n r hc rfl
    refine ⟨fun hin heof hh hroom => ingestFrameStart_admits hc hin heof hh hroom,
      fun hin heof hh hp hroom => ingestFrameStart_discards hc hin heof hh hp hroom,
      fun hin heof hh => ingestFrameStart_held hc hin heof hh,
      fun s1 hin heof hh _ hroom h1 => ingestFrameStart_drops hc hin heof hh hroom h1,
      fun off data hin hadm hd hoff => ingestPayloadWrite_lands hc hin hadm hd hoff,
      fun len hin => ingestEof_ends hc len hin, fun len heof hlen => ingestFrameCommit_commits hc heof hlen⟩
  · rintro s m off data ks rfl hw
    exact ⟨fun h hp => ⟨_, windowWrite_allowed h hw hp, rfl, s.mem.keptBut_write _ _⟩, windowWrite_refused,
      fun len h hc hb => ⟨exec_windowRead hw (windowRead_allowed h hc hb), windowRead_allowed h hc hb⟩⟩
  · intro s k off data a ha hw
    refine ⟨peerAccess_reads ha hw, fun hp => ⟨_, peerAccess_writes ha hw, rfl, byte_peerWrite hp, fun b hb => ?_⟩,
      fun h64 hm hc => ⟨_, peerAccess_releases ha hw h64 hc, Memory.word64_write hm .., rfl, s.mem.keptBut_write _ _⟩⟩
    exact (byte_peerWrite hp b).trans (Memory.byte_write_ne _ hb)
  · intro s port k up ret lanes ps pp
    refine ⟨rfl, s.updSlv k fun x => x.changed up ret lanes ps pp, rfl, ?_⟩
    have hk : ((s.updSlv k fun x => x.changed up ret lanes ps pp).pkg.links.slv[k]) = (s.pkg.links.slv[k]).changed up ret lanes ps pp :=
      Vector.getElem_set_self k.isLt
    rw [hk]
    exact ⟨rfl, SlvPort.lanes_changed .., rfl, SlvPort.retrain_changed .., rfl⟩
  · intro s
    exact ⟨⟨s.resetPackage, rfl, rfl, rfl, rfl, rfl, rfl, fun m v hm hv => exec_pkgReset hm hv⟩, fun m v hv => exec_pkgReset_other hv,
      _, rfl, rfl, rfl, rfl, rfl, rfl, rfl, s.mem.byte_hostOnly⟩
  · intro s
    refine ⟨fun ser step spares h => ⟨_, exec_fuses h, rfl, getElem_disableSpares _ _, rfl⟩, fun b h => exec_clocks b h,
      fun b h => exec_memoryTraining b h, fun b l h => exec_meshAndBridge b l h, fun h good => if_pos (by simp [h]),
      fun h => ⟨exec_firmware_bad h, _, exec_firmware_good h, rfl, s.pkg.boot.service_eq,
        fun h6 => Boot.tables_full h6, fun h7 => ?_, rfl⟩,
      fun h => if_neg (by simp [h]), fun m h hb hi => ?_, fun x hb hx => exec_fwVerifyDone hb hx, ?_⟩
    · exact ⟨if_pos h7, decide_eq_false (by have h7' : s.pkg.boot.service = 7 := h7; omega), Boot.tables_reduced h7⟩
    · exact ⟨congrArg _ (startImage_starts h hb hi false), congrArg _ (startImage_starts h hb hi true)⟩
    · rintro l gone hs hl hr rfl
      exact ⟨bridgeLinkRetire_link hs hl hr, bridgeLinkRetire_last hs hl hr⟩

end Sys2Proof.Machine
end

section
/-! PROOF. Actions on fault records (R421 to R423, R276, R281, R338). -/

namespace Sys2Proof.Machine

/-! ### A record of the residency in focus -/

theorem State.focusOn_own {s t : State} (h : t.r.bind.e = s.r.bind.e) : t.focusOn s.r.bind.e = t := if_pos h

section
variable {s : State} {p : Fin 8} {r : FaultRec} {act : State → FaultRec → Option State}

theorem State.pendingHere.recordPending (h : s.pendingHere r = true) (hk : r.kind ≠ 4) (hi : r.item ≠ .gone) :
    recordPending s p r = true := by
  simp only [State.pendingHere, Bool.and_eq_true, beq_iff_eq] at h
  obtain ⟨⟨⟨hq, he⟩, hl⟩, hr⟩ := h
  obtain ⟨n, hn⟩ := Option.isSome_iff_exists.1 hq
  have hhome : recordHome s r = some s.r := by
    simp only [recordHome, State.all]
    rw [List.find?_cons_of_pos]
    have he' : s.r.bind.e = r.entry := he.symm
    simp [he', hl, hr]
  simp [Machine.recordPending, hn, hk, hhome, hi]

theorem State.pendingHere.focusOn (h : s.pendingHere r = true) : s.focusOn r.entry = s := by
  simp only [State.pendingHere, Bool.and_eq_true, beq_iff_eq] at h
  obtain ⟨⟨⟨-, he⟩, -⟩, -⟩ := h
  exact if_pos he.symm

variable (h : s.pendingHere r = true) (hk : r.kind ≠ 4) (hi : r.item ≠ .gone)
include h hk hi

/-- An action that a pending record takes is done on the residency in focus, and the record is serviced. -/
theorem serviceRecord_done {t : State} (ha : act s r = some t) :
    serviceRecord s p (some r) act = ((t.focusOn s.r.bind.e).dropRecord p r, 0) := by
  simp [serviceRecord, State.pendingHere.recordPending (p := p) h hk hi, State.pendingHere.focusOn h, ha, hk]

/-- One that it does not take changes nothing. -/
theorem serviceRecord_refused (ha : act s r = none) : serviceRecord s p (some r) act = (s, 2) := by
  simp [serviceRecord, State.pendingHere.recordPending (p := p) h hk hi, State.pendingHere.focusOn h, ha]

end

/-- A notice is serviced when it is consumed, by no action (R422). -/
theorem serviceRecord_notice {s t : State} {p : Fin 8} {r : FaultRec} {act : State → FaultRec → Option State} (hk : r.kind = 4)
    (hp : recordPending s p r = true) (ha : act (s.focusOn r.entry) r = some t) : serviceRecord s p (some r) act = (s, 0) := by
  simp [serviceRecord, hp, ha, hk]

/-! ### The two ways to act on it (R421, R423) -/

section
variable {s u : State} {p : Fin 8} {r : FaultRec} {res : Byte}

/-- A service request whose fields name a record is answered with the result of its action. -/
theorem serveRecord_answers {op : Byte} {other : Bool} {waits : W64 → Option FaultRec → Bool}
    {act : W64 → State → FaultRec → Option State} {k : Nat} {f : List Byte} (hn : nextRequest s p = some (k, f))
    (ho : byteAt f 0 = op) (h0 : le64 f 24 = 0)
    (hr : ((s.pkg.parts[p]).faults.find? fun x => x.seq == some (le64 f 8)) = some r) (hw : waits (le64 f 16) (some r) = false)
    (hs : serviceRecord s p (some r) (act (le64 f 16)) = (u, res)) :
    serveRecord s p op other waits act = .next (answer u p k f res) := by
  unfold serveRecord
  rw [hn]
  dsimp only
  rw [ho, if_pos (beq_self_eq_true op), h0, hr, if_neg (by decide), hw, hs]
  rfl

/-- FAULT_ACT acts on the record that its token names. -/
theorem faultAct_acts {token : W32} {act : State → FaultRec → Option State} (ht : recordByToken s token = (p, some r))
    (hs : serviceRecord s p (some r) act = (u, res)) :
    faultAct s token act = { u with pkg := { u.pkg with fw := { u.pkg.fw with faultRes := res } } } := by
  simp [faultAct, ht, hs, setResult]

theorem answeredBy_resume (hs : serviceRecord s p (some r) actResume = (u, res)) :
    s.answeredBy p r 1 0 (.resume p) .faultActResume res u :=
  ⟨fun _ _ hn ho h0 _ hr => serveRecord_answers (waits := fun _ _ => false) (act := fun _ => actResume) hn ho h0 hr rfl hs,
    fun _ _ ht => congrArg _ (faultAct_acts ht hs)⟩

theorem answeredBy_redirect {arg : W64} (hs : serviceRecord s p (some r) (fun t r => actRedirect t r arg) = (u, res)) :
    s.answeredBy p r 2 arg (.redirect p) .faultActRedirect res u := by
  refine ⟨fun k f hn ho h0 harg hr => ?_, fun token harg ht => ?_⟩
  · obtain rfl := harg (by decide)
    exact serveRecord_answers (waits := fun _ _ => false) (act := fun arg t r => actRedirect t r arg) hn ho h0 hr rfl hs
  · obtain rfl := harg (by decide)
    exact congrArg _ (faultAct_acts ht hs)

theorem answeredBy_cancel {arg : W64} (hw : cancelWaits s p (some r) (arg.setWidth 8) = false)
    (hs : serviceRecord s p (some r) (fun t r => actCancel t r (arg.setWidth 8)) = (u, res)) :
    s.answeredBy p r 3 arg (.cancel p) .faultActCancel res u := by
  refine ⟨fun k f hn ho h0 harg hr => ?_, fun token harg ht => ?_⟩
  · obtain rfl := harg (by decide)
    exact serveRecord_answers (waits := fun arg r => cancelWaits s p r (arg.setWidth 8))
      (act := fun arg t r => actCancel t r (arg.setWidth 8)) hn ho h0 hr hw hs
  · obtain rfl := harg (by decide)
    have hwait : faultActWaits s token = false := by
      unfold faultActWaits
      rw [ht]
      exact hw
    exact congrArg _ ((if_neg (by simp [hwait])).trans (faultAct_acts ht hs))

end

/-! ### Actions that a record of the residency in focus takes -/

section
variable {s t : State} {p : Fin 8} {r : FaultRec} (h : s.pendingHere r = true) (hk : r.kind ≠ 4) (hi : r.item ≠ .gone)
include h hk hi

/-- RESUME, of a record that takes it. -/
theorem servicedBy_resume (ha : actResume s r = some t) (hb : t.r.bind.e = s.r.bind.e) :
    s.servicedBy p r 1 0 (.resume p) .faultActResume (t.dropRecord p r) :=
  answeredBy_resume (by rw [serviceRecord_done h hk hi ha, State.focusOn_own hb])

/-- REDIRECT. -/
theorem servicedBy_redirect {arg : W64} (ha : actRedirect s r arg = some t) (hb : t.r.bind.e = s.r.bind.e) :
    s.servicedBy p r 2 arg (.redirect p) .faultActRedirect (t.dropRecord p r) :=
  answeredBy_redirect (by rw [serviceRecord_done (act := fun t r => actRedirect t r arg) h hk hi ha, State.focusOn_own hb])

/-- CANCEL, of one that waits for no region table. -/
theorem servicedBy_cancel {arg : W64} (hw : cancelWaits s p (some r) (arg.setWidth 8) = false)
    (ha : actCancel s r (arg.setWidth 8) = some t) :
    s.servicedBy p r 3 arg (.cancel p) .faultActCancel ((t.focusOn s.entry).dropRecord p r) :=
  answeredBy_cancel hw (serviceRecord_done (act := fun t r => actCancel t r (arg.setWidth 8)) h hk hi ha)

/-- CANCEL that leaves the focus where it is. -/
theorem servicedBy_cancel_here {arg : W64} (hw : cancelWaits s p (some r) (arg.setWidth 8) = false)
    (ha : actCancel s r (arg.setWidth 8) = some t) (hb : t.r.bind.e = s.r.bind.e) :
    s.servicedBy p r 3 arg (.cancel p) .faultActCancel (t.dropRecord p r) := by
  have hc := servicedBy_cancel h hk hi hw ha
  rwa [show s.entry = s.r.bind.e from rfl, State.focusOn_own hb] at hc

end

/-- Only the CANCEL of a chain channel's record can wait. -/
theorem cancelWaits_of_ne {s : State} {p : Fin 8} {r : FaultRec} (h : ¬ (r.kind = 1 ∧ ∃ ch, r.item = .chain ch)) (status : Cause) :
    cancelWaits s p (some r) status = false := by
  unfold cancelWaits
  dsimp only
  split
  next hk hi => exact absurd ⟨hk, _, hi⟩ h
  next => rw [Bool.and_false]

/-! ### RESUME of the contexts (R165, R250, R328, R422) -/

/-- Whether a cause is one of TRAP and ETRAP, past which a context goes on (R250, R328). -/
def FaultRec.byTrap (r : FaultRec) : Bool := 0x70 ≤ r.cause && r.cause ≤ 0x77

theorem FaultRec.byTrap_iff (r : FaultRec) : r.byTrap = true ↔ 0x70 ≤ r.cause ∧ r.cause ≤ 0x77 := by simp [FaultRec.byTrap]

/-- A context that is resumed, past its instruction where that was a trap. -/
def ApCtx.goesOn (x : ApCtx) (trap : Bool) : ApCtx := { (if trap then x.flow .next else x) with status := .running }

theorem resumeAp_eq {s : State} {c : ApId} {r : FaultRec} (h : r.cause ≠ 0x60) :
    resumeAp s c r = s.updCtx c fun x => x.goesOn r.byTrap := if_pos h

/-- bovr with the field of one group cleared (R165). -/
def bovrWithout (j : Nat) (w : W64) : W64 := w &&& ~~~(BitVec.ofNat 64 (0xFFFF * 2 ^ (16 * j)))

/-- A resumed BAR.WAIT clears its group's overruns. -/
theorem resumeAp_barWait {s : State} {c : ApId} {r : FaultRec} {g : Guard} {n : Byte} {j : Nat} (hc : r.cause = 0x60)
    (hw : decodeABytes (leBytes 4 r.detail.toNat) = .ok (.barWait g n)) (hj : s.r.groupSlot n.toNat = some j) :
    resumeAp s c r = (s.updCtx c fun x => { x with status := .running }).updR fun x => { x with
      bovr := bovrWithout j x.bovr, start := { x.start with bovr := bovrWithout j x.start.bovr } } := by
  have hj' (f : ApCtx → ApCtx) : (s.updCtx c f).r.groupSlot n.toNat = some j := by rw [← hj]; cases c <;> rfl
  unfold resumeAp
  dsimp only
  rw [if_neg (by simp [hc]), hw, hc]
  dsimp only
  rw [hj']
  rfl

/-- Field i of bovr with that of group j cleared. -/
theorem bovrWithout_field (w : W64) (j : Nat) (i : Fin 4) : bits (bovrWithout j w) (16 * i.val + 15) (16 * i.val) =
    if i.val = j then 0 else bits w (16 * i.val + 15) (16 * i.val) := by
  have hmask (k : Nat) (hk : k < 16) : (BitVec.ofNat 64 (0xFFFF * 2 ^ (16 * j))).getLsbD (16 * i.val + k) = decide (i.val = j) := by
    rw [BitVec.getLsbD_ofNat, show 0xFFFF = 2 ^ 16 - 1 from rfl, Nat.testBit_mul_two_pow, Nat.testBit_two_pow_sub_one]
    by_cases hij : i.val = j
    · simp [hij]
      omega
    · simp [hij]
      omega
  have hfield : (bovrWithout j w).extractLsb' (16 * i.val) 16 = if i.val = j then 0 else w.extractLsb' (16 * i.val) 16 := by
    apply BitVec.eq_of_getLsbD_eq
    intro k hk
    rw [BitVec.getLsbD_extractLsb', bovrWithout, BitVec.getLsbD_and, BitVec.getLsbD_not, hmask k hk]
    split
    · rename_i hij
      simp [hij]
    · rename_i hij
      simp [hij, hk]
      omega
  rw [bits_field, bits_field, hfield]
  split <;> rfl

/-- E resumed after anything but an ETRAP runs where it stands. -/
theorem resumeEp_plain {s : State} {r : FaultRec} (h : r.byTrap = false) :
    resumeEp s r = s.updE fun e => { e with status := .running } := by
  have h' : (decide (0x70 ≤ r.cause) && decide (r.cause ≤ 0x77)) = false := h
  unfold resumeEp
  rw [h']
  rfl

/-- E resumed after an ETRAP is past it, at no group switch (log 119). -/
theorem resumeEp_trap {s : State} {r : FaultRec} (h : r.byTrap = true) : resumeEp s r = s.updE fun e =>
    { e.moveTo s.eRequest (e.pc.toNat + 8) with status := .running, atSwitch := false } := by
  have h' : (decide (0x70 ≤ r.cause) && decide (r.cause ≤ 0x77)) = true := h
  unfold resumeEp
  rw [h']
  rfl

/-- Where a resumed ETRAP leaves E, its latches and its masks. -/
theorem resumeEp_left {s u : State} {r : FaultRec} (h : r.byTrap = true) (hu : u.r = (resumeEp s r).r) :
    u.ePlace = s.ePast 8 ∧ (u.r.ep.b = s.r.ep.b ∨ u.r.ep.b = Vector.replicate 16 none) ∧
      ∀ n, s.plainMask n → u.r.ep.m[n] = s.r.ep.m[n] := by
  rw [resumeEp_trap h] at hu
  unfold State.ePlace
  rw [hu]
  refine ⟨rfl, ?_, fun n hn => eAdvance_plain _ _ _ _ hn⟩
  show (if _ then _ else _) = _ ∨ (if _ then _ else _) = _
  split
  · exact .inr rfl
  · exact .inl rfl

/-! ### CANCEL of a chain record (R281) -/

theorem writeStatus_r {s w : State} {x : W64} {bs : List Byte} (h : writeStatus s x bs = .ok w) : w.r = s.r := by
  unfold writeStatus at h
  obtain ⟨⟨ks, s1⟩, hk, h⟩ := ok_of_bind h
  dsimp only at h
  split at h
  · cases h
  · cases h
    exact (resolve_kept hk).2.1

/-- The bytes of the record that a chain channel stands at, kept since its check or read again. -/
def State.recordBytes (s : State) (ch : Fin 8) (f : List Byte) : Prop :=
  (s.r.chains[ch]).record ≠ [] ∧ f = (s.r.chains[ch]).record ∨
    (s.r.chains[ch]).record = [] ∧ ∃ ks s1, resolve s (s.r.chains[ch]).ptr 64 true false = .ok (ks, s1) ∧ f = s1.mem.gather ks

theorem standingRecord_some {s : State} {ch : Fin 8} {f : List Byte} (h : s.recordBytes ch f) : standingRecord s ch = some f := by
  unfold standingRecord
  dsimp only
  obtain ⟨hr, rfl⟩ | ⟨hr, ks, s1, hk, rfl⟩ := h
  · rw [if_neg (by simpa using hr)]
  · rw [if_pos (by simpa using hr), hk]

theorem chainEnd_ok {s w : State} {ch : Fin 8} {f : List Byte} {status : Cause}
    (h : writeStatus s (s.r.chains[ch]).ptr [byteAt f 28 &&& 0xFE, status] = .ok w) :
    chainEnd s ch f status = .ok (w.updR fun x => { x with
      chains := x.chains.set ch ⟨(s.r.chains[ch]).ptr, false, [], none, 0, false⟩ }).settle := by
  unfold chainEnd
  rw [bind_of_ok h]
  have hp : (w.r.chains[ch]).ptr = (s.r.chains[ch]).ptr := by rw [writeStatus_r h]
  rw [← hp]
  rfl

/-- A record whose status write meets nothing waits for no region table. -/
theorem cancelWaits_chain {s : State} {p : Fin 8} {r : FaultRec} {ch : Fin 8} {f : List Byte} {status : Cause} {u : State}
    (hs : s.focusOn r.entry = s) (hi : r.item = .chain ch) (hf : s.recordBytes ch f) (hu : chainEnd s ch f status = .ok u) :
    cancelWaits s p (some r) status = false := by
  have hread : (s.r.chains[ch]).record = [] → ∃ y, resolve s (s.r.chains[ch]).ptr 64 true false = .ok y := by
    obtain ⟨hr, -⟩ | ⟨-, ks, s1, hk, -⟩ := hf
    · exact fun h => absurd h hr
    · exact fun _ => ⟨_, hk⟩
  unfold cancelWaits
  dsimp only
  split
  next ch' _ hi' =>
    cases hi.symm.trans hi'
    rw [hs, standingRecord_some hf]
    dsimp only
    rw [hu]
    cases hr : (s.r.chains[ch]).record with
    | nil =>
      obtain ⟨y, hy⟩ := hread hr
      rw [hy]
      simp
    | cons b bs => simp
  next => rw [Bool.and_false]

/-! ### What the actions leave, by kind of record (R422) -/

section
variable {s : State} {p : Fin 8} {r : FaultRec} (h : s.pendingHere r = true)
include h

/-- RESUME of an AP context: it goes on, past a TRAP, and nothing else changes. -/
theorem resume_ap {c : ApId} (hk : r.kind = 0) (hi : r.item = .ap c) (hc : r.cause ≠ 0x60) :
    ∃ u, s.servicedBy p r 1 0 (.resume p) .faultActResume u ∧ u = (s.updCtx c fun _ => u.ctx c).dropRecord p r ∧
      u.ctx c = if 0x70 ≤ r.cause ∧ r.cause ≤ 0x77 then { s.ctx c with
          status := .running
          pc := BitVec.ofNat 32 (loopAdvance ((s.ctx c).pc.toNat + 4) (s.ctx c).loops).1
          loops := (loopAdvance ((s.ctx c).pc.toNat + 4) (s.ctx c).loops).2 }
        else { s.ctx c with status := .running } := by
  have ha : actResume s r = some (s.updCtx c fun x => x.goesOn r.byTrap) := by
    simp only [actResume, hk, hi, resumeAp_eq hc]
  have hu : ((s.updCtx c fun x => x.goesOn r.byTrap).dropRecord p r).ctx c = (s.ctx c).goesOn r.byTrap := by cases c <;> rfl
  refine ⟨_, servicedBy_resume h (by simp [hk]) (by simp [hi]) ha (by simp), ?_, ?_⟩
  · rw [hu]
    cases c <;> rfl
  · rw [hu, ← if_congr r.byTrap_iff rfl rfl]
    cases r.byTrap <;> rfl

/-- RESUME of a BAR.WAIT also clears the overruns of its group. -/
theorem resume_barWait {c : ApId} {g : Guard} {n : Byte} {j : Nat} (hk : r.kind = 0) (hi : r.item = .ap c) (hc : r.cause = 0x60)
    (hw : decodeABytes (leBytes 4 r.detail.toNat) = .ok (.barWait g n)) (hj : s.r.groupSlot n.toNat = some j) :
    ∃ u, s.servicedBy p r 1 0 (.resume p) .faultActResume u ∧
      (∀ i : Fin 4, bits u.r.bovr (16 * i.val + 15) (16 * i.val) =
        if i.val = j then 0 else bits s.r.bovr (16 * i.val + 15) (16 * i.val)) ∧
      u = ((s.updCtx c fun x => { x with status := .running }).updR fun x => { x with
        bovr := u.r.bovr, start := { x.start with bovr := u.r.start.bovr } }).dropRecord p r := by
  have ha : actResume s r = some ((s.updCtx c fun x => { x with status := .running }).updR fun x => { x with
      bovr := bovrWithout j x.bovr, start := { x.start with bovr := bovrWithout j x.start.bovr } }) := by
    simp only [actResume, hk, hi, resumeAp_barWait hc hw hj]
  refine ⟨_, servicedBy_resume h (by simp [hk]) (by simp [hi]) ha (by cases c <;> rfl), fun i => ?_, rfl⟩
  rw [← bovrWithout_field s.r.bovr j i]
  cases c <;> rfl

/-- RESUME of E where it stands. -/
theorem resume_ep_plain (hk : r.kind = 0) (hi : r.item = .ep) (hc : r.cause < 0x70 ∨ 0x77 < r.cause) :
    ∃ u, s.servicedBy p r 1 0 (.resume p) .faultActResume u ∧
      u = (s.updE fun e => { e with status := .running }).dropRecord p r := by
  have ht : r.byTrap = false := by
    rw [← Bool.not_eq_true, r.byTrap_iff]
    simp only [BitVec.lt_def, BitVec.le_def] at hc ⊢
    omega
  have ha : actResume s r = some (s.updE fun e => { e with status := .running }) := by
    simp only [actResume, hk, hi, resumeEp_plain ht]
  exact ⟨_, servicedBy_resume h (by simp [hk]) (by simp [hi]) ha rfl, rfl⟩

/-- RESUME of E past an ETRAP. -/
theorem resume_ep_trap (hk : r.kind = 0) (hi : r.item = .ep) (h1 : 0x70 ≤ r.cause) (h2 : r.cause ≤ 0x77) :
    ∃ u, s.servicedBy p r 1 0 (.resume p) .faultActResume u ∧ u.ePlace = s.ePast 8 ∧
      (u.r.ep.b = s.r.ep.b ∨ u.r.ep.b = Vector.replicate 16 none) ∧ (∀ n, s.plainMask n → u.r.ep.m[n] = s.r.ep.m[n]) ∧
      u = (s.updE fun e => { e with
        status := .running, pc := u.r.ep.pc, loops := u.r.ep.loops, m := u.r.ep.m, b := u.r.ep.b
        lbuf := u.r.ep.lbuf, atSwitch := false }).dropRecord p r := by
  have ht : r.byTrap = true := r.byTrap_iff.2 ⟨h1, h2⟩
  have ha : actResume s r = some (resumeEp s r) := by simp only [actResume, hk, hi]
  have hb : (resumeEp s r).r.bind.e = s.r.bind.e := by rw [resumeEp_trap ht]; rfl
  obtain ⟨hplace, hlatch, hmask⟩ := resumeEp_left (u := (resumeEp s r).dropRecord p r) ht rfl
  refine ⟨_, servicedBy_resume h (by simp [hk]) (by simp [hi]) ha hb, hplace, hlatch, hmask, ?_⟩
  rw [resumeEp_trap ht]
  rfl

/-- CANCEL of the record that a chain channel stands at. -/
theorem cancel_chain {ch : Fin 8} {arg : W64} {f : List Byte} {w : State} (hk : r.kind = 1) (hi : r.item = .chain ch)
    (hf : s.recordBytes ch f)
    (hw : writeStatus s (s.r.chains[ch]).ptr [byteAt f 28 &&& 0xFE, arg.setWidth 8] = .ok w) :
    s.servicedBy p r 3 arg (.cancel p) .faultActCancel
      (((w.updR fun x => { x with chains := x.chains.set ch ⟨(s.r.chains[ch]).ptr, false, [], none, 0, false⟩ }).settle.focusOn
        s.entry).dropRecord p r) := by
  have hend := chainEnd_ok hw
  have ha : actCancel s r (arg.setWidth 8) =
      some (w.updR fun x => { x with chains := x.chains.set ch ⟨(s.r.chains[ch]).ptr, false, [], none, 0, false⟩ }).settle := by
    simp only [actCancel, hk, hi, standingRecord_some hf, hend]
  exact servicedBy_cancel h (by simp [hk]) (by simp [hi]) (cancelWaits_chain (State.pendingHere.focusOn h) hi hf hend) ha

/-- An action that a record does not take gets result 2. -/
theorem action_refused {op : Byte} {arg : W64} {i : Instr} {j : W32 → Instr} (hi : r.item ≠ .gone)
    (ho : op = 2 ∧ i = .redirect p ∧ j = .faultActRedirect ∧ r.kind ≠ 0 ∧ r.kind ≠ 4 ∨
      op = 3 ∧ i = .cancel p ∧ j = .faultActCancel ∧ (r.kind = 0 ∨ r.kind = 3)) : s.answeredBy p r op arg i j 2 s := by
  obtain ⟨rfl, rfl, rfl, h0, h4⟩ | ⟨rfl, rfl, rfl, hk⟩ := ho
  · have ha : actRedirect s r arg = none := by
      unfold actRedirect
      split
      · exact absurd ‹r.kind = 0› h0
      · exact absurd ‹r.kind = 0› h0
      · rfl
    exact answeredBy_redirect (serviceRecord_refused (act := fun t r => actRedirect t r arg) h h4 hi ha)
  · have ha : actCancel s r (arg.setWidth 8) = none := by
      obtain hk | hk := hk <;> simp [actCancel, hk]
    exact answeredBy_cancel (cancelWaits_of_ne (by omega) _)
      (serviceRecord_refused (act := fun t r => actCancel t r (arg.setWidth 8)) h (by omega) hi ha)

/-- REDIRECT to where no instruction can stand gets result 2. -/
theorem redirect_refused {arg : W64} (hk : r.kind = 0)
    (ho : (∃ c, r.item = .ap c ∧ ((s.r.section c).2 ≤ arg.toNat ∨ arg.toNat % 4 ≠ 0)) ∨
      (r.item = .ep ∧ (s.r.bind.epSize ≤ arg.toNat ∨ arg.toNat % 8 ≠ 0))) :
    s.answeredBy p r 2 arg (.redirect p) .faultActRedirect 2 s := by
  have hi : r.item ≠ .gone := by obtain ⟨c, hi, -⟩ | ⟨hi, -⟩ := ho <;> simp [hi]
  have ha : actRedirect s r arg = none := by
    obtain ⟨c, hi, hbad⟩ | ⟨hi, hbad⟩ := ho
    · simp only [actRedirect, hk, hi]
      exact if_neg (by simp; omega)
    · simp only [actRedirect, hk, hi]
      exact if_neg (by simp; omega)
  exact answeredBy_redirect (serviceRecord_refused (act := fun t r => actRedirect t r arg) h (by omega) hi ha)

end

end Sys2Proof.Machine
end

section
/-! PROOF. Services on faults, shootdowns, traces, stops and host accesses that are never answered (R415, R420 to R426, R435): O58. -/

namespace Sys2Proof.Machine

/-! ### The answer to a request (R421) -/

/-- The memory after the answer x to the request at key k of the fault area at q: its result, and the head past it. -/
def Memory.answered (m : Memory) (k q : Nat) (x : Byte) : Memory :=
  (m.write (keysFrom (k + 1) 1) [x]).write (keysFrom (q + 24) 8)
    (leBytes 8 ((m.write (keysFrom (k + 1) 1) [x]).word64 (q + 24) + 1).toNat)

/-- The answer to a request that names no sync word. -/
theorem answer_eq {s : State} (p : Fin 8) (k : Nat) {f : List Byte} (x : Byte) (h0 : le64 f 32 = 0) :
    answer s p k f x = { s with mem := s.mem.answered k (s.pkg.parts[p]).fq x } := by
  unfold answer Memory.answered
  dsimp only
  rw [if_pos h0]
  simp only [State.devWrite, length_leBytes, List.length_cons, List.length_nil]

/-- A request lies behind the words of its partition's fault area. -/
theorem nextRequest_place {s : State} {p : Fin 8} {k : Nat} {f : List Byte} (h : nextRequest s p = some (k, f)) :
    (s.pkg.parts[p]).fq + 20480 ≤ k := by
  unfold nextRequest at h
  dsimp only at h
  split at h
  · cases h
  · rw [← (Prod.mk.inj (Option.some.inj h)).1]
    exact Nat.le_add_right ..

/-- What an answer leaves in memory. -/
theorem Memory.answered_left {m : Memory} (hm : m.wf = true) {k q : Nat} (hk : q + 20480 ≤ k) (x : Byte) :
    (m.answered k q x).byte (k + 1) = x ∧ (m.answered k q x).word64 (q + 24) = m.word64 (q + 24) + 1 ∧
      m.keptBut (m.answered k q x) ((k + 1) :: keysFrom (q + 24) 8) := by
  have hkeys : keysFrom (k + 1) 1 = [k + 1] := rfl
  have hword : (m.write [k + 1] [x]).word64 (q + 24) = m.word64 (q + 24) := by
    rw [Memory.word64, Memory.word64, Memory.bytes_write_disjoint]
    intro a ha
    simp only [List.mem_singleton, mem_keysFrom] at ha ⊢
    omega
  have hbyte : (m.write [k + 1] [x]).byte (k + 1) = x := by
    have hb := Memory.bytes_write hm (k + 1) (bs := [x]) rfl
    exact List.singleton_inj.1 hb
  unfold Memory.answered
  rw [hkeys]
  refine ⟨?_, ?_, ?_⟩
  · rw [Memory.byte_write_ne _ (by simp only [mem_keysFrom]; omega), hbyte]
  · rw [Memory.word64_write (Memory.write_wf _ _ hm), hword]
  · exact (m.keptBut_write [k + 1] [x]).trans (Memory.keptBut_write _ _ _)

theorem answer_answers {s t : State} {p : Fin 8} {k q : Nat} {f : List Byte} {x : Byte} (hm : s.memOk)
    (hn : nextRequest s p = some (k, f)) (h0 : le64 f 32 = 0) (hq : q = (s.pkg.parts[p]).fq) (ht : t = answer s p k f x) :
    t.mem.byte (k + 1) = x ∧ t.mem.word64 (q + 24) = s.mem.word64 (q + 24) + 1 ∧
      s.mem.keptBut t.mem ((k + 1) :: keysFrom (q + 24) 8) ∧ t = { s with mem := t.mem } := by
  rw [answer_eq p k x h0, ← hq] at ht
  obtain ⟨hbyte, hword, hkept⟩ := Memory.answered_left hm (hq ▸ nextRequest_place hn) x
  rw [ht]
  exact ⟨hbyte, hword, hkept, rfl⟩

/-! ### Shootdowns (R415, R423) -/

/-- A TLB entry as a shootdown of a range leaves it. -/
def TlbEntry.shot (p : Fin 8) (va len : W64) (t : TlbEntry) : TlbEntry :=
  if t.part = p ∧ inShootdown va len t.base t.size then { t with stale := true } else t

theorem TlbEntry.shot_kept (p : Fin 8) (va len : W64) (t : TlbEntry) :
    t.shot p va len = { t with stale := (t.shot p va len).stale } ∧
      (t.shot p va len).stale = (t.stale || (t.part == p &&
        (len == BitVec.allOnes 64 || decide (t.base < va.toNat + len.toNat ∧ va.toNat < t.base + t.size)))) := by
  have hin : (t.part = p ∧ inShootdown va len t.base t.size = true) ↔ (t.part == p &&
      (len == BitVec.allOnes 64 || decide (t.base < va.toNat + len.toNat ∧ va.toNat < t.base + t.size))) = true := by
    simp only [inShootdown, Bool.and_eq_true, Bool.or_eq_true, beq_iff_eq, decide_eq_true_eq]
  unfold TlbEntry.shot
  split
  next h =>
    rw [hin.1 h, Bool.or_true]
    exact ⟨rfl, rfl⟩
  next h =>
    rw [Bool.eq_false_iff.2 (mt hin.2 h), Bool.or_false]
    exact ⟨rfl, rfl⟩

/-- A shootdown of a valid range is under way. -/
theorem startShootdown_shotDown (s : State) (p : Fin 8) (va len : W64) (serves : Bool) :
    s.shotDown (startShootdown s p va len serves) p va len serves := by
  have htlb : (startShootdown s p va len serves).pkg.tlb = s.pkg.tlb.map (TlbEntry.shot p va len) := rfl
  refine ⟨rfl, by rw [htlb, List.length_map], fun i e he => ⟨e.shot p va len, ?_, e.shot_kept p va len⟩⟩
  rw [htlb, List.getElem?_map, he]
  rfl

theorem rangeOk_of {va len : W64} (h : len = BitVec.allOnes 64 ∨ len ≠ 0 ∧ va.toNat % 65536 = 0 ∧ len.toNat % 65536 = 0) :
    rangeOk va len = true := by
  simpa [rangeOk, and_assoc] using h

theorem exec_sdCmd {s : State} (p : Fin 8) (hn : s.pkg.fw.sdPart = none) (hr : rangeOk s.pkg.fw.sdVa s.pkg.fw.sdLen = true) :
    exec (.sdCmd p) s = .next (startShootdown s p s.pkg.fw.sdVa s.pkg.fw.sdLen false) :=
  if_neg (by simp [hn, hr])

theorem exec_shootdown {s : State} {p : Fin 8} {k : Nat} {f : List Byte} (hs : s.pkg.fw.sdPart = none)
    (hn : nextRequest s p = some (k, f)) (ho : byteAt f 0 = 4) (h0 : le64 f 8 = 0)
    (hr : rangeOk (le64 f 16) (le64 f 24) = true) :
    exec (.shootdown p) s = .next (startShootdown s p (le64 f 16) (le64 f 24) true) := by
  have hx : exec (.shootdown p) s = execShootdown p s := rfl
  rw [hx, execShootdown, hn]
  dsimp only
  rw [if_neg (by simp [ho, hs]), if_neg (by simp [h0, hr])]

/-- The package with the stale entries of partition p gone, and its shootdown over. -/
def State.shotOver (s : State) (p : Fin 8) : State :=
  { s with pkg := { s.pkg with
    tlb := s.pkg.tlb.filter fun t => !(t.stale && t.part == p), fw := { s.pkg.fw with sdPart := none, sdServes := false } } }

theorem nextRequest_shotOver (s : State) (p : Fin 8) : nextRequest (s.shotOver p) p = nextRequest s p := rfl

section
variable {s : State} {p : Fin 8} (hs : s.pkg.fw.sdPart = some p) (h0 : pinsHeld s p = 0)
include hs h0

theorem shootdownComplete_command (hv : s.pkg.fw.sdServes = false) : exec .shootdownComplete s = .next (s.shotOver p) := by
  have hx : exec .shootdownComplete s = execShootdownComplete s := rfl
  rw [hx, execShootdownComplete, hs]
  dsimp only
  rw [if_neg (by simp [h0]), hv]
  rfl

theorem shootdownComplete_request {k : Nat} {f : List Byte} (hv : s.pkg.fw.sdServes = true) (hn : nextRequest s p = some (k, f)) :
    exec .shootdownComplete s = .next (answer (s.shotOver p) p k f 0) := by
  have hx : exec .shootdownComplete s = execShootdownComplete s := rfl
  rw [hx, execShootdownComplete, hs]
  dsimp only
  rw [if_neg (by simp [h0]), hv, ← State.shotOver, nextRequest_shotOver, hn]

end

/-! ### Traces and stops (R426, R435) -/

/-- The trace stream that a request configures. -/
def requestedTrace (f : List Byte) : Trace :=
  ⟨BitVec.ofNat 64 (bits (le64 f 16) 51 12 * 4096), bits (le64 f 16) 4 0, le64 f 24, byteAt f 14, 0⟩

theorem exec_trace {s : State} {p : Fin 8} {k : Nat} {f : List Byte} (hn : nextRequest s p = some (k, f)) (ho : byteAt f 0 = 5)
    (hs : s.r.stage ≠ .free) (hp : s.r.bind.part = p) (hl : s.r.bind.launch = le32 f 8) (hc : s.r.bind.lcore = le16 f 12)
    (ht : traceOk s p (le64 f 16) (le64 f 24) (byteAt f 14) = true) :
    exec (.trace p) s =
      .next (answer (s.updR fun r => { r with watch := { r.watch with trace := requestedTrace f } }) p k f 0) := by
  have hx : exec (.trace p) s = execTrace p s := rfl
  have hfind : s.all.find? (fun r => r.stage != .free && r.bind.part == p && r.bind.launch == le32 f 8 && r.bind.lcore == le16 f 12) =
      some s.r := List.find?_cons_of_pos (by simp [hs, hp, hl, hc])
  rw [hx, execTrace, hn]
  dsimp only
  rw [if_neg (by simp [ho]), hfind]
  dsimp only
  rw [if_neg (by simp [ht]), State.updAt_own (e := s.r.bind.e) rfl]
  rfl

/-- A residency of which a context that has not halted is asked to stop. -/
def Residency.stopped (r : Residency) (c : Fin 4) : Residency :=
  if c = 0 ∧ r.f.status ≠ .halted then { r with f := { r.f with stopReq := true } }
  else if c = 1 ∧ r.d.status ≠ .halted then { r with d := { r.d with stopReq := true } }
  else if c = 2 ∧ r.ep.status ≠ .halted then { r with ep := { r.ep with stopReq := true } }
  else r

theorem exec_stop {s : State} {e : Fin 416} (h2 : (s.pkg.slots[e]).state = 2) (he : s.entry = e.val) (c : Fin 4) :
    exec (.stop e c) s = .next (s.updR fun r => r.stopped c) := by
  have hx : exec (.stop e c) s = execStop e c s := rfl
  rw [hx, execStop, if_neg (by simpa using h2), State.updAt_own he]
  rfl

/-! ### Host accesses that are never answered (R420) -/

/-- A load from host memory that is not completed parks its context, whose instruction has had no effect. -/
theorem apTimeout_load {s : State} {c : ApId} {q : MemReq} {d : AReg} {z : Fin 8} (hq : (s.ctx c).pending = some q)
    (ho : q.op = .load d z) (hk : ∃ k ∈ q.keys, storeOf k = .host) :
    apTimeout s c false = (s.updCtx c ApCtx.undone).park c ⟨0x40, q.addr, 0⟩ := by
  unfold apTimeout
  dsimp only
  rw [hq]
  dsimp only
  rw [ho]
  exact if_pos (by simpa using hk)

theorem exec_hostCompletionTimeout {s : State} {e : Fin 416} {i : Item} (he : s.entry = e.val) (hs : s.r.stage ≠ .free)
    (hb : (itemTimeout s i).r.bind.e = s.r.bind.e) :
    exec (.hostCompletionTimeout ⟨e, i⟩) s = .next (itemTimeout s i) := by
  have hx : exec (.hostCompletionTimeout ⟨e, i⟩) s = execHostCompletionTimeout ⟨e, i⟩ s := rfl
  have he' : s.r.bind.e = e.val := he
  rw [hx, execHostCompletionTimeout, if_pos (by simp [State.all, hs, he'])]
  dsimp only
  rw [← he', s.within_own hb]

/-- What the exception of an access that is not completed leaves. -/
theorem undone_park_left (s : State) (c : ApId) (y : Trap) {t : State} (ht : t = (s.updCtx c ApCtx.undone).park c y) :
    ∃ x, (t.ctx c).status = .parked y.cause ∧ (t.ctx c).pending = none ∧ (t.ctx c).pc = (s.ctx c).pc ∧
      (t.ctx c).a = (s.ctx c).a ∧ x ∈ t.part.faults ∧ x.cause = y.cause ∧ x.kind = 0 ∧ x.addr = y.addr ∧ t.mem = s.mem := by
  subst ht
  have hctx : ((s.updCtx c ApCtx.undone).park c y).ctx c = { (s.ctx c).undone with status := .parked y.cause } := by
    rw [State.park_ctx]
    cases c <;> rfl
  rw [hctx]
  refine ⟨_, rfl, rfl, rfl, rfl, (s.updCtx c ApCtx.undone).park_mem c y, rfl, rfl, rfl, ?_⟩
  rw [State.park_memory, State.updCtx_mem]

/-- Settles O58: the answer to a request; the actions on a record, by its kind; notices; shootdowns; traces, stops and the freeze;
and a load that the host never answers. -/
theorem serviceCompletes : Obligations.ServiceCompletes := by
  unfold Obligations.ServiceCompletes
  refine ⟨fun s t p k q f x hm hn h0 hq ht => answer_answers hm hn h0 hq ht, fun s p r h => ?_, fun s p r hk hp => ?_,
    fun s p va len hs hr => ⟨fun hva hlen => ?_, fun k f hn ho h0 hva hlen => ?_⟩, fun s u p hs h0 hu => ?_,
    fun s p k f hn ho hs hp hl hc ht => exec_trace hn ho hs hp hl hc ht, fun s e h2 he => ⟨fun h => ?_, fun h => ?_, fun h => ?_⟩,
    fun s mask => rfl, fun s e c q d z he hs hq ho hk => ?_⟩
  · refine ⟨fun c hk hi hc => resume_ap h hk hi hc, fun c g n j hk hi hc hw hj => resume_barWait h hk hi hc hw hj,
      fun hk hi hc => resume_ep_plain h hk hi hc, fun hk hi h1 h2 => resume_ep_trap h hk hi h1 h2, fun c arg hk hi ha h4 => ?_,
      fun id arg hk hi => ?_, fun id hk hi => ?_, fun ch hk hi => ?_, fun id hk hi => ?_, fun hk hi => ?_, fun n hk hi => ?_,
      fun hk hi => ?_, fun arg hk hi ha h8 => ?_, fun n arg hk hi => ?_, fun id arg hk hi => ?_, fun arg hk hi => ?_,
      fun ch arg c f w hk hi hc hf hw => ?_, fun op arg i j hi ho => action_refused h hi ho, fun arg hk ho => redirect_refused h hk ho⟩
    · exact ⟨_, servicedBy_redirect h (by simp [hk]) (by simp [hi])
        (by simp only [actRedirect, hk, hi]; exact if_pos (by simp [ha, h4])) (by cases c <;> rfl), rfl⟩
    · refine ⟨_, ?_, rfl⟩
      exact servicedBy_cancel_here h (by simp [hk]) (by simp [hi]) (cancelWaits_of_ne (by simp [hi]) _)
        (by simp only [actCancel, hk, hi]; rfl) rfl
    · exact servicedBy_resume h (by simp [hk]) (by simp [hi]) (by simp only [actResume, hk, hi]; rfl) rfl
    · exact servicedBy_resume h (by simp [hk]) (by simp [hi]) (by simp only [actResume, hk, hi]; rfl) rfl
    · exact servicedBy_resume h (by simp [hk]) (by simp [hi]) (by simp only [actResume, hk, hi]; rfl) rfl
    · exact servicedBy_resume h (by simp [hk]) (by simp [hi]) (by simp only [actResume, hk, hi]; rfl) rfl
    · exact servicedBy_resume h (by simp [hk]) (by simp [hi]) (by simp only [actResume, hk, hi]; rfl) rfl
    · exact servicedBy_resume h (by simp [hk]) hi (by simp only [actResume, hk]; rfl) rfl
    · exact servicedBy_redirect h (by simp [hk]) (by simp [hi])
        (by simp only [actRedirect, hk, hi]; exact if_pos (by simp [ha, h8])) rfl
    · exact servicedBy_cancel_here h (by simp [hk]) (by simp [hi]) (cancelWaits_of_ne (by simp [hi]) _)
        (by simp only [actCancel, hk, hi]) rfl
    · exact servicedBy_cancel h (by simp [hk]) (by simp [hi]) (cancelWaits_of_ne (by simp [hi]) _)
        (by simp only [actCancel, hk, hi]; rfl)
    · exact servicedBy_cancel_here h (by simp [hk]) (by simp [hi]) (cancelWaits_of_ne (by simp [hi]) _)
        (by simp only [actCancel, hk, hi]; rfl) rfl
    · subst hc
      exact cancel_chain h hk hi hf hw
  · exact answeredBy_resume (serviceRecord_notice (t := s.focusOn r.entry) hk hp (by simp only [actResume, hk]))
  · subst hva hlen
    exact ⟨_, exec_sdCmd p hs (rangeOk_of hr), startShootdown_shotDown ..⟩
  · subst hva hlen
    exact ⟨_, exec_shootdown hs hn ho h0 (rangeOk_of hr), startShootdown_shotDown ..⟩
  · subst hu
    exact ⟨shootdownComplete_command hs h0, fun k f => shootdownComplete_request hs h0⟩
  · rw [exec_stop h2 he 0]
    simp [State.updR, Residency.stopped, h]
  · rw [exec_stop h2 he 1]
    simp [State.updR, Residency.stopped, h]
  · rw [exec_stop h2 he 2]
    simp [State.updR, Residency.stopped, h]
  · have ht : itemTimeout s (.ap c) = (s.updCtx c ApCtx.undone).park c ⟨0x40, q.addr, 0⟩ := apTimeout_load hq ho hk
    obtain ⟨x, hx⟩ := undone_park_left s c ⟨0x40, q.addr, 0⟩ ht
    refine ⟨_, x, exec_hostCompletionTimeout he hs ?_, hx⟩
    rw [ht, State.park_eq]
    cases c <;> rfl

end Sys2Proof.Machine
end

section
/-! PROOF. Acquire, release, fence and the early launch signal (R153, R154, R157, R168, R286): O32. -/

namespace Sys2Proof.Machine

/-! ### Issue with the TLBs and memory changed (R105, R413) -/

@[simp] theorem State.withTlb_ctx (s : State) (m : Memory) (ts : List TlbEntry) (c : ApId) : (s.withTlb m ts).ctx c = s.ctx c :=
  State.ctx_congr (s.withTlb_r m ts) c
@[simp] theorem State.withTlb_tlb (s : State) (m : Memory) (ts : List TlbEntry) : (s.withTlb m ts).pkg.tlb = ts := rfl
@[simp] theorem State.withTlb_areg (s : State) (m : Memory) (ts : List TlbEntry) (n : AReg) :
    (s.withTlb m ts).areg n = s.areg n := by simp [State.areg]
@[simp] theorem State.withTlb_apred (s : State) (m : Memory) (ts : List TlbEntry) (n : Guard) :
    (s.withTlb m ts).apred n = s.apred n := by simp [State.apred]
@[simp] theorem State.withTlb_place (s : State) (m : Memory) (ts : List TlbEntry) : (s.withTlb m ts).place = s.place := by
  simp [State.place]

theorem State.regsKept.withTlb {s x : State} {d : AReg} (h : s.regsKept x d) (m : Memory) (ts : List TlbEntry) :
    s.regsKept (x.withTlb m ts) d := by
  obtain ⟨hregs, hpreds⟩ := h
  exact ⟨fun n hn => (x.withTlb_areg m ts n).trans (hregs n hn), fun n => (x.withTlb_apred m ts n).trans (hpreds n)⟩
theorem State.allRegsKept.withTlb {s x : State} (h : s.allRegsKept x) (m : Memory) (ts : List TlbEntry) :
    s.allRegsKept (x.withTlb m ts) := by
  obtain ⟨hregs, hpreds⟩ := h
  exact ⟨fun n => (x.withTlb_areg m ts n).trans (hregs n), fun n => (x.withTlb_apred m ts n).trans (hpreds n)⟩

/-- A change of the issuing context reads neither memory nor the TLBs. -/
theorem State.updCtx_withTlb (s : State) (m : Memory) (ts : List TlbEntry) (c : ApId) (f : ApCtx → ApCtx) :
    (s.withTlb m ts).updCtx c f = (s.updCtx c f).withTlb m ts := by
  cases c <;> rfl

theorem State.issued_withTlb (s : State) (m : Memory) (ts : List TlbEntry) (i : Instr) (b : Bool) :
    (s.withTlb m ts).issued i b = (s.issued i b).withTlb m ts := by
  unfold State.issued
  rw [s.withTlb_ap, s.updCtx_withTlb]
  rfl

/-- The end of an instruction reads neither memory nor the TLBs. -/
theorem State.finish_withTlb (s : State) (m : Memory) (ts : List TlbEntry) (i : Instr) (fl : Flow) :
    (s.withTlb m ts).finish i fl = (s.finish i fl).withTlb m ts := by
  rw [State.finish, s.issued_withTlb, s.withTlb_ap]
  exact State.updCtx_withTlb ..

/-- Where only the issuing context, memory and the TLBs have changed. -/
theorem State.onlyCtx.withTlb {s x : State} (h : s.onlyCtx x) (m : Memory) (ts : List TlbEntry) :
    x.withTlb m ts = { s.takeIssue (x.withTlb m ts) with mem := m, pkg := { s.pkg with tlb := ts } } := by
  have hpkg : x.pkg = s.pkg := (congrArg State.pkg h).trans (s.takeIssue_pkg x)
  have htake : s.takeIssue (x.withTlb m ts) = s.takeIssue x := by simp only [State.takeIssue, State.withTlb_ctx, State.withTlb_r]
  rw [htake, ← hpkg]
  conv_lhs => rw [h]
  unfold State.withTlb
  rw [s.takeIssue_pkg, hpkg]

/-! ### Sync words of the access processor (R151, R170, R242) -/

/-- Peer memory is out of reach of an access whose party meets a cause there. -/
theorem not_peer_of_unlessCause {s : State} {ks : List Nat} {c : Cause} (h : unlessCause (peerMeets s (some c) ks) = .ok ()) :
    (ks.any fun k => storeOf k == .peer) = false := by
  by_contra hp
  have hfar : (ks.filter fun k => storeOf k == .peer).isEmpty = false := by
    simpa [List.filter_eq_nil_iff] using hp
  rw [peerMeets, hfar] at h
  cases h

/-- A sync word that the access processor reaches: finding it changes the TLBs alone, and it is in no peer's memory. -/
theorem apSync_reaches {s u : State} {x : W64} {k : Fin 8} {w : Bool} {ks : List Nat} (h : apSync s x k w = .ok (ks, u)) :
    u = s.withTlb s.mem u.pkg.tlb ∧ (ks.any fun k => storeOf k == .peer) = false := by
  obtain ⟨p, hp, h⟩ := ok_of_bind h
  obtain rfl : p = (ks, u) := by
    split at h
    · cases h
    · cases h
      rfl
  obtain ⟨-, -, hp⟩ := ok_of_bind hp
  obtain ⟨⟨ks', u'⟩, hres, hp⟩ := ok_of_bind hp
  obtain ⟨-, -, hp⟩ := ok_of_bind hp
  obtain ⟨⟨⟩, hpeer, hp⟩ := ok_of_bind hp
  cases hp
  exact ⟨resolve_eq hres, not_peer_of_unlessCause hpeer⟩

/-! ### SYNC.ACQ, SYNC.REL and SYNC.FENCE (R153, R154, R157) -/

section
variable {g : Guard} {d a : AReg} {k : Fin 8} {n : BitVec 8} {s u : State} {ks : List Nat}

/-- SYNC.ACQ that finds its count reached reads it (R154). -/
theorem exec_syncAcq (hs : checkScope s.slotted (scopeWord k n) = .ok ()) (hr : s.apReady (.syncAcq g d a k n) g = true)
    (hk : apSync s.slotted (s.areg a) k false = .ok (ks, u)) (hc : d = 0 ∨ (s.mem.wordAt ks - s.areg d).toNat < 2 ^ 63) :
    exec (.syncAcq g d a k n) s =
      .next (((s.slotted.setA d (s.mem.wordAt ks)).finish (.syncAcq g d a k n) .next).withTlb s.mem u.pkg.tlb) := by
  obtain ⟨hu, -⟩ := apSync_reaches hk
  rw [s.slotted_mem] at hu
  have hmem : u.mem = s.mem := by rw [hu, State.withTlb_mem]
  have hreg : u.areg d = s.areg d := by rw [hu, State.withTlb_areg, State.slotted_areg]
  have hset : u.setA d (s.mem.wordAt ks) = (s.slotted.setA d (s.mem.wordAt ks)).withTlb s.mem u.pkg.tlb := by
    conv_lhs => rw [hu]
    exact State.updCtx_withTlb ..
  rw [← State.finish_withTlb, ← hset]
  refine (show exec (.syncAcq g d a k n) s = execSyncAcq g d a k n s from rfl).trans (apIssue_ok hr ?_)
  rw [← s.slotted_areg] at hk
  refine (bind_of_ok hs _).trans ((bind_of_ok hk _).trans ((bind_of_ok (await_of ?_) _).trans ?_))
  · rw [hmem, hreg]
    exact Bool.or_eq_true_iff.2 (hc.imp decide_eq_true decide_eq_true)
  · rw [hmem]
    rfl

/-- SYNC.REL raises the count by one (R153). -/
theorem exec_syncRel (hs : checkScope s.slotted (scopeWord k n) = .ok ()) (hr : s.apReady (.syncRel g a k n) g = true)
    (hk : apSync s.slotted (s.areg a) k true = .ok (ks, u)) :
    exec (.syncRel g a k n) s = .next ((s.slotted.finish (.syncRel g a k n) .next).withTlb
      (s.mem.write ks (leBytes 8 (s.mem.wordAt ks + 1).toNat)) u.pkg.tlb) := by
  obtain ⟨hu, hpeer⟩ := apSync_reaches hk
  rw [s.slotted_mem] at hu
  have hrel : u.releaseAt ks = s.slotted.withTlb (s.mem.write ks (leBytes 8 (s.mem.wordAt ks + 1).toNat)) u.pkg.tlb := by
    rw [State.releaseAt, hpeer]
    conv_lhs => rw [hu]
    rfl
  rw [← State.finish_withTlb, ← hrel]
  refine (show exec (.syncRel g a k n) s = execSyncRel g a k n s from rfl).trans (apIssue_ok hr ?_)
  rw [← s.slotted_areg] at hk
  exact (bind_of_ok hs _).trans ((bind_of_ok hk _).trans rfl)

/-- SYNC.FENCE of a valid scope completes (R157): every access of its context has been performed when it issues. -/
theorem exec_syncFence (hs : checkScope s.slotted (scopeWord k n) = .ok ()) (hr : s.apReady (.syncFence g k n) g = true) :
    exec (.syncFence g k n) s = .next (s.slotted.finish (.syncFence g k n) .next) :=
  (show exec (.syncFence g k n) s = execSyncFence g k n s from rfl).trans (apIssue_ok hr (bind_of_ok hs _))

end

/-- What a body that changes nothing leaves in all. -/
theorem State.finish_slotted (s : State) (i : Instr) :
    s.allRegsKept (s.slotted.finish i .next) ∧ (s.slotted.finish i .next).place = s.pastIt ∧
      s.onlyCtx (s.slotted.finish i .next) :=
  ⟨State.finish_allRegsKept s.slotted_ap rfl .., State.finish_next_pastIt s.slotted_ap rfl _, State.finish_onlyCtx ..⟩

/-! ### SYNC.LAUNCH.EARLY (R38, R168) -/

/-- A launch to whose early trigger core c counts. -/
def Launch.signalled (c : Nat) (l : Launch) : Launch := { l with early := if l.early.contains c then l.early else c :: l.early }

theorem Launch.signalled_id (c : Nat) (l : Launch) : (l.signalled c).id = l.id := rfl

/-- A core that has signalled counts. -/
theorem Launch.early_signalled (c : Nat) (l : Launch) : (l.signalled c).early.contains c = true := by
  unfold Launch.signalled
  dsimp only
  split
  · assumption
  · simp

/-- An early trigger fires once. -/
theorem Launch.not_fires {l : Launch} (h : l.earlyFired = true) : l.fires = false := by simp [Launch.fires, h]

/-- The early trigger changes memory and launches alone. -/
theorem State.fireEarly_withLaunches (s : State) : s.fireEarly = s.withLaunches s.fireEarly.mem s.fireEarly.launches := by
  rw [State.fireEarly_eq]
  split <;> rfl

/-- The early trigger changes no byte of memory but those of the link's count, and none where it has fired before. -/
theorem State.keptBut_fireEarly {s : State} (h : ∃ l ∈ s.launches, l.id = s.r.bind.launch) :
    s.mem.keptBut s.fireEarly.mem (if s.launch.earlyFired then [] else keysFrom s.launch.link.toNat 8) := by
  obtain ⟨hmem, -⟩ := State.fireEarly_spec h
  rw [hmem]
  cases hf : s.launch.fires with
  | false => exact fun _ _ => rfl
  | true =>
    have he : s.launch.earlyFired = false := Bool.eq_false_iff.2 fun he => by
      rw [Launch.not_fires he] at hf
      cases hf
    rw [he]
    exact Memory.keptBut_write _ _ _

/-- The state in which the core in focus counts towards its launch's early trigger, before that may fire. -/
def State.signalled (s : State) : State := s.updMine (Launch.signalled s.r.bind.lcore)

theorem State.holds_signalled {s : State} (h : ∃ l ∈ s.launches, l.id = s.r.bind.launch) :
    ∃ l ∈ s.signalled.launches, l.id = s.signalled.r.bind.launch := State.holds_updMine h (Launch.signalled_id _)
theorem State.launch_signalled {s : State} (h : ∃ l ∈ s.launches, l.id = s.r.bind.launch) :
    s.signalled.launch = s.launch.signalled s.r.bind.lcore := State.launch_updMine h (Launch.signalled_id _)

theorem exec_syncLaunchEarly {g : Guard} {s : State} (hr : s.apReady (.syncLaunchEarly g) g = true) :
    exec (.syncLaunchEarly g) s = .next (s.slotted.signalled.fireEarly.finish (.syncLaunchEarly g) .next) :=
  (show exec (.syncLaunchEarly g) s = execSyncLaunchEarly g s from rfl).trans (apIssue_ok hr rfl)

/-- Signalling changes memory and launches alone. -/
theorem State.signalled_fireEarly_eq (s : State) :
    s.signalled.fireEarly = s.withLaunches s.signalled.fireEarly.mem s.signalled.fireEarly.launches :=
  s.signalled.fireEarly_withLaunches

/-- Settles O32: an acquire and a release change the TLBs where they find their sync word (`apSync_reaches`), and beside those a
register or the word's count; a fence changes nothing; the early signal counts its core, and memory only where the trigger fires
(`State.keptBut_fireEarly`). -/
theorem synchronisationCompletes : Obligations.SynchronisationCompletes := by
  unfold Obligations.SynchronisationCompletes
  intro g d a k n s hs
  refine ⟨fun ks u hr hk hc => ?_, fun ks u hr hk => ?_, fun hr => ⟨_, exec_syncFence hs hr, s.finish_slotted _⟩, fun hr h => ?_⟩
  · have honly := (s.finish_setA_onlyCtx d (s.mem.wordAt ks) (.syncAcq g d a k n) .next).withTlb s.mem u.pkg.tlb
    refine ⟨_, exec_syncAcq hs hr hk hc, by simp, (State.finish_setA_regsKept ..).withTlb .., ?_, honly.trans (by simp)⟩
    rw [State.withTlb_place, State.finish_next_place]
    exact State.pastIt_congr (by simp)
  · obtain ⟨hregs, hplace, honly⟩ := s.finish_slotted (.syncRel g a k n)
    exact ⟨_, exec_syncRel hs hr hk, rfl, Memory.keptBut_write _ _ _, hregs.withTlb .., (State.withTlb_place ..).trans hplace,
      honly.withTlb ..⟩
  · have h' : ∃ l ∈ s.slotted.launches, l.id = s.slotted.r.bind.launch := by simpa using h
    obtain ⟨hregs, hplace, honly, hmem⟩ := State.finish_launches_kept s.slotted.signalled_fireEarly_eq (.syncLaunchEarly g)
    obtain ⟨-, -, -, -, hlaunch, -⟩ := State.fireEarly_spec (State.holds_signalled h')
    have hkept := State.keptBut_fireEarly (State.holds_signalled h')
    rw [State.launch_signalled h', s.slotted_launch, s.slotted_r_bind] at hlaunch hkept
    refine ⟨_, exec_syncLaunchEarly hr, ?_, hregs, hplace, honly, ?_⟩
    · rw [State.finish_launch, hlaunch]
      exact Launch.early_signalled ..
    · rw [hmem, ← s.slotted_mem]
      exact hkept

end Sys2Proof.Machine
end

section
/-! SUPPORT. The formats of A-set words (R175): a word is put together from the fields that it is read into, and from no others. -/

namespace Sys2Proof.Machine

/-! ### Fields that must be zero (R177) -/

theorem ifZero_eq_ok {n : Nat} {i j : Instr} : ifZero n i = .ok j ↔ n = 0 ∧ i = j := by
  unfold ifZero
  split <;> simp [*]

@[simp] theorem ifZero_zero (i : Instr) : ifZero 0 i = .ok i := rfl

/-! ### What a field holds (R2) -/

theorem f3_eq_iff {w lo : Nat} {g : Fin 8} : f3 w lo = g ↔ w / 2 ^ lo % 2 ^ 3 = g.val := Fin.ext_iff
theorem f4_eq_iff {w lo : Nat} {g : Fin 16} : f4 w lo = g ↔ w / 2 ^ lo % 2 ^ 4 = g.val := Fin.ext_iff
theorem reg_eq_iff {w lo : Nat} {g : AReg} : reg w lo = g ↔ w / 2 ^ lo % 2 ^ 5 = g.val := Fin.ext_iff
theorem ofNat_eq_iff {n w : Nat} [NeZero n] {v : Fin n} : Fin.ofNat n w = v ↔ w % n = v.val := Fin.ext_iff
theorem imm_eq_iff {n w lo : Nat} {v : BitVec n} : imm n w lo = v ↔ w / 2 ^ lo % 2 ^ n = v.toNat := by
  rw [imm, ← BitVec.toNat_inj, BitVec.toNat_ofNat]
theorem imm_low_eq_iff {n w : Nat} {v : BitVec n} : imm n w 0 = v ↔ w % 2 ^ n = v.toNat := by
  rw [imm_eq_iff, Nat.pow_zero, Nat.div_one]
theorem oddBit_eq_iff {n : Nat} {b : Bool} : (n % 2 == 1) = b ↔ n % 2 = b.toNat := by
  obtain h | h := Nat.mod_two_eq_zero_or_one n <;> cases b <;> simp [h]
theorem fld_low {w hi : Nat} : fld w hi 0 = w % 2 ^ (hi + 1) := by
  rw [fld, Nat.pow_zero, Nat.div_one, Nat.sub_zero]

/-! ### A field above lower bits -/

section
variable {w h l : Nat} (m k n : Nat) (hm : m = k + n)
include hm

theorem mod_eq_field_add_iff (hl : l < 2 ^ k) : w % 2 ^ m = h * 2 ^ k + l ↔ w / 2 ^ k % 2 ^ n = h ∧ w % 2 ^ k = l := by
  rw [hm, Nat.pow_add, ← Nat.mod_mul_right_div_self, ← Nat.mod_mul_right_mod w (2 ^ k) (2 ^ n),
    Nat.div_mod_unique (Nat.two_pow_pos k), Nat.add_comm, Nat.mul_comm (2 ^ k) h]
  exact ⟨fun hw => ⟨hw.symm, hl⟩, fun hw => hw.1.symm⟩

theorem mod_eq_field_iff : w % 2 ^ m = h * 2 ^ k ↔ w / 2 ^ k % 2 ^ n = h ∧ w % 2 ^ k = 0 :=
  mod_eq_field_add_iff m k n hm (Nat.two_pow_pos k)

theorem mod_eq_low_iff (hl : l < 2 ^ k) : w % 2 ^ m = l ↔ w / 2 ^ k % 2 ^ n = 0 ∧ w % 2 ^ k = l := by
  rw [← mod_eq_field_add_iff m k n hm hl, Nat.zero_mul, Nat.zero_add]

end

/-- A word of 32 bits is an opcode and a guard above 23 lower bits. -/
theorem word_eq_iff {w op low : Nat} {g : Guard} (hb : op < 64 ∧ low < 2 ^ 23) :
    op * 2 ^ 26 + (g.val * 2 ^ 23 + low) = w ↔ w < 2 ^ 32 ∧ fld w 31 26 = op ∧ f3 w 23 = g ∧ w % 2 ^ 23 = low := by
  simp only [f3_eq_iff, fld]
  omega

/-! ### The formats -/

section
variable {w op fn low : Nat}

theorem encRR_eq_iff {f : RR} (hb : op < 64 ∧ low < 2 ^ 13) :
    encRR op f low = w ↔ w < 2 ^ 32 ∧ fld w 31 26 = op ∧ rr w = f ∧ fld w 12 0 = low := by
  obtain ⟨g, d, a⟩ := f
  simp only [encRR, Nat.add_assoc]
  rw [word_eq_iff (by omega), mod_eq_field_add_iff 23 18 5 rfl (by omega), mod_eq_field_add_iff 18 13 5 rfl (by omega)]
  simp only [rr, RR.mk.injEq, reg_eq_iff, fld_low, and_assoc, Nat.reduceAdd]

theorem encRRR_eq_iff {f : RRR} (hb : op < 64 ∧ fn < 256) :
    encRRR op f fn = w ↔ w < 2 ^ 32 ∧ fld w 31 26 = op ∧ rrr w = f ∧ fld w 7 0 = fn := by
  obtain ⟨g, d, a, b⟩ := f
  simp only [encRRR, Nat.add_assoc]
  rw [word_eq_iff (by omega), mod_eq_field_add_iff 23 18 5 rfl (by omega), mod_eq_field_add_iff 18 13 5 rfl (by omega),
    mod_eq_field_add_iff 13 8 5 rfl (by omega)]
  simp only [rrr, RRR.mk.injEq, reg_eq_iff, fld_low, and_assoc, Nat.reduceAdd]

theorem encRI_eq_iff {f : RI} (hb : op < 64) : encRI op f = w ↔ w < 2 ^ 32 ∧ fld w 31 26 = op ∧ ri w = f := by
  obtain ⟨g, d, a, k⟩ := f
  simp only [encRI, Nat.add_assoc]
  rw [word_eq_iff (by omega), mod_eq_field_add_iff 23 18 5 rfl (by omega), mod_eq_field_add_iff 18 13 5 rfl (by omega)]
  simp only [ri, RI.mk.injEq, reg_eq_iff, imm_low_eq_iff]

theorem encSh_eq_iff {f : RSh} (hb : op < 64) :
    encSh op f = w ↔ w < 2 ^ 32 ∧ fld w 31 26 = op ∧ rsh w = f ∧ fld w 12 6 = 0 := by
  obtain ⟨g, d, a, k⟩ := f
  simp only [encSh, Nat.add_assoc]
  rw [word_eq_iff (by omega), mod_eq_field_add_iff 23 18 5 rfl (by omega), mod_eq_field_add_iff 18 13 5 rfl (by omega),
    mod_eq_low_iff 13 6 7 rfl k.isLt, and_comm (b := w % 2 ^ 6 = k.val)]
  simp only [rsh, RSh.mk.injEq, reg_eq_iff, ofNat_eq_iff, fld, and_assoc, Nat.reduceAdd, Nat.reduceSub, Nat.reducePow]

theorem encBf_eq_iff {f : RBf} {s : Nat} (hb : op < 64 ∧ s < 2) :
    encBf op f s = w ↔ w < 2 ^ 32 ∧ fld w 31 26 = op ∧ rbf w = f ∧ w % 2 = s := by
  obtain ⟨g, d, a, p, l⟩ := f
  rw [show encBf op ⟨g, d, a, p, l⟩ s = op * 2 ^ 26 + (g.val * 2 ^ 23 + (d.val * 2 ^ 18 + (a.val * 2 ^ 13 +
      (p.val * 2 ^ 7 + (l.val * 2 ^ 1 + s))))) by simp only [encBf, Nat.add_assoc, Nat.pow_one],
    word_eq_iff (by omega), mod_eq_field_add_iff 23 18 5 rfl (by omega), mod_eq_field_add_iff 18 13 5 rfl (by omega),
    mod_eq_field_add_iff 13 7 6 rfl (by omega), mod_eq_field_add_iff 7 1 6 rfl (by omega)]
  simp only [rbf, RBf.mk.injEq, reg_eq_iff, ofNat_eq_iff, and_assoc, Nat.reducePow]

theorem encMem_eq_iff {f : RMem} (hb : op < 64) : encMem op f = w ↔ w < 2 ^ 32 ∧ fld w 31 26 = op ∧ rmem w = f := by
  obtain ⟨g, d, a, z, o⟩ := f
  simp only [encMem, Nat.add_assoc]
  rw [word_eq_iff (by omega), mod_eq_field_add_iff 23 18 5 rfl (by omega), mod_eq_field_add_iff 18 13 5 rfl (by omega),
    mod_eq_field_add_iff 13 10 3 rfl (by omega)]
  simp only [rmem, RMem.mk.injEq, reg_eq_iff, f3_eq_iff, imm_low_eq_iff]

theorem encIdx_eq_iff {f : RIdx} (hb : op < 64) :
    encIdx op f = w ↔ w < 2 ^ 32 ∧ fld w 31 26 = op ∧ ridx w = f ∧ fld w 7 5 = 0 := by
  obtain ⟨g, d, a, b, k, z⟩ := f
  simp only [encIdx, Nat.add_assoc]
  rw [word_eq_iff (by omega), mod_eq_field_add_iff 23 18 5 rfl (by omega), mod_eq_field_add_iff 18 13 5 rfl (by omega),
    mod_eq_field_add_iff 13 8 5 rfl (by omega), mod_eq_low_iff 8 5 3 rfl (by omega), mod_eq_field_add_iff 5 3 2 rfl (by omega),
    and_comm (a := w / 2 ^ 5 % 2 ^ 3 = 0)]
  simp only [ridx, RIdx.mk.injEq, reg_eq_iff, f3_eq_iff, ofNat_eq_iff, fld, and_assoc, Nat.reduceAdd, Nat.reduceSub,
    Nat.reducePow, Nat.div_one]

theorem encSAB_eq_iff {f : SAB} (hb : op < 64 ∧ fn < 256) :
    encSAB op f fn = w ↔ w < 2 ^ 32 ∧ fld w 31 26 = op ∧ sab w = f ∧ fld w 7 0 = fn := by
  obtain ⟨g, st, a, b⟩ := f
  simp only [encSAB, Nat.add_assoc]
  rw [word_eq_iff (by omega), mod_eq_field_add_iff 23 18 5 rfl (by omega), mod_eq_field_add_iff 18 13 5 rfl (by omega),
    mod_eq_field_add_iff 13 8 5 rfl (by omega)]
  simp only [sab, SAB.mk.injEq, reg_eq_iff, fld_low, and_assoc, Nat.reduceAdd]

theorem encSA_eq_iff {f : SA} (hb : op < 64 ∧ low < 2 ^ 13) :
    encSA op f low = w ↔ w < 2 ^ 32 ∧ fld w 31 26 = op ∧ sa w = f ∧ fld w 12 0 = low := by
  obtain ⟨g, st, a⟩ := f
  simp only [encSA, Nat.add_assoc]
  rw [word_eq_iff (by omega), mod_eq_field_add_iff 23 18 5 rfl (by omega), mod_eq_field_add_iff 18 13 5 rfl (by omega)]
  simp only [sa, SA.mk.injEq, reg_eq_iff, fld_low, and_assoc, Nat.reduceAdd]

theorem encSO_eq_iff {f : SO} (hb : op < 64 ∧ low < 2 ^ 18) :
    encSO op f low = w ↔ w < 2 ^ 32 ∧ fld w 31 26 = op ∧ so w = f ∧ fld w 17 0 = low := by
  obtain ⟨g, st⟩ := f
  simp only [encSO, Nat.add_assoc]
  rw [word_eq_iff (by omega), mod_eq_field_add_iff 23 18 5 rfl (by omega)]
  simp only [so, SO.mk.injEq, reg_eq_iff, fld_low, and_assoc, Nat.reduceAdd]

theorem encAG_eq_iff {g : Guard} {d a : Nat} (hb : op < 64 ∧ d < 32 ∧ a < 32 ∧ fn < 4 ∧ low < 2 ^ 11) :
    encAG op g d a fn low = w ↔ w < 2 ^ 32 ∧ fld w 31 26 = op ∧ f3 w 23 = g ∧ fld w 22 18 = d ∧ fld w 17 13 = a ∧
      fld w 12 11 = fn ∧ fld w 10 0 = low := by
  simp only [encAG, Nat.add_assoc]
  rw [word_eq_iff (by omega), mod_eq_field_add_iff 23 18 5 rfl (by omega), mod_eq_field_add_iff 18 13 5 rfl (by omega),
    mod_eq_field_add_iff 13 11 2 rfl (by omega)]
  simp only [fld, Nat.reduceAdd, Nat.reduceSub, Nat.pow_zero, Nat.div_one]

/-! ### The parts of a format's low bits -/

theorem low_reg {c : AReg} : fld w 7 0 = c.val ↔ fld w 7 5 = 0 ∧ reg w 0 = c := by
  simp only [reg_eq_iff, fld]
  omega
theorem low_f3 {n : Fin 8} : fld w 7 0 = n.val ↔ fld w 7 3 = 0 ∧ f3 w 0 = n := by
  simp only [f3_eq_iff, fld]
  omega
theorem low_two {k : Fin 4} : fld w 7 0 = k.val ↔ fld w 7 2 = 0 ∧ Fin.ofNat 4 w = k := by
  simp only [ofNat_eq_iff, fld]
  omega
theorem low_odd (hn : fn < 2) : fld w 7 0 = fn ↔ fld w 7 1 = 0 ∧ w % 2 = fn := by
  simp only [fld]
  omega
theorem low_tag {t : Fin 128} {c : Bool} : fld w 7 0 = t.val * 2 + c.toNat ↔ Fin.ofNat 128 (w / 2) = t ∧ (w % 2 == 1) = c := by
  have hc := c.toNat_lt
  simp only [ofNat_eq_iff, oddBit_eq_iff, fld]
  omega
theorem low_flags {z c : Bool} : fld w 7 0 = z.toNat * 2 + c.toNat ↔ fld w 7 2 = 0 ∧ (w / 2 % 2 == 1) = z ∧ (w % 2 == 1) = c := by
  have hz := z.toNat_lt
  have hc := c.toNat_lt
  simp only [oddBit_eq_iff, fld]
  omega
theorem low13_fn (hn : fn < 256) : fld w 12 0 = fn ↔ fld w 12 8 = 0 ∧ fld w 7 0 = fn := by
  simp only [fld]
  omega
theorem low13_f3 {n : Fin 8} : fld w 12 0 = n.val ↔ fld w 12 3 = 0 ∧ f3 w 0 = n := by
  simp only [f3_eq_iff, fld]
  omega
theorem low13_two (hn : fn < 4) : fld w 12 0 = fn ↔ fld w 12 2 = 0 ∧ fld w 1 0 = fn := by
  simp only [fld]
  omega
theorem low13_futRead {n : Fin 8} : fld w 12 0 = n.val ↔ fld w 12 11 = 0 ∧ fld w 10 3 = 0 ∧ f3 w 0 = n := by
  simp only [f3_eq_iff, fld]
  omega
theorem low13_futFill : fld w 12 0 = 2 ^ 11 ↔ fld w 12 11 = 1 ∧ fld w 10 0 = 0 := by
  simp only [fld]
  omega
theorem low13_alarmSet {p : BitVec 8} : fld w 12 0 = 2 ^ 11 + p.toNat ↔ fld w 12 11 = 1 ∧ fld w 10 8 = 0 ∧ imm 8 w 0 = p := by
  simp only [imm_eq_iff, fld]
  omega
theorem low13_alarmClr {p : BitVec 8} :
    fld w 12 0 = 2 ^ 11 + 2 ^ 8 + p.toNat ↔ fld w 12 11 = 1 ∧ fld w 10 8 = 1 ∧ imm 8 w 0 = p := by
  simp only [imm_eq_iff, fld]
  omega
theorem low18_odd (hn : fn < 2) : fld w 17 0 = fn ↔ fld w 17 1 = 0 ∧ w % 2 = fn := by
  simp only [fld]
  omega
theorem low18_fork {s : SReg} {k : Fin 16} {j : Fin 4} : fld w 17 0 = s.val * 2 ^ 8 + k.val * 2 ^ 2 + j.val ↔
    fld w 17 13 + fld w 7 6 = 0 ∧ reg w 8 = s ∧ f4 w 2 = k ∧ Fin.ofNat 4 w = j := by
  simp only [reg_eq_iff, f4_eq_iff, ofNat_eq_iff, fld]
  omega
theorem low18_stat {d : AReg} {n : Fin 16} : fld w 17 0 = d.val * 2 ^ 13 + n.val ↔ fld w 12 4 = 0 ∧ reg w 13 = d ∧ f4 w 0 = n := by
  simp only [reg_eq_iff, f4_eq_iff, fld]
  omega

end

/-! ### Instructions with a format of their own (R175, R176) -/

section
variable {w : Nat} {g t f : Guard} {a b d : AReg}

theorem encodeA_lui {i : BitVec 18} : encodeA (.lui g d i) = some w ↔
    w < 2 ^ 32 ∧ fld w 31 26 = 0x0A ∧ f3 w 23 = g ∧ reg w 18 = d ∧ imm 18 w 0 = i := by
  refine Option.some_inj.trans ?_
  simp only [Nat.add_assoc]
  rw [word_eq_iff (by omega), mod_eq_field_add_iff 23 18 5 rfl (by omega), reg_eq_iff, imm_low_eq_iff]
theorem encodeA_cmp {c : Fin 16} : encodeA (.cmp g t f c a b) = some w ↔ w < 2 ^ 32 ∧ fld w 31 26 = 0x10 ∧ fld w 2 0 = 0 ∧
    f3 w 23 = g ∧ f3 w 20 = t ∧ f3 w 17 = f ∧ f4 w 13 = c ∧ reg w 8 = a ∧ reg w 3 = b := by
  refine Option.some_inj.trans ?_
  simp only [Nat.add_assoc]
  rw [word_eq_iff (by omega), mod_eq_field_add_iff 23 20 3 rfl (by omega), mod_eq_field_add_iff 20 17 3 rfl (by omega),
    mod_eq_field_add_iff 17 13 4 rfl (by omega), mod_eq_field_add_iff 13 8 5 rfl (by omega), mod_eq_field_iff 8 3 5 rfl,
    f3_eq_iff (lo := 20), f3_eq_iff (lo := 17), f4_eq_iff, reg_eq_iff, reg_eq_iff, fld_low]
  tauto
theorem encodeA_cmpi {c : Fin 16} {i : BitVec 8} : encodeA (.cmpi g t f c a i) = some w ↔ w < 2 ^ 32 ∧ fld w 31 26 = 0x11 ∧
    f3 w 23 = g ∧ f3 w 20 = t ∧ f3 w 17 = f ∧ f4 w 13 = c ∧ reg w 8 = a ∧ imm 8 w 0 = i := by
  refine Option.some_inj.trans ?_
  simp only [Nat.add_assoc]
  rw [word_eq_iff (by omega), mod_eq_field_add_iff 23 20 3 rfl (by omega), mod_eq_field_add_iff 20 17 3 rfl (by omega),
    mod_eq_field_add_iff 17 13 4 rfl (by omega), mod_eq_field_add_iff 13 8 5 rfl (by omega),
    f3_eq_iff (lo := 20), f3_eq_iff (lo := 17), f4_eq_iff, reg_eq_iff, imm_low_eq_iff]
theorem encodeA_plog {n : Fin 16} {p q : Guard} : encodeA (.plog g t f n p q) = some w ↔ w < 2 ^ 32 ∧ fld w 31 26 = 0x12 ∧
    fld w 12 11 + fld w 7 6 + fld w 2 0 = 0 ∧ f3 w 23 = g ∧ f3 w 20 = t ∧ f3 w 17 = f ∧ f4 w 13 = n ∧ f3 w 8 = p ∧
    f3 w 3 = q := by
  refine Option.some_inj.trans ?_
  simp only [Nat.add_assoc]
  rw [word_eq_iff (by omega), mod_eq_field_add_iff 23 20 3 rfl (by omega), mod_eq_field_add_iff 20 17 3 rfl (by omega),
    mod_eq_field_add_iff 17 13 4 rfl (by omega), mod_eq_low_iff 13 11 2 rfl (by omega), mod_eq_field_add_iff 11 8 3 rfl (by omega),
    mod_eq_low_iff 8 6 2 rfl (by omega), mod_eq_field_iff 6 3 3 rfl]
  simp only [f3_eq_iff (lo := 20), f3_eq_iff (lo := 17), f3_eq_iff (lo := 8), f3_eq_iff (lo := 3), f4_eq_iff, fld_low,
    Nat.add_eq_zero_iff]
  simp only [fld, Nat.reduceAdd, Nat.reduceSub]
  tauto
theorem encodeA_b {o : BitVec 23} : encodeA (.b g o) = some w ↔
    w < 2 ^ 32 ∧ fld w 31 26 = 0x13 ∧ f3 w 23 = g ∧ imm 23 w 0 = o := by
  refine Option.some_inj.trans ?_
  simp only [Nat.add_assoc]
  rw [word_eq_iff (by omega), imm_low_eq_iff]
theorem encodeA_call {o : BitVec 23} : encodeA (.call g o) = some w ↔
    w < 2 ^ 32 ∧ fld w 31 26 = 0x14 ∧ f3 w 23 = g ∧ imm 23 w 0 = o := by
  refine Option.some_inj.trans ?_
  simp only [Nat.add_assoc]
  rw [word_eq_iff (by omega), imm_low_eq_iff]
theorem encodeA_loop {l : BitVec 12} : encodeA (.loop g a l) = some w ↔
    w < 2 ^ 32 ∧ fld w 31 26 = 0x16 ∧ fld w 17 12 = 0 ∧ f3 w 23 = g ∧ reg w 18 = a ∧ imm 12 w 0 = l := by
  refine Option.some_inj.trans ?_
  simp only [Nat.add_assoc]
  rw [word_eq_iff (by omega), mod_eq_field_add_iff 23 18 5 rfl (by omega), mod_eq_low_iff 18 12 6 rfl (by omega), reg_eq_iff,
    imm_low_eq_iff, fld]
  tauto
theorem encodeA_loopi {n : BitVec 14} {l : BitVec 9} : encodeA (.loopi g n l) = some w ↔
    w < 2 ^ 32 ∧ fld w 31 26 = 0x17 ∧ f3 w 23 = g ∧ imm 14 w 9 = n ∧ imm 9 w 0 = l := by
  refine Option.some_inj.trans ?_
  simp only [Nat.add_assoc]
  rw [word_eq_iff (by omega), mod_eq_field_add_iff 23 9 14 rfl (by omega), imm_eq_iff, imm_low_eq_iff]
theorem encodeA_pref {o : BitVec 10} : encodeA (.pref g a o) = some w ↔
    w < 2 ^ 32 ∧ fld w 31 26 = 0x1C ∧ fld w 12 10 = 3 ∧ fld w 22 18 = 0 ∧ f3 w 23 = g ∧ reg w 13 = a ∧ imm 10 w 0 = o := by
  refine Option.some_inj.trans ?_
  simp only [Nat.add_assoc]
  rw [word_eq_iff (by omega), mod_eq_low_iff 23 18 5 rfl (by omega), mod_eq_field_add_iff 18 13 5 rfl (by omega),
    mod_eq_field_add_iff 13 10 3 rfl (by omega), reg_eq_iff, imm_low_eq_iff]
  simp only [fld, Nat.reduceAdd, Nat.reduceSub]
  tauto
theorem encodeA_hLoad {h : Fin 16} {i : W16} : encodeA (.hLoad g h i) = some w ↔ w < 2 ^ 32 ∧ fld w 31 26 = 0x36 ∧
    fld w 22 22 + fld w 16 16 = 0 ∧ w / 2 ^ 17 % 2 = 0 ∧ f3 w 23 = g ∧ f4 w 18 = h ∧ imm 16 w 0 = i := by
  refine Option.some_inj.trans ?_
  simp only [Nat.add_assoc]
  rw [word_eq_iff (by omega), mod_eq_low_iff 23 22 1 rfl (by omega), mod_eq_field_add_iff 22 18 4 rfl (by omega),
    mod_eq_low_iff 18 17 1 rfl (by omega), mod_eq_low_iff 17 16 1 rfl (by omega), f4_eq_iff, imm_low_eq_iff, Nat.add_eq_zero_iff]
  simp only [fld, Nat.reduceAdd, Nat.reduceSub, Nat.pow_one]
  tauto
theorem encodeA_hLoadNone {h : Fin 16} {i : W16} : encodeA (.hLoadNone g h i) = some w ↔ w < 2 ^ 32 ∧ fld w 31 26 = 0x36 ∧
    fld w 22 22 + fld w 16 16 = 0 ∧ w / 2 ^ 17 % 2 = 1 ∧ f3 w 23 = g ∧ f4 w 18 = h ∧ imm 16 w 0 = i := by
  refine Option.some_inj.trans ?_
  simp only [Nat.add_assoc]
  rw [word_eq_iff (by omega), mod_eq_low_iff 23 22 1 rfl (by omega), mod_eq_field_add_iff 22 18 4 rfl (by omega),
    ← Nat.one_mul (2 ^ 17), mod_eq_field_add_iff 18 17 1 rfl (by omega), mod_eq_low_iff 17 16 1 rfl (by omega), f4_eq_iff,
    imm_low_eq_iff, Nat.add_eq_zero_iff]
  simp only [fld, Nat.reduceAdd, Nat.reduceSub, Nat.pow_one, Nat.one_mul]
  tauto
theorem encodeA_hGet {h : Fin 16} {i : BitVec 8} : encodeA (.hGet g d h i) = some w ↔ w < 2 ^ 32 ∧ fld w 31 26 = 0x37 ∧
    fld w 17 17 + fld w 12 8 = 0 ∧ f3 w 23 = g ∧ reg w 18 = d ∧ f4 w 13 = h ∧ imm 8 w 0 = i := by
  refine Option.some_inj.trans ?_
  simp only [Nat.add_assoc]
  rw [word_eq_iff (by omega), mod_eq_field_add_iff 23 18 5 rfl (by omega), mod_eq_low_iff 18 17 1 rfl (by omega),
    mod_eq_field_add_iff 17 13 4 rfl (by omega), mod_eq_low_iff 13 8 5 rfl (by omega), f4_eq_iff, reg_eq_iff, imm_low_eq_iff,
    Nat.add_eq_zero_iff]
  simp only [fld, Nat.reduceAdd, Nat.reduceSub]
  tauto

end
end Sys2Proof.Machine
end

section
/-! PROOF. The encoder gives back the A-set word that the decoder has read (R173, R175 to R182). -/

namespace Sys2Proof.Machine

/-! ### The parts of an AG word (R181) -/

section
variable {w n : Nat}

theorem ag_noRegs : fld w 22 13 = 0 ↔ fld w 22 18 = 0 ∧ fld w 17 13 = 0 := by
  simp only [fld]
  omega
theorem ag_noLow : fld w 12 0 = 0 ↔ fld w 12 11 = 0 ∧ fld w 10 0 = 0 := by
  simp only [fld]
  omega
theorem ag_onlyD : fld w 17 0 = 0 ↔ fld w 17 13 = 0 ∧ fld w 12 11 = 0 ∧ fld w 10 0 = 0 := by
  simp only [fld]
  omega
theorem ag_odd (hn : n < 2) : fld w 22 18 = 0 ∧ fld w 17 13 = 0 ∧ fld w 12 11 = 0 ∧ fld w 10 0 = n ↔ fld w 22 1 = 0 ∧ w % 2 = n := by
  simp only [fld]
  omega
theorem ag_scope {k : Fin 8} {m : BitVec 8} : fld w 10 0 = k.val * 2 ^ 8 + m.toNat ↔ f3 w 8 = k ∧ imm 8 w 0 = m := by
  simp only [f3_eq_iff, imm_eq_iff, fld]
  omega
theorem ag_imm8 {m : BitVec 8} : fld w 10 0 = m.toNat ↔ fld w 10 8 = 0 ∧ imm 8 w 0 = m := by
  simp only [imm_eq_iff, fld]
  omega
theorem ag_imm10 {m : BitVec 10} : fld w 10 0 = m.toNat ↔ fld w 10 10 = 0 ∧ imm 10 w 0 = m := by
  simp only [imm_eq_iff, fld]
  omega
theorem ag_imm11 {m : BitVec 11} : fld w 10 0 = m.toNat ↔ imm 11 w 0 = m := imm_eq_iff.symm
theorem ag_f3 {m : Fin 8} : fld w 10 0 = m.val ↔ fld w 10 3 = 0 ∧ f3 w 0 = m := by
  simp only [f3_eq_iff, fld]
  omega
theorem ag_bitNo {m : Fin 64} : fld w 10 0 = m.val ↔ fld w 10 6 = 0 ∧ Fin.ofNat 64 w = m := by
  simp only [ofNat_eq_iff, fld]
  omega
theorem ag_pred {t : Guard} : fld w 22 18 = t.val ↔ fld w 22 21 = 0 ∧ f3 w 18 = t := by
  simp only [f3_eq_iff, fld]
  omega
theorem ag_d {d : AReg} : fld w 22 18 = d.val ↔ reg w 18 = d := reg_eq_iff.symm
theorem ag_a {a : AReg} : fld w 17 13 = a.val ↔ reg w 13 = a := reg_eq_iff.symm
/-- The form of an S.COMMIT has four values. -/
theorem commit_fn_last (h0 : fld w 1 0 ≠ 0) (h1 : fld w 1 0 ≠ 1) (h2 : fld w 1 0 ≠ 2) : fld w 1 0 = 3 := by
  have h : fld w 1 0 < 4 := Nat.mod_lt _ (by decide)
  omega
/-- The function field has four values. -/
theorem ag_fn_last (h0 : fld w 12 11 ≠ 0) (h1 : fld w 12 11 ≠ 1) (h2 : fld w 12 11 ≠ 2) : fld w 12 11 = 3 := by
  have h : fld w 12 11 < 4 := Nat.mod_lt _ (by decide)
  omega

end

/-! ### What a word decodes to is encoded to it -/

section
variable {w : Nat} {i : Instr} (hw : w < 2 ^ 32)
include hw

theorem encodeA_of_decodeAlu (ho : fld w 31 26 = 0x01) (h : decodeAlu w = .ok i) : encodeA i = some w := by
  unfold decodeAlu at h
  split at h
  case h_20 => cases h
  case h_18 hn | h_19 hn =>
    obtain ⟨hz, rfl⟩ := ifZero_eq_ok.1 h
    exact congrArg some ((encRR_eq_iff (by decide)).2 ⟨hw, ho, rfl, (low13_fn (by decide)).2 ⟨hz, hn⟩⟩)
  all_goals
    rename_i hn
    cases h
    exact congrArg some ((encRRR_eq_iff (by decide)).2 ⟨hw, ho, rfl, hn⟩)

theorem encodeA_of_decodeAmo (ho : fld w 31 26 = 0x1D) (h : decodeAmo w = .ok i) : encodeA i = some w := by
  unfold decodeAmo at h
  split at h
  case h_10 => cases h
  all_goals
    rename_i hn
    cases h
    exact congrArg some ((encRRR_eq_iff (by decide)).2 ⟨hw, ho, rfl, hn⟩)

theorem encodeA_of_decodeSync (ho : fld w 31 26 = 0x39) (h : decodeSync w = .ok i) : encodeA i = some w := by
  unfold decodeSync at h
  split at h
  case h_1 hn =>
    cases h
    exact congrArg some ((encAG_eq_iff (by omega)).2 ⟨hw, ho, rfl, rfl, rfl, hn, ag_scope.2 ⟨rfl, rfl⟩⟩)
  case h_2 hn =>
    obtain ⟨hd, rfl⟩ := ifZero_eq_ok.1 h
    exact congrArg some ((encAG_eq_iff (by omega)).2 ⟨hw, ho, rfl, hd, rfl, hn, ag_scope.2 ⟨rfl, rfl⟩⟩)
  case h_3 hn =>
    obtain ⟨hz, rfl⟩ := ifZero_eq_ok.1 h
    obtain ⟨hd, ha⟩ := ag_noRegs.1 hz
    exact congrArg some ((encAG_eq_iff (by omega)).2 ⟨hw, ho, rfl, hd, ha, hn, ag_scope.2 ⟨rfl, rfl⟩⟩)
  case h_4 h0 h1 h2 =>
    obtain ⟨hz, rfl⟩ := ifZero_eq_ok.1 h
    obtain ⟨hz, hl⟩ := Nat.add_eq_zero_iff.1 hz
    obtain ⟨hd, ha⟩ := ag_noRegs.1 hz
    exact congrArg some ((encAG_eq_iff (by decide)).2 ⟨hw, ho, rfl, hd, ha, ag_fn_last h0 h1 h2, hl⟩)

theorem encodeA_of_decodeBar (ho : fld w 31 26 = 0x3A) (h : decodeBar w = .ok i) : encodeA i = some w := by
  unfold decodeBar at h
  split at h
  case h_4 => cases h
  case h_1 hn | h_2 hn =>
    obtain ⟨hz, rfl⟩ := ifZero_eq_ok.1 h
    obtain ⟨hz, hl⟩ := Nat.add_eq_zero_iff.1 hz
    obtain ⟨hd, ha⟩ := ag_noRegs.1 hz
    exact congrArg some ((encAG_eq_iff (by omega)).2 ⟨hw, ho, rfl, hd, ha, hn, ag_imm8.2 ⟨hl, rfl⟩⟩)
  case h_3 hn =>
    obtain ⟨hz, rfl⟩ := ifZero_eq_ok.1 h
    obtain ⟨hd, hl⟩ := Nat.add_eq_zero_iff.1 hz
    exact congrArg some ((encAG_eq_iff (by omega)).2 ⟨hw, ho, rfl, hd, rfl, hn, ag_imm8.2 ⟨hl, rfl⟩⟩)

theorem encodeA_of_decodeTask (ho : fld w 31 26 = 0x3B) (h : decodeTask w = .ok i) : encodeA i = some w := by
  unfold decodeTask at h
  split at h
  case h_4 => cases h
  case h_1 hn =>
    obtain ⟨hz, rfl⟩ := ifZero_eq_ok.1 h
    obtain ⟨hd, hl⟩ := Nat.add_eq_zero_iff.1 hz
    exact congrArg some ((encAG_eq_iff (by omega)).2 ⟨hw, ho, rfl, hd, rfl, hn, hl⟩)
  case h_2 hn | h_3 hn =>
    obtain ⟨hz, rfl⟩ := ifZero_eq_ok.1 h
    obtain ⟨hz, hl⟩ := Nat.add_eq_zero_iff.1 hz
    obtain ⟨hd, ha⟩ := ag_noRegs.1 hz
    exact congrArg some ((encAG_eq_iff (by decide)).2 ⟨hw, ho, rfl, hd, ha, hn, hl⟩)

theorem encodeA_of_decodeFut (ho : fld w 31 26 = 0x3C) (h : decodeFut w = .ok i) : encodeA i = some w := by
  unfold decodeFut at h
  split at h
  case h_3 => cases h
  case h_1 hn =>
    obtain ⟨hz, rfl⟩ := ifZero_eq_ok.1 h
    exact congrArg some ((encRR_eq_iff (by omega)).2 ⟨hw, ho, rfl, low13_futRead.2 ⟨hn, hz, rfl⟩⟩)
  case h_2 hn =>
    obtain ⟨hz, rfl⟩ := ifZero_eq_ok.1 h
    exact congrArg some ((encRR_eq_iff (by decide)).2 ⟨hw, ho, rfl, low13_futFill.2 ⟨hn, hz⟩⟩)

theorem encodeA_of_decodeTt (ho : fld w 31 26 = 0x3D) (h : decodeTt w = .ok i) : encodeA i = some w := by
  unfold decodeTt at h
  split at h
  case h_3 => cases h
  all_goals
    rename_i hn
    obtain ⟨hz, rfl⟩ := ifZero_eq_ok.1 h
    obtain ⟨hz, hl⟩ := Nat.add_eq_zero_iff.1 hz
    obtain ⟨hd, ha⟩ := ag_noRegs.1 hz
    exact congrArg some ((encAG_eq_iff (by omega)).2 ⟨hw, ho, rfl, hd, ha, hn, ag_imm10.2 ⟨hl, rfl⟩⟩)

theorem encodeA_of_decodeMisc (ho : fld w 31 26 = 0x3E) (h : decodeMisc w = .ok i) : encodeA i = some w := by
  unfold decodeMisc at h
  split at h
  case h_1 hn =>
    obtain ⟨hz, rfl⟩ := ifZero_eq_ok.1 h
    obtain ⟨hd, hl⟩ := Nat.add_eq_zero_iff.1 hz
    exact congrArg some ((encAG_eq_iff (by omega)).2 ⟨hw, ho, rfl, ag_pred.2 ⟨hd, rfl⟩, rfl, hn, ag_bitNo.2 ⟨hl, rfl⟩⟩)
  case h_2 hn =>
    split at h
    case h_1 hf =>
      cases h
      exact congrArg some ((encRR_eq_iff (by omega)).2 ⟨hw, ho, rfl, low13_alarmSet.2 ⟨hn, hf, rfl⟩⟩)
    case h_2 hf =>
      cases h
      exact congrArg some ((encRR_eq_iff (by omega)).2 ⟨hw, ho, rfl, low13_alarmClr.2 ⟨hn, hf, rfl⟩⟩)
    case h_3 => cases h
  case h_3 hn =>
    obtain ⟨ha, rfl⟩ := ifZero_eq_ok.1 h
    exact congrArg some ((encAG_eq_iff (by omega)).2 ⟨hw, ho, rfl, rfl, ha, hn, ag_imm11.2 rfl⟩)
  case h_4 h0 h1 h2 =>
    obtain ⟨hd, rfl⟩ := ifZero_eq_ok.1 h
    exact congrArg some ((encAG_eq_iff (by omega)).2 ⟨hw, ho, rfl, hd, rfl, ag_fn_last h0 h1 h2, ag_imm11.2 rfl⟩)

theorem encodeA_of_decodeSys (ho : fld w 31 26 = 0x3F) (h : decodeSys w = .ok i) : encodeA i = some w := by
  unfold decodeSys at h
  split at h
  case h_1 hn | h_2 hn =>
    obtain ⟨hz, rfl⟩ := ifZero_eq_ok.1 h
    obtain ⟨hz, hl⟩ := Nat.add_eq_zero_iff.1 hz
    obtain ⟨hd, ha⟩ := ag_noRegs.1 hz
    exact congrArg some ((encAG_eq_iff (by decide)).2 ⟨hw, ho, rfl, hd, ha, hn, hl⟩)
  case h_3 hn =>
    obtain ⟨hz, rfl⟩ := ifZero_eq_ok.1 h
    obtain ⟨hz, hl⟩ := Nat.add_eq_zero_iff.1 hz
    obtain ⟨hd, ha⟩ := ag_noRegs.1 hz
    exact congrArg some ((encAG_eq_iff (by omega)).2 ⟨hw, ho, rfl, hd, ha, hn, ag_f3.2 ⟨hl, rfl⟩⟩)
  case h_4 h0 h1 h2 =>
    obtain ⟨hd, rfl⟩ := ifZero_eq_ok.1 h
    exact congrArg some ((encAG_eq_iff (by omega)).2 ⟨hw, ho, rfl, hd, rfl, ag_fn_last h0 h1 h2, ag_imm11.2 rfl⟩)

end

/-- An instruction that an A-set word decodes to is encoded to that word. -/
theorem encodeA_of_decodeA {w : Nat} {i : Instr} (hw : w < 2 ^ 32) (h : decodeA w = .ok i) : encodeA i = some w := by
  unfold decodeA at h
  split at h
  case h_61 => cases h
  case h_1 ho => exact encodeA_of_decodeAlu hw ho h
  case h_28 ho => exact encodeA_of_decodeAmo hw ho h
  case h_54 ho => exact encodeA_of_decodeSync hw ho h
  case h_55 ho => exact encodeA_of_decodeBar hw ho h
  case h_56 ho => exact encodeA_of_decodeTask hw ho h
  case h_57 ho => exact encodeA_of_decodeFut hw ho h
  case h_58 ho => exact encodeA_of_decodeTt hw ho h
  case h_59 ho => exact encodeA_of_decodeMisc hw ho h
  case h_60 ho => exact encodeA_of_decodeSys hw ho h
  case h_2 ho | h_3 ho | h_4 ho | h_5 ho | h_9 ho =>
    cases h
    exact congrArg some ((encRI_eq_iff (by decide)).2 ⟨hw, ho, rfl⟩)
  case h_6 ho | h_7 ho | h_8 ho =>
    obtain ⟨hz, rfl⟩ := ifZero_eq_ok.1 h
    exact congrArg some ((encSh_eq_iff (by decide)).2 ⟨hw, ho, rfl, hz⟩)
  case h_10 ho =>
    cases h
    exact encodeA_lui.2 ⟨hw, ho, rfl, rfl, rfl⟩
  case h_11 ho =>
    obtain ⟨hz, rfl⟩ := ifZero_eq_ok.1 h
    exact congrArg some ((encRRR_eq_iff (by omega)).2 ⟨hw, ho, rfl, low_reg.2 ⟨hz, rfl⟩⟩)
  case h_12 ho =>
    split at h
    case isTrue hs =>
      cases h
      exact congrArg some ((encBf_eq_iff (by decide)).2 ⟨hw, ho, rfl, hs⟩)
    case isFalse hs =>
      cases h
      exact congrArg some ((encBf_eq_iff (by decide)).2 ⟨hw, ho, rfl, Nat.mod_two_ne_zero.1 hs⟩)
  case h_13 ho =>
    obtain ⟨hz, rfl⟩ := ifZero_eq_ok.1 h
    exact congrArg some ((encBf_eq_iff (by decide)).2 ⟨hw, ho, rfl, hz⟩)
  case h_14 ho =>
    obtain ⟨hz, rfl⟩ := ifZero_eq_ok.1 h
    exact congrArg some ((encRRR_eq_iff (by omega)).2 ⟨hw, ho, rfl, low_f3.2 ⟨hz, rfl⟩⟩)
  case h_15 ho =>
    obtain ⟨hz, rfl⟩ := ifZero_eq_ok.1 h
    exact encodeA_cmp.2 ⟨hw, ho, hz, rfl, rfl, rfl, rfl, rfl, rfl⟩
  case h_16 ho =>
    cases h
    exact encodeA_cmpi.2 ⟨hw, ho, rfl, rfl, rfl, rfl, rfl, rfl⟩
  case h_17 ho =>
    obtain ⟨hz, rfl⟩ := ifZero_eq_ok.1 h
    exact encodeA_plog.2 ⟨hw, ho, hz, rfl, rfl, rfl, rfl, rfl, rfl⟩
  case h_18 ho =>
    cases h
    exact encodeA_b.2 ⟨hw, ho, rfl, rfl⟩
  case h_19 ho =>
    cases h
    exact encodeA_call.2 ⟨hw, ho, rfl, rfl⟩
  case h_20 ho =>
    obtain ⟨hz, rfl⟩ := ifZero_eq_ok.1 h
    exact congrArg some ((encRR_eq_iff (by decide)).2 ⟨hw, ho, rfl, hz⟩)
  case h_21 ho =>
    obtain ⟨hz, rfl⟩ := ifZero_eq_ok.1 h
    exact encodeA_loop.2 ⟨hw, ho, hz, rfl, rfl, rfl⟩
  case h_22 ho =>
    cases h
    exact encodeA_loopi.2 ⟨hw, ho, rfl, rfl, rfl⟩
  case h_23 ho | h_24 ho =>
    cases h
    exact congrArg some ((encMem_eq_iff (by decide)).2 ⟨hw, ho, rfl⟩)
  case h_25 ho | h_26 ho =>
    obtain ⟨hz, rfl⟩ := ifZero_eq_ok.1 h
    exact congrArg some ((encIdx_eq_iff (by decide)).2 ⟨hw, ho, rfl, hz⟩)
  case h_27 ho =>
    split at h
    case isTrue hp =>
      obtain ⟨hz, rfl⟩ := ifZero_eq_ok.1 h
      exact encodeA_pref.2 ⟨hw, ho, hp, hz, rfl, rfl, rfl⟩
    case isFalse => split at h <;> cases h
  case h_29 ho =>
    obtain ⟨hz, rfl⟩ := ifZero_eq_ok.1 h
    exact congrArg some ((encRRR_eq_iff (by decide)).2 ⟨hw, ho, rfl, hz⟩)
  case h_30 ho =>
    obtain ⟨hz, rfl⟩ := ifZero_eq_ok.1 h
    split
    case isTrue hs => exact congrArg some ((encSAB_eq_iff (by decide)).2 ⟨hw, ho, rfl, (low_odd (by decide)).2 ⟨hz, hs⟩⟩)
    case isFalse hs =>
      exact congrArg some ((encSAB_eq_iff (by decide)).2
        ⟨hw, ho, rfl, (low_odd (by decide)).2 ⟨hz, Nat.mod_two_ne_zero.1 hs⟩⟩)
  case h_31 ho =>
    obtain ⟨hz, rfl⟩ := ifZero_eq_ok.1 h
    exact congrArg some ((encSAB_eq_iff (by omega)).2 ⟨hw, ho, rfl, low_f3.2 ⟨hz, rfl⟩⟩)
  case h_33 ho | h_34 ho =>
    obtain ⟨hz, rfl⟩ := ifZero_eq_ok.1 h
    exact congrArg some ((encSAB_eq_iff (by omega)).2 ⟨hw, ho, rfl, low_two.2 ⟨hz, rfl⟩⟩)
  case h_32 ho | h_40 ho =>
    obtain ⟨hz, rfl⟩ := ifZero_eq_ok.1 h
    exact congrArg some ((encSO_eq_iff (by decide)).2 ⟨hw, ho, rfl, hz⟩)
  case h_35 ho | h_37 ho | h_38 ho =>
    obtain ⟨hz, rfl⟩ := ifZero_eq_ok.1 h
    exact congrArg some ((encSA_eq_iff (by decide)).2 ⟨hw, ho, rfl, hz⟩)
  case h_36 ho =>
    obtain ⟨hz, rfl⟩ := ifZero_eq_ok.1 h
    split
    case h_1 hk | h_2 hk | h_3 hk =>
      exact congrArg some ((encSA_eq_iff (by decide)).2 ⟨hw, ho, rfl, (low13_two (by decide)).2 ⟨hz, hk⟩⟩)
    case h_4 h0 h1 h2 =>
      exact congrArg some ((encSA_eq_iff (by decide)).2 ⟨hw, ho, rfl, (low13_two (by decide)).2 ⟨hz, commit_fn_last h0 h1 h2⟩⟩)
  case h_39 ho | h_42 ho =>
    obtain ⟨hz, rfl⟩ := ifZero_eq_ok.1 h
    split
    case isTrue hs => exact congrArg some ((encSO_eq_iff (by decide)).2 ⟨hw, ho, rfl, (low18_odd (by decide)).2 ⟨hz, hs⟩⟩)
    case isFalse hs =>
      exact congrArg some ((encSO_eq_iff (by decide)).2
        ⟨hw, ho, rfl, (low18_odd (by decide)).2 ⟨hz, Nat.mod_two_ne_zero.1 hs⟩⟩)
  case h_41 ho =>
    obtain ⟨hz, rfl⟩ := ifZero_eq_ok.1 h
    exact congrArg some ((encSO_eq_iff (by omega)).2 ⟨hw, ho, rfl, low18_fork.2 ⟨hz, rfl, rfl, rfl⟩⟩)
  case h_43 ho =>
    obtain ⟨hz, rfl⟩ := ifZero_eq_ok.1 h
    exact congrArg some ((encSO_eq_iff (by omega)).2 ⟨hw, ho, rfl, low18_stat.2 ⟨hz, rfl, rfl⟩⟩)
  case h_44 ho | h_53 ho =>
    obtain ⟨hz, rfl⟩ := ifZero_eq_ok.1 h
    obtain ⟨hd, hz⟩ := Nat.add_eq_zero_iff.1 hz
    obtain ⟨hn, hl⟩ := ag_noLow.1 hz
    exact congrArg some ((encAG_eq_iff (by omega)).2 ⟨hw, ho, rfl, hd, rfl, hn, hl⟩)
  case h_45 ho =>
    obtain ⟨hz, rfl⟩ := ifZero_eq_ok.1 h
    obtain ⟨ha, hn, hl⟩ := ag_onlyD.1 hz
    exact congrArg some ((encAG_eq_iff (by omega)).2 ⟨hw, ho, rfl, rfl, ha, hn, hl⟩)
  case h_46 ho =>
    cases h
    have hc := (w % 2 == 1).toNat_lt
    exact congrArg some ((encRRR_eq_iff (by omega)).2 ⟨hw, ho, rfl, low_tag.2 ⟨rfl, rfl⟩⟩)
  case h_47 ho =>
    obtain ⟨hz, rfl⟩ := ifZero_eq_ok.1 h
    exact congrArg some ((encRR_eq_iff (by omega)).2 ⟨hw, ho, rfl, low13_f3.2 ⟨hz, rfl⟩⟩)
  case h_48 ho =>
    obtain ⟨hz, rfl⟩ := ifZero_eq_ok.1 h
    split
    case isTrue hs => exact congrArg some ((encAG_eq_iff (by decide)).2 ⟨hw, ho, rfl, (ag_odd (by decide)).2 ⟨hz, hs⟩⟩)
    case isFalse hs =>
      exact congrArg some ((encAG_eq_iff (by decide)).2 ⟨hw, ho, rfl, (ag_odd (by decide)).2 ⟨hz, Nat.mod_two_ne_zero.1 hs⟩⟩)
  case h_49 ho | h_50 ho =>
    obtain ⟨hz, rfl⟩ := ifZero_eq_ok.1 h
    have hs := (w / 2 % 2 == 1).toNat_lt
    have hc := (w % 2 == 1).toNat_lt
    exact congrArg some ((encSAB_eq_iff (by omega)).2 ⟨hw, ho, rfl, low_flags.2 ⟨hz, rfl, rfl⟩⟩)
  case h_51 ho =>
    obtain ⟨hz, rfl⟩ := ifZero_eq_ok.1 h
    split
    case isTrue hs => exact encodeA_hLoad.2 ⟨hw, ho, hz, hs, rfl, rfl, rfl⟩
    case isFalse hs => exact encodeA_hLoadNone.2 ⟨hw, ho, hz, Nat.mod_two_ne_zero.1 hs, rfl, rfl, rfl⟩
  case h_52 ho =>
    obtain ⟨hz, rfl⟩ := ifZero_eq_ok.1 h
    exact encodeA_hGet.2 ⟨hw, ho, hz, rfl, rfl, rfl, rfl⟩

end Sys2Proof.Machine
end

section
/-! PROOF. The decoder reads every word that the encoder writes for an A-set instruction (R173 to R182). -/

namespace Sys2Proof.Machine

/-! ### An instruction that a group's decoder reads -/

section
variable {w : Nat}

theorem decodeA_of_encodeA_syncAcq {g : Guard} {d a : AReg} {k : Fin 8} {n : BitVec 8} (h : encodeA (.syncAcq g d a k n) = some w) :
    w < 2 ^ 32 ∧ decodeA w = .ok (.syncAcq g d a k n) := by
  obtain ⟨hw, ho, hg, hd, ha, hn, hl⟩ := (encAG_eq_iff (by omega)).1 (Option.some.inj h)
  obtain ⟨hk, hm⟩ := ag_scope.1 hl
  exact ⟨hw, by simp only [decodeA, ho, decodeSync, hn, hg, ag_d.1 hd, ag_a.1 ha, hk, hm]⟩
theorem decodeA_of_encodeA_syncRel {g : Guard} {a : AReg} {k : Fin 8} {n : BitVec 8} (h : encodeA (.syncRel g a k n) = some w) :
    w < 2 ^ 32 ∧ decodeA w = .ok (.syncRel g a k n) := by
  obtain ⟨hw, ho, hg, hd, ha, hn, hl⟩ := (encAG_eq_iff (by omega)).1 (Option.some.inj h)
  obtain ⟨hk, hm⟩ := ag_scope.1 hl
  exact ⟨hw, by simp only [decodeA, ho, decodeSync, hn, hg, hd, ag_a.1 ha, hk, hm, ifZero_zero]⟩
theorem decodeA_of_encodeA_syncFence {g : Guard} {k : Fin 8} {n : BitVec 8} (h : encodeA (.syncFence g k n) = some w) :
    w < 2 ^ 32 ∧ decodeA w = .ok (.syncFence g k n) := by
  obtain ⟨hw, ho, hg, hd, ha, hn, hl⟩ := (encAG_eq_iff (by omega)).1 (Option.some.inj h)
  obtain ⟨hk, hm⟩ := ag_scope.1 hl
  exact ⟨hw, by simp only [decodeA, ho, decodeSync, hn, hg, ag_noRegs.2 ⟨hd, ha⟩, hk, hm, ifZero_zero]⟩
theorem decodeA_of_encodeA_syncLaunchEarly {g : Guard} (h : encodeA (.syncLaunchEarly g) = some w) :
    w < 2 ^ 32 ∧ decodeA w = .ok (.syncLaunchEarly g) := by
  obtain ⟨hw, ho, hg, hd, ha, hn, hl⟩ := (encAG_eq_iff (by decide)).1 (Option.some.inj h)
  exact ⟨hw, by simp only [decodeA, ho, decodeSync, hn, hg, ag_noRegs.2 ⟨hd, ha⟩, hl, Nat.add_zero, ifZero_zero]⟩
theorem decodeA_of_encodeA_barArrive {g : Guard} {n : BitVec 8} (h : encodeA (.barArrive g n) = some w) :
    w < 2 ^ 32 ∧ decodeA w = .ok (.barArrive g n) := by
  obtain ⟨hw, ho, hg, hd, ha, hn, hl⟩ := (encAG_eq_iff (by omega)).1 (Option.some.inj h)
  obtain ⟨hz, hm⟩ := ag_imm8.1 hl
  exact ⟨hw, by simp only [decodeA, ho, decodeBar, hn, hg, ag_noRegs.2 ⟨hd, ha⟩, hz, hm, Nat.add_zero, ifZero_zero]⟩
theorem decodeA_of_encodeA_barWait {g : Guard} {n : BitVec 8} (h : encodeA (.barWait g n) = some w) :
    w < 2 ^ 32 ∧ decodeA w = .ok (.barWait g n) := by
  obtain ⟨hw, ho, hg, hd, ha, hn, hl⟩ := (encAG_eq_iff (by omega)).1 (Option.some.inj h)
  obtain ⟨hz, hm⟩ := ag_imm8.1 hl
  exact ⟨hw, by simp only [decodeA, ho, decodeBar, hn, hg, ag_noRegs.2 ⟨hd, ha⟩, hz, hm, Nat.add_zero, ifZero_zero]⟩
theorem decodeA_of_encodeA_barExpect {g : Guard} {a : AReg} {n : BitVec 8} (h : encodeA (.barExpect g a n) = some w) :
    w < 2 ^ 32 ∧ decodeA w = .ok (.barExpect g a n) := by
  obtain ⟨hw, ho, hg, hd, ha, hn, hl⟩ := (encAG_eq_iff (by omega)).1 (Option.some.inj h)
  obtain ⟨hz, hm⟩ := ag_imm8.1 hl
  exact ⟨hw, by simp only [decodeA, ho, decodeBar, hn, hg, hd, ag_a.1 ha, hz, hm, Nat.add_zero, ifZero_zero]⟩
theorem decodeA_of_encodeA_taskSpawn {g : Guard} {a : AReg} (h : encodeA (.taskSpawn g a) = some w) :
    w < 2 ^ 32 ∧ decodeA w = .ok (.taskSpawn g a) := by
  obtain ⟨hw, ho, hg, hd, ha, hn, hl⟩ := (encAG_eq_iff (by omega)).1 (Option.some.inj h)
  exact ⟨hw, by simp only [decodeA, ho, decodeTask, hn, hg, hd, ag_a.1 ha, hl, Nat.add_zero, ifZero_zero]⟩
theorem decodeA_of_encodeA_taskNext {g : Guard} (h : encodeA (.taskNext g) = some w) :
    w < 2 ^ 32 ∧ decodeA w = .ok (.taskNext g) := by
  obtain ⟨hw, ho, hg, hd, ha, hn, hl⟩ := (encAG_eq_iff (by decide)).1 (Option.some.inj h)
  exact ⟨hw, by simp only [decodeA, ho, decodeTask, hn, hg, ag_noRegs.2 ⟨hd, ha⟩, hl, Nat.add_zero, ifZero_zero]⟩
theorem decodeA_of_encodeA_taskDone {g : Guard} (h : encodeA (.taskDone g) = some w) :
    w < 2 ^ 32 ∧ decodeA w = .ok (.taskDone g) := by
  obtain ⟨hw, ho, hg, hd, ha, hn, hl⟩ := (encAG_eq_iff (by decide)).1 (Option.some.inj h)
  exact ⟨hw, by simp only [decodeA, ho, decodeTask, hn, hg, ag_noRegs.2 ⟨hd, ha⟩, hl, Nat.add_zero, ifZero_zero]⟩
theorem decodeA_of_encodeA_futRead {f : RR} {n : Fin 8} (h : encodeA (.futRead f n) = some w) :
    w < 2 ^ 32 ∧ decodeA w = .ok (.futRead f n) := by
  obtain ⟨hw, ho, hr, hn⟩ := (encRR_eq_iff (by omega)).1 (Option.some.inj h)
  obtain ⟨hf, hz, hn⟩ := low13_futRead.1 hn
  exact ⟨hw, by simp only [decodeA, ho, decodeFut, hf, hr, hz, hn, ifZero_zero]⟩
theorem decodeA_of_encodeA_futFill {f : RR} (h : encodeA (.futFill f) = some w) :
    w < 2 ^ 32 ∧ decodeA w = .ok (.futFill f) := by
  obtain ⟨hw, ho, hr, hn⟩ := (encRR_eq_iff (by decide)).1 (Option.some.inj h)
  obtain ⟨hf, hz⟩ := low13_futFill.1 hn
  exact ⟨hw, by simp only [decodeA, ho, decodeFut, hf, hr, hz, ifZero_zero]⟩
theorem decodeA_of_encodeA_ttWait {g : Guard} {n : BitVec 10} (h : encodeA (.ttWait g n) = some w) :
    w < 2 ^ 32 ∧ decodeA w = .ok (.ttWait g n) := by
  obtain ⟨hw, ho, hg, hd, ha, hn, hl⟩ := (encAG_eq_iff (by omega)).1 (Option.some.inj h)
  obtain ⟨hz, hm⟩ := ag_imm10.1 hl
  exact ⟨hw, by simp only [decodeA, ho, decodeTt, hn, hg, ag_noRegs.2 ⟨hd, ha⟩, hz, hm, Nat.add_zero, ifZero_zero]⟩
theorem decodeA_of_encodeA_ttDone {g : Guard} {n : BitVec 10} (h : encodeA (.ttDone g n) = some w) :
    w < 2 ^ 32 ∧ decodeA w = .ok (.ttDone g n) := by
  obtain ⟨hw, ho, hg, hd, ha, hn, hl⟩ := (encAG_eq_iff (by omega)).1 (Option.some.inj h)
  obtain ⟨hz, hm⟩ := ag_imm10.1 hl
  exact ⟨hw, by simp only [decodeA, ho, decodeTt, hn, hg, ag_noRegs.2 ⟨hd, ha⟩, hz, hm, Nat.add_zero, ifZero_zero]⟩
theorem decodeA_of_encodeA_skipTest {g t : Guard} {a : AReg} {n : Fin 64} (h : encodeA (.skipTest g t a n) = some w) :
    w < 2 ^ 32 ∧ decodeA w = .ok (.skipTest g t a n) := by
  obtain ⟨hw, ho, hg, hd, ha, hn, hl⟩ := (encAG_eq_iff (by omega)).1 (Option.some.inj h)
  obtain ⟨hd, ht⟩ := ag_pred.1 hd
  obtain ⟨hz, hm⟩ := ag_bitNo.1 hl
  exact ⟨hw, by simp only [decodeA, ho, decodeMisc, hn, hg, hd, ht, ag_a.1 ha, hz, hm, Nat.add_zero, ifZero_zero]⟩
theorem decodeA_of_encodeA_alarmSet {f : RR} {p : BitVec 8} (h : encodeA (.alarmSet f p) = some w) :
    w < 2 ^ 32 ∧ decodeA w = .ok (.alarmSet f p) := by
  obtain ⟨hw, ho, hr, hn⟩ := (encRR_eq_iff (by omega)).1 (Option.some.inj h)
  obtain ⟨hf, hs, hp⟩ := low13_alarmSet.1 hn
  exact ⟨hw, by simp only [decodeA, ho, decodeMisc, hf, hs, hr, hp]⟩
theorem decodeA_of_encodeA_alarmClr {f : RR} {p : BitVec 8} (h : encodeA (.alarmClr f p) = some w) :
    w < 2 ^ 32 ∧ decodeA w = .ok (.alarmClr f p) := by
  obtain ⟨hw, ho, hr, hn⟩ := (encRR_eq_iff (by omega)).1 (Option.some.inj h)
  obtain ⟨hf, hs, hp⟩ := low13_alarmClr.1 hn
  exact ⟨hw, by simp only [decodeA, ho, decodeMisc, hf, hs, hr, hp]⟩
theorem decodeA_of_encodeA_csrR {g : Guard} {d : AReg} {n : BitVec 11} (h : encodeA (.csrR g d n) = some w) :
    w < 2 ^ 32 ∧ decodeA w = .ok (.csrR g d n) := by
  obtain ⟨hw, ho, hg, hd, ha, hn, hl⟩ := (encAG_eq_iff (by omega)).1 (Option.some.inj h)
  exact ⟨hw, by simp only [decodeA, ho, decodeMisc, hn, hg, ag_d.1 hd, ha, ag_imm11.1 hl, ifZero_zero]⟩
theorem decodeA_of_encodeA_csrW {g : Guard} {a : AReg} {n : BitVec 11} (h : encodeA (.csrW g a n) = some w) :
    w < 2 ^ 32 ∧ decodeA w = .ok (.csrW g a n) := by
  obtain ⟨hw, ho, hg, hd, ha, hn, hl⟩ := (encAG_eq_iff (by omega)).1 (Option.some.inj h)
  exact ⟨hw, by simp only [decodeA, ho, decodeMisc, hn, hg, hd, ag_a.1 ha, ag_imm11.1 hl, ifZero_zero]⟩
theorem decodeA_of_encodeA_halt {g : Guard} (h : encodeA (.halt g) = some w) :
    w < 2 ^ 32 ∧ decodeA w = .ok (.halt g) := by
  obtain ⟨hw, ho, hg, hd, ha, hn, hl⟩ := (encAG_eq_iff (by decide)).1 (Option.some.inj h)
  exact ⟨hw, by simp only [decodeA, ho, decodeSys, hn, hg, ag_noRegs.2 ⟨hd, ha⟩, hl, Nat.add_zero, ifZero_zero]⟩
theorem decodeA_of_encodeA_yield {g : Guard} (h : encodeA (.yield g) = some w) :
    w < 2 ^ 32 ∧ decodeA w = .ok (.yield g) := by
  obtain ⟨hw, ho, hg, hd, ha, hn, hl⟩ := (encAG_eq_iff (by decide)).1 (Option.some.inj h)
  exact ⟨hw, by simp only [decodeA, ho, decodeSys, hn, hg, ag_noRegs.2 ⟨hd, ha⟩, hl, Nat.add_zero, ifZero_zero]⟩
theorem decodeA_of_encodeA_trap {g : Guard} {n : Fin 8} (h : encodeA (.trap g n) = some w) :
    w < 2 ^ 32 ∧ decodeA w = .ok (.trap g n) := by
  obtain ⟨hw, ho, hg, hd, ha, hn, hl⟩ := (encAG_eq_iff (by omega)).1 (Option.some.inj h)
  obtain ⟨hz, hm⟩ := ag_f3.1 hl
  exact ⟨hw, by simp only [decodeA, ho, decodeSys, hn, hg, ag_noRegs.2 ⟨hd, ha⟩, hz, hm, Nat.add_zero, ifZero_zero]⟩
theorem decodeA_of_encodeA_traceMark {g : Guard} {a : AReg} {n : BitVec 11} (h : encodeA (.traceMark g a n) = some w) :
    w < 2 ^ 32 ∧ decodeA w = .ok (.traceMark g a n) := by
  obtain ⟨hw, ho, hg, hd, ha, hn, hl⟩ := (encAG_eq_iff (by omega)).1 (Option.some.inj h)
  exact ⟨hw, by simp only [decodeA, ho, decodeSys, hn, hg, hd, ag_a.1 ha, ag_imm11.1 hl, ifZero_zero]⟩

end

/-! ### Every instruction of the A-set -/

/-- The words of an instruction are A-set words that decode to it. -/
theorem decodeA_of_encodeA {w : Nat} {i : Instr} (h : encodeA i = some w) : w < 2 ^ 32 ∧ decodeA w = .ok i := by
  cases i
  case add f | sub f | mul f | mulh f | mulhu f | divu f | remu f | and f | or f | xor f | shl f | shr f | sra f | min f | max f |
      minu f | maxu f =>
    obtain ⟨hw, ho, hr, hn⟩ := (encRRR_eq_iff (by decide)).1 (Option.some.inj h)
    exact ⟨hw, by simp only [decodeA, ho, decodeAlu, hn, hr]⟩
  case clz f | popc f =>
    obtain ⟨hw, ho, hr, hn⟩ := (encRR_eq_iff (by decide)).1 (Option.some.inj h)
    obtain ⟨hz, hn⟩ := (low13_fn (by decide)).1 hn
    exact ⟨hw, by simp only [decodeA, ho, decodeAlu, hn, hr, hz, ifZero_zero]⟩
  case amoAdd f | amoAnd f | amoOr f | amoXor f | amoMin f | amoMax f | amoMinu f | amoMaxu f | amoSwap f =>
    obtain ⟨hw, ho, hr, hn⟩ := (encRRR_eq_iff (by decide)).1 (Option.some.inj h)
    exact ⟨hw, by simp only [decodeA, ho, decodeAmo, hn, hr]⟩
  case addi f | andi f | ori f | xori f | muli f =>
    obtain ⟨hw, ho, hr⟩ := (encRI_eq_iff (by decide)).1 (Option.some.inj h)
    exact ⟨hw, by simp only [decodeA, ho, hr]⟩
  case shli f | shri f | srai f =>
    obtain ⟨hw, ho, hr, hz⟩ := (encSh_eq_iff (by decide)).1 (Option.some.inj h)
    exact ⟨hw, by simp only [decodeA, ho, hr, hz, ifZero_zero]⟩
  case lui g d k =>
    obtain ⟨hw, ho, hg, hd, hk⟩ := encodeA_lui.1 h
    exact ⟨hw, by simp only [decodeA, ho, hg, hd, hk]⟩
  case madd f c =>
    obtain ⟨hw, ho, hr, hn⟩ := (encRRR_eq_iff (by omega)).1 (Option.some.inj h)
    obtain ⟨hz, hc⟩ := low_reg.1 hn
    exact ⟨hw, by simp only [decodeA, ho, hr, hz, hc, ifZero_zero]⟩
  case bfx f | bfxS f | bfi f =>
    obtain ⟨hw, ho, hr, hs⟩ := (encBf_eq_iff (by decide)).1 (Option.some.inj h)
    exact ⟨hw, by simp [decodeA, ho, hr, hs]⟩
  case sel f n =>
    obtain ⟨hw, ho, hr, hn⟩ := (encRRR_eq_iff (by omega)).1 (Option.some.inj h)
    obtain ⟨hz, hn⟩ := low_f3.1 hn
    exact ⟨hw, by simp only [decodeA, ho, hr, hz, hn, ifZero_zero]⟩
  case cmp g t f c a b =>
    obtain ⟨hw, ho, hz, hg, ht, hf, hc, ha, hb⟩ := encodeA_cmp.1 h
    exact ⟨hw, by simp only [decodeA, ho, hz, hg, ht, hf, hc, ha, hb, ifZero_zero]⟩
  case cmpi g t f c a k =>
    obtain ⟨hw, ho, hg, ht, hf, hc, ha, hk⟩ := encodeA_cmpi.1 h
    exact ⟨hw, by simp only [decodeA, ho, hg, ht, hf, hc, ha, hk]⟩
  case plog g t f n p q =>
    obtain ⟨hw, ho, hz, hg, ht, hf, hn, hp, hq⟩ := encodeA_plog.1 h
    exact ⟨hw, by simp only [decodeA, ho, hz, hg, ht, hf, hn, hp, hq, ifZero_zero]⟩
  case b g o =>
    obtain ⟨hw, ho, hg, hk⟩ := encodeA_b.1 h
    exact ⟨hw, by simp only [decodeA, ho, hg, hk]⟩
  case call g o =>
    obtain ⟨hw, ho, hg, hk⟩ := encodeA_call.1 h
    exact ⟨hw, by simp only [decodeA, ho, hg, hk]⟩
  case jr f =>
    obtain ⟨hw, ho, hr, hz⟩ := (encRR_eq_iff (by decide)).1 (Option.some.inj h)
    exact ⟨hw, by simp only [decodeA, ho, hr, hz, ifZero_zero]⟩
  case loop g c l =>
    obtain ⟨hw, ho, hz, hg, hc, hl⟩ := encodeA_loop.1 h
    exact ⟨hw, by simp only [decodeA, ho, hz, hg, hc, hl, ifZero_zero]⟩
  case loopi g n l =>
    obtain ⟨hw, ho, hg, hn, hl⟩ := encodeA_loopi.1 h
    exact ⟨hw, by simp only [decodeA, ho, hg, hn, hl]⟩
  case ld f | st f =>
    obtain ⟨hw, ho, hr⟩ := (encMem_eq_iff (by decide)).1 (Option.some.inj h)
    exact ⟨hw, by simp only [decodeA, ho, hr]⟩
  case ldx f | stx f =>
    obtain ⟨hw, ho, hr, hz⟩ := (encIdx_eq_iff (by decide)).1 (Option.some.inj h)
    exact ⟨hw, by simp only [decodeA, ho, hr, hz, ifZero_zero]⟩
  case pref g a o =>
    obtain ⟨hw, ho, hp, hz, hg, ha, hk⟩ := encodeA_pref.1 h
    exact ⟨hw, by simp [decodeA, ho, hp, hz, hg, ha, hk]⟩
  case cas f =>
    obtain ⟨hw, ho, hr, hz⟩ := (encRRR_eq_iff (by decide)).1 (Option.some.inj h)
    exact ⟨hw, by simp only [decodeA, ho, hr, hz, ifZero_zero]⟩
  case sOpen f | sOpenH f =>
    obtain ⟨hw, ho, hr, hn⟩ := (encSAB_eq_iff (by decide)).1 (Option.some.inj h)
    obtain ⟨hz, hs⟩ := (low_odd (by decide)).1 hn
    exact ⟨hw, by simp [decodeA, ho, hr, hz, hs]⟩
  case sPat f n =>
    obtain ⟨hw, ho, hr, hn⟩ := (encSAB_eq_iff (by omega)).1 (Option.some.inj h)
    obtain ⟨hz, hn⟩ := low_f3.1 hn
    exact ⟨hw, by simp only [decodeA, ho, hr, hz, hn, ifZero_zero]⟩
  case sAddr f k | sData f k =>
    obtain ⟨hw, ho, hr, hn⟩ := (encSAB_eq_iff (by omega)).1 (Option.some.inj h)
    obtain ⟨hz, hn⟩ := low_two.1 hn
    exact ⟨hw, by simp only [decodeA, ho, hr, hz, hn, ifZero_zero]⟩
  case sGo f | sRewind f =>
    obtain ⟨hw, ho, hr, hz⟩ := (encSO_eq_iff (by decide)).1 (Option.some.inj h)
    exact ⟨hw, by simp only [decodeA, ho, hr, hz, ifZero_zero]⟩
  case sClaim f | sAwait f | sRetire f =>
    obtain ⟨hw, ho, hr, hz⟩ := (encSA_eq_iff (by decide)).1 (Option.some.inj h)
    exact ⟨hw, by simp only [decodeA, ho, hr, hz, ifZero_zero]⟩
  case sCommit f | sCommitEl f | sCommitEnd f | sCommitElEnd f =>
    obtain ⟨hw, ho, hr, hn⟩ := (encSA_eq_iff (by decide)).1 (Option.some.inj h)
    obtain ⟨hz, hn⟩ := (low13_two (by decide)).1 hn
    exact ⟨hw, by simp only [decodeA, ho, hr, hz, hn, ifZero_zero]⟩
  case sMark f | sMarkRel f | sClose f | sCloseW f =>
    obtain ⟨hw, ho, hr, hn⟩ := (encSO_eq_iff (by decide)).1 (Option.some.inj h)
    obtain ⟨hz, hs⟩ := (low18_odd (by decide)).1 hn
    exact ⟨hw, by simp [decodeA, ho, hr, hz, hs]⟩
  case sFork f s k j =>
    obtain ⟨hw, ho, hr, hn⟩ := (encSO_eq_iff (by omega)).1 (Option.some.inj h)
    obtain ⟨hz, hs, hk, hj⟩ := low18_fork.1 hn
    exact ⟨hw, by simp only [decodeA, ho, hr, hz, hs, hk, hj, ifZero_zero]⟩
  case sStat f d n =>
    obtain ⟨hw, ho, hr, hn⟩ := (encSO_eq_iff (by omega)).1 (Option.some.inj h)
    obtain ⟨hz, hd, hn⟩ := low18_stat.1 hn
    exact ⟨hw, by simp only [decodeA, ho, hr, hz, hd, hn, ifZero_zero]⟩
  case xqPush g a | fmtPush g a =>
    obtain ⟨hw, ho, hg, hd, ha, hn, hl⟩ := (encAG_eq_iff (by omega)).1 (Option.some.inj h)
    exact ⟨hw, by simp only [decodeA, ho, hg, hd, ag_a.1 ha, ag_noLow.2 ⟨hn, hl⟩, Nat.add_zero, ifZero_zero]⟩
  case yqPop g d =>
    obtain ⟨hw, ho, hg, hd, hz⟩ := (encAG_eq_iff (by omega)).1 (Option.some.inj h)
    exact ⟨hw, by simp only [decodeA, ho, hg, ag_d.1 hd, ag_onlyD.2 hz, ifZero_zero]⟩
  case cpAsync f t c =>
    have hc := c.toNat_lt
    obtain ⟨hw, ho, hr, hn⟩ := (encRRR_eq_iff (by omega)).1 (Option.some.inj h)
    obtain ⟨ht, hc⟩ := low_tag.1 hn
    exact ⟨hw, by simp only [decodeA, ho, hr, ht, hc]⟩
  case cpChain f n =>
    obtain ⟨hw, ho, hr, hn⟩ := (encRR_eq_iff (by omega)).1 (Option.some.inj h)
    obtain ⟨hz, hn⟩ := low13_f3.1 hn
    exact ⟨hw, by simp only [decodeA, ho, hr, hz, hn, ifZero_zero]⟩
  case cpFence g | cpFenceAll g =>
    obtain ⟨hw, ho, hg, hn⟩ := (encAG_eq_iff (by decide)).1 (Option.some.inj h)
    obtain ⟨hz, hs⟩ := (ag_odd (by decide)).1 hn
    exact ⟨hw, by simp [decodeA, ho, hg, hz, hs]⟩
  case gxRows f z c | sxRows f z c =>
    have hz := z.toNat_lt
    have hc := c.toNat_lt
    obtain ⟨hw, ho, hr, hn⟩ := (encSAB_eq_iff (by omega)).1 (Option.some.inj h)
    obtain ⟨h0, hz, hc⟩ := low_flags.1 hn
    exact ⟨hw, by simp only [decodeA, ho, hr, h0, hz, hc, ifZero_zero]⟩
  case hLoad g n k =>
    obtain ⟨hw, ho, hz, hs, hg, hn, hk⟩ := encodeA_hLoad.1 h
    exact ⟨hw, by simp only [decodeA, ho, hz, hs, hg, hn, hk, ifZero_zero, if_true]⟩
  case hLoadNone g n k =>
    obtain ⟨hw, ho, hz, hs, hg, hn, hk⟩ := encodeA_hLoadNone.1 h
    exact ⟨hw, by simp only [decodeA, ho, hz, hs, hg, hn, hk, ifZero_zero, one_ne_zero, if_false]⟩
  case hGet g d n k =>
    obtain ⟨hw, ho, hz, hg, hd, hn, hk⟩ := encodeA_hGet.1 h
    exact ⟨hw, by simp only [decodeA, ho, hz, hg, hd, hn, hk, ifZero_zero]⟩
  case syncAcq => exact decodeA_of_encodeA_syncAcq h
  case syncRel => exact decodeA_of_encodeA_syncRel h
  case syncFence => exact decodeA_of_encodeA_syncFence h
  case syncLaunchEarly => exact decodeA_of_encodeA_syncLaunchEarly h
  case barArrive => exact decodeA_of_encodeA_barArrive h
  case barWait => exact decodeA_of_encodeA_barWait h
  case barExpect => exact decodeA_of_encodeA_barExpect h
  case taskSpawn => exact decodeA_of_encodeA_taskSpawn h
  case taskNext => exact decodeA_of_encodeA_taskNext h
  case taskDone => exact decodeA_of_encodeA_taskDone h
  case futRead => exact decodeA_of_encodeA_futRead h
  case futFill => exact decodeA_of_encodeA_futFill h
  case ttWait => exact decodeA_of_encodeA_ttWait h
  case ttDone => exact decodeA_of_encodeA_ttDone h
  case skipTest => exact decodeA_of_encodeA_skipTest h
  case alarmSet => exact decodeA_of_encodeA_alarmSet h
  case alarmClr => exact decodeA_of_encodeA_alarmClr h
  case csrR => exact decodeA_of_encodeA_csrR h
  case csrW => exact decodeA_of_encodeA_csrW h
  case halt => exact decodeA_of_encodeA_halt h
  case yield => exact decodeA_of_encodeA_yield h
  case trap => exact decodeA_of_encodeA_trap h
  case traceMark => exact decodeA_of_encodeA_traceMark h
  all_goals cases h

end Sys2Proof.Machine
end

section
/-! SUPPORT. The format of E-set words (R183): an operation word is put together from the fields that it is read into, and
from no others. -/

namespace Sys2Proof.Machine

/-- The fields down to b, as the 37 bits above the c field. -/
theorem highFields_eq_iff {h op g n d a b : Nat} (ho : op < 256) (hg : g < 16) (hn : n < 2) (hd : d < 256) (ha : a < 256) (hb : b < 256) :
    op * 2 ^ 29 + g * 2 ^ 25 + n * 2 ^ 24 + d * 2 ^ 16 + a * 2 ^ 8 + b = h ↔
      h < 2 ^ 37 ∧ h / 2 ^ 29 % 2 ^ 8 = op ∧ h / 2 ^ 25 % 16 = g ∧ h / 2 ^ 24 % 2 = n ∧ h / 2 ^ 16 % 2 ^ 8 = d ∧ h / 2 ^ 8 % 2 ^ 8 = a ∧
      h % 2 ^ 8 = b := by
  omega

/-- The fields from c on, as the low 27 bits. -/
theorem lowFields_eq_iff {l c t f x : Nat} (hc : c < 256) (ht : t < 32) (hf : f < 64) (hx : x < 256) :
    c * 2 ^ 19 + t * 2 ^ 14 + f * 2 ^ 8 + x = l ↔ l < 2 ^ 27 ∧ l / 2 ^ 19 % 2 ^ 8 = c ∧ l / 2 ^ 14 % 2 ^ 5 = t ∧
      l / 2 ^ 8 % 2 ^ 6 = f ∧ l % 2 ^ 8 = x := by
  omega

/-- A word is its high part with its low part below. -/
theorem split_at_27 {w h l : Nat} (hl : l < 2 ^ 27) : h * 2 ^ 27 + l = w ↔ h = w / 2 ^ 27 ∧ l = w % 2 ^ 27 := by
  omega

theorem high_of_split (w k m : Nat) : w / 2 ^ (27 + k) % m = w / 2 ^ 27 / 2 ^ k % m := by
  rw [Nat.pow_add, Nat.div_div_eq_div_mul]

theorem encEF_eq_iff {w op : Nat} {f : EF} (hb : op < 256) :
    encEF op f = w ↔ w < 2 ^ 64 ∧ fld w 63 56 = op ∧ ef w = f := by
  obtain ⟨g, nw, d, a, b, c, ty, fn, x⟩ := f
  have hcut : encEF op ⟨g, nw, d, a, b, c, ty, fn, x⟩ =
      (op * 2 ^ 29 + g.val * 2 ^ 25 + nw.toNat * 2 ^ 24 + d.toNat * 2 ^ 16 + a.toNat * 2 ^ 8 + b.toNat) * 2 ^ 27 +
        (c.toNat * 2 ^ 19 + ty.toNat * 2 ^ 14 + fn.toNat * 2 ^ 8 + x.toNat) := by
    simp only [encEF]
    omega
  rw [hcut, split_at_27 (by omega), highFields_eq_iff hb g.isLt nw.toNat_lt d.isLt a.isLt b.isLt,
    lowFields_eq_iff c.isLt ty.isLt fn.isLt x.isLt]
  simp only [ef, EF.mk.injEq, f4_eq_iff, imm_eq_iff, oddBit_eq_iff, fld, ← high_of_split]
  constructor
  · rintro ⟨⟨hw, ho, hg, hn, hd, ha, hb⟩, -, hc, ht, hf, hx⟩
    refine ⟨by omega, ho, hg, hn, hd, ha, ?_, ?_, ?_, ?_, ?_⟩ <;> omega
  · rintro ⟨hw, ho, hg, hn, hd, ha, hb, hc, ht, hf, hx⟩
    refine ⟨⟨by omega, ho, hg, hn, hd, ha, ?_⟩, ?_, ?_, ?_, ?_, ?_⟩ <;> omega

end Sys2Proof.Machine
end

section
/-! PROOF. The decoder and the encoder of the E-set agree (R183, R191 to R193). -/

namespace Sys2Proof.Machine

/-- No instruction of the E-set has an A-set word. -/
theorem encodeA_eq_none_of_opcodeE {i : Instr} {p : Nat × EF} (h : opcodeE i = some p) : encodeA i = none := by
  cases i <;> cases h <;> rfl

theorem mod_four_last {n : Nat} (h0 : n % 4 ≠ 0) (h1 : n % 4 ≠ 1) (h2 : n % 4 ≠ 2) : n % 4 = 3 := by
  omega

/-- What the decoder reads of an operation word with its literal: the opcode and the fields of the instruction, the selecting
field at its value, and a literal exactly in the long forms. -/
theorem opcodeE_of_decodeE {w lit : Nat} {i : Instr} (h : decodeE w lit = .ok i) :
    opcodeE i = some (fld w 63 56, ef w) ∧ i.formOk = true ∧
      literalE i = if 0xF0 ≤ fld w 63 56 then some (BitVec.ofNat 64 lit) else none := by
  unfold decodeE at h
  split at h
  case h_79 => cases h
  all_goals
    rename_i ho
    cases h
    rw [ho]
  case h_33 | h_35 | h_50 | h_64 =>
    split <;> rename_i hs
    · exact ⟨rfl, hs, rfl⟩
    · exact ⟨rfl, by simpa [Instr.formOk] using hs, rfl⟩
  case h_53 =>
    split <;> rename_i hs
    · exact ⟨rfl, by simpa [Instr.formOk] using hs, rfl⟩
    · exact ⟨rfl, by simpa [Instr.formOk] using hs, rfl⟩
  case h_71 =>
    split
    case h_1 hs | h_2 hs | h_3 hs => exact ⟨rfl, by simpa [Instr.formOk] using hs, rfl⟩
    case h_4 h0 h1 h2 =>
      exact ⟨rfl, by simpa [Instr.formOk] using mod_four_last h0 h1 h2, rfl⟩
  all_goals exact ⟨rfl, rfl, rfl⟩

/-- A word that holds the opcode and the fields of an E-set instruction decodes to it, its selecting field being at its value and
the literal of a long form in the word after it. -/
theorem decodeE_of_opcodeE {w lit : Nat} {i : Instr} (h : opcodeE i = some (fld w 63 56, ef w)) (hf : i.formOk = true)
    (hl : ∀ l ∈ literalE i, BitVec.ofNat 64 lit = l) : decodeE w lit = .ok i := by
  obtain ⟨f, he⟩ : ∃ f, ef w = f := ⟨_, rfl⟩
  obtain ⟨op, ho⟩ : ∃ op, fld w 63 56 = op := ⟨_, rfl⟩
  rw [ho, he] at h
  cases i
  case vslideUp | vkeyHash | eloopPipe | jLookP =>
    cases h
    rw [decodeE, ho, he]
    exact congrArg Except.ok (if_pos hf)
  case vslideDn | vkeyPack | eloop | jLook =>
    cases h
    rw [decodeE, ho, he]
    exact congrArg Except.ok (if_neg (by simpa [Instr.formOk] using hf))
  case wload =>
    cases h
    rw [decodeE, ho, he]
    exact congrArg Except.ok (if_neg (bne_iff_ne.1 hf))
  case wloadSc =>
    cases h
    rw [decodeE, ho, he]
    exact congrArg Except.ok (if_pos (beq_iff_eq.1 hf))
  case gMapR | gMapW | gMapStep | gMapTile =>
    cases h
    rw [decodeE, ho, he]
    simp only [beq_iff_eq.1 hf]
  case vli | sli =>
    cases h
    rw [decodeE, ho, he, ← hl _ rfl]
    rfl
  all_goals cases h
  all_goals
    rw [decodeE, ho, he]
    rfl

/-- The opcodes of the E-set are bytes, those of the long forms the highest (R191). -/
theorem opcodeE_lt {i : Instr} {op : Nat} {f : EF} (h : opcodeE i = some (op, f)) : op < 256 := by
  cases i <;> cases h <;> decide

/-! ### Bytes (R3, R173) -/

theorem leNat_take_leBytes {k n : Nat} (rest : List Byte) (hn : n < 256 ^ k) : leNat ((leBytes k n ++ rest).take k) = n := by
  rw [List.take_left' (length_leBytes k n), leNat_leBytes, Nat.mod_eq_of_lt hn]

theorem leNat_next_leBytes {m k n : Nat} (v : Nat) (hn : n < 256 ^ k) :
    leNat (((leBytes m v ++ leBytes k n).drop m).take k) = n := by
  rw [List.drop_left' (length_leBytes m v), List.take_of_length_le (length_leBytes k n).le, leNat_leBytes, Nat.mod_eq_of_lt hn]

theorem decodeABytes_leBytes {w : Nat} (hw : w < 2 ^ 32) : decodeABytes (leBytes 4 w) = decodeA w := by
  rw [decodeABytes, ← List.append_nil (leBytes 4 w), leNat_take_leBytes [] hw]

theorem encode_of_encodeA {i : Instr} {w : Nat} (h : encodeA i = some w) : encode i = leBytes 4 w := by
  rw [encode, h]

theorem encode_of_opcodeE {i : Instr} {op : Nat} {f : EF} (h : opcodeE i = some (op, f)) :
    encode i = leBytes 8 (encEF op f) ++ (literalE i).elim [] fun l => leBytes 8 l.toNat := by
  rw [encode, encodeA_eq_none_of_opcodeE h, h]
  cases literalE i <;> rfl

/-- The bytes of an E-set instruction decode to it. -/
theorem decodeEBytes_encode {i : Instr} {op : Nat} {f : EF} (h : opcodeE i = some (op, f)) (hf : i.formOk = true) :
    decodeEBytes (encode i) = .ok i := by
  obtain ⟨hw, ho, hr⟩ := (encEF_eq_iff (opcodeE_lt h)).1 rfl
  rw [encode_of_opcodeE h, decodeEBytes, leNat_take_leBytes _ hw]
  refine decodeE_of_opcodeE (by rw [ho, hr, h]) hf fun l hl => ?_
  rw [Option.mem_def.1 hl, Option.elim_some, leNat_next_leBytes _ l.isLt, BitVec.ofNat_toNat, BitVec.setWidth_eq]

end Sys2Proof.Machine

open Sys2Proof Sys2Proof.Machine

/-- Settles O2: a word that an instruction is encoded to holds its opcode and its operands in their fields, so that the decoder
finds the instruction's own case and reads the operands back; the case split is over the instructions. -/
theorem decodeInvertsEncode : Obligations.DecodeInvertsEncode := by
  refine fun i => ⟨fun ha => ?_, fun he hf => ?_⟩
  · obtain ⟨w, hi⟩ := Option.isSome_iff_exists.1 ha
    obtain ⟨hw, hd⟩ := decodeA_of_encodeA hi
    rw [encode_of_encodeA hi, decodeABytes_leBytes hw, hd]
  · obtain ⟨⟨op, f⟩, hi⟩ := Option.isSome_iff_exists.1 he
    exact decodeEBytes_encode hi hf

/-- Settles O3: in each case of the decoder the fields that the instruction keeps and those that must be zero are all the bits of
the word, so that the encoder puts the same word together. -/
theorem encodeInvertsDecode : Obligations.EncodeInvertsDecode := by
  refine ⟨fun w i hw h => ?_, fun w l i hw hl h => ?_⟩
  · rw [decodeABytes_leBytes hw] at h
    exact encode_of_encodeA (encodeA_of_decodeA hw h)
  · rw [decodeEBytes, leNat_take_leBytes _ hw, leNat_next_leBytes _ hl] at h
    obtain ⟨ho, hf, hlit⟩ := opcodeE_of_decodeE h
    have hop : fld w 63 56 = w / 2 ^ 56 := Nat.mod_eq_of_lt (by omega)
    refine ⟨hf, ?_⟩
    rw [encode_of_opcodeE ho, (encEF_eq_iff (opcodeE_lt ho)).2 ⟨hw, rfl, rfl⟩, hlit, hop]
    by_cases hlong : 0xF0 ≤ w / 2 ^ 56
    · simp only [hlong, if_true, Option.elim_some, BitVec.toNat_ofNat, Nat.mod_eq_of_lt hl]
    · simp only [hlong, if_false, Option.elim_none]

end

section
/-! PROOF. Words written out from the encodings (R173, R175, R183, R191, R222): O1. -/

open Sys2Proof Sys2Proof.Machine

/-- Settles O1: the decoder computes on each word. -/
theorem writtenWordsDecode : Obligations.WrittenWordsDecode :=
  ⟨rfl, rfl, rfl, rfl, rfl, rfl, rfl⟩

end

section
/-! PROOF. The condition codes of CMP and CMPI (R178): O9. -/

namespace Sys2Proof.Machine

/-- What each assigned code tests. -/
theorem condition_eq {c : Fin 16} {x y : W64} {b : Bool}
    (h : c = 0 ∧ b = decide (x = y) ∨ c = 1 ∧ b = decide (x ≠ y) ∨ c = 2 ∧ b = decide (x.toInt < y.toInt) ∨
      c = 3 ∧ b = decide (x.toInt ≥ y.toInt) ∨ c = 4 ∧ b = decide (x.toNat < y.toNat) ∨
      c = 5 ∧ b = decide (x.toNat ≥ y.toNat) ∨ c = 6 ∧ b = decide (x.toInt ≤ y.toInt) ∨
      c = 7 ∧ b = decide (x.toInt > y.toInt) ∨ c = 8 ∧ b = decide (x.toNat ≤ y.toNat) ∨
      c = 9 ∧ b = decide (x.toNat > y.toNat) ∨ c = 10 ∧ b = decide (x &&& y ≠ 0) ∨
      c = 11 ∧ b = decide (x &&& y = 0)) : condition c.val x y = b := by
  obtain ⟨rfl, rfl⟩ | ⟨rfl, rfl⟩ | ⟨rfl, rfl⟩ | ⟨rfl, rfl⟩ | ⟨rfl, rfl⟩ | ⟨rfl, rfl⟩ | ⟨rfl, rfl⟩ | ⟨rfl, rfl⟩ | ⟨rfl, rfl⟩ |
    ⟨rfl, rfl⟩ | ⟨rfl, rfl⟩ | ⟨rfl, rfl⟩ := h
  case inr.inl | inr.inr.inr.inr.inr.inr.inr.inr.inr.inr.inl => exact (decide_not ..).symm
  all_goals rfl

/-- A test writes its condition to the predicate that it names first, unless that is q0 or named twice. -/
theorem State.apred_setPair (s : State) {p n : Guard} (b : Bool) (hp : p ≠ 0) (hn : n ≠ p) : (setPair p n b s).apred p = b := by
  rw [setPair, State.apred_setQ, if_neg hp, if_neg hn.symm, State.apred_setQ, if_neg hp, if_pos rfl]

/-- A CMP that nothing keeps from executing writes the pair of its condition. -/
theorem exec_cmp {g p n : Guard} {c : Fin 16} {a k : AReg} {s : State} (h : s.apReady (.cmp g p n c a k) g = true) :
    exec (.cmp g p n c a k) s =
      .next ((setPair p n (condition c.val (s.areg a) (s.areg k)) s.slotted).finish (.cmp g p n c a k) .next) := by
  rw [← State.slotted_areg s a, ← State.slotted_areg s k]
  exact apIssue_ok (body := fun s => .ok (setPair p n (condition c.val (s.areg a) (s.areg k)) s, .next)) h rfl

/-- A CMPI that nothing keeps from executing writes the pair of its condition. -/
theorem exec_cmpi {g p n : Guard} {c : Fin 16} {a : AReg} {k : BitVec 8} {s : State}
    (h : s.apReady (.cmpi g p n c a k) g = true) :
    exec (.cmpi g p n c a k) s =
      .next ((setPair p n (condition c.val (s.areg a) (k.signExtend 64)) s.slotted).finish (.cmpi g p n c a k) .next) := by
  rw [← State.slotted_areg s a]
  exact apIssue_ok (body := fun s => .ok (setPair p n (condition c.val (s.areg a) (k.signExtend 64)) s, .next)) h rfl

end Sys2Proof.Machine

open Sys2Proof Sys2Proof.Machine

/-- Settles O9: both instructions write the pair of their condition (`State.apred_setPair`), code by code (`condition_eq`). -/
theorem conditionCodes : Obligations.ConditionCodes := by
  rintro i s g p n c _ y b ⟨a, rfl, h⟩
  obtain ⟨k, rfl, rfl⟩ | ⟨k, rfl, rfl⟩ := h
  · refine ⟨fun hc => if_pos hc, fun hr hp hn hb => ⟨_, exec_cmp hr, ?_⟩⟩
    rw [State.finish_apred, State.apred_setPair _ _ hp hn, condition_eq hb]
  · refine ⟨fun hc => if_pos hc, fun hr hp hn hb => ⟨_, exec_cmpi hr, ?_⟩⟩
    rw [State.finish_apred, State.apred_setPair _ _ hp hn, condition_eq hb]

end

section
/-! PROOF. A guarded-off A-set instruction (R189): O14. -/

namespace Sys2Proof.Machine

/-- A guarded-off instruction of the A-set, whichever it is, is counted and left. -/
theorem exec_off {i : Instr} {g : Guard} {s : State} (hg : guardOf i = some g) (hc : staticCause i = none)
    (hq : s.apred g = false) :
    exec i s = .next ((s.slotted.issued i true).updCtx s.ap fun c => c.flow .next) := by
  by_cases hh : ∃ n, i = .halt n
  · obtain ⟨n, rfl⟩ := hh
    cases hg
    dsimp only [exec, execHalt]
    rw [apIssue_off hc hq, hq]
    rfl
  · obtain ⟨body, hb⟩ := exec_issues_ap hg (fun n h => hh ⟨n, h⟩) s
    rw [hb, apIssue_off hc hq]

/-- A guarded-off instruction has no result to wait for. -/
theorem ApCtx.counted_off (c : ApCtx) (i : Instr) : c.counted i true = { c with ainst := c.ainst + 1 } := by
  unfold ApCtx.counted
  cases apLatency i <;> rfl

/-- What a guarded-off instruction leaves: its slot passed, its count one higher, its context past it, and the residency
moved. -/
theorem State.issued_off (s : State) (i : Instr) :
    ((s.slotted.issued i true).updCtx s.ap fun c => c.flow .next) =
      (s.updCtx s.ap fun c => { c with
        busy := s.stillDue, ainst := c.ainst + 1, pc := s.pastIt.1, loops := s.pastIt.2 }).updR fun r =>
          { r with watch := { r.watch with moved := true } } := by
  unfold State.issued State.slotted State.pastIt State.apc State.stillDue
  simp only [ApCtx.counted_off]
  cases h : s.ap <;> simp [State.updCtx, State.updR, State.move, State.ctx, h, TaskState.noting, ApCtx.flow, ApCtx.slot]

/-- The issuing context after an instruction that is guarded off. -/
theorem State.issued_off_ctx (s : State) (i : Instr) :
    ((s.slotted.issued i true).updCtx s.ap fun c => c.flow .next).ctx s.ap = ((s.ctx s.ap).slot.counted i true).flow .next := by
  have h := s.slotted.issued_ctx i true
  rw [State.slotted_ap, State.slotted_ctx] at h
  rw [State.ctx_updCtx, h]

end Sys2Proof.Machine

open Sys2Proof Sys2Proof.Machine

/-- Settles O14: the issue of a guarded-off instruction never reaches its body (`exec_off`), and what it leaves is
`State.issued_off`. -/
theorem guardedOffDoesNothing : Obligations.GuardedOffDoesNothing := by
  intro i s g hg hc hq
  have hx := s.issued_off_ctx i
  refine ⟨_, exec_off hg hc hq, ⟨fun n => ?_, fun n => ?_⟩, ?_, s.issued_off i⟩
  · rw [State.areg, State.updCtx_ap, State.issued_ap, State.slotted_ap, hx, ApCtx.get_flow, ApCtx.counted_off]
    rfl
  · rw [State.apred, State.updCtx_ap, State.issued_ap, State.slotted_ap, hx, ApCtx.pred_flow, ApCtx.counted_off]
    rfl
  · rw [State.place, State.updCtx_ap, State.issued_ap, State.slotted_ap, hx, ApCtx.counted_off]
    rfl

end

section
/-! SUPPORT. The trace stream (R435, R436): what a record leaves, and the branch record of an AP context. -/

namespace Sys2Proof.Machine

/-- Appending a record puts it at the tail of the ring. -/
theorem traceAppend_eq (s : State) {r : List Byte} (hr : r.length = 16) :
    traceAppend s r = { s with mem := s.mem.traced s.r.watch.trace.base.toNat (2 ^ s.r.watch.trace.k - 4) r } := by
  simp only [traceAppend, State.devWrite, Memory.traced, hr, length_leBytes]

theorem length_traceRecord (kind ctx b2 b4 : Nat) (b8 : W64) : (traceRecord kind ctx b2 b4 b8).length = 16 := by
  simp only [traceRecord, List.length_append, length_leBytes]

/-- The loss record (R436). -/
theorem traceRecord_loss (lost : W64) :
    traceRecord 5 0xFF 0 0 lost = leBytes 1 5 ++ leBytes 1 0xFF ++ leBytes 6 0 ++ leBytes 8 lost.toNat := by
  simp only [traceRecord, List.append_assoc]
  rfl

/-- A record changes memory and the count of lost records alone. -/
theorem traceWrite_left (s : State) {r : List Byte} (hr : r.length = 16) :
    ∃ m n, traceWrite s r = { s.setLost n with mem := m } := by
  unfold traceWrite
  dsimp only
  split
  · split
    · exact ⟨_, s.r.watch.trace.lost, traceAppend_eq s hr⟩
    · exact ⟨s.mem, 1, rfl⟩
  · split
    · rw [traceAppend_eq (s.setLost 0) (length_traceRecord ..), traceAppend_eq _ hr]
      exact ⟨_, 0, rfl⟩
    · exact ⟨s.mem, _, rfl⟩

/-- A record is written, or counted as lost. -/
theorem traceWrite_recorded (s : State) {r : List Byte} (hr : r.length = 16) : s.recorded (traceWrite s r) r := by
  unfold State.recorded traceWrite
  dsimp only
  refine ⟨fun hl hu => ?_, fun hl hu => ?_, fun hl hu => ?_, fun hl hu => ?_⟩
  · rw [if_pos hl, if_pos hu, traceAppend_eq s hr]
    exact ⟨rfl, hl⟩
  · rw [if_pos hl, if_neg (by omega)]
    exact ⟨rfl, rfl⟩
  · rw [if_neg hl, if_pos hu, traceAppend_eq (s.setLost 0) (length_traceRecord ..), traceAppend_eq _ hr, ← traceRecord_loss]
    exact ⟨rfl, rfl⟩
  · rw [if_neg hl, if_neg (by omega)]
    exact ⟨rfl, rfl⟩

/-- What a record left is known by the memory, the trace ring and the lost records before and after. -/
theorem State.recorded_congr {s s' t t' : State} {r : List Byte} (h : s.recorded t r) (hm : s'.mem = s.mem)
    (hw : s'.r.watch.trace = s.r.watch.trace) (hm' : t'.mem = t.mem) (hw' : t'.r.watch.trace = t.r.watch.trace) :
    s'.recorded t' r := by
  unfold State.recorded at h ⊢
  rwa [hm, hw, hm', hw']

end Sys2Proof.Machine
end

section
/-! PROOF. Branches, calls and register jumps (R228, R229, R233): O15. -/

namespace Sys2Proof.Machine

/-! ### Targets (R174) -/

theorem branchTarget_eq (pc : W32) (o : BitVec 23) : branchTarget pc.toNat o = (pc + o.signExtend 32 * 4).toNat := by
  have h : pc + o.signExtend 32 * 4 = BitVec.ofInt 32 ((pc.toNat : Int) + o.toInt * 4) := by
    rw [BitVec.ofInt_add, BitVec.ofInt_mul, BitVec.ofInt_natCast, BitVec.ofNat_toNat, BitVec.setWidth_eq]
    rfl
  rw [h, BitVec.toNat_ofInt, branchTarget, Int.mul_comm 4]
  rfl

theorem ofNat_branchTarget (pc : W32) (o : BitVec 23) :
    BitVec.ofNat 32 (branchTarget pc.toNat o) = pc + o.signExtend 32 * 4 := by
  rw [branchTarget_eq, BitVec.ofNat_toNat, BitVec.setWidth_eq]

theorem loopPop_eq (t : Nat) (l : List LoopEntry) : loopPop t l = loopsAt t l := by
  induction l with
  | nil => rfl
  | cons e es ih =>
    rw [loopPop, ih, loopsAt, loopsAt, List.dropWhile_cons]
    by_cases h : e.start ≤ t ∧ t < e.stop <;> simp [h]

/-! ### The state in which a transfer leaves its slot -/

/-- The state of a transfer in its body: the link is written, and free values may have been drawn. -/
def State.linked (s : State) (d : AReg) (v : W64) (k : Nat) : State := { s.slotted.setA d v with free := k }

theorem State.linked_eq (s : State) (d : AReg) (v : W64) (k : Nat) :
    s.linked d v k = { s.updCtx s.ap fun c => c.slot.put d v with free := k } := by
  simp [State.linked, State.slotted, State.setA]

/-- An instruction that links to register zero writes nothing. -/
theorem State.linked_zero (s : State) : s.linked 0 0 s.free = s.slotted := by
  have hp : ApCtx.slot = fun c => c.slot.put 0 0 := rfl
  rw [State.linked_eq, State.slotted, ← hp]
  cases s.ap <;> rfl

@[simp] theorem State.linked_mem (s : State) (d : AReg) (v : W64) (k : Nat) : (s.linked d v k).mem = s.mem := by
  simp [State.linked_eq]
@[simp] theorem State.linked_watch (s : State) (d : AReg) (v : W64) (k : Nat) : (s.linked d v k).r.watch = s.r.watch := by
  simp [State.linked_eq]
@[simp] theorem State.linked_tracing (s : State) (d : AReg) (v : W64) (k b n : Nat) : (s.linked d v k).tracing b n = s.tracing b n := by
  simp [State.tracing]
@[simp] theorem State.linked_ap (s : State) (d : AReg) (v : W64) (k : Nat) : (s.linked d v k).ap = s.ap := by
  simp [State.linked_eq]
theorem State.linked_ctx (s : State) (d : AReg) (v : W64) (k : Nat) :
    (s.linked d v k).ctx s.ap = (s.ctx s.ap).slot.put d v := by
  rw [State.linked_eq]
  cases h : s.ap <;> rfl

/-! ### What a transfer leaves -/

section
variable (s : State) (d : AReg) (v : W64) (k : Nat) (i : Instr) (fl : Flow) (tgt : Nat)

/-- The state that a transfer to tgt leaves. -/
def State.transferred : State := (traceBranch (s.linked d v k) s.ap tgt).finish i fl

/-- A branch record changes memory and the count of lost records alone. -/
theorem traceBranch_left (c : ApId) : ∃ m n, traceBranch s c tgt = { s.setLost n with mem := m } := by
  unfold traceBranch
  split
  · exact traceWrite_left s (length_traceRecord ..)
  · exact ⟨s.mem, s.r.watch.trace.lost, rfl⟩

theorem State.transferred_areg (n : AReg) : (s.transferred d v k i fl tgt).areg n = (s.slotted.setA d v).areg n := by
  obtain ⟨m, l, h⟩ := traceBranch_left (s.linked d v k) tgt s.ap
  rw [State.transferred, State.finish_areg, h]
  rfl
theorem State.transferred_apred (n : Guard) : (s.transferred d v k i fl tgt).apred n = s.apred n := by
  obtain ⟨m, l, h⟩ := traceBranch_left (s.linked d v k) tgt s.ap
  rw [State.transferred, State.finish_apred, h, ← s.slotted_apred, ← s.slotted.apred_setA d v]
  rfl
theorem State.transferred_link : (s.transferred d v k i fl tgt).areg d = if d = 0 then 0 else v := by
  rw [State.transferred_areg, State.areg_setA, if_pos rfl]
theorem State.transferred_regsKept : s.regsKept (s.transferred d v k i fl tgt) d := by
  obtain ⟨hr, -⟩ := s.finish_setA_regsKept d v i fl
  refine ⟨fun n hn => ?_, s.transferred_apred d v k i fl tgt⟩
  rw [State.transferred_areg, ← State.finish_areg _ i fl, hr n hn]
theorem State.transferred_place : (s.transferred d v k i fl tgt).place =
    ((((s.ctx s.ap).slot.put d v).flow fl).pc, (((s.ctx s.ap).slot.put d v).flow fl).loops) := by
  obtain ⟨m, l, h⟩ := traceBranch_left (s.linked d v k) tgt s.ap
  rw [State.transferred, State.finish_place, h, ← s.linked_ctx d v k, ← s.linked_ap d v k]
  rfl

/-- A frame that leaves out register zero alone leaves out nothing. -/
theorem State.allRegsKept_of_regsKept_zero {s t : State} (h : s.regsKept t 0) : s.allRegsKept t := by
  obtain ⟨hr, hq⟩ := h
  refine ⟨fun n => ?_, hq⟩
  by_cases hn : n = 0
  · subst hn
    rfl
  · exact hr n hn

/-- A transfer that is not traced changes its context alone, beside the free values that it may draw. -/
theorem State.transferred_untraced (ht : s.tracing 1 (ctxNo s.ap) = false) : s.transferred d v k i fl tgt =
    { s.takeIssue (s.transferred d v k i fl tgt) with free := (s.transferred d v k i fl tgt).free } := by
  rw [State.transferred, traceBranch, State.linked_tracing, ht, State.linked_eq]
  unfold State.takeIssue State.finish State.issued
  cases h : s.ap <;> simp [State.updCtx, State.updR, State.move, State.ctx, h, TaskState.noting]

/-- A transfer that is traced changes memory and the count of lost records beside that. -/
theorem State.transferred_frame : s.transferred d v k i fl tgt =
    { (s.takeIssue (s.transferred d v k i fl tgt)).updR fun r =>
        { r with watch := { r.watch with trace := (s.transferred d v k i fl tgt).r.watch.trace } } with
      mem := (s.transferred d v k i fl tgt).mem, free := (s.transferred d v k i fl tgt).free } := by
  obtain ⟨m, l, h⟩ := traceBranch_left (s.linked d v k) tgt s.ap
  rw [State.transferred, h, State.linked_eq]
  unfold State.takeIssue State.finish State.issued State.setLost
  cases h : s.ap <;> simp [State.updCtx, State.updR, State.move, State.ctx, h, TaskState.noting]

theorem State.transferred_trace :
    { (s.transferred d v k i fl tgt).r.watch.trace with lost := 0 } = { s.r.watch.trace with lost := 0 } := by
  obtain ⟨m, l, h⟩ := traceBranch_left (s.linked d v k) tgt s.ap
  rw [State.transferred, h, State.linked_eq]
  unfold State.finish State.issued State.setLost
  cases h : s.ap <;> simp [State.updCtx, State.updR, State.move, h]

/-- The branch record of the issuing context. -/
theorem State.linked_record : traceRecord 2 (ctxNo s.ap) 0 ((s.linked d v k).ctx s.ap).pc.toNat (BitVec.ofNat 64 (tgt % 2 ^ 32)) =
    branchRecord (ctxNo s.ap) s.apc (BitVec.ofNat 32 tgt) := by
  have hp : ((s.linked d v k).ctx s.ap).pc = (s.ctx s.ap).pc := by
    rw [State.linked_ctx, ApCtx.put_pc, ApCtx.slot_pc]
  have ht : (BitVec.ofNat 64 (tgt % 2 ^ 32)).toNat = (BitVec.ofNat 32 tgt).toNat := by
    simp only [BitVec.toNat_ofNat]
    omega
  rw [hp, traceRecord, ht]
  rfl

theorem State.finish_trace : (s.finish i fl).r.watch.trace = s.r.watch.trace := by
  unfold State.finish State.issued
  simp [State.move, State.updR]

/-- The record of a traced transfer. -/
theorem State.transferred_recorded (ht : s.tracing 1 (ctxNo s.ap) = true) :
    s.recorded (s.transferred d v k i fl tgt) (branchRecord (ctxNo s.ap) s.apc (BitVec.ofNat 32 tgt)) := by
  rw [State.transferred, traceBranch, State.linked_tracing, ht, if_pos rfl, State.linked_record]
  refine State.recorded_congr (traceWrite_recorded (s.linked d v k) ?_) ?_ ?_ (State.finish_mem ..) (State.finish_trace ..)
  · simp only [branchRecord, List.length_append, length_leBytes]
  · exact (s.linked_mem d v k).symm
  · rw [State.linked_watch]

end

/-! ### The instructions -/

section
variable {s : State} {g : Guard} {f : RR}

theorem State.linked_free (s : State) (d : AReg) (v : W64) : s.linked d v s.free = s.slotted.setA d v := by
  rw [State.linked, State.setA, State.slotted, State.updCtx_ap]
  cases s.ap <;> rfl

theorem State.draw_setA (s : State) (d : AReg) (v : W64) : s.slotted.draw.2.setA d v = s.linked d v s.slotted.draw.2.free := by
  rw [State.linked, State.setA, State.setA, State.draw_ap, State.slotted_ap]
  cases s.ap <;> rfl

theorem exec_b {o : BitVec 23} (h : s.apReady (.b g o) g = true) :
    exec (.b g o) s = .next (s.transferred 0 0 s.free (.b g o) (.jump (branchTarget s.apc o)) (branchTarget s.apc o)) := by
  dsimp only [exec, execB]
  rw [State.transferred, State.linked_zero]
  refine apIssue_ok h ?_
  rw [State.slotted_apc, State.slotted_ap]

theorem exec_call {o : BitVec 23} (h : s.apReady (.call g o) g = true) :
    exec (.call g o) s = .next (s.transferred 31 (BitVec.ofNat 64 (s.apc + 4)) s.free (.call g o)
      (.call (branchTarget s.apc o)) (branchTarget s.apc o)) := by
  dsimp only [exec, execCall]
  rw [State.transferred, State.linked_free]
  refine apIssue_ok h ?_
  rw [State.slotted_apc, State.slotted_ap]

theorem exec_jr_near (h : s.apReady (.jr f) f.g = true) (ha : (s.areg f.a).toNat % 4 = 0) (hn : (s.areg f.a).toNat < 2 ^ 32) :
    exec (.jr f) s = .next (s.transferred f.d (BitVec.ofNat 64 (s.apc + 4)) s.free (.jr f)
      (if f.d = 0 then .jump (s.areg f.a).toNat else .call (s.areg f.a).toNat) (s.areg f.a).toNat) := by
  dsimp only [exec, execJr]
  rw [State.transferred, State.linked_free]
  refine apIssue_ok h ?_
  rw [State.slotted_apc, State.slotted_ap, State.slotted_areg, if_neg (not_not.2 ha), if_neg (Nat.not_le.2 hn)]

/-- A register jump beyond every section draws the offset that it leaves. -/
theorem exec_jr_far (h : s.apReady (.jr f) f.g = true) (ha : (s.areg f.a).toNat % 4 = 0) (hn : 2 ^ 32 ≤ (s.areg f.a).toNat) :
    ∃ k fl, exec (.jr f) s = .next (s.transferred f.d (BitVec.ofNat 64 (s.apc + 4)) k (.jr f) fl (s.areg f.a).toNat) := by
  dsimp only [exec, execJr]
  refine ⟨s.slotted.draw.2.free, ?_, apIssue_ok h ?_⟩
  case refine_2 =>
    rw [State.slotted_apc, State.slotted_ap, State.slotted_areg, if_neg (not_not.2 ha), if_pos hn, State.draw_setA]

theorem exec_jr_misaligned (h : s.apReady (.jr f) f.g = true) (ha : (s.areg f.a).toNat % 4 ≠ 0) :
    exec (.jr f) s = .next (s.slotted.park s.ap ⟨0x05, 0, 0⟩) := by
  dsimp only [exec, execJr]
  refine apIssue_trap h ?_
  rw [State.slotted_areg, if_pos ha]
  rfl

/-- A register jump to a multiple of four is a transfer to it. -/
theorem exec_jr (h : s.apReady (.jr f) f.g = true) (ha : (s.areg f.a).toNat % 4 = 0) :
    ∃ k fl, exec (.jr f) s = .next (s.transferred f.d (BitVec.ofNat 64 (s.apc + 4)) k (.jr f) fl (s.areg f.a).toNat) := by
  obtain hn | hn := Nat.lt_or_ge (s.areg f.a).toNat (2 ^ 32)
  · exact ⟨_, _, exec_jr_near h ha hn⟩
  · exact exec_jr_far h ha hn

/-- A branch, a call or a register jump that is taken is a transfer. -/
theorem exec_transfer {i : Instr} (hi : (match i with | .b _ _ | .call _ _ | .jr _ => true | _ => false) = true)
    (hg : guardOf i = some g) (h : s.apReady i g = true) (ha : ∀ f, i = .jr f → (s.areg f.a).toNat % 4 = 0) :
    ∃ d v k fl tgt, exec i s = .next (s.transferred d v k i fl tgt) := by
  cases i
  case b =>
    cases hg
    exact ⟨_, _, _, _, _, exec_b h⟩
  case call =>
    cases hg
    exact ⟨_, _, _, _, _, exec_call h⟩
  case jr f =>
    cases hg
    obtain ⟨k, fl, he⟩ := exec_jr h (ha f rfl)
    exact ⟨_, _, _, _, _, he⟩
  all_goals cases hi

/-- A branch, a call or a register jump that is taken is a transfer to its target. -/
theorem exec_transfer_to {i : Instr} {w : W32}
    (hi : (match i with
      | .b _ o | .call _ o => some ((s.ctx s.ap).pc + o.signExtend 32 * 4)
      | .jr f => if (s.areg f.a).toNat % 4 = 0 then some ((s.areg f.a).setWidth 32) else none
      | _ => none) = some w)
    (hg : guardOf i = some g) (h : s.apReady i g = true) :
    ∃ d v k fl tgt, exec i s = .next (s.transferred d v k i fl tgt) ∧ BitVec.ofNat 32 tgt = w := by
  cases i
  case b o =>
    cases hg
    cases hi
    exact ⟨_, _, _, _, _, exec_b h, ofNat_branchTarget ..⟩
  case call o =>
    cases hg
    cases hi
    exact ⟨_, _, _, _, _, exec_call h, ofNat_branchTarget ..⟩
  case jr f =>
    cases hg
    obtain ⟨ha, hw⟩ := Option.ite_none_right_eq_some.1 hi
    obtain ⟨k, fl, he⟩ := exec_jr h ha
    exact ⟨_, _, _, _, _, he, by rw [← Option.some.inj hw, BitVec.ofNat_toNat]⟩
  all_goals cases hi

end
end Sys2Proof.Machine

open Sys2Proof Sys2Proof.Machine

/-- Settles O15: every transfer that is taken leaves the one state (`exec_transfer`, `State.transferred`), in which the trace is
that of R436 and everything else follows from the link and from the target. -/
theorem transfersComplete : Obligations.TransfersComplete := by
  refine ⟨fun i s t g hi hg h ht he ha => ?_, fun i s t g w ht hi hg h he => ?_, fun s g o f => ⟨fun h => ?_, fun h => ?_,
    fun h ha hn => ?_, fun h ha => ?_⟩⟩
  · obtain ⟨d, v, k, fl, tgt, hx⟩ := exec_transfer hi hg h ha
    cases hx.symm.trans he
    exact s.transferred_untraced d v k i fl tgt ht
  · obtain ⟨d, v, k, fl, tgt, hx, rfl⟩ := exec_transfer_to hi hg h
    cases hx.symm.trans he
    exact ⟨s.transferred_recorded d v k i fl tgt ht, s.transferred_frame d v k i fl tgt, s.transferred_trace d v k i fl tgt⟩
  · refine ⟨_, exec_b h, ?_, ?_⟩
    · rw [State.transferred_place, State.apc, ← branchTarget_eq, ← ofNat_branchTarget, ← loopPop_eq]
      rfl
    · exact State.allRegsKept_of_regsKept_zero (State.transferred_regsKept ..)
  · refine ⟨_, exec_call h, ?_, State.transferred_link .., State.transferred_regsKept ..⟩
    rw [State.transferred_place, ← ofNat_branchTarget]
    rfl
  · refine ⟨_, exec_jr_near h ha hn, ?_, State.transferred_link .., State.transferred_regsKept ..⟩
    rw [State.transferred_place, ← BitVec.ofNat_toNat, ← loopPop_eq]
    by_cases hd : f.d = 0
    · rw [if_pos hd, if_pos hd, hd]
      rfl
    · rw [if_neg hd, if_neg hd, ApCtx.flow, ApCtx.put_loops]
      rfl
  · refine ⟨_, exec_jr_misaligned h ha, ?_, State.slotted_park_place .., State.slotted_park_regs ..⟩
    rw [State.park_ctx]

end

section
/-! PROOF. Vector instructions of E put their results in flight (R185, R187, R194, R304 to R306, R312 to R314, R317, R318): O40. -/

namespace Sys2Proof.Machine

/-! ### What reading a vector operand leaves (R184) -/

/-- Taking from the drain queue leaves E itself. -/
theorem ep_of_popDrain {s t : State} {x : Lanes} (h : popDrain s = .ok (x, t)) : t.r.ep = s.r.ep := by
  unfold popDrain at h
  dsimp only at h
  split at h
  · cases h
    rfl
  split at h
  · cases h
  split at h
  · cases h
  · cases h
    rfl

/-- Reading a vector operand leaves E itself. -/
theorem ep_of_readV {s t : State} {c : BitVec 8} {x : Lanes} (h : readV s c = .ok (x, t)) : t.r.ep = s.r.ep := by
  have of_reads {u : State} {y : Lanes} (hr : s.reads u) (h : (.ok (y, u) : Except Stop (Lanes × State)) = .ok (x, t)) :
      t.r.ep = s.r.ep := by
    rw [State.reads_of_ok hr h]
    rfl
  simp only [readV] at h
  split at h
  · exact of_reads s.reads_refl h
  split at h
  · split at h
    · exact of_reads s.reads_refl h
    · cases h
  split at h
  · cases h
  split at h
  · exact of_reads s.reads_refl h
  split at h
  · split at h
    · exact of_reads (State.reads_popOperand ‹_›) h
    · cases h
  split at h
  · exact of_reads s.reads_refl h
  split at h
  · split at h
    · exact of_reads (State.reads_popXq ‹_›) h
    · cases h
  split at h
  · exact ep_of_popDrain h
  · cases h

/-! ### Operands read in order (R184) -/

theorem readAll_nil {s u : State} {xs : List Lanes} (h : readAll s [] = .ok (xs, u)) : xs = [] ∧ u = s := by
  cases h
  exact ⟨rfl, rfl⟩

theorem readAll_cons {s u : State} {c : BitVec 8} {cs : List (BitVec 8)} {xs : List Lanes}
    (h : readAll s (c :: cs) = .ok (xs, u)) :
    ∃ x ys v, readV s c = .ok (x, v) ∧ readAll v cs = .ok (ys, u) ∧ xs = x :: ys := by
  rw [readAll] at h
  split at h
  · cases h
  · rename_i x v hx
    split at h
    · cases h
    · rename_i ys t hy
      cases h
      exact ⟨x, ys, v, hx, hy, rfl⟩

theorem readAll_one {s u : State} {c : BitVec 8} {xs : List Lanes} (h : readAll s [c] = .ok (xs, u)) :
    ∃ x, xs = [x] ∧ readV s c = .ok (x, u) := by
  obtain ⟨x, ys, v, hx, hy, rfl⟩ := readAll_cons h
  obtain ⟨rfl, rfl⟩ := readAll_nil hy
  exact ⟨x, rfl, hx⟩

theorem readAll_two {s u : State} {c e : BitVec 8} {xs : List Lanes} (h : readAll s [c, e] = .ok (xs, u)) :
    ∃ x y v, xs = [x, y] ∧ readV s c = .ok (x, v) ∧ readV v e = .ok (y, u) := by
  obtain ⟨x, ys, v, hx, hy, rfl⟩ := readAll_cons h
  obtain ⟨y, rfl, hy'⟩ := readAll_one hy
  exact ⟨x, y, v, rfl, hx, hy'⟩

/-! ### The shapes of instructions -/

section
variable {i : Instr} {s u w : State} {f : EF} {lat cls : Nat} {d : EDest} {xs : List Lanes} {val : List Lanes → Lanes}

/-- An instruction of one vector operand. -/
theorem eVec1_result {op : Lanes → Lanes} (hv : ∀ a, op a = val [a]) (hr : s.eReady i = true)
    (hx : readAll s.eSlot [f.a] = .ok (xs, u)) (hd : reserveDest u f (.vec (val xs)) = .ok (d, w)) :
    ∃ t, eVec1 i f lat cls op s = .next t ∧
      w.eIssued t (eLen i) ⟨lat, d, .vec (val xs), u.eguard f, some (Fin.ofNat 16 (2 * cls))⟩ := by
  obtain ⟨a, rfl, ha⟩ := readAll_one hx
  refine eIssue_result hr hd ?_
  simp only [ha, bind, Except.bind, hv]
  rfl

/-- An instruction of two vector operands. -/
theorem eVec2_result {op : Lanes → Lanes → Lanes} (hv : ∀ a b, op a b = val [a, b]) (hr : s.eReady i = true)
    (hx : readAll s.eSlot [f.a, f.b] = .ok (xs, u)) (hd : reserveDest u f (.vec (val xs)) = .ok (d, w)) :
    ∃ t, eVec2 i f lat cls op s = .next t ∧
      w.eIssued t (eLen i) ⟨lat, d, .vec (val xs), u.eguard f, some (Fin.ofNat 16 (2 * cls))⟩ := by
  obtain ⟨a, b, v, rfl, ha, hb⟩ := readAll_two hx
  refine eIssue_result hr hd ?_
  simp only [ha, hb, bind, Except.bind, hv]
  rfl

/-- An instruction of three vector operands. -/
theorem eVec3_result {op : Lanes → Lanes → Lanes → Lanes} (hv : ∀ a b c, op a b c = val [a, b, c]) (hr : s.eReady i = true)
    (hx : readAll s.eSlot [f.a, f.b, f.c] = .ok (xs, u)) (hd : reserveDest u f (.vec (val xs)) = .ok (d, w)) :
    ∃ t, eVec3 i f lat cls op s = .next t ∧
      w.eIssued t (eLen i) ⟨lat, d, .vec (val xs), u.eguard f, some (Fin.ofNat 16 (2 * cls))⟩ := by
  obtain ⟨a, ys, v, ha, hy, rfl⟩ := readAll_cons hx
  obtain ⟨b, c, v', rfl, hb, hc⟩ := readAll_two hy
  refine eIssue_result hr hd ?_
  simp only [ha, hb, hc, bind, Except.bind, hv]
  rfl

end

/-! ### Values (R306, R312 to R314) -/

theorem laneVal_eq (f : EF) (w : W32) : laneInt f.ty w = laneVal f w := rfl

theorem viFit_eq (f : EF) (n : Int) : viFit f n = fitLane f n := by
  unfold viFit fitLane
  by_cases h : f.ty = 4
  · rw [decide_eq_true h, if_pos h]
    rfl
  · rw [decide_eq_false h, if_neg h]
    rfl

theorem iMin_eq (f : EF) (a b : W32) : iMin f a b = if laneVal f b < laneVal f a then b else a := by
  unfold iMin
  by_cases h : laneVal f b < laneVal f a
  · rw [if_pos h, laneVal_eq, laneVal_eq, if_neg (by omega)]
  · rw [if_neg h, laneVal_eq, laneVal_eq, if_pos (by omega)]

theorem iMax_eq (f : EF) (a b : W32) : iMax f a b = if laneVal f a < laneVal f b then b else a := by
  unfold iMax
  by_cases h : laneVal f a < laneVal f b
  · rw [if_pos h, laneVal_eq, laneVal_eq, if_neg (by omega)]
  · rw [if_neg h, laneVal_eq, laneVal_eq, if_pos (by omega)]

/-- The low five bits of a count (R306). -/
theorem shiftCount_eq {n : Nat} (b : BitVec n) : bits b 4 0 = b.toNat % 32 := by
  rw [bits, fld, Nat.pow_zero, Nat.div_one]
  rfl

theorem lanes_build_congr {g h : Fin 64 → W32} (hg : ∀ i, g i = h i) : Lanes.build g = Lanes.build h :=
  congrArg Lanes.build (funext hg)

theorem lanes_build_getElem (v : Lanes) : (Lanes.build fun i => v[i]) = v :=
  Vector.ext fun _ hi => getElem_build _ hi

theorem shuffle_eq (a b z : Lanes) : shuffle a b z = vecOp.lanesOf (fun xs i =>
    let j := bits (xs 2 i) 7 0
    if 128 ≤ j then 0 else if j < 64 then xs 0 j else xs 1 (j - 64)) [a, b, z] := by
  refine lanes_build_congr fun i => ?_
  have hz : z[i].toNat % 256 = bits (lane z i.val) 7 0 := by
    rw [bits, fld, Nat.pow_zero, Nat.div_one, lane_of_lt]
    rfl
  dsimp only
  rw [hz]
  rfl

/-- Sliding up takes the lanes before those of a from the end of b (R312). -/
theorem laneOf2_up (a b : Lanes) (i k : Nat) :
    laneOf2 b a (i + 64 - k) = if k ≤ i then lane a (i - k) else lane b (64 + i - k) := by
  unfold laneOf2
  by_cases h : k ≤ i
  · rw [if_pos h, if_neg (by omega), show i + 64 - k - 64 = i - k by omega]
  · rw [if_neg h, if_pos (by omega), Nat.add_comm i]

theorem mergeLanes_eq (m : W64) (a b : Lanes) :
    mergeLanes m a b = vecOp.lanesOf (fun xs i => if m.getLsbD i then xs 0 i else xs 1 i) [a, b] :=
  lanes_build_congr fun i => by
    rw [← lane_of_lt, ← lane_of_lt]
    rfl

/-- A scan that is exclusive begins with the identity (R314). -/
theorem ite_cons_append (b : Bool) (x : W32) (l : List W32) :
    (if b then x :: l else l) = (if b then [x] else []) ++ l := by
  cases b <;> rfl

/-- The two halves of a literal (R318). -/
theorem literalLane_eq (l : W64) (i : Nat) : (if i % 2 = 0 then l.setWidth 32 else (l >>> 32).setWidth 32) =
    if i % 2 = 0 then l.extractLsb' 0 32 else l.extractLsb' 32 32 := by
  have hlow : l.setWidth 32 = l.extractLsb' 0 32 := by simp [BitVec.setWidth_eq_extractLsb']
  have hhigh : (l >>> 32).setWidth 32 = l.extractLsb' 32 32 := by ext i hi; simp
  rw [hlow, hhigh]

/-! ### The instructions -/

/-- A shift, by the lanes of b or by x (R306). -/
theorem eShift_result {i : Instr} {s u w : State} {f : EF} {op : W32 → Nat → W32} {o : EOp Lanes} {d : EDest} {xs : List Lanes}
    (ho : (if f.b = 0xFF then (⟨f, 2, 1, [f.a], lanes1 fun a => op a (bits f.x 4 0)⟩ : EOp Lanes)
      else ⟨f, 2, 1, [f.a, f.b], lanes2 fun a b => op a (bits b 4 0)⟩) = o) (hr : s.eReady i = true)
    (hx : readAll s.eSlot o.ks = .ok (xs, u)) (hd : reserveDest u o.f (.vec (o.op xs)) = .ok (d, w)) :
    ∃ t, eShift i f op s = .next t ∧
      w.eIssued t (eLen i) ⟨o.lat, d, .vec (o.op xs), u.eguard o.f, some (Fin.ofNat 16 (2 * o.cls))⟩ := by
  unfold eShift
  split at ho
  all_goals
    rename_i hb
    subst ho
  · rw [if_pos hb]
    exact eVec1_result (fun a => by simp only [lanes1, shiftCount_eq]; rfl) hr hx hd
  · rw [if_neg hb]
    exact eVec2_result (fun a b => by simp only [lanes2, shiftCount_eq]; rfl) hr hx hd

section
variable {s u w : State} {f : EF} {xs : List Lanes} {d : EDest}

/-- VSEL reads its mask after its operands, which leave it (R312). -/
theorem exec_vsel {val : List Lanes → Lanes}
    (hv : ∀ a b, mergeLanes (s.eSlot.r.ep.mask (Fin.ofNat 16 f.x.toNat)) a b = val [a, b]) (hr : s.eReady (.vsel f) = true)
    (hx : readAll s.eSlot [f.a, f.b] = .ok (xs, u)) (hd : reserveDest u f (.vec (val xs)) = .ok (d, w)) :
    ∃ t, exec (.vsel f) s = .next t ∧ w.eIssued t 8 ⟨2, d, .vec (val xs), u.eguard f, some (Fin.ofNat 16 (2 * 0))⟩ := by
  obtain ⟨a, b, v, rfl, ha, hb⟩ := readAll_two hx
  have he : exec (.vsel f) s = execVsel f s := rfl
  rw [he, execVsel]
  refine eIssue_result hr hd ?_
  simp only [ha, hb, bind, Except.bind, ep_of_readV hb, ep_of_readV ha, hv]
  rfl

/-- An instruction that works on the lanes that its mask lets in: reading the operand leaves the mask (R314). -/
theorem eIssue_entering {i : Instr} {lat cls : Nat} {op : List W32 → Lanes} {val : List Lanes → Lanes}
    (hv : ∀ a, op (entering s.eSlot f a) = val [a]) (hr : s.eReady i = true) (hx : readAll s.eSlot [f.a] = .ok (xs, u))
    (hd : reserveDest u f (.vec (val xs)) = .ok (d, w)) :
    ∃ t, eIssue i s (fun s => do
        let (a, s1) ← readV s f.a
        let s2 ← s1.eResult f lat cls (.vec (op (entering s1 f a)))
        return (s2, .next)) = .next t ∧
      w.eIssued t (eLen i) ⟨lat, d, .vec (val xs), u.eguard f, some (Fin.ofNat 16 (2 * cls))⟩ := by
  obtain ⟨a, rfl, ha⟩ := readAll_one hx
  refine eIssue_result hr hd ?_
  have he : entering u f a = entering s.eSlot f a := by rw [entering, entering, ep_of_readV ha]
  simp only [ha, bind, Except.bind, he, hv]
  rfl

/-- An instruction that reads no operand (R318). -/
theorem eIssue_literal {i : Instr} {lat cls : Nat} {op : Lanes} {val : List Lanes → Lanes} (hv : op = val [])
    (hr : s.eReady i = true) (hx : readAll s.eSlot [] = .ok (xs, u)) (hd : reserveDest u f (.vec (val xs)) = .ok (d, w)) :
    ∃ t, eIssue i s (fun s => do
        let s1 ← s.eResult f lat cls (.vec op)
        return (s1, .next)) = .next t ∧
      w.eIssued t (eLen i) ⟨lat, d, .vec (val xs), u.eguard f, some (Fin.ofNat 16 (2 * cls))⟩ := by
  obtain ⟨rfl, rfl⟩ := readAll_nil hx
  refine eIssue_result hr hd ?_
  rw [hv]
  rfl

end

/-- Every vector instruction puts the result that the tables give in flight. -/
theorem exec_vecOp {i : Instr} {s u w : State} {o : EOp Lanes} {xs : List Lanes} {d : EDest} (ho : vecOp s.eSlot i = some o)
    (hr : s.eReady i = true) (hx : readAll s.eSlot o.ks = .ok (xs, u)) (hd : reserveDest u o.f (.vec (o.op xs)) = .ok (d, w)) :
    ∃ t, exec i s = .next t ∧ w.eIssued t (eLen i) ⟨o.lat, d, .vec (o.op xs), u.eguard o.f, some (Fin.ofNat 16 (2 * o.cls))⟩ := by
  unfold vecOp at ho
  split at ho
  case h_18 | h_19 | h_20 => exact eShift_result (Option.some.inj ho) hr hx hd
  all_goals simp only [Option.some.injEq, reduceCtorEq] at ho
  all_goals subst ho
  case h_1 | h_2 | h_3 | h_6 | h_7 | h_15 | h_16 | h_17 => exact eVec2_result (fun _ _ => rfl) hr hx hd
  case h_4 | h_5 => exact eVec3_result (fun _ _ _ => rfl) hr hx hd
  case h_8 | h_9 | h_10 => exact eVec1_result (fun _ => rfl) hr hx hd
  case h_11 f => exact eVec2_result (op := map2 (iAdd f)) (fun _ _ => lanes_build_congr fun _ => viFit_eq ..) hr hx hd
  case h_12 f => exact eVec2_result (op := map2 (iSub f)) (fun _ _ => lanes_build_congr fun _ => viFit_eq ..) hr hx hd
  case h_13 f => exact eVec2_result (op := map2 (iMul f)) (fun _ _ => lanes_build_congr fun _ => viFit_eq ..) hr hx hd
  case h_14 f => exact eVec3_result (op := map3 (iMad f)) (fun _ _ _ => lanes_build_congr fun _ => viFit_eq ..) hr hx hd
  case h_21 f => exact eVec2_result (op := map2 (iMin f)) (fun _ _ => lanes_build_congr fun _ => iMin_eq ..) hr hx hd
  case h_22 f => exact eVec2_result (op := map2 (iMax f)) (fun _ _ => lanes_build_congr fun _ => iMax_eq ..) hr hx hd
  case h_23 => exact eVec3_result shuffle_eq hr hx hd
  case h_24 f => exact eVec1_result (op := fun a => Lanes.fill (lane a f.x.toNat)) (fun _ => rfl) hr hx hd
  case h_25 f =>
    exact eVec2_result (op := fun a b => Lanes.build fun i => laneOf2 a b (i.val + f.x.toNat % 64)) (fun _ _ => rfl) hr hx hd
  case h_26 f =>
    exact eVec2_result (op := fun a b => Lanes.build fun i => laneOf2 b a (i.val + 64 - f.x.toNat % 64))
      (fun a b => lanes_build_congr fun _ => laneOf2_up a b ..) hr hx hd
  case h_27 f => exact exec_vsel (mergeLanes_eq _) hr hx hd
  case h_28 | h_29 => exact eVec2_result (fun _ _ => rfl) hr hx hd
  case h_30 f => exact eIssue_entering (op := fun l => Lanes.fill (treeOf (redOp f) 6 l)) (fun _ => rfl) hr hx hd
  case h_31 f =>
    exact eIssue_entering (op := fun l => lanesOfList (if f.fn.getLsbD 3 then redIdentity f :: scanOf (redOp f) l
      else scanOf (redOp f) l)) (fun a => congrArg lanesOfList (ite_cons_append ..)) hr hx hd
  case h_32 => exact eVec1_result (op := fun a => a) (fun a => (lanes_build_getElem a).symm) hr hx hd
  case h_33 f lit =>
    exact eIssue_literal (op := Lanes.build fun i => if i.val % 2 = 0 then lit.setWidth 32 else (lit >>> 32).setWidth 32)
      (lanes_build_congr fun _ => literalLane_eq ..) hr hx hd

end Sys2Proof.Machine

open Sys2Proof Sys2Proof.Machine

/-- Settles O40: each shape of instruction puts its value in flight (`eVec1_result` to `eIssue_literal`), and the values of the
model are those of the tables, lane by lane. -/
theorem vectorOpsComplete : Obligations.VectorOpsComplete :=
  fun _ _ _ _ _ _ _ ho hr hx hd => exec_vecOp ho hr hx hd

end
